-- ==== Sys2Proof/Word.lean ====
section
/-! DEFINITION. The word types and the plainest arithmetic over them (R5 to R7). -/
namespace Sys2Proof

/-- A byte of memory. -/
abbrev Byte := BitVec 8
/-- A scalar register or an address. -/
abbrev Word := BitVec 64
/-- A V register (R147). -/
abbrev Wide := BitVec 2048

end Sys2Proof
end

