-- ==== Sys2Proof/Syntax.lean ====
section
/-! DEFINITION. The instructions of the machine: one constructor per row of spec/opcode_table.json. The first 289
rows are words of the S, V, M and C streams and carry the bit fields of their row under the row's own field names;
the last 106 rows are events, the indivisible steps of engines, package and outside world (95_what_each_step_holds.md),
and carry what the event brings with it. -/
namespace Sys2Proof

/-- The four sequencers of a core (R98); the shared group codes them 0 to 3 in this order (R88). -/
inductive SeqId where
  | S | V | M | C
  deriving DecidableEq, Repr

/-- The values of the signed configuration image that PACKAGE_RESET loads (R8, R400), and whether its signature holds. -/
structure ImageArgs where
  sigOk   : Bool
  step    : BitVec 16
  imgver  : BitVec 32
  spbase  : BitVec 64
  almpol  : BitVec 12
  chal    : BitVec 64
  clockId : BitVec 64
  deriving DecidableEq, Repr

/-- A cause with the items of its fault record (R365, Table 15.1). -/
structure CauseArgs where
  code : BitVec 8
  n    : BitVec 16
  pc   : BitVec 64
  addr : BitVec 64
  info : BitVec 64
  deriving DecidableEq, Repr

/-- The answers of Table 13.7 to an accumulate-write packet. -/
inductive AwAnswer where
  | accepted | duplicate | late | refused | config
  deriving DecidableEq, Repr

/-- An accumulate-write packet (R177, R314): its identity, its payload type (0 BF16, 1 FP32, 2 INT32) and 64 elements;
`id` names it in the sending package; `port` is 0 for a packet of this package and 1 + p for one that came by port p, by which its
answer leaves. -/
structure Packet where
  id      : Nat
  port    : Nat
  job     : BitVec 8
  contrib : BitVec 12
  seg     : BitVec 6
  bucket  : BitVec 12
  round   : BitVec 32
  ty      : BitVec 2
  data    : List (BitVec 32)
  deriving DecidableEq, Repr

/-- What the engine of a tier finds when it looks at a page to move down (R260, R261): the address the page would have in the tier below,
whether a cached translation of it carries PIN, and the tier's count of free pages. -/
structure DemotionLook where
  newPa : BitVec 64
  pin   : Bool
  free  : BitVec 16
  deriving DecidableEq, Repr

/-- What the engine of a tier finds when it looks at a page to move up (R260, R262): the address the page would have, its accesses within one
period of the engine, and the counts of free pages of the three tiers, 16 bits each. -/
structure PromotionLook where
  newPa : BitVec 64
  hits  : BitVec 10
  free  : BitVec 48
  deriving DecidableEq, Repr

/-- What an uncorrectable error strikes (R390). -/
inductive PoisonUnit where
  | physLine (pa : Nat)
  | spadLine (u : Nat) (off : Nat)
  | ringEntry (u : Nat) (q : SeqId) (i : Nat)
  | mainReg (u : Nat) (q : SeqId) (r : Nat)
  | accComponent (u : Nat) (visible : Bool) (i : Nat)
  | context (u : Nat)
  | bucket (stack : BitVec 3) (bucket : BitVec 12) (detail : BitVec 64)
  deriving DecidableEq, Repr

/-- One partition's measurement at the end of a power window (R416, R417): mean power and energies in nanojoules. -/
structure MeterArgs where
  part     : BitVec 3
  milliwatt : BitVec 32
  idleNj   : Nat
  launchNj : List (Nat × Nat)
  deriving DecidableEq, Repr

/-- R383, R385: what system software writes of a core's Table 15.7 registers. -/
inductive SystemField where
  | go
  | savebase (v : BitVec 64)
  | savelen (v : BitVec 16)
  | frzlim (v : BitVec 32)
  deriving DecidableEq, Repr

/-- R383, R385: a write by system software to a register of unit u. -/
structure SystemWrite where
  u    : Nat
  what : SystemField
  deriving DecidableEq, Repr

/-- One record of a management frame (R401). -/
structure MgmtRecord where
  op   : BitVec 8
  off  : BitVec 64
  data : BitVec 64
  deriving DecidableEq, Repr

/-- A sending side with GCM keys of its own: a direct port or the broadcast plane (R428, R443). -/
inductive Link where
  | port (p : BitVec 4)
  | plane
  deriving DecidableEq, Repr

/-- The header of a flit as its receiver meets it (R428, R430, R438): whether the tag holds, its LSEQ and its ACK. -/
structure FlitHdr where
  tagOk : Bool
  lseq  : BitVec 24
  ack   : BitVec 24
  deriving DecidableEq, Repr

/-- The scheduled data of a slot (R431, R434): the start of the slot in the sender's datum, where the bytes go and what they are. -/
structure SchedBody where
  start : BitVec 64
  kind  : BitVec 1
  asid  : BitVec 16
  core  : BitVec 9
  addr  : BitVec 64
  data  : List (BitVec 8)
  deriving DecidableEq, Repr
/-- The scheduled-data flits of a slot as their receiver meets them; the header is that of the first. -/
structure SchedFlit where
  hdr  : FlitHdr
  body : SchedBody
  deriving DecidableEq, Repr

/-- An open request (R431): a remote write, a remote read or an accumulate-write; `add` that only the byte-barrier add of an earlier chunk
is tried again (R303, log 80). -/
structure OpenReq where
  kind   : BitVec 2
  asid   : BitVec 16
  win    : BitVec 1
  core   : BitVec 9
  addr   : BitVec 64
  len    : BitVec 13
  count  : Bool
  bb     : BitVec 21
  seq    : BitVec 32
  slot   : BitVec 6
  srcU   : Nat
  srcCh  : BitVec 2
  stack  : BitVec 3
  pkt    : Option Packet
  add    : Bool
  deriving DecidableEq, Repr

/-- One 64-byte line of open data with its flag word (R436, Table 18.5). -/
structure OpenLine where
  seq  : BitVec 32
  line : BitVec 6
  slot : BitVec 6
  data : List (BitVec 8)
  deriving DecidableEq, Repr

/-- The status of an answer to a chunk (R303, R319, R320, R431): done, refused, landed with its add refused (log 80), or in a race at its
target, with the line address and the detail word of the race (R282, R287). -/
inductive ChunkStatus where
  | done | refused | unadded
  | raced (addr detail : BitVec 64)
  deriving DecidableEq, Repr

/-- An answer (R431): to a chunk of a channel by its SEQ and ring slot (with read data) or to a packet, or that the target holds a chunk
(R320). Log 80: `burst` what a burst meets at a member beside being performed, `sched` what the scheduled bytes whose first flit bears LSEQ
meet at their target. -/
inductive LinkAnswer where
  | chunk (u : Nat) (ch : BitVec 2) (seq : BitVec 32) (slot : BitVec 6) (st : ChunkStatus) (data : List (BitVec 8))
  | packet (id : Nat) (ans : AwAnswer)
  | held (u : Nat) (ch : BitVec 2) (seq : BitVec 32) (slot : BitVec 6)
  | burst (u : Nat) (ch : BitVec 2) (gseq : BitVec 64) (st : ChunkStatus)
  | sched (lseq : BitVec 24) (st : ChunkStatus)
  deriving DecidableEq, Repr

/-- What a link-control flit carries (R431, R433, R438, R439): an acknowledgement, a nak, the new level of the sender's direction, the
level to which a receiver asks the other end to step down (log 50), the sender's lock state, its ring depth. -/
inductive LinkCtl where
  | ack (lseq : BitVec 24)
  | nak (lseq : BitVec 24)
  | level (rlevel : BitVec 2)
  | drop (level : BitVec 2)
  | lock (locked : Bool)
  | depth (d : BitVec 6)
  deriving DecidableEq, Repr

/-- The header fields of a burst that the membership rules use (R443), and whether the tags of its flits hold (R430). -/
structure BurstHdr where
  tagOk  : Bool
  sender : BitVec 5
  vepoch : BitVec 32
  gseq   : BitVec 64
  deriving DecidableEq, Repr

/-- The body of a data burst: one chunk of a `cbcast` (R321, R443). -/
structure BurstData where
  group : BitVec 8
  core  : BitVec 9
  va    : BitVec 64
  bb    : Option (BitVec 64)
  srcCh : BitVec 2
  data  : List (BitVec 8)
  deriving DecidableEq, Repr

/-- An IEEE 1588 message as the servo states of R450 meet it. The servo is not architectural: the measured offset from
the grandmaster (signed picoseconds), the step forward it would make in whole nanoseconds and the rate it slews at (signed
parts per billion) come with it. -/
structure TimeMsg where
  domain : BitVec 8
  offset : BitVec 32
  step   : BitVec 64
  slew   : BitVec 32
  deriving DecidableEq, Repr

/-- One constructor per row of the opcode table. -/
inductive Instr where
  | add (t : BitVec 1) (d a b : BitVec 6)
  | sub (t : BitVec 1) (d a b : BitVec 6)
  | and (t : BitVec 1) (d a b : BitVec 6)
  | or (t : BitVec 1) (d a b : BitVec 6)
  | xor (t : BitVec 1) (d a b : BitVec 6)
  | sll (t : BitVec 1) (d a b : BitVec 6)
  | srl (t : BitVec 1) (d a b : BitVec 6)
  | sra (t : BitVec 1) (d a b : BitVec 6)
  | slt (t : BitVec 1) (d a b : BitVec 6)
  | sltu (t : BitVec 1) (d a b : BitVec 6)
  | seq (t : BitVec 1) (d a b : BitVec 6)
  | min (t : BitVec 1) (d a b : BitVec 6)
  | max (t : BitVec 1) (d a b : BitVec 6)
  | minu (t : BitVec 1) (d a b : BitVec 6)
  | maxu (t : BitVec 1) (d a b : BitVec 6)
  | adds (t : BitVec 1) (d a b : BitVec 6)
  | subs (t : BitVec 1) (d a b : BitVec 6)
  | addsu (t : BitVec 1) (d a b : BitVec 6)
  | subsu (t : BitVec 1) (d a b : BitVec 6)
  | mul (t : BitVec 1) (d a b : BitVec 6)
  | mulh (t : BitVec 1) (d a b : BitVec 6)
  | mulhu (t : BitVec 1) (d a b : BitVec 6)
  | div (t : BitVec 1) (d a b : BitVec 6)
  | divu (t : BitVec 1) (d a b : BitVec 6)
  | rem (t : BitVec 1) (d a b : BitVec 6)
  | remu (t : BitVec 1) (d a b : BitVec 6)
  | andn (t : BitVec 1) (d a b : BitVec 6)
  | clz (t : BitVec 1) (d a : BitVec 6)
  | popc (t : BitVec 1) (d a : BitVec 6)
  | addi (t : BitVec 1) (d a : BitVec 6) (i : BitVec 12)
  | andi (t : BitVec 1) (d a : BitVec 6) (i : BitVec 12)
  | ori (t : BitVec 1) (d a : BitVec 6) (i : BitVec 12)
  | xori (t : BitVec 1) (d a : BitVec 6) (i : BitVec 12)
  | slli (t : BitVec 1) (d a n : BitVec 6)
  | srli (t : BitVec 1) (d a n : BitVec 6)
  | srai (t : BitVec 1) (d a n : BitVec 6)
  | slti (t : BitVec 1) (d a : BitVec 6) (i : BitVec 12)
  | sltiu (t : BitVec 1) (d a : BitVec 6) (i : BitVec 12)
  | seqi (t : BitVec 1) (d a : BitVec 6) (i : BitVec 12)
  | movi (t : BitVec 1) (d : BitVec 6) (i : BitVec 18)
  | movk (t : BitVec 1) (d : BitVec 6) (h : BitVec 2) (i : BitVec 16)
  | adr (t : BitVec 1) (d : BitVec 6) (i : BitVec 18)
  | sel (t : BitVec 1) (d a b c : BitVec 6)
  | faddF32 (t : BitVec 1) (d a b : BitVec 6) (m : BitVec 3)
  | fsubF32 (t : BitVec 1) (d a b : BitVec 6) (m : BitVec 3)
  | fmulF32 (t : BitVec 1) (d a b : BitVec 6) (m : BitVec 3)
  | fminF32 (t : BitVec 1) (d a b : BitVec 6)
  | fmaxF32 (t : BitVec 1) (d a b : BitVec 6)
  | fnegF32 (t : BitVec 1) (d a : BitVec 6)
  | fabsF32 (t : BitVec 1) (d a : BitVec 6)
  | feqF32 (t : BitVec 1) (d a b : BitVec 6)
  | fltF32 (t : BitVec 1) (d a b : BitVec 6)
  | fleF32 (t : BitVec 1) (d a b : BitVec 6)
  | fcvtF32S64 (t : BitVec 1) (d a : BitVec 6) (m : BitVec 3)
  | fcvtF32B64 (t : BitVec 1) (d a : BitVec 6) (m : BitVec 3)
  | fcvtS64F32 (t : BitVec 1) (d a : BitVec 6) (m : BitVec 3)
  | fcvtB64F32 (t : BitVec 1) (d a : BitVec 6) (m : BitVec 3)
  | fcvtS32F32 (t : BitVec 1) (d a : BitVec 6) (m : BitVec 3)
  | fcvtB32F32 (t : BitVec 1) (d a : BitVec 6) (m : BitVec 3)
  | fcvtF32Bf16 (t : BitVec 1) (d a : BitVec 6)
  | fcvtBf16F32 (t : BitVec 1) (d a : BitVec 6) (m : BitVec 3)
  | fmaF32 (m : BitVec 2) (t : BitVec 1) (d a b c : BitVec 6)
  | ldS8 (t : BitVec 1) (d a : BitVec 6) (i : BitVec 12)
  | ldB8 (t : BitVec 1) (d a : BitVec 6) (i : BitVec 12)
  | ldS16 (t : BitVec 1) (d a : BitVec 6) (i : BitVec 12)
  | ldB16 (t : BitVec 1) (d a : BitVec 6) (i : BitVec 12)
  | ldS32 (t : BitVec 1) (d a : BitVec 6) (i : BitVec 12)
  | ldB32 (t : BitVec 1) (d a : BitVec 6) (i : BitVec 12)
  | ldB64 (t : BitVec 1) (d a : BitVec 6) (i : BitVec 12)
  | stB8 (d b : BitVec 6) (i : BitVec 12)
  | stB16 (d b : BitVec 6) (i : BitVec 12)
  | stB32 (d b : BitVec 6) (i : BitVec 12)
  | stB64 (d b : BitVec 6) (i : BitVec 12)
  | amoAdd (s : BitVec 3) (t : BitVec 1) (d a b : BitVec 6) (z : BitVec 1)
  | amoAnd (s : BitVec 3) (t : BitVec 1) (d a b : BitVec 6) (z : BitVec 1)
  | amoOr (s : BitVec 3) (t : BitVec 1) (d a b : BitVec 6) (z : BitVec 1)
  | amoXor (s : BitVec 3) (t : BitVec 1) (d a b : BitVec 6) (z : BitVec 1)
  | amoSwap (s : BitVec 3) (t : BitVec 1) (d a b : BitVec 6) (z : BitVec 1)
  | amoSmin (s : BitVec 3) (t : BitVec 1) (d a b : BitVec 6) (z : BitVec 1)
  | amoSmax (s : BitVec 3) (t : BitVec 1) (d a b : BitVec 6) (z : BitVec 1)
  | amoUmin (s : BitVec 3) (t : BitVec 1) (d a b : BitVec 6) (z : BitVec 1)
  | amoUmax (s : BitVec 3) (t : BitVec 1) (d a b : BitVec 6) (z : BitVec 1)
  | amoCas (s : BitVec 3) (t : BitVec 1) (d a b : BitVec 6) (z : BitVec 1)
  | fence (s : BitVec 3)
  | bar (l : BitVec 3)
  | barSw (v : BitVec 2) (l : BitVec 3)
  | waitt (a : BitVec 6)
  | fpush (a : BitVec 6)
  | beq (a b : BitVec 6) (o : BitVec 13)
  | bne (a b : BitVec 6) (o : BitVec 13)
  | blt (a b : BitVec 6) (o : BitVec 13)
  | bge (a b : BitVec 6) (o : BitVec 13)
  | bltu (a b : BitVec 6) (o : BitVec 13)
  | bgeu (a b : BitVec 6) (o : BitVec 13)
  | call (t : BitVec 1) (d : BitVec 6) (i : BitVec 18)
  | callr (t : BitVec 1) (d a : BitVec 6) (i : BitVec 12)
  | csrr (t : BitVec 1) (d : BitVec 6) (i : BitVec 13)
  | csrw (a : BitVec 6) (i : BitVec 13)
  | nop
  | sig (k : BitVec 2) (n : BitVec 6)
  | wait (k : BitVec 2) (n : BitVec 6)
  | tmark (n : BitVec 21)
  | beacon
  | beaconW
  | brk (n : BitVec 16)
  | trap (n : BitVec 16)
  | halt
  | zloop (l : BitVec 1) (c : BitVec 8) (o : BitVec 11)
  | zloopReg (l : BitVec 1) (r : BitVec 6) (o : BitVec 11)
  | jmp (o : BitVec 20)
  | jmpReg (r : BitVec 6)
  | bkwait (d : BitVec 6)
  | bkopen (a : BitVec 6)
  | bkclose (a : BitVec 6)
  | hold (a : BitVec 6)
  | release (a : BitVec 6)
  | pub
  | xrd (t : BitVec 1) (d a : BitVec 6) (i : BitVec 12)
  | xwr (d b : BitVec 6) (i : BitVec 12)
  | hret
  | cdrop (c : BitVec 2)
  | xkill (a : BitVec 6)
  | xpost (a : BitVec 6)
  | vaddS32 (t : BitVec 1) (d a b : BitVec 6) (x : BitVec 5) (m : BitVec 1)
  | vsubS32 (t : BitVec 1) (d a b : BitVec 6) (x : BitVec 5) (m : BitVec 1)
  | vmulS32 (t : BitVec 1) (d a b : BitVec 6) (x : BitVec 5) (m : BitVec 1)
  | vmulhS32 (t : BitVec 1) (d a b : BitVec 6) (x : BitVec 5) (m : BitVec 1)
  | vmulhB32 (t : BitVec 1) (d a b : BitVec 6) (x : BitVec 5) (m : BitVec 1)
  | vminS32 (t : BitVec 1) (d a b : BitVec 6) (x : BitVec 5) (m : BitVec 1)
  | vmaxS32 (t : BitVec 1) (d a b : BitVec 6) (x : BitVec 5) (m : BitVec 1)
  | vminB32 (t : BitVec 1) (d a b : BitVec 6) (x : BitVec 5) (m : BitVec 1)
  | vmaxB32 (t : BitVec 1) (d a b : BitVec 6) (x : BitVec 5) (m : BitVec 1)
  | vaddsS32 (t : BitVec 1) (d a b : BitVec 6) (x : BitVec 5) (m : BitVec 1)
  | vsubsS32 (t : BitVec 1) (d a b : BitVec 6) (x : BitVec 5) (m : BitVec 1)
  | vaddsB32 (t : BitVec 1) (d a b : BitVec 6) (x : BitVec 5) (m : BitVec 1)
  | vsubsB32 (t : BitVec 1) (d a b : BitVec 6) (x : BitVec 5) (m : BitVec 1)
  | vandB32 (t : BitVec 1) (d a b : BitVec 6) (x : BitVec 5) (m : BitVec 1)
  | vorB32 (t : BitVec 1) (d a b : BitVec 6) (x : BitVec 5) (m : BitVec 1)
  | vxorB32 (t : BitVec 1) (d a b : BitVec 6) (x : BitVec 5) (m : BitVec 1)
  | vandnB32 (t : BitVec 1) (d a b : BitVec 6) (x : BitVec 5) (m : BitVec 1)
  | vsllB32 (t : BitVec 1) (d a b : BitVec 6) (x : BitVec 5) (m : BitVec 1)
  | vsrlB32 (t : BitVec 1) (d a b : BitVec 6) (x : BitVec 5) (m : BitVec 1)
  | vsraS32 (t : BitVec 1) (d a b : BitVec 6) (x : BitVec 5) (m : BitVec 1)
  | vaddS16 (t : BitVec 1) (d a b : BitVec 6) (x : BitVec 5) (m : BitVec 1)
  | vsubS16 (t : BitVec 1) (d a b : BitVec 6) (x : BitVec 5) (m : BitVec 1)
  | vaddsS16 (t : BitVec 1) (d a b : BitVec 6) (x : BitVec 5) (m : BitVec 1)
  | vsubsS16 (t : BitVec 1) (d a b : BitVec 6) (x : BitVec 5) (m : BitVec 1)
  | vaddsB16 (t : BitVec 1) (d a b : BitVec 6) (x : BitVec 5) (m : BitVec 1)
  | vsubsB16 (t : BitVec 1) (d a b : BitVec 6) (x : BitVec 5) (m : BitVec 1)
  | vmulS16 (t : BitVec 1) (d a b : BitVec 6) (x : BitVec 5) (m : BitVec 1)
  | vaddS8 (t : BitVec 1) (d a b : BitVec 6) (x : BitVec 5) (m : BitVec 1)
  | vsubS8 (t : BitVec 1) (d a b : BitVec 6) (x : BitVec 5) (m : BitVec 1)
  | vaddsS8 (t : BitVec 1) (d a b : BitVec 6) (x : BitVec 5) (m : BitVec 1)
  | vsubsS8 (t : BitVec 1) (d a b : BitVec 6) (x : BitVec 5) (m : BitVec 1)
  | vaddsB8 (t : BitVec 1) (d a b : BitVec 6) (x : BitVec 5) (m : BitVec 1)
  | vsubsB8 (t : BitVec 1) (d a b : BitVec 6) (x : BitVec 5) (m : BitVec 1)
  | vfaddF32 (t : BitVec 1) (d a b : BitVec 6) (x : BitVec 5) (m : BitVec 1)
  | vfsubF32 (t : BitVec 1) (d a b : BitVec 6) (x : BitVec 5) (m : BitVec 1)
  | vfmulF32 (t : BitVec 1) (d a b : BitVec 6) (x : BitVec 5) (m : BitVec 1)
  | vfminF32 (t : BitVec 1) (d a b : BitVec 6) (x : BitVec 5) (m : BitVec 1)
  | vfmaxF32 (t : BitVec 1) (d a b : BitVec 6) (x : BitVec 5) (m : BitVec 1)
  | vfmaF32 (t : BitVec 1) (d a b : BitVec 6) (x : BitVec 5) (m : BitVec 1)
  | vfaddBf16 (t : BitVec 1) (d a b : BitVec 6) (x : BitVec 5) (m : BitVec 1)
  | vfsubBf16 (t : BitVec 1) (d a b : BitVec 6) (x : BitVec 5) (m : BitVec 1)
  | vfmulBf16 (t : BitVec 1) (d a b : BitVec 6) (x : BitVec 5) (m : BitVec 1)
  | vfminBf16 (t : BitVec 1) (d a b : BitVec 6) (x : BitVec 5) (m : BitVec 1)
  | vfmaxBf16 (t : BitVec 1) (d a b : BitVec 6) (x : BitVec 5) (m : BitVec 1)
  | vfmaBf16 (t : BitVec 1) (d a b : BitVec 6) (x : BitVec 5) (m : BitVec 1)
  | vexp2F32 (t : BitVec 1) (d a : BitVec 6) (x : BitVec 5) (m : BitVec 1)
  | vlog2F32 (t : BitVec 1) (d a : BitVec 6) (x : BitVec 5) (m : BitVec 1)
  | vrcpF32 (t : BitVec 1) (d a : BitVec 6) (x : BitVec 5) (m : BitVec 1)
  | vrsqrtF32 (t : BitVec 1) (d a : BitVec 6) (x : BitVec 5) (m : BitVec 1)
  | vcmpS32 (c : BitVec 4) (k : BitVec 3) (a b : BitVec 6) (x : BitVec 5) (m : BitVec 1)
  | vcmpB32 (c : BitVec 4) (k : BitVec 3) (a b : BitVec 6) (x : BitVec 5) (m : BitVec 1)
  | vcmpF32 (c : BitVec 4) (k : BitVec 3) (a b : BitVec 6) (x : BitVec 5) (m : BitVec 1)
  | vcmpBf16 (c : BitVec 4) (k : BitVec 3) (a b : BitVec 6) (x : BitVec 5) (m : BitVec 1)
  | vcvt (p : BitVec 2) (t : BitVec 1) (d a : BitVec 6) (f g : BitVec 4) (r : BitVec 3) (m : BitVec 1)
  | vmxpk (t : BitVec 1) (d a : BitVec 6) (f g : BitVec 4) (r : BitVec 3)
  | vredAddS32 (t : BitVec 1) (d a : BitVec 6) (x : BitVec 5) (m : BitVec 1)
  | vredAddsS32 (t : BitVec 1) (d a : BitVec 6) (x : BitVec 5) (m : BitVec 1)
  | vredMinS32 (t : BitVec 1) (d a : BitVec 6) (x : BitVec 5) (m : BitVec 1)
  | vredMaxS32 (t : BitVec 1) (d a : BitVec 6) (x : BitVec 5) (m : BitVec 1)
  | vredMinB32 (t : BitVec 1) (d a : BitVec 6) (x : BitVec 5) (m : BitVec 1)
  | vredMaxB32 (t : BitVec 1) (d a : BitVec 6) (x : BitVec 5) (m : BitVec 1)
  | vredAndB32 (t : BitVec 1) (d a : BitVec 6) (x : BitVec 5) (m : BitVec 1)
  | vredOrB32 (t : BitVec 1) (d a : BitVec 6) (x : BitVec 5) (m : BitVec 1)
  | vredXorB32 (t : BitVec 1) (d a : BitVec 6) (x : BitVec 5) (m : BitVec 1)
  | vredAddF32 (t : BitVec 1) (d a : BitVec 6) (x : BitVec 5) (m : BitVec 1)
  | vredMinF32 (t : BitVec 1) (d a : BitVec 6) (x : BitVec 5) (m : BitVec 1)
  | vredMaxF32 (t : BitVec 1) (d a : BitVec 6) (x : BitVec 5) (m : BitVec 1)
  | vredAddBf16 (t : BitVec 1) (d a : BitVec 6) (x : BitVec 5) (m : BitVec 1)
  | vpermB32 (t : BitVec 1) (d a b : BitVec 6) (x : BitVec 5) (m : BitVec 1)
  | vpermB8 (t : BitVec 1) (d a b : BitVec 6) (x : BitVec 5) (m : BitVec 1)
  | vrotB32 (t : BitVec 1) (d a i : BitVec 6)
  | vselB32 (t : BitVec 1) (d a b : BitVec 6) (x : BitVec 5)
  | vmovi (t : BitVec 1) (d : BitVec 6) (i : BitVec 12)
  | vmand (d a b : BitVec 3)
  | vmor (d a b : BitVec 3)
  | vmxor (d a b : BitVec 3)
  | vmandn (d a b : BitVec 3)
  | vmnot (d a : BitVec 3)
  | vmset (d : BitVec 3)
  | vmclr (d : BitVec 3)
  | vmmov (d a : BitVec 3)
  | vflag (s : BitVec 2) (k : BitVec 3) (w : BitVec 2) (m : BitVec 1)
  | vld (t : BitVec 1) (r : BitVec 6) (x : BitVec 5) (i : BitVec 12)
  | vst (r : BitVec 6) (x : BitVec 5) (i : BitVec 12)
  | vlds (t : BitVec 1) (r : BitVec 6) (b c : BitVec 5) (z : BitVec 2) (s m : BitVec 1)
  | vsts (r : BitVec 6) (b c : BitVec 5) (z : BitVec 2) (s m : BitVec 1)
  | vldx (t : BitVec 1) (r : BitVec 6) (b : BitVec 5) (i : BitVec 6) (z : BitVec 2) (s m : BitVec 1)
  | vstx (r : BitVec 6) (b : BitVec 5) (i : BitVec 6) (z : BitVec 2) (s m : BitVec 1)
  | vgld (t : BitVec 1) (r : BitVec 6) (x : BitVec 5) (i : BitVec 12)
  | vgst (r : BitVec 6) (x : BitVec 5) (i : BitVec 12)
  | vsend (r : BitVec 6) (k : BitVec 4)
  | vrecv (t : BitVec 1) (r : BitVec 6)
  | vacc (t : BitVec 1) (d : BitVec 6) (i : BitVec 8)
  | vaccX (t : BitVec 1) (d : BitVec 6) (x : BitVec 5) (i : BitVec 8)
  | vamul (t : BitVec 1) (d a b : BitVec 6) (l o : BitVec 1) (i j : BitVec 2)
  | vconj (t : BitVec 1) (d a : BitVec 6) (l : BitVec 1) (i : BitVec 2)
  | vnorm (t : BitVec 1) (d a : BitVec 6) (l : BitVec 1)
  | vaw (y : BitVec 2) (a : BitVec 6) (x : BitVec 5)
  | vtcfg (t : BitVec 3) (r c : BitVec 4) (w : BitVec 2)
  | vtrel (t : BitVec 3)
  | vtrow (r : BitVec 6) (t : BitVec 3) (i : BitVec 4) (q : BitVec 2)
  | vtrowr (t : BitVec 1) (r : BitVec 6) (n : BitVec 3) (i : BitVec 4) (q : BitVec 2)
  | vtcol (t : BitVec 1) (r : BitVec 6) (n : BitVec 3) (i : BitVec 4) (q : BitVec 2)
  | vtcolw (r : BitVec 6) (t : BitVec 3) (i : BitVec 4) (q : BitVec 2)
  | vtsave (m : BitVec 8) (x : BitVec 5)
  | vtload (m : BitVec 8) (x : BitVec 5)
  | vsrnd (t : BitVec 1) (d a : BitVec 6) (g : BitVec 4) (p : BitVec 2) (x : BitVec 5)
  | chadd (a : BitVec 6)
  | madd (d a b : BitVec 4)
  | msub (d a b : BitVec 4)
  | mand (d a b : BitVec 4)
  | mor (d a b : BitVec 4)
  | mxor (d a b : BitVec 4)
  | msll (d a b : BitVec 4)
  | msrl (d a b : BitVec 4)
  | mminu (d a b : BitVec 4)
  | maddi (d a : BitVec 4) (i : BitVec 17)
  | mmovk (d : BitVec 4) (h : BitVec 2) (i : BitVec 16)
  | mmovx (d : BitVec 4) (x : BitVec 5)
  | mmovi (d : BitVec 4) (i : BitVec 17)
  | mbeq (a b : BitVec 4) (o : BitVec 17)
  | mbne (a b : BitVec 4) (o : BitVec 17)
  | mbltu (a b : BitVec 4) (o : BitVec 17)
  | mma (u a b : BitVec 3) (s : BitVec 4) (k : BitVec 11)
  | mmaReg (u a b : BitVec 3) (s r : BitVec 4)
  | mstage (u a b l : BitVec 3) (k : BitVec 11)
  | mstageReg (u a b l : BitVec 3) (r : BitVec 4)
  | mzero (u n : BitVec 3)
  | mswap
  | cadd (d a b : BitVec 4)
  | csub (d a b : BitVec 4)
  | cand (d a b : BitVec 4)
  | cor (d a b : BitVec 4)
  | cxor (d a b : BitVec 4)
  | csll (d a b : BitVec 4)
  | csrl (d a b : BitVec 4)
  | cminu (d a b : BitVec 4)
  | caddi (d a : BitVec 4) (i : BitVec 17)
  | cmovk (d : BitVec 4) (h : BitVec 2) (i : BitVec 16)
  | cmovx (d : BitVec 4) (x : BitVec 5)
  | cmovi (d : BitVec 4) (i : BitVec 17)
  | cbeq (a b : BitVec 4) (o : BitVec 17)
  | cbne (a b : BitVec 4) (o : BitVec 17)
  | cbltu (a b : BitVec 4) (o : BitVec 17)
  | cpy (c : BitVec 2) (d s n b : BitVec 4) (x f : BitVec 1) (l : BitVec 3)
  | ctens (c : BitVec 2) (r b : BitVec 4) (x f : BitVec 1) (l : BitVec 3)
  | cgath (c : BitVec 2) (d s i n b : BitVec 4) (x : BitVec 1) (e : BitVec 2)
  | cscat (c : BitVec 2) (d s i n b : BitVec 4) (x : BitVec 1) (e : BitVec 2)
  | cscl (c : BitVec 2) (r : BitVec 6) (n : BitVec 9) (k : BitVec 1)
  | cldlct (c : BitVec 2) (r : BitVec 6) (n : BitVec 9)
  | cldalg (c : BitVec 2) (r : BitVec 6) (n : BitVec 9)
  | caw (c : BitVec 2) (s q n : BitVec 4) (y : BitVec 2)
  | cver (c : BitVec 2) (d q o n b : BitVec 4) (x : BitVec 1)
  | cmapR (c : BitVec 2) (l o q n : BitVec 4)
  | cmapW (c : BitVec 2) (l o q n : BitVec 4)
  | cwb (c : BitVec 2) (m : BitVec 16)
  | cput (c : BitVec 2) (w : BitVec 3) (a o n b : BitVec 4) (x : BitVec 1)
  | cget (c : BitVec 2) (w : BitVec 3) (a o n b : BitVec 4) (x : BitVec 1)
  | cbcast (c : BitVec 2) (d s n b : BitVec 4) (x : BitVec 1)
  | csendT (c : BitVec 2) (w : BitVec 3) (a o n t p : BitVec 4)
  | tready (c : BitVec 2) (e : BitVec 4)
  | cbbarm (c : BitVec 2) (b v : BitVec 4)
  | cbbadd (c : BitVec 2) (b v : BitVec 4)
  | cbbwait (c : BitVec 2) (b : BitVec 4) (p : BitVec 1)
  | rcfence
  | cpya (c : BitVec 2) (d s n b : BitVec 4) (x : BitVec 1)
  | packageReset (img : ImageArgs)
  | resultLanding (u : Nat) (q : SeqId)
  | loadDataArrival (id : Nat)
  | stallRelease (u : Nat)
  | swapEnd (u : Nat)
  | scaleEntryEnter (u : Nat) (ch : Nat)
  | chunkStart (u : Nat)
  | chunkCommit (u : Nat) (ch : Nat)
  | copyCommandComplete (u : Nat) (id : Nat)
  | matrixCommandStart (u : Nat) (id : Nat)
  | quiescence (u : Nat) (id : Nat)
  | vsendArrival (u : Nat)
  | windowAccess (u : Nat)
  | multicastWrite (u : Nat)
  | awAnswer (id : Nat) (ans : AwAnswer)
  | awResend (id : Nat)
  | denialArrival (u : Nat) (q : SeqId) (c : CauseArgs)
  | globalAccessPerform (id : Nat)
  | sideLogReplay (u : Nat) (q : SeqId)
  | regionFillEnd (u : Nat) (slot chunk : Nat)
  | walkResponse (id : Nat) (resp : BitVec 64)
  | walkTimeout (id : Nat)
  | shootdown (die : BitVec 2) (v : BitVec 64)
  | shootdownComplete (die : BitVec 2)
  | resolve (die : BitVec 2) (v : BitVec 64)
  | tierDemotion (tier : BitVec 2) (asid : BitVec 16) (va : BitVec 64) (size : BitVec 2) (oldPa : BitVec 64) (look : DemotionLook)
  | promotion (asid : BitVec 16) (va : BitVec 64) (size : BitVec 2) (oldPa : Option (BitVec 64)) (look : PromotionLook)
  | tierRegisterWrite (tier : BitVec 2) (v : BitVec 64)
  | barrierComplete (lid : Nat) (level : Nat) (dom : Nat)
  | spillEnd (u : Nat)
  | spillGo (w : SystemWrite)
  | watchdogFire (u : Nat)
  | freezeLimit (u : Nat)
  | correctableError (u : Nat)
  | uncorrectableError (what : PoisonUnit)
  | notify (queue : BitVec 10) (v : BitVec 64)
  | queueDescriptorWrite (queue : BitVec 10) (word : BitVec 2) (v : BitVec 64)
  | queueBind
  | priorityAgeing
  | queueEntryTake (queue : BitVec 10)
  | launchSchedule
  | launchEnd (lid : Nat)
  | qkill (v : BitVec 64)
  | powerWindowEnd (meters : List MeterArgs)
  | throttleSlot (part : BitVec 3)
  | partaWrite (part : BitVec 3) (v : BitVec 64)
  | capWrite (part : BitVec 3) (v : BitVec 64)
  | obsdataRead
  | frzWrite (v : BitVec 64)
  | obskeyWrite (v : BitVec 64) (ok : Bool) (chal : BitVec 64)
  | tamper
  | managementFrame (recs : List MgmtRecord)
  | evqhWrite (queue : Nat) (v : BitVec 64)
  | lrefresh (stack : BitVec 3) (v : BitVec 64)
  | bucketDescriptorWrite (stack : BitVec 3) (bucket : BitVec 12) (word : BitVec 2) (v : BitVec 64)
  | jobRecordWrite (stack : BitVec 3) (job : BitVec 8) (word : BitVec 2) (v : BitVec 64)
  | awPacket (stack : BitVec 3) (p : Packet)
  | roundPublish (job : BitVec 8) (stack : BitVec 3)
  | mdepthWrite (u : Nat) (v : BitVec 64)
  | tilecfgWrite (u : Nat) (hi : BitVec 1) (v : BitVec 64)
  | cttWord0Write (cluster : Nat) (entry : BitVec 10) (v : BitVec 64)
  | slotmapWrite (port : BitVec 4) (i : BitVec 4) (v : BitVec 64)
  | keyInstall (link : Link) (v : BitVec 64)
  | portRetrain (port : BitVec 4)
  | bpcfgWrite (v : BitVec 64)
  | bpJoin
  | bpviewWrite (v : BitVec 64)
  | scheduledSlot (port : BitVec 4)
  | scheduledData (port : BitVec 4) (f : SchedFlit)
  | openRequest (port : BitVec 4) (h : FlitHdr) (r : OpenReq)
  | openData (port : BitVec 4) (h : FlitHdr) (lines : List OpenLine)
  | answer (port : BitVec 4) (h : FlitHdr) (a : LinkAnswer)
  | linkControl (port : BitVec 4) (h : FlitHdr) (c : LinkCtl)
  | laneDegrade (port : BitVec 4) (rx : Bool) (upper : Bool)
  | epochEnd (link : Link)
  | csendDeadlineMiss (u : Nat) (ch : Nat)
  | remoteTimeout (u : Nat) (ch : Nat)
  | awPacketAbandon (id : Nat)
  | tokenBurst (h : BurstHdr) (named : BitVec 5)
  | dataBurst (h : BurstHdr) (d : BurstData)
  | fenceBurst (h : BurstHdr) (ops : List Nat)
  | barrierBurst (h : BurstHdr) (group : BitVec 8)
  | proposalBurst (h : BurstHdr) (epoch mask : BitVec 32)
  | nakBurst (h : BurstHdr) (lost : BitVec 64)
  | timingBurst (h : BurstHdr) (m : TimeMsg)
  | tokenTimeout (suspect : BitVec 5)
  | sync (m : TimeMsg)
  | followUp (m : TimeMsg)
  | announce (prio1 : BitVec 8) (clockId : BitVec 64) (domain : BitVec 8) (gm : Bool)
  | delayReq (m : TimeMsg)
  | delayResp (m : TimeMsg)
  | holdover
  | freeRun
  | registerWrite (off v : BitVec 64)
  | illegalInstruction
  | walkerTrap (id : Nat)
  | domainResume (u : Nat)
  | handlerReload (u : Nat)
  | rrctlWrite (part : BitVec 3) (v : BitVec 64)
  | bar2Access (pa : BitVec 64) (w : Option (BitVec 64))
  | memoryKeyInstall
  | idleFlit (port : BitVec 4) (h : FlitHdr) (ty : BitVec 4)
  | uncorrectedFlit (port : BitVec 4)
  | uncorrectedBurst (gseq : BitVec 64)
  | portTrained (port : BitVec 4) (lat : BitVec 16) (depth : BitVec 6) (level rlevel : BitVec 2)
  | controlBurst (h : BurstHdr) (level : BitVec 2)
  deriving DecidableEq, Repr

end Sys2Proof
end

