-- ==== Sys2Proof/Decode.lean ====
section
/-! DEFINITION. The decoder of each stream, total on any word, and the encoder (R8, R9, R65 to R68, R88, R154 to R156, R201 to
R203, R294 to R298, R373). A word that matches no row of the stream's tables is refused: it has a reserved major, a reserved
function code or a reserved field that is not zero, and raises 0x01 (R9). Operand codes are judged where the instruction
runs. -/
namespace Sys2Proof
noncomputable section

/-- The k-bit field at bit `lo` of a word. -/
def fld (k w lo : Nat) : BitVec k := BitVec.ofNat k (w / 2 ^ lo)
/-- The number in bits hi to lo of a word. -/
def fix (w hi lo : Nat) : Nat := w / 2 ^ lo % 2 ^ (hi + 1 - lo)
/-- The major opcode of a word (R65). -/
def opc (w : Nat) : Nat := fix w 31 25

/-- Table 3.10: the shared group, major 0x7F of every stream. -/
def decodeShared (w : Nat) : Option Instr :=
  if fix w 24 0 = 0 then some (.nop)
  else if fix w 12 0 = 0 ∧ fix w 24 21 = 1 then some (.sig (fld 2 w 19) (fld 6 w 13))
  else if fix w 12 0 = 0 ∧ fix w 24 21 = 2 then some (.wait (fld 2 w 19) (fld 6 w 13))
  else if fix w 24 21 = 3 then some (.tmark (fld 21 w 0))
  else if fix w 24 0 = 8388608 then some (.beacon)
  else if fix w 24 0 = 9437184 then some (.beaconW)
  else if fix w 24 16 = 160 then some (.brk (fld 16 w 0))
  else if fix w 24 16 = 192 then some (.trap (fld 16 w 0))
  else if fix w 24 0 = 14680064 then some (.halt)
  else if fix w 19 19 = 0 ∧ fix w 24 21 = 8 then some (.zloop (fld 1 w 20) (fld 8 w 11) (fld 11 w 0))
  else if fix w 12 11 = 0 ∧ fix w 19 19 = 1 ∧ fix w 24 21 = 8 then some (.zloopReg (fld 1 w 20) (fld 6 w 13) (fld 11 w 0))
  else if fix w 24 20 = 18 then some (.jmp (fld 20 w 0))
  else if fix w 12 0 = 0 ∧ fix w 24 19 = 38 then some (.jmpReg (fld 6 w 13))
  else none

/-- R84: the atomics of one scope, majors 0x30 to 0x34. -/
def decodeAmo (w : Nat) : Option Instr :=
  if fix w 4 0 = 0 then some (.amoAdd (fld 3 w 25) (fld 1 w 24) (fld 6 w 18) (fld 6 w 12) (fld 6 w 6) (fld 1 w 5))
  else if fix w 4 0 = 2 then some (.amoAnd (fld 3 w 25) (fld 1 w 24) (fld 6 w 18) (fld 6 w 12) (fld 6 w 6) (fld 1 w 5))
  else if fix w 4 0 = 4 then some (.amoOr (fld 3 w 25) (fld 1 w 24) (fld 6 w 18) (fld 6 w 12) (fld 6 w 6) (fld 1 w 5))
  else if fix w 4 0 = 6 then some (.amoXor (fld 3 w 25) (fld 1 w 24) (fld 6 w 18) (fld 6 w 12) (fld 6 w 6) (fld 1 w 5))
  else if fix w 4 0 = 8 then some (.amoSwap (fld 3 w 25) (fld 1 w 24) (fld 6 w 18) (fld 6 w 12) (fld 6 w 6) (fld 1 w 5))
  else if fix w 4 0 = 10 then some (.amoSmin (fld 3 w 25) (fld 1 w 24) (fld 6 w 18) (fld 6 w 12) (fld 6 w 6) (fld 1 w 5))
  else if fix w 4 0 = 12 then some (.amoSmax (fld 3 w 25) (fld 1 w 24) (fld 6 w 18) (fld 6 w 12) (fld 6 w 6) (fld 1 w 5))
  else if fix w 4 0 = 14 then some (.amoUmin (fld 3 w 25) (fld 1 w 24) (fld 6 w 18) (fld 6 w 12) (fld 6 w 6) (fld 1 w 5))
  else if fix w 4 0 = 16 then some (.amoUmax (fld 3 w 25) (fld 1 w 24) (fld 6 w 18) (fld 6 w 12) (fld 6 w 6) (fld 1 w 5))
  else if fix w 4 0 = 18 then some (.amoCas (fld 3 w 25) (fld 1 w 24) (fld 6 w 18) (fld 6 w 12) (fld 6 w 6) (fld 1 w 5))
  else none

/-- Tables 3.1, 3.2 and 15.4, and the stack-only rows of chapter 13. Major 0x01. -/
def decodeS01 (w : Nat) : Option Instr :=
  if fix w 5 0 = 0 then some (.add (fld 1 w 24) (fld 6 w 18) (fld 6 w 12) (fld 6 w 6))
  else if fix w 5 0 = 1 then some (.sub (fld 1 w 24) (fld 6 w 18) (fld 6 w 12) (fld 6 w 6))
  else if fix w 5 0 = 2 then some (.and (fld 1 w 24) (fld 6 w 18) (fld 6 w 12) (fld 6 w 6))
  else if fix w 5 0 = 3 then some (.or (fld 1 w 24) (fld 6 w 18) (fld 6 w 12) (fld 6 w 6))
  else if fix w 5 0 = 4 then some (.xor (fld 1 w 24) (fld 6 w 18) (fld 6 w 12) (fld 6 w 6))
  else if fix w 5 0 = 5 then some (.sll (fld 1 w 24) (fld 6 w 18) (fld 6 w 12) (fld 6 w 6))
  else if fix w 5 0 = 6 then some (.srl (fld 1 w 24) (fld 6 w 18) (fld 6 w 12) (fld 6 w 6))
  else if fix w 5 0 = 7 then some (.sra (fld 1 w 24) (fld 6 w 18) (fld 6 w 12) (fld 6 w 6))
  else if fix w 5 0 = 8 then some (.slt (fld 1 w 24) (fld 6 w 18) (fld 6 w 12) (fld 6 w 6))
  else if fix w 5 0 = 9 then some (.sltu (fld 1 w 24) (fld 6 w 18) (fld 6 w 12) (fld 6 w 6))
  else if fix w 5 0 = 10 then some (.seq (fld 1 w 24) (fld 6 w 18) (fld 6 w 12) (fld 6 w 6))
  else if fix w 5 0 = 11 then some (.min (fld 1 w 24) (fld 6 w 18) (fld 6 w 12) (fld 6 w 6))
  else if fix w 5 0 = 12 then some (.max (fld 1 w 24) (fld 6 w 18) (fld 6 w 12) (fld 6 w 6))
  else if fix w 5 0 = 13 then some (.minu (fld 1 w 24) (fld 6 w 18) (fld 6 w 12) (fld 6 w 6))
  else if fix w 5 0 = 14 then some (.maxu (fld 1 w 24) (fld 6 w 18) (fld 6 w 12) (fld 6 w 6))
  else if fix w 5 0 = 15 then some (.adds (fld 1 w 24) (fld 6 w 18) (fld 6 w 12) (fld 6 w 6))
  else if fix w 5 0 = 16 then some (.subs (fld 1 w 24) (fld 6 w 18) (fld 6 w 12) (fld 6 w 6))
  else if fix w 5 0 = 17 then some (.addsu (fld 1 w 24) (fld 6 w 18) (fld 6 w 12) (fld 6 w 6))
  else if fix w 5 0 = 18 then some (.subsu (fld 1 w 24) (fld 6 w 18) (fld 6 w 12) (fld 6 w 6))
  else if fix w 5 0 = 19 then some (.mul (fld 1 w 24) (fld 6 w 18) (fld 6 w 12) (fld 6 w 6))
  else if fix w 5 0 = 20 then some (.mulh (fld 1 w 24) (fld 6 w 18) (fld 6 w 12) (fld 6 w 6))
  else if fix w 5 0 = 21 then some (.mulhu (fld 1 w 24) (fld 6 w 18) (fld 6 w 12) (fld 6 w 6))
  else if fix w 5 0 = 22 then some (.div (fld 1 w 24) (fld 6 w 18) (fld 6 w 12) (fld 6 w 6))
  else if fix w 5 0 = 23 then some (.divu (fld 1 w 24) (fld 6 w 18) (fld 6 w 12) (fld 6 w 6))
  else if fix w 5 0 = 24 then some (.rem (fld 1 w 24) (fld 6 w 18) (fld 6 w 12) (fld 6 w 6))
  else if fix w 5 0 = 25 then some (.remu (fld 1 w 24) (fld 6 w 18) (fld 6 w 12) (fld 6 w 6))
  else if fix w 5 0 = 26 then some (.andn (fld 1 w 24) (fld 6 w 18) (fld 6 w 12) (fld 6 w 6))
  else if fix w 11 0 = 27 then some (.clz (fld 1 w 24) (fld 6 w 18) (fld 6 w 12))
  else if fix w 11 0 = 28 then some (.popc (fld 1 w 24) (fld 6 w 18) (fld 6 w 12))
  else none
/-- Tables 3.1, 3.2 and 15.4, and the stack-only rows of chapter 13. Major 0x06. -/
def decodeS06 (w : Nat) : Option Instr :=
  if fix w 11 6 = 0 then some (.slli (fld 1 w 24) (fld 6 w 18) (fld 6 w 12) (fld 6 w 0))
  else if fix w 11 6 = 1 then some (.srli (fld 1 w 24) (fld 6 w 18) (fld 6 w 12) (fld 6 w 0))
  else if fix w 11 6 = 2 then some (.srai (fld 1 w 24) (fld 6 w 18) (fld 6 w 12) (fld 6 w 0))
  else none
/-- Tables 3.1, 3.2 and 15.4, and the stack-only rows of chapter 13. Major 0x10. -/
def decodeS10 (w : Nat) : Option Instr :=
  if fix w 5 3 = 0 then some (.faddF32 (fld 1 w 24) (fld 6 w 18) (fld 6 w 12) (fld 6 w 6) (fld 3 w 0))
  else if fix w 5 3 = 1 then some (.fsubF32 (fld 1 w 24) (fld 6 w 18) (fld 6 w 12) (fld 6 w 6) (fld 3 w 0))
  else if fix w 5 3 = 2 then some (.fmulF32 (fld 1 w 24) (fld 6 w 18) (fld 6 w 12) (fld 6 w 6) (fld 3 w 0))
  else if fix w 5 0 = 24 then some (.fminF32 (fld 1 w 24) (fld 6 w 18) (fld 6 w 12) (fld 6 w 6))
  else if fix w 5 0 = 32 then some (.fmaxF32 (fld 1 w 24) (fld 6 w 18) (fld 6 w 12) (fld 6 w 6))
  else if fix w 11 0 = 40 then some (.fnegF32 (fld 1 w 24) (fld 6 w 18) (fld 6 w 12))
  else if fix w 11 0 = 48 then some (.fabsF32 (fld 1 w 24) (fld 6 w 18) (fld 6 w 12))
  else none
/-- Tables 3.1, 3.2 and 15.4, and the stack-only rows of chapter 13. Major 0x11. -/
def decodeS11 (w : Nat) : Option Instr :=
  if fix w 5 0 = 0 then some (.feqF32 (fld 1 w 24) (fld 6 w 18) (fld 6 w 12) (fld 6 w 6))
  else if fix w 5 0 = 1 then some (.fltF32 (fld 1 w 24) (fld 6 w 18) (fld 6 w 12) (fld 6 w 6))
  else if fix w 5 0 = 2 then some (.fleF32 (fld 1 w 24) (fld 6 w 18) (fld 6 w 12) (fld 6 w 6))
  else none
/-- Tables 3.1, 3.2 and 15.4, and the stack-only rows of chapter 13. Major 0x12. -/
def decodeS12 (w : Nat) : Option Instr :=
  if fix w 11 3 = 0 then some (.fcvtF32S64 (fld 1 w 24) (fld 6 w 18) (fld 6 w 12) (fld 3 w 0))
  else if fix w 11 3 = 1 then some (.fcvtF32B64 (fld 1 w 24) (fld 6 w 18) (fld 6 w 12) (fld 3 w 0))
  else if fix w 11 3 = 2 then some (.fcvtS64F32 (fld 1 w 24) (fld 6 w 18) (fld 6 w 12) (fld 3 w 0))
  else if fix w 11 3 = 3 then some (.fcvtB64F32 (fld 1 w 24) (fld 6 w 18) (fld 6 w 12) (fld 3 w 0))
  else if fix w 11 3 = 4 then some (.fcvtS32F32 (fld 1 w 24) (fld 6 w 18) (fld 6 w 12) (fld 3 w 0))
  else if fix w 11 3 = 5 then some (.fcvtB32F32 (fld 1 w 24) (fld 6 w 18) (fld 6 w 12) (fld 3 w 0))
  else if fix w 11 0 = 48 then some (.fcvtF32Bf16 (fld 1 w 24) (fld 6 w 18) (fld 6 w 12))
  else if fix w 11 3 = 7 then some (.fcvtBf16F32 (fld 1 w 24) (fld 6 w 18) (fld 6 w 12) (fld 3 w 0))
  else none
/-- Tables 3.1, 3.2 and 15.4, and the stack-only rows of chapter 13. Major 0x39. -/
def decodeS39 (w : Nat) : Option Instr :=
  if fix w 24 3 = 0 then some (.bar (fld 3 w 0))
  else if fix w 24 5 = 1 then some (.barSw (fld 2 w 3) (fld 3 w 0))
  else none
/-- Tables 3.1, 3.2 and 15.4, and the stack-only rows of chapter 13: the words of S. -/
def decodeS (w : Nat) : Option Instr :=
  if opc w = 0x01 then decodeS01 w
  else if opc w = 0x02 then some (.addi (fld 1 w 24) (fld 6 w 18) (fld 6 w 12) (fld 12 w 0))
  else if opc w = 0x03 then some (.andi (fld 1 w 24) (fld 6 w 18) (fld 6 w 12) (fld 12 w 0))
  else if opc w = 0x04 then some (.ori (fld 1 w 24) (fld 6 w 18) (fld 6 w 12) (fld 12 w 0))
  else if opc w = 0x05 then some (.xori (fld 1 w 24) (fld 6 w 18) (fld 6 w 12) (fld 12 w 0))
  else if opc w = 0x06 then decodeS06 w
  else if opc w = 0x07 then some (.slti (fld 1 w 24) (fld 6 w 18) (fld 6 w 12) (fld 12 w 0))
  else if opc w = 0x08 then some (.sltiu (fld 1 w 24) (fld 6 w 18) (fld 6 w 12) (fld 12 w 0))
  else if opc w = 0x09 then some (.seqi (fld 1 w 24) (fld 6 w 18) (fld 6 w 12) (fld 12 w 0))
  else if opc w = 0x0A then some (.movi (fld 1 w 24) (fld 6 w 18) (fld 18 w 0))
  else if opc w = 0x0B then some (.movk (fld 1 w 24) (fld 6 w 18) (fld 2 w 16) (fld 16 w 0))
  else if opc w = 0x0C then some (.adr (fld 1 w 24) (fld 6 w 18) (fld 18 w 0))
  else if opc w = 0x0D then some (.sel (fld 1 w 24) (fld 6 w 18) (fld 6 w 12) (fld 6 w 6) (fld 6 w 0))
  else if opc w = 0x10 then decodeS10 w
  else if opc w = 0x11 then decodeS11 w
  else if opc w = 0x12 then decodeS12 w
  else if opc w = 0x14 then some (.fmaF32 (fld 2 w 25) (fld 1 w 24) (fld 6 w 18) (fld 6 w 12) (fld 6 w 6) (fld 6 w 0))
  else if opc w = 0x15 then some (.fmaF32 (fld 2 w 25) (fld 1 w 24) (fld 6 w 18) (fld 6 w 12) (fld 6 w 6) (fld 6 w 0))
  else if opc w = 0x16 then some (.fmaF32 (fld 2 w 25) (fld 1 w 24) (fld 6 w 18) (fld 6 w 12) (fld 6 w 6) (fld 6 w 0))
  else if opc w = 0x17 then some (.fmaF32 (fld 2 w 25) (fld 1 w 24) (fld 6 w 18) (fld 6 w 12) (fld 6 w 6) (fld 6 w 0))
  else if opc w = 0x20 then some (.ldS8 (fld 1 w 24) (fld 6 w 18) (fld 6 w 12) (fld 12 w 0))
  else if opc w = 0x21 then some (.ldB8 (fld 1 w 24) (fld 6 w 18) (fld 6 w 12) (fld 12 w 0))
  else if opc w = 0x22 then some (.ldS16 (fld 1 w 24) (fld 6 w 18) (fld 6 w 12) (fld 12 w 0))
  else if opc w = 0x23 then some (.ldB16 (fld 1 w 24) (fld 6 w 18) (fld 6 w 12) (fld 12 w 0))
  else if opc w = 0x24 then some (.ldS32 (fld 1 w 24) (fld 6 w 18) (fld 6 w 12) (fld 12 w 0))
  else if opc w = 0x25 then some (.ldB32 (fld 1 w 24) (fld 6 w 18) (fld 6 w 12) (fld 12 w 0))
  else if opc w = 0x26 then some (.ldB64 (fld 1 w 24) (fld 6 w 18) (fld 6 w 12) (fld 12 w 0))
  else if opc w = 0x28 then (if fix w 24 24 = 0 then some (.stB8 (fld 6 w 18) (fld 6 w 12) (fld 12 w 0)) else none)
  else if opc w = 0x29 then (if fix w 24 24 = 0 then some (.stB16 (fld 6 w 18) (fld 6 w 12) (fld 12 w 0)) else none)
  else if opc w = 0x2A then (if fix w 24 24 = 0 then some (.stB32 (fld 6 w 18) (fld 6 w 12) (fld 12 w 0)) else none)
  else if opc w = 0x2B then (if fix w 24 24 = 0 then some (.stB64 (fld 6 w 18) (fld 6 w 12) (fld 12 w 0)) else none)
  else if opc w = 0x30 then decodeAmo w
  else if opc w = 0x31 then decodeAmo w
  else if opc w = 0x32 then decodeAmo w
  else if opc w = 0x33 then decodeAmo w
  else if opc w = 0x34 then decodeAmo w
  else if opc w = 0x38 then (if fix w 24 3 = 0 then some (.fence (fld 3 w 0)) else none)
  else if opc w = 0x39 then decodeS39 w
  else if opc w = 0x3A then (if fix w 11 0 = 0 ∧ fix w 24 18 = 0 then some (.waitt (fld 6 w 12)) else none)
  else if opc w = 0x3B then (if fix w 11 0 = 0 ∧ fix w 24 18 = 0 then some (.fpush (fld 6 w 12)) else none)
  else if opc w = 0x40 then some (.beq (fld 6 w 19) (fld 6 w 13) (fld 13 w 0))
  else if opc w = 0x41 then some (.bne (fld 6 w 19) (fld 6 w 13) (fld 13 w 0))
  else if opc w = 0x42 then some (.blt (fld 6 w 19) (fld 6 w 13) (fld 13 w 0))
  else if opc w = 0x43 then some (.bge (fld 6 w 19) (fld 6 w 13) (fld 13 w 0))
  else if opc w = 0x44 then some (.bltu (fld 6 w 19) (fld 6 w 13) (fld 13 w 0))
  else if opc w = 0x45 then some (.bgeu (fld 6 w 19) (fld 6 w 13) (fld 13 w 0))
  else if opc w = 0x46 then some (.call (fld 1 w 24) (fld 6 w 18) (fld 18 w 0))
  else if opc w = 0x47 then some (.callr (fld 1 w 24) (fld 6 w 18) (fld 6 w 12) (fld 12 w 0))
  else if opc w = 0x50 then (if fix w 17 13 = 0 then some (.csrr (fld 1 w 24) (fld 6 w 18) (fld 13 w 0)) else none)
  else if opc w = 0x51 then (if fix w 17 13 = 0 ∧ fix w 24 24 = 0 then some (.csrw (fld 6 w 18) (fld 13 w 0)) else none)
  else if opc w = 0x58 then some (.xrd (fld 1 w 24) (fld 6 w 18) (fld 6 w 12) (fld 12 w 0))
  else if opc w = 0x59 then (if fix w 24 24 = 0 then some (.xwr (fld 6 w 18) (fld 6 w 12) (fld 12 w 0)) else none)
  else if opc w = 0x5A then (if fix w 24 0 = 0 then some (.hret) else none)
  else if opc w = 0x5B then (if fix w 24 2 = 0 then some (.cdrop (fld 2 w 0)) else none)
  else if opc w = 0x5C then (if fix w 11 0 = 0 ∧ fix w 24 18 = 0 then some (.xkill (fld 6 w 12)) else none)
  else if opc w = 0x5D then (if fix w 11 0 = 0 ∧ fix w 24 18 = 0 then some (.xpost (fld 6 w 12)) else none)
  else if opc w = 0x60 then (if fix w 17 0 = 0 ∧ fix w 24 24 = 0 then some (.bkwait (fld 6 w 18)) else none)
  else if opc w = 0x61 then (if fix w 11 0 = 0 ∧ fix w 24 18 = 0 then some (.bkopen (fld 6 w 12)) else none)
  else if opc w = 0x62 then (if fix w 11 0 = 0 ∧ fix w 24 18 = 0 then some (.bkclose (fld 6 w 12)) else none)
  else if opc w = 0x63 then (if fix w 11 0 = 0 ∧ fix w 24 18 = 0 then some (.hold (fld 6 w 12)) else none)
  else if opc w = 0x64 then (if fix w 11 0 = 0 ∧ fix w 24 18 = 0 then some (.release (fld 6 w 12)) else none)
  else if opc w = 0x65 then (if fix w 24 0 = 0 then some (.pub) else none)
  else if opc w = 0x7F then decodeShared w
  else none

/-- Tables 6.1 and 6.2, and the stack-only rows of chapter 13. Major 0x48. -/
def decodeV48 (w : Nat) : Option Instr :=
  if fix w 11 6 = 0 then some (.vredAddS32 (fld 1 w 24) (fld 6 w 18) (fld 6 w 12) (fld 5 w 1) (fld 1 w 0))
  else if fix w 11 6 = 1 then some (.vredAddsS32 (fld 1 w 24) (fld 6 w 18) (fld 6 w 12) (fld 5 w 1) (fld 1 w 0))
  else if fix w 11 6 = 2 then some (.vredMinS32 (fld 1 w 24) (fld 6 w 18) (fld 6 w 12) (fld 5 w 1) (fld 1 w 0))
  else if fix w 11 6 = 3 then some (.vredMaxS32 (fld 1 w 24) (fld 6 w 18) (fld 6 w 12) (fld 5 w 1) (fld 1 w 0))
  else if fix w 11 6 = 4 then some (.vredMinB32 (fld 1 w 24) (fld 6 w 18) (fld 6 w 12) (fld 5 w 1) (fld 1 w 0))
  else if fix w 11 6 = 5 then some (.vredMaxB32 (fld 1 w 24) (fld 6 w 18) (fld 6 w 12) (fld 5 w 1) (fld 1 w 0))
  else if fix w 11 6 = 6 then some (.vredAndB32 (fld 1 w 24) (fld 6 w 18) (fld 6 w 12) (fld 5 w 1) (fld 1 w 0))
  else if fix w 11 6 = 7 then some (.vredOrB32 (fld 1 w 24) (fld 6 w 18) (fld 6 w 12) (fld 5 w 1) (fld 1 w 0))
  else if fix w 11 6 = 8 then some (.vredXorB32 (fld 1 w 24) (fld 6 w 18) (fld 6 w 12) (fld 5 w 1) (fld 1 w 0))
  else if fix w 11 6 = 9 then some (.vredAddF32 (fld 1 w 24) (fld 6 w 18) (fld 6 w 12) (fld 5 w 1) (fld 1 w 0))
  else if fix w 11 6 = 10 then some (.vredMinF32 (fld 1 w 24) (fld 6 w 18) (fld 6 w 12) (fld 5 w 1) (fld 1 w 0))
  else if fix w 11 6 = 11 then some (.vredMaxF32 (fld 1 w 24) (fld 6 w 18) (fld 6 w 12) (fld 5 w 1) (fld 1 w 0))
  else if fix w 11 6 = 12 then some (.vredAddBf16 (fld 1 w 24) (fld 6 w 18) (fld 6 w 12) (fld 5 w 1) (fld 1 w 0))
  else none
/-- Tables 6.1 and 6.2, and the stack-only rows of chapter 13. Major 0x52. -/
def decodeV52 (w : Nat) : Option Instr :=
  if fix w 11 0 = 0 ∧ fix w 24 21 = 0 then some (.vmand (fld 3 w 18) (fld 3 w 15) (fld 3 w 12))
  else if fix w 11 0 = 0 ∧ fix w 24 21 = 1 then some (.vmor (fld 3 w 18) (fld 3 w 15) (fld 3 w 12))
  else if fix w 11 0 = 0 ∧ fix w 24 21 = 2 then some (.vmxor (fld 3 w 18) (fld 3 w 15) (fld 3 w 12))
  else if fix w 11 0 = 0 ∧ fix w 24 21 = 3 then some (.vmandn (fld 3 w 18) (fld 3 w 15) (fld 3 w 12))
  else if fix w 14 0 = 0 ∧ fix w 24 21 = 4 then some (.vmnot (fld 3 w 18) (fld 3 w 15))
  else if fix w 17 0 = 0 ∧ fix w 24 21 = 5 then some (.vmset (fld 3 w 18))
  else if fix w 17 0 = 0 ∧ fix w 24 21 = 6 then some (.vmclr (fld 3 w 18))
  else if fix w 14 0 = 0 ∧ fix w 24 21 = 7 then some (.vmmov (fld 3 w 18) (fld 3 w 15))
  else none
/-- Tables 6.1 and 6.2, and the stack-only rows of chapter 13. Major 0x62. -/
def decodeV62 (w : Nat) : Option Instr :=
  if fix w 17 8 = 0 then some (.vacc (fld 1 w 24) (fld 6 w 18) (fld 8 w 0))
  else if fix w 17 13 = 1 then some (.vaccX (fld 1 w 24) (fld 6 w 18) (fld 5 w 8) (fld 8 w 0))
  else none
/-- Tables 6.1 and 6.2, and the stack-only rows of chapter 13: the words of V. -/
def decodeV (w : Nat) : Option Instr :=
  if opc w = 0x01 then some (.vaddS32 (fld 1 w 24) (fld 6 w 18) (fld 6 w 12) (fld 6 w 6) (fld 5 w 1) (fld 1 w 0))
  else if opc w = 0x02 then some (.vsubS32 (fld 1 w 24) (fld 6 w 18) (fld 6 w 12) (fld 6 w 6) (fld 5 w 1) (fld 1 w 0))
  else if opc w = 0x03 then some (.vmulS32 (fld 1 w 24) (fld 6 w 18) (fld 6 w 12) (fld 6 w 6) (fld 5 w 1) (fld 1 w 0))
  else if opc w = 0x04 then some (.vmulhS32 (fld 1 w 24) (fld 6 w 18) (fld 6 w 12) (fld 6 w 6) (fld 5 w 1) (fld 1 w 0))
  else if opc w = 0x05 then some (.vmulhB32 (fld 1 w 24) (fld 6 w 18) (fld 6 w 12) (fld 6 w 6) (fld 5 w 1) (fld 1 w 0))
  else if opc w = 0x06 then some (.vminS32 (fld 1 w 24) (fld 6 w 18) (fld 6 w 12) (fld 6 w 6) (fld 5 w 1) (fld 1 w 0))
  else if opc w = 0x07 then some (.vmaxS32 (fld 1 w 24) (fld 6 w 18) (fld 6 w 12) (fld 6 w 6) (fld 5 w 1) (fld 1 w 0))
  else if opc w = 0x08 then some (.vminB32 (fld 1 w 24) (fld 6 w 18) (fld 6 w 12) (fld 6 w 6) (fld 5 w 1) (fld 1 w 0))
  else if opc w = 0x09 then some (.vmaxB32 (fld 1 w 24) (fld 6 w 18) (fld 6 w 12) (fld 6 w 6) (fld 5 w 1) (fld 1 w 0))
  else if opc w = 0x0A then some (.vaddsS32 (fld 1 w 24) (fld 6 w 18) (fld 6 w 12) (fld 6 w 6) (fld 5 w 1) (fld 1 w 0))
  else if opc w = 0x0B then some (.vsubsS32 (fld 1 w 24) (fld 6 w 18) (fld 6 w 12) (fld 6 w 6) (fld 5 w 1) (fld 1 w 0))
  else if opc w = 0x0C then some (.vaddsB32 (fld 1 w 24) (fld 6 w 18) (fld 6 w 12) (fld 6 w 6) (fld 5 w 1) (fld 1 w 0))
  else if opc w = 0x0D then some (.vsubsB32 (fld 1 w 24) (fld 6 w 18) (fld 6 w 12) (fld 6 w 6) (fld 5 w 1) (fld 1 w 0))
  else if opc w = 0x0E then some (.vandB32 (fld 1 w 24) (fld 6 w 18) (fld 6 w 12) (fld 6 w 6) (fld 5 w 1) (fld 1 w 0))
  else if opc w = 0x0F then some (.vorB32 (fld 1 w 24) (fld 6 w 18) (fld 6 w 12) (fld 6 w 6) (fld 5 w 1) (fld 1 w 0))
  else if opc w = 0x10 then some (.vxorB32 (fld 1 w 24) (fld 6 w 18) (fld 6 w 12) (fld 6 w 6) (fld 5 w 1) (fld 1 w 0))
  else if opc w = 0x11 then some (.vandnB32 (fld 1 w 24) (fld 6 w 18) (fld 6 w 12) (fld 6 w 6) (fld 5 w 1) (fld 1 w 0))
  else if opc w = 0x12 then some (.vsllB32 (fld 1 w 24) (fld 6 w 18) (fld 6 w 12) (fld 6 w 6) (fld 5 w 1) (fld 1 w 0))
  else if opc w = 0x13 then some (.vsrlB32 (fld 1 w 24) (fld 6 w 18) (fld 6 w 12) (fld 6 w 6) (fld 5 w 1) (fld 1 w 0))
  else if opc w = 0x14 then some (.vsraS32 (fld 1 w 24) (fld 6 w 18) (fld 6 w 12) (fld 6 w 6) (fld 5 w 1) (fld 1 w 0))
  else if opc w = 0x18 then some (.vaddS16 (fld 1 w 24) (fld 6 w 18) (fld 6 w 12) (fld 6 w 6) (fld 5 w 1) (fld 1 w 0))
  else if opc w = 0x19 then some (.vsubS16 (fld 1 w 24) (fld 6 w 18) (fld 6 w 12) (fld 6 w 6) (fld 5 w 1) (fld 1 w 0))
  else if opc w = 0x1A then some (.vaddsS16 (fld 1 w 24) (fld 6 w 18) (fld 6 w 12) (fld 6 w 6) (fld 5 w 1) (fld 1 w 0))
  else if opc w = 0x1B then some (.vsubsS16 (fld 1 w 24) (fld 6 w 18) (fld 6 w 12) (fld 6 w 6) (fld 5 w 1) (fld 1 w 0))
  else if opc w = 0x1C then some (.vaddsB16 (fld 1 w 24) (fld 6 w 18) (fld 6 w 12) (fld 6 w 6) (fld 5 w 1) (fld 1 w 0))
  else if opc w = 0x1D then some (.vsubsB16 (fld 1 w 24) (fld 6 w 18) (fld 6 w 12) (fld 6 w 6) (fld 5 w 1) (fld 1 w 0))
  else if opc w = 0x1E then some (.vmulS16 (fld 1 w 24) (fld 6 w 18) (fld 6 w 12) (fld 6 w 6) (fld 5 w 1) (fld 1 w 0))
  else if opc w = 0x20 then some (.vaddS8 (fld 1 w 24) (fld 6 w 18) (fld 6 w 12) (fld 6 w 6) (fld 5 w 1) (fld 1 w 0))
  else if opc w = 0x21 then some (.vsubS8 (fld 1 w 24) (fld 6 w 18) (fld 6 w 12) (fld 6 w 6) (fld 5 w 1) (fld 1 w 0))
  else if opc w = 0x22 then some (.vaddsS8 (fld 1 w 24) (fld 6 w 18) (fld 6 w 12) (fld 6 w 6) (fld 5 w 1) (fld 1 w 0))
  else if opc w = 0x23 then some (.vsubsS8 (fld 1 w 24) (fld 6 w 18) (fld 6 w 12) (fld 6 w 6) (fld 5 w 1) (fld 1 w 0))
  else if opc w = 0x24 then some (.vaddsB8 (fld 1 w 24) (fld 6 w 18) (fld 6 w 12) (fld 6 w 6) (fld 5 w 1) (fld 1 w 0))
  else if opc w = 0x25 then some (.vsubsB8 (fld 1 w 24) (fld 6 w 18) (fld 6 w 12) (fld 6 w 6) (fld 5 w 1) (fld 1 w 0))
  else if opc w = 0x28 then some (.vfaddF32 (fld 1 w 24) (fld 6 w 18) (fld 6 w 12) (fld 6 w 6) (fld 5 w 1) (fld 1 w 0))
  else if opc w = 0x29 then some (.vfsubF32 (fld 1 w 24) (fld 6 w 18) (fld 6 w 12) (fld 6 w 6) (fld 5 w 1) (fld 1 w 0))
  else if opc w = 0x2A then some (.vfmulF32 (fld 1 w 24) (fld 6 w 18) (fld 6 w 12) (fld 6 w 6) (fld 5 w 1) (fld 1 w 0))
  else if opc w = 0x2B then some (.vfminF32 (fld 1 w 24) (fld 6 w 18) (fld 6 w 12) (fld 6 w 6) (fld 5 w 1) (fld 1 w 0))
  else if opc w = 0x2C then some (.vfmaxF32 (fld 1 w 24) (fld 6 w 18) (fld 6 w 12) (fld 6 w 6) (fld 5 w 1) (fld 1 w 0))
  else if opc w = 0x2D then some (.vfmaF32 (fld 1 w 24) (fld 6 w 18) (fld 6 w 12) (fld 6 w 6) (fld 5 w 1) (fld 1 w 0))
  else if opc w = 0x30 then some (.vfaddBf16 (fld 1 w 24) (fld 6 w 18) (fld 6 w 12) (fld 6 w 6) (fld 5 w 1) (fld 1 w 0))
  else if opc w = 0x31 then some (.vfsubBf16 (fld 1 w 24) (fld 6 w 18) (fld 6 w 12) (fld 6 w 6) (fld 5 w 1) (fld 1 w 0))
  else if opc w = 0x32 then some (.vfmulBf16 (fld 1 w 24) (fld 6 w 18) (fld 6 w 12) (fld 6 w 6) (fld 5 w 1) (fld 1 w 0))
  else if opc w = 0x33 then some (.vfminBf16 (fld 1 w 24) (fld 6 w 18) (fld 6 w 12) (fld 6 w 6) (fld 5 w 1) (fld 1 w 0))
  else if opc w = 0x34 then some (.vfmaxBf16 (fld 1 w 24) (fld 6 w 18) (fld 6 w 12) (fld 6 w 6) (fld 5 w 1) (fld 1 w 0))
  else if opc w = 0x35 then some (.vfmaBf16 (fld 1 w 24) (fld 6 w 18) (fld 6 w 12) (fld 6 w 6) (fld 5 w 1) (fld 1 w 0))
  else if opc w = 0x38 then (if fix w 11 6 = 0 then some (.vexp2F32 (fld 1 w 24) (fld 6 w 18) (fld 6 w 12) (fld 5 w 1) (fld 1 w 0)) else none)
  else if opc w = 0x39 then (if fix w 11 6 = 0 then some (.vlog2F32 (fld 1 w 24) (fld 6 w 18) (fld 6 w 12) (fld 5 w 1) (fld 1 w 0)) else none)
  else if opc w = 0x3A then (if fix w 11 6 = 0 then some (.vrcpF32 (fld 1 w 24) (fld 6 w 18) (fld 6 w 12) (fld 5 w 1) (fld 1 w 0)) else none)
  else if opc w = 0x3B then (if fix w 11 6 = 0 then some (.vrsqrtF32 (fld 1 w 24) (fld 6 w 18) (fld 6 w 12) (fld 5 w 1) (fld 1 w 0)) else none)
  else if opc w = 0x3C then some (.vcmpS32 (fld 4 w 21) (fld 3 w 18) (fld 6 w 12) (fld 6 w 6) (fld 5 w 1) (fld 1 w 0))
  else if opc w = 0x3D then some (.vcmpB32 (fld 4 w 21) (fld 3 w 18) (fld 6 w 12) (fld 6 w 6) (fld 5 w 1) (fld 1 w 0))
  else if opc w = 0x3E then some (.vcmpF32 (fld 4 w 21) (fld 3 w 18) (fld 6 w 12) (fld 6 w 6) (fld 5 w 1) (fld 1 w 0))
  else if opc w = 0x3F then some (.vcmpBf16 (fld 4 w 21) (fld 3 w 18) (fld 6 w 12) (fld 6 w 6) (fld 5 w 1) (fld 1 w 0))
  else if opc w = 0x40 then some (.vcvt (fld 2 w 25) (fld 1 w 24) (fld 6 w 18) (fld 6 w 12) (fld 4 w 8) (fld 4 w 4) (fld 3 w 1) (fld 1 w 0))
  else if opc w = 0x41 then some (.vcvt (fld 2 w 25) (fld 1 w 24) (fld 6 w 18) (fld 6 w 12) (fld 4 w 8) (fld 4 w 4) (fld 3 w 1) (fld 1 w 0))
  else if opc w = 0x42 then some (.vcvt (fld 2 w 25) (fld 1 w 24) (fld 6 w 18) (fld 6 w 12) (fld 4 w 8) (fld 4 w 4) (fld 3 w 1) (fld 1 w 0))
  else if opc w = 0x43 then some (.vcvt (fld 2 w 25) (fld 1 w 24) (fld 6 w 18) (fld 6 w 12) (fld 4 w 8) (fld 4 w 4) (fld 3 w 1) (fld 1 w 0))
  else if opc w = 0x44 then (if fix w 0 0 = 0 then some (.vmxpk (fld 1 w 24) (fld 6 w 18) (fld 6 w 12) (fld 4 w 8) (fld 4 w 4) (fld 3 w 1)) else none)
  else if opc w = 0x48 then decodeV48 w
  else if opc w = 0x4C then some (.vpermB32 (fld 1 w 24) (fld 6 w 18) (fld 6 w 12) (fld 6 w 6) (fld 5 w 1) (fld 1 w 0))
  else if opc w = 0x4D then some (.vpermB8 (fld 1 w 24) (fld 6 w 18) (fld 6 w 12) (fld 6 w 6) (fld 5 w 1) (fld 1 w 0))
  else if opc w = 0x4E then (if fix w 11 6 = 0 then some (.vrotB32 (fld 1 w 24) (fld 6 w 18) (fld 6 w 12) (fld 6 w 0)) else none)
  else if opc w = 0x4F then (if fix w 0 0 = 0 then some (.vselB32 (fld 1 w 24) (fld 6 w 18) (fld 6 w 12) (fld 6 w 6) (fld 5 w 1)) else none)
  else if opc w = 0x50 then (if fix w 17 12 = 0 then some (.vmovi (fld 1 w 24) (fld 6 w 18) (fld 12 w 0)) else none)
  else if opc w = 0x52 then decodeV52 w
  else if opc w = 0x53 then (if fix w 16 0 = 0 then some (.vflag (fld 2 w 23) (fld 3 w 20) (fld 2 w 18) (fld 1 w 17)) else none)
  else if opc w = 0x58 then (if fix w 17 17 = 0 then some (.vld (fld 1 w 24) (fld 6 w 18) (fld 5 w 12) (fld 12 w 0)) else none)
  else if opc w = 0x59 then (if fix w 17 17 = 0 ∧ fix w 24 24 = 0 then some (.vst (fld 6 w 18) (fld 5 w 12) (fld 12 w 0)) else none)
  else if opc w = 0x5A then (if fix w 4 1 = 0 then some (.vlds (fld 1 w 24) (fld 6 w 18) (fld 5 w 13) (fld 5 w 8) (fld 2 w 6) (fld 1 w 5) (fld 1 w 0)) else none)
  else if opc w = 0x5B then (if fix w 4 1 = 0 ∧ fix w 24 24 = 0 then some (.vsts (fld 6 w 18) (fld 5 w 13) (fld 5 w 8) (fld 2 w 6) (fld 1 w 5) (fld 1 w 0)) else none)
  else if opc w = 0x5C then (if fix w 2 1 = 0 ∧ fix w 12 12 = 0 then some (.vldx (fld 1 w 24) (fld 6 w 18) (fld 5 w 13) (fld 6 w 6) (fld 2 w 4) (fld 1 w 3) (fld 1 w 0)) else none)
  else if opc w = 0x5D then (if fix w 2 1 = 0 ∧ fix w 12 12 = 0 ∧ fix w 24 24 = 0 then some (.vstx (fld 6 w 18) (fld 5 w 13) (fld 6 w 6) (fld 2 w 4) (fld 1 w 3) (fld 1 w 0)) else none)
  else if opc w = 0x5E then (if fix w 17 17 = 0 then some (.vgld (fld 1 w 24) (fld 6 w 18) (fld 5 w 12) (fld 12 w 0)) else none)
  else if opc w = 0x5F then (if fix w 17 17 = 0 ∧ fix w 24 24 = 0 then some (.vgst (fld 6 w 18) (fld 5 w 12) (fld 12 w 0)) else none)
  else if opc w = 0x60 then (if fix w 7 0 = 0 ∧ fix w 17 12 = 0 ∧ fix w 24 24 = 0 then some (.vsend (fld 6 w 18) (fld 4 w 8)) else none)
  else if opc w = 0x61 then (if fix w 17 0 = 0 then some (.vrecv (fld 1 w 24) (fld 6 w 18)) else none)
  else if opc w = 0x62 then decodeV62 w
  else if opc w = 0x64 then some (.vamul (fld 1 w 24) (fld 6 w 18) (fld 6 w 12) (fld 6 w 6) (fld 1 w 5) (fld 1 w 4) (fld 2 w 2) (fld 2 w 0))
  else if opc w = 0x65 then (if fix w 1 0 = 0 ∧ fix w 4 4 = 0 ∧ fix w 11 6 = 0 then some (.vconj (fld 1 w 24) (fld 6 w 18) (fld 6 w 12) (fld 1 w 5) (fld 2 w 2)) else none)
  else if opc w = 0x66 then (if fix w 4 0 = 0 ∧ fix w 11 6 = 0 then some (.vnorm (fld 1 w 24) (fld 6 w 18) (fld 6 w 12) (fld 1 w 5)) else none)
  else if opc w = 0x68 then (if fix w 6 0 = 0 ∧ fix w 22 18 = 0 then some (.vaw (fld 2 w 23) (fld 6 w 12) (fld 5 w 7)) else none)
  else if opc w = 0x69 then (if fix w 5 5 = 0 then some (.vsrnd (fld 1 w 24) (fld 6 w 18) (fld 6 w 12) (fld 4 w 8) (fld 2 w 6) (fld 5 w 0)) else none)
  else if opc w = 0x6A then (if fix w 11 0 = 0 ∧ fix w 24 18 = 0 then some (.chadd (fld 6 w 12)) else none)
  else if opc w = 0x70 then (if fix w 10 0 = 0 ∧ fix w 24 24 = 0 then some (.vtcfg (fld 3 w 21) (fld 4 w 17) (fld 4 w 13) (fld 2 w 11)) else none)
  else if opc w = 0x71 then (if fix w 20 0 = 0 ∧ fix w 24 24 = 0 then some (.vtrel (fld 3 w 21)) else none)
  else if opc w = 0x72 then (if fix w 8 0 = 0 ∧ fix w 24 24 = 0 then some (.vtrow (fld 6 w 18) (fld 3 w 15) (fld 4 w 11) (fld 2 w 9)) else none)
  else if opc w = 0x73 then (if fix w 8 0 = 0 then some (.vtrowr (fld 1 w 24) (fld 6 w 18) (fld 3 w 15) (fld 4 w 11) (fld 2 w 9)) else none)
  else if opc w = 0x74 then (if fix w 8 0 = 0 then some (.vtcol (fld 1 w 24) (fld 6 w 18) (fld 3 w 15) (fld 4 w 11) (fld 2 w 9)) else none)
  else if opc w = 0x75 then (if fix w 8 0 = 0 ∧ fix w 24 24 = 0 then some (.vtcolw (fld 6 w 18) (fld 3 w 15) (fld 4 w 11) (fld 2 w 9)) else none)
  else if opc w = 0x76 then (if fix w 15 5 = 0 ∧ fix w 24 24 = 0 then some (.vtsave (fld 8 w 16) (fld 5 w 0)) else none)
  else if opc w = 0x77 then (if fix w 15 5 = 0 ∧ fix w 24 24 = 0 then some (.vtload (fld 8 w 16) (fld 5 w 0)) else none)
  else if opc w = 0x7F then decodeShared w
  else none

/-- Tables 8.1 and 8.2. Major 0x01. -/
def decodeM01 (w : Nat) : Option Instr :=
  if fix w 8 0 = 0 ∧ fix w 24 21 = 0 then some (.madd (fld 4 w 17) (fld 4 w 13) (fld 4 w 9))
  else if fix w 8 0 = 0 ∧ fix w 24 21 = 1 then some (.msub (fld 4 w 17) (fld 4 w 13) (fld 4 w 9))
  else if fix w 8 0 = 0 ∧ fix w 24 21 = 2 then some (.mand (fld 4 w 17) (fld 4 w 13) (fld 4 w 9))
  else if fix w 8 0 = 0 ∧ fix w 24 21 = 3 then some (.mor (fld 4 w 17) (fld 4 w 13) (fld 4 w 9))
  else if fix w 8 0 = 0 ∧ fix w 24 21 = 4 then some (.mxor (fld 4 w 17) (fld 4 w 13) (fld 4 w 9))
  else if fix w 8 0 = 0 ∧ fix w 24 21 = 5 then some (.msll (fld 4 w 17) (fld 4 w 13) (fld 4 w 9))
  else if fix w 8 0 = 0 ∧ fix w 24 21 = 6 then some (.msrl (fld 4 w 17) (fld 4 w 13) (fld 4 w 9))
  else if fix w 8 0 = 0 ∧ fix w 24 21 = 7 then some (.mminu (fld 4 w 17) (fld 4 w 13) (fld 4 w 9))
  else none
/-- Tables 8.1 and 8.2. Major 0x10. -/
def decodeM10 (w : Nat) : Option Instr :=
  if fix w 11 11 = 0 then some (.mma (fld 3 w 22) (fld 3 w 19) (fld 3 w 16) (fld 4 w 12) (fld 11 w 0))
  else if fix w 11 4 = 128 then some (.mmaReg (fld 3 w 22) (fld 3 w 19) (fld 3 w 16) (fld 4 w 12) (fld 4 w 0))
  else none
/-- Tables 8.1 and 8.2. Major 0x11. -/
def decodeM11 (w : Nat) : Option Instr :=
  if fix w 11 11 = 0 ∧ fix w 15 15 = 0 then some (.mstage (fld 3 w 22) (fld 3 w 19) (fld 3 w 16) (fld 3 w 12) (fld 11 w 0))
  else if fix w 11 4 = 128 ∧ fix w 15 15 = 0 then some (.mstageReg (fld 3 w 22) (fld 3 w 19) (fld 3 w 16) (fld 3 w 12) (fld 4 w 0))
  else none
/-- Tables 8.1 and 8.2: the words of M. -/
def decodeM (w : Nat) : Option Instr :=
  if opc w = 0x01 then decodeM01 w
  else if opc w = 0x02 then some (.maddi (fld 4 w 21) (fld 4 w 17) (fld 17 w 0))
  else if opc w = 0x03 then (if fix w 18 16 = 0 then some (.mmovk (fld 4 w 21) (fld 2 w 19) (fld 16 w 0)) else none)
  else if opc w = 0x04 then (if fix w 15 0 = 0 then some (.mmovx (fld 4 w 21) (fld 5 w 16)) else none)
  else if opc w = 0x05 then (if fix w 20 17 = 0 then some (.mmovi (fld 4 w 21) (fld 17 w 0)) else none)
  else if opc w = 0x08 then some (.mbeq (fld 4 w 21) (fld 4 w 17) (fld 17 w 0))
  else if opc w = 0x09 then some (.mbne (fld 4 w 21) (fld 4 w 17) (fld 17 w 0))
  else if opc w = 0x0A then some (.mbltu (fld 4 w 21) (fld 4 w 17) (fld 17 w 0))
  else if opc w = 0x10 then decodeM10 w
  else if opc w = 0x11 then decodeM11 w
  else if opc w = 0x12 then (if fix w 18 0 = 0 then some (.mzero (fld 3 w 22) (fld 3 w 19)) else none)
  else if opc w = 0x13 then (if fix w 24 0 = 0 then some (.mswap) else none)
  else if opc w = 0x7F then decodeShared w
  else none

/-- Tables 12.1 and 12.2. Major 0x01. -/
def decodeC01 (w : Nat) : Option Instr :=
  if fix w 8 0 = 0 ∧ fix w 24 21 = 0 then some (.cadd (fld 4 w 17) (fld 4 w 13) (fld 4 w 9))
  else if fix w 8 0 = 0 ∧ fix w 24 21 = 1 then some (.csub (fld 4 w 17) (fld 4 w 13) (fld 4 w 9))
  else if fix w 8 0 = 0 ∧ fix w 24 21 = 2 then some (.cand (fld 4 w 17) (fld 4 w 13) (fld 4 w 9))
  else if fix w 8 0 = 0 ∧ fix w 24 21 = 3 then some (.cor (fld 4 w 17) (fld 4 w 13) (fld 4 w 9))
  else if fix w 8 0 = 0 ∧ fix w 24 21 = 4 then some (.cxor (fld 4 w 17) (fld 4 w 13) (fld 4 w 9))
  else if fix w 8 0 = 0 ∧ fix w 24 21 = 5 then some (.csll (fld 4 w 17) (fld 4 w 13) (fld 4 w 9))
  else if fix w 8 0 = 0 ∧ fix w 24 21 = 6 then some (.csrl (fld 4 w 17) (fld 4 w 13) (fld 4 w 9))
  else if fix w 8 0 = 0 ∧ fix w 24 21 = 7 then some (.cminu (fld 4 w 17) (fld 4 w 13) (fld 4 w 9))
  else none
/-- Tables 12.1 and 12.2. Major 0x19. -/
def decodeC19 (w : Nat) : Option Instr :=
  if fix w 5 0 = 0 ∧ fix w 22 22 = 0 then some (.cmapR (fld 2 w 23) (fld 4 w 18) (fld 4 w 14) (fld 4 w 10) (fld 4 w 6))
  else if fix w 5 0 = 0 ∧ fix w 22 22 = 1 then some (.cmapW (fld 2 w 23) (fld 4 w 18) (fld 4 w 14) (fld 4 w 10) (fld 4 w 6))
  else none
/-- Tables 12.1 and 12.2: the words of C. -/
def decodeC (w : Nat) : Option Instr :=
  if opc w = 0x01 then decodeC01 w
  else if opc w = 0x02 then some (.caddi (fld 4 w 21) (fld 4 w 17) (fld 17 w 0))
  else if opc w = 0x03 then (if fix w 18 16 = 0 then some (.cmovk (fld 4 w 21) (fld 2 w 19) (fld 16 w 0)) else none)
  else if opc w = 0x04 then (if fix w 15 0 = 0 then some (.cmovx (fld 4 w 21) (fld 5 w 16)) else none)
  else if opc w = 0x05 then (if fix w 20 17 = 0 then some (.cmovi (fld 4 w 21) (fld 17 w 0)) else none)
  else if opc w = 0x08 then some (.cbeq (fld 4 w 21) (fld 4 w 17) (fld 17 w 0))
  else if opc w = 0x09 then some (.cbne (fld 4 w 21) (fld 4 w 17) (fld 17 w 0))
  else if opc w = 0x0A then some (.cbltu (fld 4 w 21) (fld 4 w 17) (fld 17 w 0))
  else if opc w = 0x10 then (if fix w 1 0 = 0 then some (.cpy (fld 2 w 23) (fld 4 w 19) (fld 4 w 15) (fld 4 w 11) (fld 4 w 7) (fld 1 w 6) (fld 1 w 5) (fld 3 w 2)) else none)
  else if opc w = 0x11 then (if fix w 9 0 = 0 then some (.ctens (fld 2 w 23) (fld 4 w 19) (fld 4 w 15) (fld 1 w 14) (fld 1 w 13) (fld 3 w 10)) else none)
  else if opc w = 0x12 then some (.cgath (fld 2 w 23) (fld 4 w 19) (fld 4 w 15) (fld 4 w 11) (fld 4 w 7) (fld 4 w 3) (fld 1 w 2) (fld 2 w 0))
  else if opc w = 0x13 then some (.cscat (fld 2 w 23) (fld 4 w 19) (fld 4 w 15) (fld 4 w 11) (fld 4 w 7) (fld 4 w 3) (fld 1 w 2) (fld 2 w 0))
  else if opc w = 0x14 then (if fix w 6 0 = 0 then some (.cscl (fld 2 w 23) (fld 6 w 17) (fld 9 w 8) (fld 1 w 7)) else none)
  else if opc w = 0x15 then (if fix w 7 0 = 0 then some (.cldlct (fld 2 w 23) (fld 6 w 17) (fld 9 w 8)) else none)
  else if opc w = 0x16 then (if fix w 7 0 = 0 then some (.cldalg (fld 2 w 23) (fld 6 w 17) (fld 9 w 8)) else none)
  else if opc w = 0x17 then (if fix w 8 0 = 0 then some (.caw (fld 2 w 23) (fld 4 w 19) (fld 4 w 15) (fld 4 w 11) (fld 2 w 9)) else none)
  else if opc w = 0x18 then (if fix w 1 0 = 0 then some (.cver (fld 2 w 23) (fld 4 w 19) (fld 4 w 15) (fld 4 w 11) (fld 4 w 7) (fld 4 w 3) (fld 1 w 2)) else none)
  else if opc w = 0x19 then decodeC19 w
  else if opc w = 0x1A then (if fix w 22 16 = 0 then some (.cwb (fld 2 w 23) (fld 16 w 0)) else none)
  else if opc w = 0x1B then (if fix w 2 0 = 0 then some (.cput (fld 2 w 23) (fld 3 w 20) (fld 4 w 16) (fld 4 w 12) (fld 4 w 8) (fld 4 w 4) (fld 1 w 3)) else none)
  else if opc w = 0x1C then (if fix w 2 0 = 0 then some (.cget (fld 2 w 23) (fld 3 w 20) (fld 4 w 16) (fld 4 w 12) (fld 4 w 8) (fld 4 w 4) (fld 1 w 3)) else none)
  else if opc w = 0x1D then (if fix w 5 0 = 0 then some (.cbcast (fld 2 w 23) (fld 4 w 19) (fld 4 w 15) (fld 4 w 11) (fld 4 w 7) (fld 1 w 6)) else none)
  else if opc w = 0x1E then some (.csendT (fld 2 w 23) (fld 3 w 20) (fld 4 w 16) (fld 4 w 12) (fld 4 w 8) (fld 4 w 4) (fld 4 w 0))
  else if opc w = 0x1F then (if fix w 18 0 = 0 then some (.tready (fld 2 w 23) (fld 4 w 19)) else none)
  else if opc w = 0x20 then (if fix w 14 0 = 0 then some (.cbbarm (fld 2 w 23) (fld 4 w 19) (fld 4 w 15)) else none)
  else if opc w = 0x21 then (if fix w 14 0 = 0 then some (.cbbadd (fld 2 w 23) (fld 4 w 19) (fld 4 w 15)) else none)
  else if opc w = 0x22 then (if fix w 13 0 = 0 ∧ fix w 18 15 = 0 then some (.cbbwait (fld 2 w 23) (fld 4 w 19) (fld 1 w 14)) else none)
  else if opc w = 0x23 then (if fix w 24 0 = 0 then some (.rcfence) else none)
  else if opc w = 0x24 then (if fix w 5 0 = 0 then some (.cpya (fld 2 w 23) (fld 4 w 19) (fld 4 w 15) (fld 4 w 11) (fld 4 w 7) (fld 1 w 6)) else none)
  else if opc w = 0x7F then decodeShared w
  else none

/-- The decoder of a stream (R8, R98). -/
def decode (q : SeqId) (w : Nat) : Option Instr :=
  match q with
  | .S => decodeS w
  | .V => decodeV w
  | .M => decodeM w
  | .C => decodeC w

/-- A field moved to bit `lo`. -/
def sh {k : Nat} (x : BitVec k) (lo : Nat) : Nat := x.toNat * 2 ^ lo
/-- A word from its fixed bits and its moved fields. -/
def wd (m : Nat) : List Nat → Nat
  | [] => m
  | x :: l => wd (m + x) l

/-- The word of an instruction of a stream, from its row of the encoding tables; an event has none. -/
def encode (i : Instr) : Option Nat :=
  match i with
  | .add t d a b => some (wd 0x02000000 [sh t 24, sh d 18, sh a 12, sh b 6])
  | .sub t d a b => some (wd 0x02000001 [sh t 24, sh d 18, sh a 12, sh b 6])
  | .and t d a b => some (wd 0x02000002 [sh t 24, sh d 18, sh a 12, sh b 6])
  | .or t d a b => some (wd 0x02000003 [sh t 24, sh d 18, sh a 12, sh b 6])
  | .xor t d a b => some (wd 0x02000004 [sh t 24, sh d 18, sh a 12, sh b 6])
  | .sll t d a b => some (wd 0x02000005 [sh t 24, sh d 18, sh a 12, sh b 6])
  | .srl t d a b => some (wd 0x02000006 [sh t 24, sh d 18, sh a 12, sh b 6])
  | .sra t d a b => some (wd 0x02000007 [sh t 24, sh d 18, sh a 12, sh b 6])
  | .slt t d a b => some (wd 0x02000008 [sh t 24, sh d 18, sh a 12, sh b 6])
  | .sltu t d a b => some (wd 0x02000009 [sh t 24, sh d 18, sh a 12, sh b 6])
  | .seq t d a b => some (wd 0x0200000A [sh t 24, sh d 18, sh a 12, sh b 6])
  | .min t d a b => some (wd 0x0200000B [sh t 24, sh d 18, sh a 12, sh b 6])
  | .max t d a b => some (wd 0x0200000C [sh t 24, sh d 18, sh a 12, sh b 6])
  | .minu t d a b => some (wd 0x0200000D [sh t 24, sh d 18, sh a 12, sh b 6])
  | .maxu t d a b => some (wd 0x0200000E [sh t 24, sh d 18, sh a 12, sh b 6])
  | .adds t d a b => some (wd 0x0200000F [sh t 24, sh d 18, sh a 12, sh b 6])
  | .subs t d a b => some (wd 0x02000010 [sh t 24, sh d 18, sh a 12, sh b 6])
  | .addsu t d a b => some (wd 0x02000011 [sh t 24, sh d 18, sh a 12, sh b 6])
  | .subsu t d a b => some (wd 0x02000012 [sh t 24, sh d 18, sh a 12, sh b 6])
  | .mul t d a b => some (wd 0x02000013 [sh t 24, sh d 18, sh a 12, sh b 6])
  | .mulh t d a b => some (wd 0x02000014 [sh t 24, sh d 18, sh a 12, sh b 6])
  | .mulhu t d a b => some (wd 0x02000015 [sh t 24, sh d 18, sh a 12, sh b 6])
  | .div t d a b => some (wd 0x02000016 [sh t 24, sh d 18, sh a 12, sh b 6])
  | .divu t d a b => some (wd 0x02000017 [sh t 24, sh d 18, sh a 12, sh b 6])
  | .rem t d a b => some (wd 0x02000018 [sh t 24, sh d 18, sh a 12, sh b 6])
  | .remu t d a b => some (wd 0x02000019 [sh t 24, sh d 18, sh a 12, sh b 6])
  | .andn t d a b => some (wd 0x0200001A [sh t 24, sh d 18, sh a 12, sh b 6])
  | .clz t d a => some (wd 0x0200001B [sh t 24, sh d 18, sh a 12])
  | .popc t d a => some (wd 0x0200001C [sh t 24, sh d 18, sh a 12])
  | .addi t d a i => some (wd 0x04000000 [sh t 24, sh d 18, sh a 12, sh i 0])
  | .andi t d a i => some (wd 0x06000000 [sh t 24, sh d 18, sh a 12, sh i 0])
  | .ori t d a i => some (wd 0x08000000 [sh t 24, sh d 18, sh a 12, sh i 0])
  | .xori t d a i => some (wd 0x0A000000 [sh t 24, sh d 18, sh a 12, sh i 0])
  | .slli t d a n => some (wd 0x0C000000 [sh t 24, sh d 18, sh a 12, sh n 0])
  | .srli t d a n => some (wd 0x0C000040 [sh t 24, sh d 18, sh a 12, sh n 0])
  | .srai t d a n => some (wd 0x0C000080 [sh t 24, sh d 18, sh a 12, sh n 0])
  | .slti t d a i => some (wd 0x0E000000 [sh t 24, sh d 18, sh a 12, sh i 0])
  | .sltiu t d a i => some (wd 0x10000000 [sh t 24, sh d 18, sh a 12, sh i 0])
  | .seqi t d a i => some (wd 0x12000000 [sh t 24, sh d 18, sh a 12, sh i 0])
  | .movi t d i => some (wd 0x14000000 [sh t 24, sh d 18, sh i 0])
  | .movk t d h i => some (wd 0x16000000 [sh t 24, sh d 18, sh h 16, sh i 0])
  | .adr t d i => some (wd 0x18000000 [sh t 24, sh d 18, sh i 0])
  | .sel t d a b c => some (wd 0x1A000000 [sh t 24, sh d 18, sh a 12, sh b 6, sh c 0])
  | .faddF32 t d a b m => some (wd 0x20000000 [sh t 24, sh d 18, sh a 12, sh b 6, sh m 0])
  | .fsubF32 t d a b m => some (wd 0x20000008 [sh t 24, sh d 18, sh a 12, sh b 6, sh m 0])
  | .fmulF32 t d a b m => some (wd 0x20000010 [sh t 24, sh d 18, sh a 12, sh b 6, sh m 0])
  | .fminF32 t d a b => some (wd 0x20000018 [sh t 24, sh d 18, sh a 12, sh b 6])
  | .fmaxF32 t d a b => some (wd 0x20000020 [sh t 24, sh d 18, sh a 12, sh b 6])
  | .fnegF32 t d a => some (wd 0x20000028 [sh t 24, sh d 18, sh a 12])
  | .fabsF32 t d a => some (wd 0x20000030 [sh t 24, sh d 18, sh a 12])
  | .feqF32 t d a b => some (wd 0x22000000 [sh t 24, sh d 18, sh a 12, sh b 6])
  | .fltF32 t d a b => some (wd 0x22000001 [sh t 24, sh d 18, sh a 12, sh b 6])
  | .fleF32 t d a b => some (wd 0x22000002 [sh t 24, sh d 18, sh a 12, sh b 6])
  | .fcvtF32S64 t d a m => some (wd 0x24000000 [sh t 24, sh d 18, sh a 12, sh m 0])
  | .fcvtF32B64 t d a m => some (wd 0x24000008 [sh t 24, sh d 18, sh a 12, sh m 0])
  | .fcvtS64F32 t d a m => some (wd 0x24000010 [sh t 24, sh d 18, sh a 12, sh m 0])
  | .fcvtB64F32 t d a m => some (wd 0x24000018 [sh t 24, sh d 18, sh a 12, sh m 0])
  | .fcvtS32F32 t d a m => some (wd 0x24000020 [sh t 24, sh d 18, sh a 12, sh m 0])
  | .fcvtB32F32 t d a m => some (wd 0x24000028 [sh t 24, sh d 18, sh a 12, sh m 0])
  | .fcvtF32Bf16 t d a => some (wd 0x24000030 [sh t 24, sh d 18, sh a 12])
  | .fcvtBf16F32 t d a m => some (wd 0x24000038 [sh t 24, sh d 18, sh a 12, sh m 0])
  | .fmaF32 m t d a b c => some (wd 0x28000000 [sh m 25, sh t 24, sh d 18, sh a 12, sh b 6, sh c 0])
  | .ldS8 t d a i => some (wd 0x40000000 [sh t 24, sh d 18, sh a 12, sh i 0])
  | .ldB8 t d a i => some (wd 0x42000000 [sh t 24, sh d 18, sh a 12, sh i 0])
  | .ldS16 t d a i => some (wd 0x44000000 [sh t 24, sh d 18, sh a 12, sh i 0])
  | .ldB16 t d a i => some (wd 0x46000000 [sh t 24, sh d 18, sh a 12, sh i 0])
  | .ldS32 t d a i => some (wd 0x48000000 [sh t 24, sh d 18, sh a 12, sh i 0])
  | .ldB32 t d a i => some (wd 0x4A000000 [sh t 24, sh d 18, sh a 12, sh i 0])
  | .ldB64 t d a i => some (wd 0x4C000000 [sh t 24, sh d 18, sh a 12, sh i 0])
  | .stB8 d b i => some (wd 0x50000000 [sh d 18, sh b 12, sh i 0])
  | .stB16 d b i => some (wd 0x52000000 [sh d 18, sh b 12, sh i 0])
  | .stB32 d b i => some (wd 0x54000000 [sh d 18, sh b 12, sh i 0])
  | .stB64 d b i => some (wd 0x56000000 [sh d 18, sh b 12, sh i 0])
  | .amoAdd s t d a b z => some (wd 0x60000000 [sh s 25, sh t 24, sh d 18, sh a 12, sh b 6, sh z 5])
  | .amoAnd s t d a b z => some (wd 0x60000002 [sh s 25, sh t 24, sh d 18, sh a 12, sh b 6, sh z 5])
  | .amoOr s t d a b z => some (wd 0x60000004 [sh s 25, sh t 24, sh d 18, sh a 12, sh b 6, sh z 5])
  | .amoXor s t d a b z => some (wd 0x60000006 [sh s 25, sh t 24, sh d 18, sh a 12, sh b 6, sh z 5])
  | .amoSwap s t d a b z => some (wd 0x60000008 [sh s 25, sh t 24, sh d 18, sh a 12, sh b 6, sh z 5])
  | .amoSmin s t d a b z => some (wd 0x6000000A [sh s 25, sh t 24, sh d 18, sh a 12, sh b 6, sh z 5])
  | .amoSmax s t d a b z => some (wd 0x6000000C [sh s 25, sh t 24, sh d 18, sh a 12, sh b 6, sh z 5])
  | .amoUmin s t d a b z => some (wd 0x6000000E [sh s 25, sh t 24, sh d 18, sh a 12, sh b 6, sh z 5])
  | .amoUmax s t d a b z => some (wd 0x60000010 [sh s 25, sh t 24, sh d 18, sh a 12, sh b 6, sh z 5])
  | .amoCas s t d a b z => some (wd 0x60000012 [sh s 25, sh t 24, sh d 18, sh a 12, sh b 6, sh z 5])
  | .fence s => some (wd 0x70000000 [sh s 0])
  | .bar l => some (wd 0x72000000 [sh l 0])
  | .barSw v l => some (wd 0x72000020 [sh v 3, sh l 0])
  | .waitt a => some (wd 0x74000000 [sh a 12])
  | .fpush a => some (wd 0x76000000 [sh a 12])
  | .beq a b o => some (wd 0x80000000 [sh a 19, sh b 13, sh o 0])
  | .bne a b o => some (wd 0x82000000 [sh a 19, sh b 13, sh o 0])
  | .blt a b o => some (wd 0x84000000 [sh a 19, sh b 13, sh o 0])
  | .bge a b o => some (wd 0x86000000 [sh a 19, sh b 13, sh o 0])
  | .bltu a b o => some (wd 0x88000000 [sh a 19, sh b 13, sh o 0])
  | .bgeu a b o => some (wd 0x8A000000 [sh a 19, sh b 13, sh o 0])
  | .call t d i => some (wd 0x8C000000 [sh t 24, sh d 18, sh i 0])
  | .callr t d a i => some (wd 0x8E000000 [sh t 24, sh d 18, sh a 12, sh i 0])
  | .csrr t d i => some (wd 0xA0000000 [sh t 24, sh d 18, sh i 0])
  | .csrw a i => some (wd 0xA2000000 [sh a 18, sh i 0])
  | .nop => some (wd 0xFE000000 [])
  | .sig k n => some (wd 0xFE200000 [sh k 19, sh n 13])
  | .wait k n => some (wd 0xFE400000 [sh k 19, sh n 13])
  | .tmark n => some (wd 0xFE600000 [sh n 0])
  | .beacon => some (wd 0xFE800000 [])
  | .beaconW => some (wd 0xFE900000 [])
  | .brk n => some (wd 0xFEA00000 [sh n 0])
  | .trap n => some (wd 0xFEC00000 [sh n 0])
  | .halt => some (wd 0xFEE00000 [])
  | .zloop l c o => some (wd 0xFF000000 [sh l 20, sh c 11, sh o 0])
  | .zloopReg l r o => some (wd 0xFF080000 [sh l 20, sh r 13, sh o 0])
  | .jmp o => some (wd 0xFF200000 [sh o 0])
  | .jmpReg r => some (wd 0xFF300000 [sh r 13])
  | .bkwait d => some (wd 0xC0000000 [sh d 18])
  | .bkopen a => some (wd 0xC2000000 [sh a 12])
  | .bkclose a => some (wd 0xC4000000 [sh a 12])
  | .hold a => some (wd 0xC6000000 [sh a 12])
  | .release a => some (wd 0xC8000000 [sh a 12])
  | .pub => some (wd 0xCA000000 [])
  | .xrd t d a i => some (wd 0xB0000000 [sh t 24, sh d 18, sh a 12, sh i 0])
  | .xwr d b i => some (wd 0xB2000000 [sh d 18, sh b 12, sh i 0])
  | .hret => some (wd 0xB4000000 [])
  | .cdrop c => some (wd 0xB6000000 [sh c 0])
  | .xkill a => some (wd 0xB8000000 [sh a 12])
  | .xpost a => some (wd 0xBA000000 [sh a 12])
  | .vaddS32 t d a b x m => some (wd 0x02000000 [sh t 24, sh d 18, sh a 12, sh b 6, sh x 1, sh m 0])
  | .vsubS32 t d a b x m => some (wd 0x04000000 [sh t 24, sh d 18, sh a 12, sh b 6, sh x 1, sh m 0])
  | .vmulS32 t d a b x m => some (wd 0x06000000 [sh t 24, sh d 18, sh a 12, sh b 6, sh x 1, sh m 0])
  | .vmulhS32 t d a b x m => some (wd 0x08000000 [sh t 24, sh d 18, sh a 12, sh b 6, sh x 1, sh m 0])
  | .vmulhB32 t d a b x m => some (wd 0x0A000000 [sh t 24, sh d 18, sh a 12, sh b 6, sh x 1, sh m 0])
  | .vminS32 t d a b x m => some (wd 0x0C000000 [sh t 24, sh d 18, sh a 12, sh b 6, sh x 1, sh m 0])
  | .vmaxS32 t d a b x m => some (wd 0x0E000000 [sh t 24, sh d 18, sh a 12, sh b 6, sh x 1, sh m 0])
  | .vminB32 t d a b x m => some (wd 0x10000000 [sh t 24, sh d 18, sh a 12, sh b 6, sh x 1, sh m 0])
  | .vmaxB32 t d a b x m => some (wd 0x12000000 [sh t 24, sh d 18, sh a 12, sh b 6, sh x 1, sh m 0])
  | .vaddsS32 t d a b x m => some (wd 0x14000000 [sh t 24, sh d 18, sh a 12, sh b 6, sh x 1, sh m 0])
  | .vsubsS32 t d a b x m => some (wd 0x16000000 [sh t 24, sh d 18, sh a 12, sh b 6, sh x 1, sh m 0])
  | .vaddsB32 t d a b x m => some (wd 0x18000000 [sh t 24, sh d 18, sh a 12, sh b 6, sh x 1, sh m 0])
  | .vsubsB32 t d a b x m => some (wd 0x1A000000 [sh t 24, sh d 18, sh a 12, sh b 6, sh x 1, sh m 0])
  | .vandB32 t d a b x m => some (wd 0x1C000000 [sh t 24, sh d 18, sh a 12, sh b 6, sh x 1, sh m 0])
  | .vorB32 t d a b x m => some (wd 0x1E000000 [sh t 24, sh d 18, sh a 12, sh b 6, sh x 1, sh m 0])
  | .vxorB32 t d a b x m => some (wd 0x20000000 [sh t 24, sh d 18, sh a 12, sh b 6, sh x 1, sh m 0])
  | .vandnB32 t d a b x m => some (wd 0x22000000 [sh t 24, sh d 18, sh a 12, sh b 6, sh x 1, sh m 0])
  | .vsllB32 t d a b x m => some (wd 0x24000000 [sh t 24, sh d 18, sh a 12, sh b 6, sh x 1, sh m 0])
  | .vsrlB32 t d a b x m => some (wd 0x26000000 [sh t 24, sh d 18, sh a 12, sh b 6, sh x 1, sh m 0])
  | .vsraS32 t d a b x m => some (wd 0x28000000 [sh t 24, sh d 18, sh a 12, sh b 6, sh x 1, sh m 0])
  | .vaddS16 t d a b x m => some (wd 0x30000000 [sh t 24, sh d 18, sh a 12, sh b 6, sh x 1, sh m 0])
  | .vsubS16 t d a b x m => some (wd 0x32000000 [sh t 24, sh d 18, sh a 12, sh b 6, sh x 1, sh m 0])
  | .vaddsS16 t d a b x m => some (wd 0x34000000 [sh t 24, sh d 18, sh a 12, sh b 6, sh x 1, sh m 0])
  | .vsubsS16 t d a b x m => some (wd 0x36000000 [sh t 24, sh d 18, sh a 12, sh b 6, sh x 1, sh m 0])
  | .vaddsB16 t d a b x m => some (wd 0x38000000 [sh t 24, sh d 18, sh a 12, sh b 6, sh x 1, sh m 0])
  | .vsubsB16 t d a b x m => some (wd 0x3A000000 [sh t 24, sh d 18, sh a 12, sh b 6, sh x 1, sh m 0])
  | .vmulS16 t d a b x m => some (wd 0x3C000000 [sh t 24, sh d 18, sh a 12, sh b 6, sh x 1, sh m 0])
  | .vaddS8 t d a b x m => some (wd 0x40000000 [sh t 24, sh d 18, sh a 12, sh b 6, sh x 1, sh m 0])
  | .vsubS8 t d a b x m => some (wd 0x42000000 [sh t 24, sh d 18, sh a 12, sh b 6, sh x 1, sh m 0])
  | .vaddsS8 t d a b x m => some (wd 0x44000000 [sh t 24, sh d 18, sh a 12, sh b 6, sh x 1, sh m 0])
  | .vsubsS8 t d a b x m => some (wd 0x46000000 [sh t 24, sh d 18, sh a 12, sh b 6, sh x 1, sh m 0])
  | .vaddsB8 t d a b x m => some (wd 0x48000000 [sh t 24, sh d 18, sh a 12, sh b 6, sh x 1, sh m 0])
  | .vsubsB8 t d a b x m => some (wd 0x4A000000 [sh t 24, sh d 18, sh a 12, sh b 6, sh x 1, sh m 0])
  | .vfaddF32 t d a b x m => some (wd 0x50000000 [sh t 24, sh d 18, sh a 12, sh b 6, sh x 1, sh m 0])
  | .vfsubF32 t d a b x m => some (wd 0x52000000 [sh t 24, sh d 18, sh a 12, sh b 6, sh x 1, sh m 0])
  | .vfmulF32 t d a b x m => some (wd 0x54000000 [sh t 24, sh d 18, sh a 12, sh b 6, sh x 1, sh m 0])
  | .vfminF32 t d a b x m => some (wd 0x56000000 [sh t 24, sh d 18, sh a 12, sh b 6, sh x 1, sh m 0])
  | .vfmaxF32 t d a b x m => some (wd 0x58000000 [sh t 24, sh d 18, sh a 12, sh b 6, sh x 1, sh m 0])
  | .vfmaF32 t d a b x m => some (wd 0x5A000000 [sh t 24, sh d 18, sh a 12, sh b 6, sh x 1, sh m 0])
  | .vfaddBf16 t d a b x m => some (wd 0x60000000 [sh t 24, sh d 18, sh a 12, sh b 6, sh x 1, sh m 0])
  | .vfsubBf16 t d a b x m => some (wd 0x62000000 [sh t 24, sh d 18, sh a 12, sh b 6, sh x 1, sh m 0])
  | .vfmulBf16 t d a b x m => some (wd 0x64000000 [sh t 24, sh d 18, sh a 12, sh b 6, sh x 1, sh m 0])
  | .vfminBf16 t d a b x m => some (wd 0x66000000 [sh t 24, sh d 18, sh a 12, sh b 6, sh x 1, sh m 0])
  | .vfmaxBf16 t d a b x m => some (wd 0x68000000 [sh t 24, sh d 18, sh a 12, sh b 6, sh x 1, sh m 0])
  | .vfmaBf16 t d a b x m => some (wd 0x6A000000 [sh t 24, sh d 18, sh a 12, sh b 6, sh x 1, sh m 0])
  | .vexp2F32 t d a x m => some (wd 0x70000000 [sh t 24, sh d 18, sh a 12, sh x 1, sh m 0])
  | .vlog2F32 t d a x m => some (wd 0x72000000 [sh t 24, sh d 18, sh a 12, sh x 1, sh m 0])
  | .vrcpF32 t d a x m => some (wd 0x74000000 [sh t 24, sh d 18, sh a 12, sh x 1, sh m 0])
  | .vrsqrtF32 t d a x m => some (wd 0x76000000 [sh t 24, sh d 18, sh a 12, sh x 1, sh m 0])
  | .vcmpS32 c k a b x m => some (wd 0x78000000 [sh c 21, sh k 18, sh a 12, sh b 6, sh x 1, sh m 0])
  | .vcmpB32 c k a b x m => some (wd 0x7A000000 [sh c 21, sh k 18, sh a 12, sh b 6, sh x 1, sh m 0])
  | .vcmpF32 c k a b x m => some (wd 0x7C000000 [sh c 21, sh k 18, sh a 12, sh b 6, sh x 1, sh m 0])
  | .vcmpBf16 c k a b x m => some (wd 0x7E000000 [sh c 21, sh k 18, sh a 12, sh b 6, sh x 1, sh m 0])
  | .vcvt p t d a f g r m => some (wd 0x80000000 [sh p 25, sh t 24, sh d 18, sh a 12, sh f 8, sh g 4, sh r 1, sh m 0])
  | .vmxpk t d a f g r => some (wd 0x88000000 [sh t 24, sh d 18, sh a 12, sh f 8, sh g 4, sh r 1])
  | .vredAddS32 t d a x m => some (wd 0x90000000 [sh t 24, sh d 18, sh a 12, sh x 1, sh m 0])
  | .vredAddsS32 t d a x m => some (wd 0x90000040 [sh t 24, sh d 18, sh a 12, sh x 1, sh m 0])
  | .vredMinS32 t d a x m => some (wd 0x90000080 [sh t 24, sh d 18, sh a 12, sh x 1, sh m 0])
  | .vredMaxS32 t d a x m => some (wd 0x900000C0 [sh t 24, sh d 18, sh a 12, sh x 1, sh m 0])
  | .vredMinB32 t d a x m => some (wd 0x90000100 [sh t 24, sh d 18, sh a 12, sh x 1, sh m 0])
  | .vredMaxB32 t d a x m => some (wd 0x90000140 [sh t 24, sh d 18, sh a 12, sh x 1, sh m 0])
  | .vredAndB32 t d a x m => some (wd 0x90000180 [sh t 24, sh d 18, sh a 12, sh x 1, sh m 0])
  | .vredOrB32 t d a x m => some (wd 0x900001C0 [sh t 24, sh d 18, sh a 12, sh x 1, sh m 0])
  | .vredXorB32 t d a x m => some (wd 0x90000200 [sh t 24, sh d 18, sh a 12, sh x 1, sh m 0])
  | .vredAddF32 t d a x m => some (wd 0x90000240 [sh t 24, sh d 18, sh a 12, sh x 1, sh m 0])
  | .vredMinF32 t d a x m => some (wd 0x90000280 [sh t 24, sh d 18, sh a 12, sh x 1, sh m 0])
  | .vredMaxF32 t d a x m => some (wd 0x900002C0 [sh t 24, sh d 18, sh a 12, sh x 1, sh m 0])
  | .vredAddBf16 t d a x m => some (wd 0x90000300 [sh t 24, sh d 18, sh a 12, sh x 1, sh m 0])
  | .vpermB32 t d a b x m => some (wd 0x98000000 [sh t 24, sh d 18, sh a 12, sh b 6, sh x 1, sh m 0])
  | .vpermB8 t d a b x m => some (wd 0x9A000000 [sh t 24, sh d 18, sh a 12, sh b 6, sh x 1, sh m 0])
  | .vrotB32 t d a i => some (wd 0x9C000000 [sh t 24, sh d 18, sh a 12, sh i 0])
  | .vselB32 t d a b x => some (wd 0x9E000000 [sh t 24, sh d 18, sh a 12, sh b 6, sh x 1])
  | .vmovi t d i => some (wd 0xA0000000 [sh t 24, sh d 18, sh i 0])
  | .vmand d a b => some (wd 0xA4000000 [sh d 18, sh a 15, sh b 12])
  | .vmor d a b => some (wd 0xA4200000 [sh d 18, sh a 15, sh b 12])
  | .vmxor d a b => some (wd 0xA4400000 [sh d 18, sh a 15, sh b 12])
  | .vmandn d a b => some (wd 0xA4600000 [sh d 18, sh a 15, sh b 12])
  | .vmnot d a => some (wd 0xA4800000 [sh d 18, sh a 15])
  | .vmset d => some (wd 0xA4A00000 [sh d 18])
  | .vmclr d => some (wd 0xA4C00000 [sh d 18])
  | .vmmov d a => some (wd 0xA4E00000 [sh d 18, sh a 15])
  | .vflag s k w m => some (wd 0xA6000000 [sh s 23, sh k 20, sh w 18, sh m 17])
  | .vld t r x i => some (wd 0xB0000000 [sh t 24, sh r 18, sh x 12, sh i 0])
  | .vst r x i => some (wd 0xB2000000 [sh r 18, sh x 12, sh i 0])
  | .vlds t r b c z s m => some (wd 0xB4000000 [sh t 24, sh r 18, sh b 13, sh c 8, sh z 6, sh s 5, sh m 0])
  | .vsts r b c z s m => some (wd 0xB6000000 [sh r 18, sh b 13, sh c 8, sh z 6, sh s 5, sh m 0])
  | .vldx t r b i z s m => some (wd 0xB8000000 [sh t 24, sh r 18, sh b 13, sh i 6, sh z 4, sh s 3, sh m 0])
  | .vstx r b i z s m => some (wd 0xBA000000 [sh r 18, sh b 13, sh i 6, sh z 4, sh s 3, sh m 0])
  | .vgld t r x i => some (wd 0xBC000000 [sh t 24, sh r 18, sh x 12, sh i 0])
  | .vgst r x i => some (wd 0xBE000000 [sh r 18, sh x 12, sh i 0])
  | .vsend r k => some (wd 0xC0000000 [sh r 18, sh k 8])
  | .vrecv t r => some (wd 0xC2000000 [sh t 24, sh r 18])
  | .vacc t d i => some (wd 0xC4000000 [sh t 24, sh d 18, sh i 0])
  | .vaccX t d x i => some (wd 0xC4002000 [sh t 24, sh d 18, sh x 8, sh i 0])
  | .vamul t d a b l o i j => some (wd 0xC8000000 [sh t 24, sh d 18, sh a 12, sh b 6, sh l 5, sh o 4, sh i 2, sh j 0])
  | .vconj t d a l i => some (wd 0xCA000000 [sh t 24, sh d 18, sh a 12, sh l 5, sh i 2])
  | .vnorm t d a l => some (wd 0xCC000000 [sh t 24, sh d 18, sh a 12, sh l 5])
  | .vaw y a x => some (wd 0xD0000000 [sh y 23, sh a 12, sh x 7])
  | .vtcfg t r c w => some (wd 0xE0000000 [sh t 21, sh r 17, sh c 13, sh w 11])
  | .vtrel t => some (wd 0xE2000000 [sh t 21])
  | .vtrow r t i q => some (wd 0xE4000000 [sh r 18, sh t 15, sh i 11, sh q 9])
  | .vtrowr t r n i q => some (wd 0xE6000000 [sh t 24, sh r 18, sh n 15, sh i 11, sh q 9])
  | .vtcol t r n i q => some (wd 0xE8000000 [sh t 24, sh r 18, sh n 15, sh i 11, sh q 9])
  | .vtcolw r t i q => some (wd 0xEA000000 [sh r 18, sh t 15, sh i 11, sh q 9])
  | .vtsave m x => some (wd 0xEC000000 [sh m 16, sh x 0])
  | .vtload m x => some (wd 0xEE000000 [sh m 16, sh x 0])
  | .vsrnd t d a g p x => some (wd 0xD2000000 [sh t 24, sh d 18, sh a 12, sh g 8, sh p 6, sh x 0])
  | .chadd a => some (wd 0xD4000000 [sh a 12])
  | .madd d a b => some (wd 0x02000000 [sh d 17, sh a 13, sh b 9])
  | .msub d a b => some (wd 0x02200000 [sh d 17, sh a 13, sh b 9])
  | .mand d a b => some (wd 0x02400000 [sh d 17, sh a 13, sh b 9])
  | .mor d a b => some (wd 0x02600000 [sh d 17, sh a 13, sh b 9])
  | .mxor d a b => some (wd 0x02800000 [sh d 17, sh a 13, sh b 9])
  | .msll d a b => some (wd 0x02A00000 [sh d 17, sh a 13, sh b 9])
  | .msrl d a b => some (wd 0x02C00000 [sh d 17, sh a 13, sh b 9])
  | .mminu d a b => some (wd 0x02E00000 [sh d 17, sh a 13, sh b 9])
  | .maddi d a i => some (wd 0x04000000 [sh d 21, sh a 17, sh i 0])
  | .mmovk d h i => some (wd 0x06000000 [sh d 21, sh h 19, sh i 0])
  | .mmovx d x => some (wd 0x08000000 [sh d 21, sh x 16])
  | .mmovi d i => some (wd 0x0A000000 [sh d 21, sh i 0])
  | .mbeq a b o => some (wd 0x10000000 [sh a 21, sh b 17, sh o 0])
  | .mbne a b o => some (wd 0x12000000 [sh a 21, sh b 17, sh o 0])
  | .mbltu a b o => some (wd 0x14000000 [sh a 21, sh b 17, sh o 0])
  | .mma u a b s k => some (wd 0x20000000 [sh u 22, sh a 19, sh b 16, sh s 12, sh k 0])
  | .mmaReg u a b s r => some (wd 0x20000800 [sh u 22, sh a 19, sh b 16, sh s 12, sh r 0])
  | .mstage u a b l k => some (wd 0x22000000 [sh u 22, sh a 19, sh b 16, sh l 12, sh k 0])
  | .mstageReg u a b l r => some (wd 0x22000800 [sh u 22, sh a 19, sh b 16, sh l 12, sh r 0])
  | .mzero u n => some (wd 0x24000000 [sh u 22, sh n 19])
  | .mswap => some (wd 0x26000000 [])
  | .cadd d a b => some (wd 0x02000000 [sh d 17, sh a 13, sh b 9])
  | .csub d a b => some (wd 0x02200000 [sh d 17, sh a 13, sh b 9])
  | .cand d a b => some (wd 0x02400000 [sh d 17, sh a 13, sh b 9])
  | .cor d a b => some (wd 0x02600000 [sh d 17, sh a 13, sh b 9])
  | .cxor d a b => some (wd 0x02800000 [sh d 17, sh a 13, sh b 9])
  | .csll d a b => some (wd 0x02A00000 [sh d 17, sh a 13, sh b 9])
  | .csrl d a b => some (wd 0x02C00000 [sh d 17, sh a 13, sh b 9])
  | .cminu d a b => some (wd 0x02E00000 [sh d 17, sh a 13, sh b 9])
  | .caddi d a i => some (wd 0x04000000 [sh d 21, sh a 17, sh i 0])
  | .cmovk d h i => some (wd 0x06000000 [sh d 21, sh h 19, sh i 0])
  | .cmovx d x => some (wd 0x08000000 [sh d 21, sh x 16])
  | .cmovi d i => some (wd 0x0A000000 [sh d 21, sh i 0])
  | .cbeq a b o => some (wd 0x10000000 [sh a 21, sh b 17, sh o 0])
  | .cbne a b o => some (wd 0x12000000 [sh a 21, sh b 17, sh o 0])
  | .cbltu a b o => some (wd 0x14000000 [sh a 21, sh b 17, sh o 0])
  | .cpy c d s n b x f l => some (wd 0x20000000 [sh c 23, sh d 19, sh s 15, sh n 11, sh b 7, sh x 6, sh f 5, sh l 2])
  | .ctens c r b x f l => some (wd 0x22000000 [sh c 23, sh r 19, sh b 15, sh x 14, sh f 13, sh l 10])
  | .cgath c d s i n b x e => some (wd 0x24000000 [sh c 23, sh d 19, sh s 15, sh i 11, sh n 7, sh b 3, sh x 2, sh e 0])
  | .cscat c d s i n b x e => some (wd 0x26000000 [sh c 23, sh d 19, sh s 15, sh i 11, sh n 7, sh b 3, sh x 2, sh e 0])
  | .cscl c r n k => some (wd 0x28000000 [sh c 23, sh r 17, sh n 8, sh k 7])
  | .cldlct c r n => some (wd 0x2A000000 [sh c 23, sh r 17, sh n 8])
  | .cldalg c r n => some (wd 0x2C000000 [sh c 23, sh r 17, sh n 8])
  | .caw c s q n y => some (wd 0x2E000000 [sh c 23, sh s 19, sh q 15, sh n 11, sh y 9])
  | .cver c d q o n b x => some (wd 0x30000000 [sh c 23, sh d 19, sh q 15, sh o 11, sh n 7, sh b 3, sh x 2])
  | .cmapR c l o q n => some (wd 0x32000000 [sh c 23, sh l 18, sh o 14, sh q 10, sh n 6])
  | .cmapW c l o q n => some (wd 0x32400000 [sh c 23, sh l 18, sh o 14, sh q 10, sh n 6])
  | .cwb c m => some (wd 0x34000000 [sh c 23, sh m 0])
  | .cput c w a o n b x => some (wd 0x36000000 [sh c 23, sh w 20, sh a 16, sh o 12, sh n 8, sh b 4, sh x 3])
  | .cget c w a o n b x => some (wd 0x38000000 [sh c 23, sh w 20, sh a 16, sh o 12, sh n 8, sh b 4, sh x 3])
  | .cbcast c d s n b x => some (wd 0x3A000000 [sh c 23, sh d 19, sh s 15, sh n 11, sh b 7, sh x 6])
  | .csendT c w a o n t p => some (wd 0x3C000000 [sh c 23, sh w 20, sh a 16, sh o 12, sh n 8, sh t 4, sh p 0])
  | .tready c e => some (wd 0x3E000000 [sh c 23, sh e 19])
  | .cbbarm c b v => some (wd 0x40000000 [sh c 23, sh b 19, sh v 15])
  | .cbbadd c b v => some (wd 0x42000000 [sh c 23, sh b 19, sh v 15])
  | .cbbwait c b p => some (wd 0x44000000 [sh c 23, sh b 19, sh p 14])
  | .rcfence => some (wd 0x46000000 [])
  | .cpya c d s n b x => some (wd 0x48000000 [sh c 23, sh d 19, sh s 15, sh n 11, sh b 7, sh x 6])
  | .packageReset _ => none
  | .resultLanding _ _ => none
  | .loadDataArrival _ => none
  | .stallRelease _ => none
  | .swapEnd _ => none
  | .scaleEntryEnter _ _ => none
  | .chunkStart _ => none
  | .chunkCommit _ _ => none
  | .copyCommandComplete _ _ => none
  | .matrixCommandStart _ _ => none
  | .quiescence _ _ => none
  | .vsendArrival _ => none
  | .windowAccess _ => none
  | .multicastWrite _ => none
  | .awAnswer _ _ => none
  | .awResend _ => none
  | .denialArrival _ _ _ => none
  | .globalAccessPerform _ => none
  | .sideLogReplay _ _ => none
  | .regionFillEnd _ _ _ => none
  | .walkResponse _ _ => none
  | .walkTimeout _ => none
  | .shootdown _ _ => none
  | .shootdownComplete _ => none
  | .resolve _ _ => none
  | .tierDemotion _ _ _ _ _ _ => none
  | .promotion _ _ _ _ _ => none
  | .tierRegisterWrite _ _ => none
  | .barrierComplete _ _ _ => none
  | .spillEnd _ => none
  | .spillGo _ => none
  | .watchdogFire _ => none
  | .freezeLimit _ => none
  | .correctableError _ => none
  | .uncorrectableError _ => none
  | .notify _ _ => none
  | .queueDescriptorWrite _ _ _ => none
  | .queueBind => none
  | .priorityAgeing => none
  | .queueEntryTake _ => none
  | .launchSchedule => none
  | .launchEnd _ => none
  | .qkill _ => none
  | .powerWindowEnd _ => none
  | .throttleSlot _ => none
  | .partaWrite _ _ => none
  | .capWrite _ _ => none
  | .obsdataRead => none
  | .frzWrite _ => none
  | .obskeyWrite _ _ _ => none
  | .tamper => none
  | .managementFrame _ => none
  | .evqhWrite _ _ => none
  | .lrefresh _ _ => none
  | .bucketDescriptorWrite _ _ _ _ => none
  | .jobRecordWrite _ _ _ _ => none
  | .awPacket _ _ => none
  | .roundPublish _ _ => none
  | .mdepthWrite _ _ => none
  | .tilecfgWrite _ _ _ => none
  | .cttWord0Write _ _ _ => none
  | .slotmapWrite _ _ _ => none
  | .keyInstall _ _ => none
  | .portRetrain _ => none
  | .bpcfgWrite _ => none
  | .bpJoin => none
  | .bpviewWrite _ => none
  | .scheduledSlot _ => none
  | .scheduledData _ _ => none
  | .openRequest _ _ _ => none
  | .openData _ _ _ => none
  | .answer _ _ _ => none
  | .linkControl _ _ _ => none
  | .laneDegrade _ _ _ => none
  | .epochEnd _ => none
  | .csendDeadlineMiss _ _ => none
  | .remoteTimeout _ _ => none
  | .awPacketAbandon _ => none
  | .tokenBurst _ _ => none
  | .dataBurst _ _ => none
  | .fenceBurst _ _ => none
  | .barrierBurst _ _ => none
  | .proposalBurst _ _ _ => none
  | .nakBurst _ _ => none
  | .timingBurst _ _ => none
  | .tokenTimeout _ => none
  | .sync _ => none
  | .followUp _ => none
  | .announce _ _ _ _ => none
  | .delayReq _ => none
  | .delayResp _ => none
  | .holdover => none
  | .freeRun => none
  | .registerWrite _ _ => none
  | .illegalInstruction => none
  | .walkerTrap _ => none
  | .domainResume _ => none
  | .handlerReload _ => none
  | .rrctlWrite _ _ => none
  | .bar2Access _ _ => none
  | .memoryKeyInstall => none
  | .idleFlit _ _ _ => none
  | .uncorrectedFlit _ => none
  | .uncorrectedBurst _ => none
  | .portTrained _ _ _ _ _ => none
  | .controlBurst _ _ => none

/-- R7: the four bytes of a word, lowest address first. -/
def bytesOf (w : Nat) : List Byte := (List.range 4).map fun i => BitVec.ofNat 8 (w / 2 ^ (8 * i))
/-- R7: the word that the first four bytes form. -/
def wordOf : List Byte → Option Nat
  | a :: b :: c :: d :: _ => some (a.toNat + 2 ^ 8 * b.toNat + 2 ^ 16 * c.toNat + 2 ^ 24 * d.toNat)
  | _ => none
/-- The instruction that a stream reads from bytes: none for fewer than four bytes, or for a word the stream refuses. -/
def decodeBytes (q : SeqId) (l : List Byte) : Option Instr := (wordOf l).bind (decode q)

/-- Why bytes are no instruction of a stream. -/
inductive Reject where
  /-- Fewer than four bytes. -/
  | tooShort
  /-- R65, R88, R154, R201, R294: the stream assigns the word to no instruction: a reserved major opcode, a func, level or
  operation code without a meaning, or a reserved field that is not 0. -/
  | unassigned (q : SeqId) (w : Nat)
  deriving DecidableEq, Repr
/-- The instruction that a stream reads from bytes, or the name of what refuses it. -/
def decodeOr (q : SeqId) (l : List Byte) : Except Reject Instr :=
  match wordOf l with
  | none => .error .tooShort
  | some w => match decode q w with
    | some i => .ok i
    | none => .error (.unassigned q w)

/-- Log 8: the stream that reads a word of the table: the first of S, V, M and C whose tables hold it. -/
def streamOrder : List SeqId := [.S, .V, .M, .C]
/-- The instruction the decoder reads from a word of the opcode table. -/
def decodeTableWord (nbits w : Nat) : Option Instr :=
  if nbits = 32 then streamOrder.findSome? fun q => decodeBytes q (bytesOf w) else none

end
end Sys2Proof
end

