-- ==== Sys2Proof/Config.lean ====
section
/-! DEFINITION. What an implementation fixes, and the free values: constants with no body, of which nothing can be
proved beyond their type, so that every claim about them holds whatever they are. -/
namespace Sys2Proof.Config

/-- FREE VALUE (log 5). The extra real cycles that the k-th service of memory, of a link or of a stack takes beyond the
least: R22, R121, R178 and R236 fix only orders and deadlines. -/
opaque serviceDelay : Nat → Nat

/-- FREE VALUE (log 17). The fields OCORE, OUNIT and OKIND of the detail word of a race with an open bucket's reduction
(R289): Table 11.2 names no code for that party. -/
opaque bucketParty : Nat → Nat

/-- FREE VALUE (log 18). What the progress area of a context image reads as at an offset (R380: layout not
architectural). -/
opaque progressWord : Nat → Nat → BitVec 64

/-- FREE VALUE (log 20). INFO of a cause 0x17 that a `bar.sw` raises: the spec records the variants named and gives no
layout (R95, R264). -/
opaque variantsNamed : List Nat → BitVec 64

/-- FREE VALUE (log 32). The HBM use of a launch in 2 MiB units as the HBM tier engine sees it (R263, R265): no rule says how
it is counted. -/
opaque hbmUse : Nat → Nat

/-- FREE VALUE (log 28). Whether a page-list entry, given by its register offset, holds the page that a shootdown names, where no
response for that page has been seen (R243, R336): the lists hold physical pages, and no rule says how the package tells. -/
opaque listHolds : Nat → Nat → Bool

/-- FREE VALUE (log 12). Whether a response word written to OBSKEY through the register space answers a challenge under the
debug key of the image (R423). -/
opaque obsVerdict : BitVec 64 → BitVec 64 → Bool

/-- FREE VALUE (log 12). The challenge that follows (R423). -/
opaque obsNext : Nat → BitVec 64

/-- FREE VALUE (log 33). The transit time of the plane in ns that its training measures (R445, R449). -/
opaque starLat : Nat → BitVec 16

/-- FREE VALUE (log 5). As serviceDelay, for a launch of a partition that records or replays: R127 has a replayed run repeat every frozen
cycle, so the length depends on the place in the timetable alone: the sequencer, its domain cycle, the address and the part of the service. -/
opaque placedDelay : Nat → Nat → Nat → Nat → Nat

/-- FREE VALUE (log 86). The mean power of a partition in milliwatts in the k-th window from package reset (R416). -/
opaque powerMw : Nat → Nat → BitVec 32

/-- FREE VALUE (log 86). The energy in nJ that a partition spends on no launch in the k-th window (R417). -/
opaque idleNj : Nat → Nat → Nat

/-- FREE VALUE (log 86). The energy in nJ that a launch spends in the k-th window (R417). -/
opaque launchNj : Nat → Nat → Nat

/-- R1: compute cores of the package. -/
def nCores : Nat := 384
/-- R1: compute cores and stack cores together, as OBSSEL numbers them (R421). -/
def nUnits : Nat := 448
/-- R25: bytes of one scratchpad granule. -/
def granule : Nat := 0x10000
/-- R13: bytes of a compute core's scratchpad. -/
def spadBytes : Nat := 0x180000
/-- R334: bytes of a stack core's own staging memory. -/
def stackSpadBytes : Nat := 0x40000
/-- R331: slots of the staging pool of a stack. -/
def poolSlots : Nat := 90112
/-- R234: length of one HBM stack in the physical map. -/
def stackBytes : Nat := 0xC00000000
/-- R234: base of the package register space. -/
def regBase : Nat := 0x3000000000000

end Sys2Proof.Config
end

