-- ==== Sys2Proof/Machine/Num.lean ====
section
/-! DEFINITION. Numbers (02_numbers.md): exact values, formats, rounding, integer helpers, stochastic draws, block
formats, sums. Every function is total and evaluates by structural recursion and Nat, Int arithmetic. -/
namespace Sys2Proof.Machine

/-- An exact value (R40): NaN, an infinity, a signed zero, the cancelled zero, or m * 2^e with m not zero. -/
inductive Ex where
  | nan
  | inf (neg : Bool)
  | zero (neg : Bool)
  | z0
  | fin (m : Int) (e : Int)
  deriving DecidableEq, Repr

/-- The floating-point formats of Table 2.1. -/
inductive FFmt where
  | fp32 | bf16 | e4m3 | e5m2 | s12
  deriving DecidableEq, Repr

/-- The rounding modes of Table 2.3. -/
inductive Rm where
  | rne | rtz | rdn | rup | sr
  deriving DecidableEq, Repr

/-- R47: the mode a 3-bit code names; codes 5 to 7 name none. -/
def Rm.ofCode (c : Nat) : Option Rm :=
  match c with
  | 0 => some .rne | 1 => some .rtz | 2 => some .rdn | 3 => some .rup | 4 => some .sr | _ => none

/-- Table 2.1: width W. -/
def FFmt.width : FFmt → Nat
  | .fp32 => 32 | .bf16 => 16 | .e4m3 => 8 | .e5m2 => 8 | .s12 => 12
/-- Table 2.1: mantissa bits M. -/
def FFmt.man : FFmt → Nat
  | .fp32 => 23 | .bf16 => 7 | .e4m3 => 3 | .e5m2 => 2 | .s12 => 3
/-- Table 2.1: bias. -/
def FFmt.bias : FFmt → Int
  | .fp32 => 127 | .bf16 => 127 | .e4m3 => 7 | .e5m2 => 15 | .s12 => 127
/-- R43: the smallest normal exponent. -/
def FFmt.emin (f : FFmt) : Int := 1 - f.bias
/-- Table 2.1: whether the format has infinities. -/
def FFmt.hasInf : FFmt → Bool
  | .fp32 => true | .bf16 => true | .e4m3 => false | .e5m2 => true | .s12 => false
/-- Table 2.1: the canonical NaN. -/
def FFmt.canonNan : FFmt → Nat
  | .fp32 => 0x7FC00000 | .bf16 => 0x7FC0 | .e4m3 => 0x7F | .e5m2 => 0x7E | .s12 => 0x7F8
/-- Table 2.1: the largest finite magnitude, as an encoding with sign 0. -/
def FFmt.largest : FFmt → Nat
  | .fp32 => 0x7F7FFFFF | .bf16 => 0x7F7F | .e4m3 => 0x7E | .e5m2 => 0x7B | .s12 => 0x7F7
/-- The exponent of the largest finite number. -/
def FFmt.maxE : FFmt → Int
  | .fp32 => 127 | .bf16 => 127 | .e4m3 => 8 | .e5m2 => 15 | .s12 => 127
/-- The significand, of P bits, of the largest finite number. -/
def FFmt.maxK : FFmt → Nat
  | .fp32 => 0xFFFFFF | .bf16 => 0xFF | .e4m3 => 14 | .e5m2 => 7 | .s12 => 15
/-- Table 2.4: the number n of stochastic bits. -/
def FFmt.srBits : FFmt → Nat
  | .fp32 => 32 | .bf16 => 16 | .e4m3 => 12 | .e5m2 => 12 | .s12 => 12
/-- The sign bit as a number to add to an encoding. -/
def FFmt.signAdd (f : FFmt) (neg : Bool) : Nat := if neg then 2 ^ (f.width - 1) else 0
/-- The encoding of infinity, for a format that has one. -/
def FFmt.infEnc (f : FFmt) (neg : Bool) : Nat :=
  (2 ^ (f.width - 1 - f.man) - 1) * 2 ^ f.man + f.signAdd neg

/-- R44: the exact value of an encoding. -/
def decodeF (f : FFmt) (w0 : Nat) : Ex :=
  let w := w0 % 2 ^ f.width
  let neg : Bool := decide (w / 2 ^ (f.width - 1) = 1)
  let eBits := f.width - 1 - f.man
  let e := (w / 2 ^ f.man) % 2 ^ eBits
  let m := w % 2 ^ f.man
  let top := 2 ^ eBits - 1
  let isNan : Bool :=
    match f with
    | .fp32 | .bf16 | .e5m2 => decide (e = top) && decide (m ≠ 0)
    | .e4m3 => decide (e = top) && decide (m = 7)
    | .s12 => decide (e = top)
  if isNan then .nan
  else if f.hasInf && decide (e = top) then .inf neg
  else
    let mag : Nat := if e = 0 then (if f = .s12 then 0 else m) else 2 ^ f.man + m
    let ex : Int := if e = 0 then f.emin - f.man else (e : Int) - f.bias - f.man
    if mag = 0 then .zero neg
    else .fin (if neg then -(mag : Int) else mag) ex

/-- R49, Table 2.4: the result of an overflow, as an encoding. -/
def overflowF (f : FFmt) (rm : Rm) (neg : Bool) : Nat :=
  let large := f.largest + f.signAdd neg
  if f.hasInf then
    match rm with
    | .rne | .sr => f.infEnc neg
    | .rtz => large
    | .rdn => if neg then f.infEnc true else large
    | .rup => if neg then large else f.infEnc false
  else large

/-- The rounding decision of R48: k is the kept significand, rem / 2^n the fraction f. -/
def roundUp (rm : Rm) (neg : Bool) (k rem n srBits : Nat) (rb : BitVec 64) : Bool :=
  match rm with
  | .rne => decide (2 * rem > 2 ^ n) || (decide (2 * rem = 2 ^ n) && decide (k % 2 = 1))
  | .rtz => false
  | .rdn => neg && decide (rem > 0)
  | .rup => !neg && decide (rem > 0)
  | .sr => decide (rem * 2 ^ srBits / 2 ^ n + rb.toNat % 2 ^ srBits ≥ 2 ^ srBits)

/-- R48: rounds an exact value to an encoding of the format. -/
def roundF (x : Ex) (f : FFmt) (rm : Rm) (rb : BitVec 64) : Nat :=
  match x with
  | .nan => f.canonNan
  | .inf neg => if f.hasInf then f.infEnc neg else f.canonNan
  | .z0 => if rm = .rdn then f.signAdd true else 0
  | .zero neg => f.signAdd neg
  | .fin m e =>
    let neg : Bool := decide (m < 0)
    let a := m.natAbs
    let ee := max ((Nat.log2 a : Int) + e) f.emin
    let sh : Int := e - ee + f.man
    let n := (-sh).toNat
    let k := if 0 ≤ sh then a * 2 ^ sh.toNat else a / 2 ^ n
    let rem := if 0 ≤ sh then 0 else a % 2 ^ n
    let k' := if roundUp rm neg k rem n f.srBits rb then k + 1 else k
    if ee > f.maxE ∨ (ee = f.maxE ∧ k' > f.maxK) then overflowF f rm neg
    else if f = .s12 ∧ k' < 2 ^ f.man then f.signAdd neg
    else (ee - f.emin).toNat * 2 ^ f.man + k' + f.signAdd neg

/-- R42: an n-bit field as a two's complement number. -/
def sext (w : Nat) (n : Nat) : Int := if w % 2 ^ n ≥ 2 ^ (n - 1) then (w % 2 ^ n : Int) - 2 ^ n else (w % 2 ^ n : Nat)
/-- R42: v mod 2^n. -/
def wrap (v : Int) (n : Nat) : Nat := (v % (2 ^ n : Int)).toNat
/-- R42: signed saturation to n bits. -/
def satS (v : Int) (n : Nat) : Nat := wrap (min (max v (-(2 ^ (n - 1) : Int))) ((2 ^ (n - 1) : Int) - 1)) n
/-- R42: unsigned saturation to n bits. -/
def satB (v : Int) (n : Nat) : Nat := (min (max v 0) ((2 ^ n : Int) - 1)).toNat

/-- R50 with q = 1: the exact value as an integer in mode rm (zero for NaN and the zeros). -/
def exToInt (x : Ex) (rm : Rm) : Int :=
  match x with
  | .fin m e =>
    let neg : Bool := decide (m < 0)
    let a := m.natAbs
    if 0 ≤ e then m * 2 ^ e.toNat
    else
      let n := (-e).toNat
      let k := a / 2 ^ n
      let k' := if roundUp rm neg k (a % 2 ^ n) n 0 0 then k + 1 else k
      if neg then -(k' : Int) else k'
  | _ => 0

/-- R50: `f2i` to an integer format of the given width and signedness. -/
def f2i (x : Ex) (signed : Bool) (width : Nat) (rm : Rm) : Nat :=
  match x with
  | .inf neg =>
    if signed then (if neg then 2 ^ (width - 1) else 2 ^ (width - 1) - 1)
    else (if neg then 0 else 2 ^ width - 1)
  | _ => if signed then satS (exToInt x rm) width else satB (exToInt x rm) width

/-- The exact value of an integer (R50): zero is +0. -/
def exOfInt (v : Int) : Ex := if v = 0 then .zero false else .fin v 0

/-- Whether the value is one of the zeros. -/
def Ex.isZero : Ex → Bool
  | .zero _ => true | .z0 => true | _ => false
/-- The sign of a value; the cancelled zero counts as positive. -/
def Ex.neg : Ex → Bool
  | .inf n => n | .zero n => n | .fin m _ => decide (m < 0) | _ => false
/-- Whether the value is an infinity. -/
def Ex.isInf : Ex → Bool
  | .inf _ => true | _ => false

/-- R51: `mul_x`. -/
def mulX (a b : Ex) : Ex :=
  if a = .nan ∨ b = .nan ∨ (a.isZero ∧ b.isInf) ∨ (a.isInf ∧ b.isZero) then .nan
  else if a.isInf ∨ b.isInf then .inf (a.neg != b.neg)
  else if a.isZero ∨ b.isZero then .zero (a.neg != b.neg)
  else match a, b with
    | .fin m e, .fin m' e' => .fin (m * m') (e + e')
    | _, _ => .nan

/-- The sum of two reals m * 2^e, as a pair with the lower exponent. -/
def addReal (p q : Int × Int) : Int × Int :=
  if p.1 = 0 then q else if q.1 = 0 then p
  else
    let e := min p.2 q.2
    (p.1 * 2 ^ (p.2 - e).toNat + q.1 * 2 ^ (q.2 - e).toNat, e)

/-- The real part of a value, zero for the zeros. -/
def Ex.real : Ex → Int × Int
  | .fin m e => (m, e)
  | _ => (0, 0)

/-- R51: `exact_sum`. -/
def exactSum (t : List Ex) : Ex :=
  if t.any (· = .nan) || (t.any (· = .inf true) && t.any (· = .inf false)) then .nan
  else if t.any (· = .inf true) then .inf true
  else if t.any (· = .inf false) then .inf false
  else if t.all (· = .zero true) then .zero true
  else if t.all (· = .zero false) then .zero false
  else if t.all Ex.isZero then .z0
  else
    let v := t.foldl (fun acc x => addReal acc x.real) (0, 0)
    if v.1 = 0 then .z0 else .fin v.1 v.2

/-- R51: `fma`. -/
def fmaF (a b c : Ex) (f : FFmt) (rm : Rm) (rb : BitVec 64) : Nat := roundF (exactSum [mulX a b, c]) f rm rb

/-- Exact comparison of two values that are not NaN, with +0 equal to −0 (R77, R162). -/
def Ex.lt (a b : Ex) : Bool :=
  match a, b with
  | .nan, _ => false
  | _, .nan => false
  | .inf n, y => n && decide (y ≠ .inf true)
  | _, .inf n => !n
  | x, y =>
    let p := x.real
    let q := y.real
    let e := min p.2 q.2
    decide (p.1 * 2 ^ (p.2 - e).toNat < q.1 * 2 ^ (q.2 - e).toNat)
/-- Exact equality, with +0 equal to −0; false for NaN. -/
def Ex.eqv (a b : Ex) : Bool := decide (a ≠ .nan) && decide (b ≠ .nan) && !a.lt b && !b.lt a

/-- R51: `fmax`, with −0 below +0. -/
def fmaxX (a b : Ex) : Ex :=
  if a = .nan ∨ b = .nan then .nan
  else if a.isZero ∧ b.isZero then (if a.neg then b else a)
  else if a.lt b then b else a
/-- R51: `fmin`, with −0 below +0. -/
def fminX (a b : Ex) : Ex :=
  if a = .nan ∨ b = .nan then .nan
  else if a.isZero ∧ b.isZero then (if a.neg then a else b)
  else if b.lt a then b else a

/-- The value −1. -/
def exMinusOne : Ex := .fin (-1) 0

/-- R52: the SplitMix finaliser. -/
def splitmix (z0 : BitVec 64) : BitVec 64 :=
  let z1 := (z0 ^^^ (z0 >>> 30)) * 0xBF58476D1CE4E5B9#64
  let z2 := (z1 ^^^ (z1 >>> 27)) * 0x94D049BB133111EB#64
  z2 ^^^ (z2 >>> 31)
/-- R52: the draw of a seed and a counter. -/
def srDraw (seed c : BitVec 64) : BitVec 64 := splitmix (seed + 0x9E3779B97F4A7C15#64 * c)
/-- R53: the counter of the update programs in the stacks. -/
def srCtrStack (round : BitVec 32) (stack : BitVec 3) (bucket element : BitVec 12) : BitVec 64 :=
  BitVec.ofNat 64 (round.toNat * 2 ^ 32 + stack.toNat * 2 ^ 24 + bucket.toNat * 2 ^ 12 + element.toNat)

/-- R54: the value of an MXFP8 element under its scale. -/
def mxDecode (u : Nat) (f : FFmt) (w : Nat) : Ex :=
  if u % 256 = 0xFF then .nan else mulX (decodeF f w) (.fin 1 (((u % 256 : Nat) : Int) - 127))

/-- floor(log2 |x|) of a value that is not zero. -/
def exLog2 : Ex → Int
  | .fin m e => (Nat.log2 m.natAbs : Int) + e
  | _ => 0

/-- R55: emax of the element format. -/
def mxEmax (f : FFmt) : Int := if f = .e4m3 then 8 else 15

/-- R55: packs a block; answers the scale and the elements. `rb i` is the draw of element i. -/
def mxPack (x : List Ex) (f : FFmt) (rm : Rm) (rb : Nat → BitVec 64) : Nat × List Nat :=
  if x.any (fun v => decide (v = .nan) || v.isInf) then (0xFF, x.map fun _ => 0)
  else
    let nz := x.filter (fun v => !v.isZero)
    let big : Int := match nz.map exLog2 with
      | [] => 0
      | l :: ls => ls.foldl max l - mxEmax f
    let sc := min (max big (-127)) 127
    let one (v : Ex) (i : Nat) : Nat :=
      let w := roundF (mulX v (.fin 1 (-sc))) f rm (rb i)
      if f = .e5m2 ∧ w % 128 = 0x7C then f.largest + f.signAdd v.neg else w
    ((sc + 127).toNat, x.zipIdx.map fun p => one p.1 p.2)

/-- R57: the eight weights of one VQ2 index, from its codebook entry and its S12 scale. -/
def vq2Decode (idx entry scale : Nat) : List Ex :=
  let sc := decodeF .s12 (scale % 2 ^ 12)
  (List.range 8).map fun i =>
    let code : Nat := (entry / 2 ^ (4 * i)) % 16
    let neg : Bool := decide ((idx / 2 ^ i) % 2 = 1)
    let mag : Ex := if code = 0 then .zero false else .fin (if neg then -(code : Int) else (code : Int)) (-2)
    mulX mag sc

/-- One level of the tree of R59 over lanes that may be inactive. -/
def treeLevel {α : Type} (op : α → α → α) : List (Option α) → List (Option α)
  | some a :: some b :: r => some (op a b) :: treeLevel op r
  | some a :: none :: r => some a :: treeLevel op r
  | none :: y :: r => y :: treeLevel op r
  | l => l
/-- R59: the pairwise tree of at most 256 lanes; `zero` when no lane is active. -/
def tree {α : Type} (op : α → α → α) (zero : α) (x : List (Option α)) : α :=
  match (List.range 8).foldl (fun l _ => treeLevel op l) x with
  | some v :: _ => v
  | _ => zero

/-- R60: one K-group added to an FP32 accumulator with one rounding. -/
def kacc (acc : Nat) (p : List Ex) : Nat := roundF (exactSum (decodeF .fp32 acc :: p)) .fp32 .rne 0

/-- R61: the exact product of two algebra elements of dimension d under the table (target, sign). -/
def algMul (d : Nat) (tab : Nat → Nat → Nat × Int) (l r : List Ex) : List Ex :=
  (List.range d).map fun t =>
    ((List.range d).flatMap fun i => (List.range d).map fun j => (i, j)).foldl
      (fun c p =>
        let e := tab p.1 p.2
        if e.1 = t ∧ e.2 ≠ 0 then
          exactSum [c, mulX (.fin e.2 0) (mulX (l.getD p.1 .z0) (r.getD p.2 .z0))]
        else c) (.zero false)

/-- The integer square root, by bits from 2^fuel down. -/
def isqrt : Nat → Nat → Nat → Nat
  | 0, r, _ => r
  | f + 1, r, n => isqrt f (if (r + 2 ^ f) * (r + 2 ^ f) ≤ n then r + 2 ^ f else r) n

/-- R161: 2^x; the exact value stands within 2^-180 of the answer, relatively (log 7). -/
def exp2X (x : Ex) : Ex :=
  match x with
  | .nan => .nan
  | .inf neg => if neg then .zero false else .inf false
  | .zero _ => .fin 1 0
  | .z0 => .fin 1 0
  | .fin m e =>
    if exLog2 x ≥ 8 then (if m < 0 then .fin 1 (-400) else .fin 1 400)
    else if exLog2 x < -27 then .fin 1 0
    else
      let fx : Int := if 0 ≤ e then m * 2 ^ e.toNat * 2 ^ 64 else m * 2 ^ (64 - (-e).toNat)
      let n : Int := fx / 18446744073709551616
      let fr : Nat := (fx % 18446744073709551616).toNat
      if fr = 0 then .fin 1 n
      else
        let step (s : Nat × Nat) (i : Nat) : Nat × Nat :=
          let c := if i = 0 then isqrt 194 0 (2 ^ 385) else isqrt 194 0 (s.2 * 2 ^ 192)
          (if (fr / 2 ^ (63 - i)) % 2 = 1 then s.1 * c / 2 ^ 192 else s.1, c)
        let p := ((List.range 64).foldl step (2 ^ 192, 0)).1
        .fin (2 * p + 1) (n - 193)

/-- R161: log2 x; the exact value stands within 2^-110 of the answer (log 7). -/
def log2X (x : Ex) : Ex :=
  match x with
  | .nan => .nan
  | .inf neg => if neg then .nan else .inf false
  | .zero _ => .inf true
  | .z0 => .inf true
  | .fin m e =>
    if m < 0 then .nan
    else
      let lg := Nat.log2 m.natAbs
      let n : Int := lg + e
      if m.natAbs = 2 ^ lg then exOfInt n
      else
        let step (s : Nat × Nat) (_ : Nat) : Nat × Nat :=
          let y := s.1 * s.1 / 2 ^ 256
          if y ≥ 2 ^ 257 then (y / 2, 2 * s.2 + 1) else (y, 2 * s.2)
        let b := ((List.range 120).foldl step (m.natAbs * 2 ^ 256 / 2 ^ lg, 0)).2
        .fin (2 * (n * 2 ^ 120 + b) + 1) (-121)

/-- R161: 1/x, exact up to a sticky bit far below the last place. -/
def rcpX (x : Ex) : Ex :=
  match x with
  | .nan => .nan
  | .inf neg => .zero neg
  | .zero neg => .inf neg
  | .z0 => .inf false
  | .fin m e =>
    let k := 100 + Nat.log2 m.natAbs
    let q := 2 ^ k / m.natAbs
    let v : Int := ((2 * q + (if q * m.natAbs = 2 ^ k then 0 else 1) : Nat) : Int)
    .fin (if m < 0 then -v else v) (-(k : Int) - 1 - e)

/-- R161: 1/sqrt x, exact up to a sticky bit far below the last place. -/
def rsqrtX (x : Ex) : Ex :=
  match x with
  | .nan => .nan
  | .inf neg => if neg then .nan else .zero false
  | .zero neg => .inf neg
  | .z0 => .inf false
  | .fin m e =>
    if m < 0 then .nan
    else
      let m2 := if e % 2 = 0 then m.natAbs else 2 * m.natAbs
      let e2 := if e % 2 = 0 then e else e - 1
      let k := 100 + Nat.log2 m2
      let s := isqrt (k + 1) 0 (2 ^ (2 * k) / m2)
      let v : Int := ((2 * s + (if s * s * m2 = 2 ^ (2 * k) then 0 else 1) : Nat) : Int)
      .fin v (-(k : Int) - 1 - e2 / 2)

end Sys2Proof.Machine
end

