-- ==== Sys2Proof/Machine/State.lean ====
section
/-! DEFINITION. The state of the machine as plain data, and State.reset. INVENTORY.md lists each piece with the rule that
names it. A sparse map is a list of keys and values; a key it does not list stands for the value at reset. -/
namespace Sys2Proof.Machine

/-- A sparse map from numbers. -/
abbrev Map (α : Type) := List (Nat × α)

/-- Bytes by address in canonical form: addresses strictly rising, no byte equal to 0, which is what an unlisted
address reads as (a scratchpad by R37; physical memory by log 1). -/
abbrev Mem := List Host.Cell

/-- The mode of a launch (Table 17.4). -/
inductive Mode where
  | timed | elastic | stack
  deriving DecidableEq, Repr

/-- A zero-overhead loop register (R29). -/
structure Loop where
  start : Word
  stop  : Word
  count : BitVec 32
  act   : Bool
  deriving DecidableEq, Repr

/-- R368: the kinds of a ring entry, coded 0 to 3 in this order; a handler may write a reserved code (R374), 4 + k, with which nothing
lands (log 81). -/
inductive LandKind where
  | reg | mask | flag | csrw
  | reserved (k : BitVec 2)
  deriving DecidableEq, Repr

/-- An issued result that has not landed (R17, R367). `due` counts in the context's own clock; `acc` names the
outstanding access that brings the value, 0 for none; `poison` the address that a poisoned value came from, 0 where it has
none (R390); an entry with `v` false is skipped (R368). -/
structure Land where
  due    : Nat
  wait   : Bool
  kind   : LandKind
  t      : Bool
  dst    : BitVec 6
  index  : BitVec 13
  val    : Wide
  acc    : Nat
  poison : Option Word
  v      : Bool
  deriving DecidableEq, Repr

/-- A fault record (Table 15.1). -/
structure FRec where
  v     : Bool
  cause : BitVec 8
  n     : BitVec 16
  pc    : Word
  addr  : Word
  info  : Word
  deriving DecidableEq, Repr

/-- What every sequencer holds (R13, R98). `nextAt` is the first cycle of the context's clock on which it may issue,
`live` the count of R15, `deliver` the causes that reached it and wait for an issue (R242), `idle` a beacon.w that
waits for a notify (R387) and `woken` the notify that ends it, `stalled` that its last try did not issue. -/
structure Seq where
  pc      : Word
  run     : Bool
  lp0     : Loop
  lp1     : Loop
  ring    : List Land
  nextAt  : Nat
  live    : Nat
  deliver : List CauseArgs
  fault   : FRec
  idle    : Bool
  woken   : Bool
  stalled : Bool
  deriving DecidableEq, Repr

/-- The tiles with their configuration (R179, R186): element (i, j) is bits [32(16i+j)+31 : 32(16i+j)]. -/
structure Tiles where
  cfg   : Vector (BitVec 16) 8
  dirty : BitVec 8
  el    : Vector (BitVec 8192) 8
  deriving DecidableEq, Repr

/-- Tokens that C has issued and not posted (R104): they post when every command of C numbered below `upTo` is
complete. -/
structure PendTok where
  dest : SeqId
  n    : Nat
  upTo : Nat
  deriving DecidableEq, Repr

/-- An operand descriptor as a command captured it (R208). -/
structure MDesc where
  base : Word
  ctl  : Word
  deriving DecidableEq, Repr

/-- What an access carries from its issue (R281, R282): the accesses ordered before it, as a map from components to the
number of the last one that is, and the PHASE register of its core. -/
structure Hist where
  vc    : Map Nat
  phase : Word
  deriving DecidableEq, Repr

/-- A command of the array (R213, R215, R219, R220) from its issue to its quiescence. `zero` is the count of an `mzero`; `occ`
its cycles on the array, of which a follow-on has `left` to come; `need` the fetched lines that have not arrived and `got`
the bytes that have; `opA`, `opB` the stored rows of the operands as read at the start; `bad` that an operand was
poisoned. -/
structure MCmd where
  id      : Nat
  pc      : Word
  zero    : Option Nat
  region  : Nat
  fw      : BitVec 32
  k       : Nat
  da      : MDesc
  db      : MDesc
  scales  : List (BitVec 16)
  tab     : BitVec 1024
  lct     : BitVec 8192
  issue   : Nat
  follow  : Bool
  occ     : Nat
  left    : Nat
  started : Option Nat
  quies   : Nat
  fetched : Bool
  need    : List Nat
  got     : Mem
  opA     : List (List Ex)
  opB     : List (List Ex)
  bad     : Bool
  hb      : Hist
  deriving DecidableEq, Repr

/-- The states of a follow-on slot (Table 8.6). -/
inductive Slot where
  | empty
  | staged (c : MCmd)
  | bound (c : MCmd)
  deriving DecidableEq, Repr

/-- An accumulate-write packet on its way or awaiting its answer (R178, R314): `cmd` names the `caw` it belongs to, 0 for a
`vaw`; `desc` is the descriptor of a `vaw`; `sent` that the stack holds it; `ans` the answer on its way back; `back` that
it was refused and waits to be resent; `since` the real cycle of its
sending. -/
structure PktOut where
  p      : Packet
  stack  : Nat
  desc   : Word
  sent   : Bool
  ans    : Option AwAnswer
  back   : Bool
  u      : Nat
  lid    : Nat
  q      : SeqId
  pc     : Word
  hb     : Hist
  cmd    : Nat
  since  : Nat
  deriving DecidableEq, Repr

/-- What a channel command does, with the values it read at issue (R299). -/
inductive COp where
  | cpy (dst src : Word) (len : Nat)
  | cpya (dst : Word) (first len : Nat)
  | ctens (ra : Word) (rc : Option (BitVec 1536))
  | cgath (scatter : Bool) (dst src idx : Word) (n esz : Nat)
  | cscl (src : Word) (cnt : Nat) (bytes : Bool)
  | cldlct (n : Nat) (src : Word)
  | cldalg (n : Nat) (src : Word)
  | caw (src : Word) (desc : Word) (n : Nat) (ty : BitVec 2) (round : BitVec 32)
  | cver (dst : Word) (stack : BitVec 3) (buf : BitVec 12) (round : BitVec 32) (off len : Nat)
  | cmap (wb : Bool) (slot : Nat) (off : Nat) (va : Word) (n : Nat)
  | cwb (mask : BitVec 16)
  | cput (win : Nat) (wa wb : Word) (off : Nat) (src : Word) (len : Nat) (bbOff : Option (BitVec 21))
  | cget (win : Nat) (wa wb : Word) (off : Nat) (dst : Word) (len : Nat)
  | cbcast (dst src : Word) (len : Nat) (bbAt : Option Word)
  | csendt (port : BitVec 4) (wa wb : Word) (off : Nat) (src : Word) (len : Nat) (time : Word)
  | tready (e : Nat)
  | cbbarm (bb : Word) (v : Nat)
  | cbbadd (bb : Word) (v : Nat)
  | cbbwait (bb : Word) (p : Bool)
  deriving DecidableEq, Repr

/-- A chunk in transfer (R301): the real cycle of its commit, none while another package owes its bytes (R319), its destination pieces,
each as its address, its cell (log 21) and its bytes, and whether they are poisoned (R390). -/
structure Flight where
  at_    : Option Nat
  pieces : List (Word × Nat × List Byte)
  bad    : Bool
  deriving DecidableEq, Repr

/-- A channel command (R299 to R303) of channel `ch`. Stream chunks below `next` have started, chunks below `done` have
committed (of a scale load: entries below `done` have entered) and those below `added` have been counted into its byte barrier; `flights`
are the chunks in transfer, oldest first; `sent` names what the command waits for once it is performed: its follow-on or its firing;
`redo` the remote chunks to be sent again; `t0` the clock on which C issues the follow-on that a performed command carries (R313); `held`
the absent address (R304); `faulted` a fault not yet resumed; `begun` that the next chunk has started and translates its pages (R301);
`adds` the chunks whose add alone is tried again at a target (R303), each with the port it goes by plus one, 0 where the command gives
the place. -/
structure CCmd where
  id      : Nat
  ch      : Nat
  pc      : Word
  op      : COp
  bb      : Option Word
  slot    : Option Nat
  next    : Nat
  done    : Nat
  added   : Nat
  flights : List Flight
  sent    : Nat
  redo    : List Nat
  t0      : Nat
  held    : Option Word
  faulted : Option CauseArgs
  hb      : Hist
  begun   : Bool
  adds    : List (Nat × Nat)
  deriving DecidableEq, Repr

/-- A copy channel (R120, R329). -/
structure Chan where
  cmds  : List CCmd
  cause : BitVec 8
  deriving DecidableEq, Repr

/-- The elements that a local access moves: `at_` gives lane numbers with byte offsets, `z` the element's bytes, `sx`
sign extension, `lw` the lane width of the result, `base` the lanes that no element reaches. -/
structure Elems where
  at_  : List (Nat × Nat)
  z    : Nat
  sx   : Bool
  lw   : Nat
  base : Wide
  deriving DecidableEq, Repr

/-- A window access in flight (R133): performed on cycle `due` of the timetable at unit `target`. A load fills the ring
entries whose access is `acc`; a store writes `wr`; an atomic carries its operation, operand, comparand and scope. -/
structure WinAcc where
  due    : Nat
  q      : SeqId
  target : Nat
  acc    : Nat
  rd     : Option Elems
  amo    : Option (Nat × Nat × Nat × Nat)
  wr     : List (Nat × Byte)
  pc     : Word
  hb     : Hist
  deriving DecidableEq, Repr

/-- A multicast store in flight (R135). -/
structure McWrite where
  due  : Nat
  q    : SeqId
  mask : BitVec 16
  wr   : List (Nat × Byte)
  pc   : Word
  hb   : Hist
  deriving DecidableEq, Repr

/-- An effect that takes place at the end of the issue cycle. -/
inductive EndOp where
  | token (src dst : SeqId) (n : Nat)
  | tiles (t : Tiles) (cfgd : BitVec 8)
  | spad (wr : List (Nat × Byte))
  | tload (mask off : Nat)
  | vsrctr
  | dropRecords
  deriving DecidableEq, Repr

/-- A full context of a core (R370): what runs in it and everything a swap exchanges. `lid` is the launch, 0 for none;
`clk` the context's clock, domain cycles in timed mode and cycles in elastic mode; `vtset` the tiles that V configured
at the end of the last cycle (R181); `vl0`, `vl1` V's loop registers as S reads them, before this cycle's issue (R93);
`uid0` the identity counter at the end of its last cycle, so that what its sequencers issue on a cycle is told from what they issued before
it; `barTry` that counter and the clock on the cycle S issued a barrier that it waits to arrive at, `bar` the barrier level S has arrived at with the real cycle of the arrival, `barSw` the variant it names, `barGo` that the
barrier has completed; `poison` the poisoned registers, by operand code and 64 + k for mask k, `accBad` the poisoned components of the
visible (true) and the working bank (R390); `roomAt` the first real cycle on which the transfer path has room for a new chunk (R121); `toFill` the granules of its scratchpad that await their first touch, each with whether its
bytes stand in the image or are the zeros of a start (R382, R412); `trap` the HCAUSE of a trap that a watchdog cut off while it waited for its handler (R384, R388), and `fresh` the cycles of its
sequencers' next issues when it entered its core, until one of them issues (R367). -/
structure Ctx where
  lid     : Nat
  mode    : Mode
  handler : Bool
  asid    : BitVec 16
  gran    : Nat
  group   : BitVec 8
  clk     : Nat
  frzn    : Word
  frzs    : BitVec 12
  s       : Seq
  v       : Seq
  m       : Seq
  c       : Seq
  x       : Vector Word 32
  x1      : Vector Word 32
  x2      : Vector Word 32
  xo      : Vector Word 8
  xq      : Vector Word 16
  xb      : Vector Word 3
  vr      : Vector Wide 32
  vo      : Vector Wide 8
  vq      : Vector Wide 16
  vb      : Vector Wide 3
  mkr     : Vector (BitVec 256) 8
  tiles   : Tiles
  vtset   : BitVec 8
  vl0     : Loop
  vl1     : Loop
  a       : Vector Word 16
  g       : Vector Word 16
  tok     : Vector (BitVec 6) 16
  ctok    : List PendTok
  fq      : List (BitVec 32 × Nat)
  sq      : List (BitVec 16 × Nat)
  vflag   : Vector Word 4
  vrm     : BitVec 3
  vseed   : Word
  vsrctr  : Word
  awround : BitVec 32
  awstat  : Word
  valloc  : BitVec 6
  mcmask  : BitVec 16
  mdepth  : BitVec 4
  members : Word
  phase   : Word
  variant : Word
  rwin    : Vector Word 24
  alg     : Vector (BitVec 1024) 2
  lct     : Vector (BitVec 8192) 4
  work    : Map (BitVec 32)
  vis     : Map (BitVec 32)
  cmds    : List MCmd
  slots   : Vector Slot 8
  mswap   : Option (List Nat)
  chans   : Vector Chan 4
  copies  : List Nat
  await   : List CCmd
  rrCh    : Nat
  roomAt  : Nat
  rcache  : List (Word × BitVec 1536)
  wins    : List WinAcc
  mcast   : List McWrite
  arrive  : List (Nat × Wide)
  endOps  : List EndOp
  wdogPer : BitVec 32
  wdogLeft : BitVec 32
  uid0    : Nat
  barTry  : Option (Nat × Nat)
  bar     : Option (Nat × Nat)
  barSw   : Option Nat
  barGo   : Bool
  poisoned : Bool
  poison  : List (SeqId × Nat)
  accBad  : List (Bool × Nat)
  toFill  : List (Nat × Bool)
  trap    : Option (BitVec 4 × BitVec 4)
  fresh   : List Nat
  deriving DecidableEq, Repr

/-- What the shadow bank holds (R370, R384). -/
inductive BankKind where
  | empty | handler | trapped | queued | spilling | pinned
  deriving DecidableEq, Repr

/-- Why a swap is in progress and when it ends (R371): the real cycle on which the incoming context first issues. -/
structure Swap where
  until_ : Nat
  toHandler : Bool
  spill  : Bool
  deriving DecidableEq, Repr

/-- One entry of the side log (R246): reserved until performed, and logged in between when it cannot be performed;
`waits` until its page is resolved (R245), `denied` a refused replay (R250), `resume` until its sequencer resumes after a
cause that a replay met (R250, R290). -/
structure LogEnt where
  id     : Nat
  q      : SeqId
  asid   : BitVec 16
  pc     : Word
  wr     : List (Nat × Byte)
  logged : Bool
  waits  : Bool
  denied : Bool
  resume : Bool
  lid    : Nat
  deriving DecidableEq, Repr

/-- A bound region slot (R254 to R258): chunks filled, chunks being filled with the real cycle of the end, dirty bytes. -/
structure Region where
  wb     : Bool
  va     : Word
  off    : Nat
  chunks : Nat
  asid   : BitVec 16
  filled : List Nat
  filling : Map Nat
  dirty  : List Nat
  deriving DecidableEq, Repr

/-- A core: its running context, its shadow bank and what belongs to no context. A context that the spill has written out
stays in `saved` for what its image does not show (the progress area, R380), in `saved0` as it was spilled, with its region slots and its save area in `savedRg`; `fillWant`
holds the granules whose fill from the image has begun, each with the unit and the sequencer that touched it first (R382), and `hpc` the entry PC of the handler (R372); `bkcur` and `spbase` are the registers of a stack core (R359). -/
structure Core where
  ctx      : Ctx
  bank     : Ctx
  bankKind : BankKind
  swap     : Option Swap
  active   : Bool
  frozen   : Bool
  spad     : Mem
  slog     : List LogEnt
  regions  : Map Region
  hevent   : BitVec 4
  hseq     : BitVec 4
  hdone    : Option (Option (BitVec 8))
  savebase : Word
  savelen  : BitVec 16
  spillst  : BitVec 3
  spillpos : BitVec 21
  spillgo  : Bool
  frzlim   : BitVec 32
  frzNs    : Nat
  ecccnt   : Word
  himg     : Word
  rows     : List Nat
  saved    : List Ctx
  saved0   : List Ctx
  savedRg  : Map (Map Region × Word × BitVec 16)
  fillWant : List (Nat × Nat × SeqId)
  hpc      : Word
  bkcur    : Word
  spbase   : Word
  deriving DecidableEq, Repr

/-- What an outstanding global access does when it is performed (R267). `xlat` is a translation alone, of an instruction
fetch (kind 1), a copy chunk (6), a write-back (5) or a launch's own accesses; kinds are those of Table 17.13. `fill` brings a chunk
of the region bound at a slot of unit `u`. -/
inductive OutOp where
  | load (z : Nat) (sx : Bool)
  | store (wr : List (Nat × Byte))
  | amo (op : BitVec 4) (z : Nat) (b cmp : Word) (scope : BitVec 3)
  | vload
  | operand (cmd : Nat)
  | fill (u slot chunk : Nat)
  | xlat (kind tag : Nat)
  deriving DecidableEq, Repr

/-- Where an outstanding access stands. -/
inductive OutSt where
  | queued | walking | held | answered
  deriving DecidableEq, Repr

/-- An outstanding global access of a sequencer (R22, R236, R244): performed once it translates, its data at the core on
real cycle `ready`: `bad` that its bytes are poisoned (R390), `deny` the cause that reaches the core in their place (R242,
R285). -/
structure Out where
  id    : Nat
  u     : Nat
  q     : SeqId
  lid   : Nat
  pc    : Word
  asid  : BitVec 16
  va    : Word
  op    : OutOp
  st    : OutSt
  ready : Nat
  data  : List Byte
  bad   : Bool
  deny  : Option CauseArgs
  hb    : Hist
  deriving DecidableEq, Repr

/-- An entry of a translation cache (R237): of a cluster or of a die. -/
structure TlbEnt where
  die  : Bool
  at_  : Nat
  asid : BitVec 16
  va   : Nat
  resp : Word
  deriving DecidableEq, Repr

/-- A walk outstanding on a die (R237, R238); `root` is ROOT of its ASID table entry, which the routine starts from (R239); `ans`
holds a denial that needs no routine (R238, R239), or the word of a response that waits for the page-fault queue (R418). -/
structure Walk where
  id   : Nat
  die  : Nat
  asid : BitVec 16
  va   : Nat
  kind : Nat
  u    : Nat
  q    : SeqId
  root : Word
  ans  : Option Word
  deriving DecidableEq, Repr

/-- Where a launch stands. -/
inductive LaunchSt where
  | checking | waiting | running | preempted | ending | ended
  deriving DecidableEq, Repr

/-- A launch taken from a queue (R404 to R413). -/
structure Launch where
  id     : Nat
  queue  : Nat
  hdr    : List Word
  irq    : Bool
  cpl    : Word
  tag    : Word
  hdrVa  : Word
  st     : LaunchSt
  asid   : BitVec 16
  energy : Nat
  status : BitVec 8
  cause  : BitVec 8
  detail : BitVec 16
  deriving DecidableEq, Repr

/-- A partial sum of a tree bucket that waits for its sibling; `res` that it draws on the bucket's reservation (R343, R345). -/
structure TreePart where
  seg  : Nat
  lo   : Nat
  hi   : Nat
  val  : List (BitVec 32)
  res  : Bool
  deriving DecidableEq, Repr

/-- The reduction state of a bucket (R339 to R347). `got` is the contribution bitmap as pairs (contributor, segment); `wait`
the contributions of a fold staged until their turn; `heldPk` those staged because a row is held or an entry shot down;
`next` the staged packets of round n + 1, oldest first; `parts` the partial sums of a tree; `upto` the contributors added
per segment of a fold; `chk` the check adder's sums of sampled segments; `resv`, `resvChk` the reserved slots; `vers` the
rounds whose version exists (R356); `zero` the segments that an opening has cleared behind a page-list entry which is shot down. -/
structure Bucket where
  got     : List (Nat × Nat)
  wait    : List Packet
  heldPk  : List Packet
  next    : List Packet
  parts   : List TreePart
  upto    : Map Nat
  chk     : Map (List (BitVec 32))
  resv    : Nat
  resvChk : Nat
  vers    : List Nat
  zero    : List Nat
  deriving DecidableEq, Repr

/-- The base die of a stack beside its registers (R331): the completion queue with the cycle on which each bucket joined
it (R350), the chain slots (R354), and the buckets published for a round of a job with their chain slots (R355); `late` the packets that have come while the reduction unit waits for its event queue (R418). -/
structure StackDie where
  buckets : Map Bucket
  cq      : List (Nat × Nat)
  chain   : Map (BitVec 32)
  pubd    : List (Nat × Nat × Nat × BitVec 32)
  late    : List Packet
  deriving DecidableEq, Repr

/-- A remote chunk that awaits its answer (R319, R435): chunk `idx` of command `id` of core u's channel `ch`, sent on real
cycle `since`; `get` that it is a read, `held` that the target holds it for a page (R320), and `late` that its command no longer waits for
the answer, which alone ends its place in the ring and in OUT; of a firing (R324) `ch` is 4 and `id` names it. -/
structure RemOut where
  port  : Nat
  seq   : Nat
  slot  : Nat
  u     : Nat
  lid   : Nat
  ch    : Nat
  id    : Nat
  idx   : Nat
  win   : Nat
  addr  : Word
  since : Nat
  get   : Bool
  held  : Bool
  late  : Bool
  deriving DecidableEq, Repr

/-- A firing of a collective tile table entry (R324): the chunks still to be sent through window `win` of unit `owner`, with
their offsets, what counts them, and the `tready` commands it joins; `read` that the tiles have been read. -/
structure Firing where
  id     : Nat
  cl     : Nat
  e      : Nat
  owner  : Nat
  lid    : Nat
  win    : Nat
  wa     : Word
  wb     : Word
  bbOff  : Option (BitVec 21)
  chunks : List (Nat × List Byte)
  next   : Nat
  joined : List (Nat × Nat)
  hb     : Hist
  read   : Bool
  deriving DecidableEq, Repr

/-- A message of IEEE 1588 that this package sends (R450). -/
inductive TimeSent where
  | announce (prio1 clockClass accuracy variance priority2 domain : Nat) (clockId : Word)
  | sync (domain : Nat)
  | followUp (domain : Nat) (ns : Word)
  | delayReq (domain : Nat)
  | delayResp (m : TimeMsg)
  deriving DecidableEq, Repr

/-- The body of a burst (R443, R449). -/
inductive BurstBody where
  | token (next : Nat)
  | data (d : BurstData)
  | fence (ops : List Nat)
  | barrier (group : Nat)
  | proposal (epoch mask : Nat)
  | nak (lost : Nat)
  | timing (m : TimeMsg)
  | told (m : TimeSent)
  | control (level : Nat)
  deriving DecidableEq, Repr

/-- A burst of the plane (R443). -/
structure Burst where
  h    : BurstHdr
  body : BurstBody
  deriving DecidableEq, Repr

/-- What flits of a direct port carry (R431). -/
inductive FlitBody where
  | idle
  | sched (f : SchedBody)
  | request (r : OpenReq)
  | data (lines : List OpenLine)
  | answer (a : LinkAnswer)
  | control (c : LinkCtl)
  deriving DecidableEq, Repr

/-- A burst, flits of a port under the LSEQ of the first and their ACK, or a signal that leaves the package: what the outside world sees. -/
inductive OutMsg where
  | burst (b : Burst)
  | flits (port lseq ack : Nat) (body : FlitBody)
  | time (m : TimeSent)
  | msix (vector : Nat)
  | mgmt (recs : List MgmtRecord)
  | read (data : Option Word)
  deriving DecidableEq, Repr

/-- Flits that wait to leave a port or to be acknowledged (R428, R437, R438): their place in the order of precedence (`cls` 0 those sent
again), how many of them are still to leave, their number, the command of scheduled ones, and the LSEQ of the first once it has left. -/
structure TxMsg where
  cls  : Nat
  left : Nat
  n    : Nat
  cmd  : Nat
  lseq : Option Nat
  body : FlitBody
  deriving DecidableEq, Repr

/-- A chunk that a target port gathers in its ring (R435, R436); `told` that its sender knows that it is held (R320). -/
structure RingSlot where
  slot  : Nat
  req   : OpenReq
  lines : List (Nat × List Byte)
  told  : Bool
  deriving DecidableEq, Repr

/-- A scheduled slot that a `csend.t` holds (R433, R438): its start, the command, the bytes of its stream that it carries, whether they have
left, and the flits that have been sent again in it. -/
structure Claim where
  start : Nat
  id    : Nat
  off   : Nat
  len   : Nat
  gone  : Bool
  again : Nat
  deriving DecidableEq, Repr

/-- A direct port beside its registers (R428, R429, R433, R435 to R438): the LSEQ of its next flit and of the next that it expects, the one
for which its last nak asked, and the ACK it has sent last; `claims` the scheduled slots that commands hold; `txq` the flits that wait to
leave, in the order of precedence; `buf` those that have left and are not acknowledged; `naks` the naks received in the frame `nakAt`;
`mapOld` the slot-map words still in force with the datum of the frame that ends them; `heldSched` the scheduled data that wait for a page,
each with its LSEQ; `noKey` that the link keys are erased. -/
structure Port where
  lseqTx : Nat
  lseqRx : Nat
  nakFor : Option Nat
  ackTx  : Nat
  noKey  : Bool
  ring   : List RingSlot
  claims : List Claim
  txq    : List TxMsg
  buf    : List TxMsg
  naks   : Nat
  nakAt  : Nat
  mapOld : List (Nat × Nat × Word)
  seqTx  : Nat
  heldSched : List (Nat × SchedBody)
  deriving DecidableEq, Repr

/-- A group-scope fence or atomic that the plane carries for this package (R446): the GSEQ of the burst that carries it, and whether it is
an atomic, which is performed in its turn. -/
structure PlaneOp where
  pc  : Word
  u   : Nat
  q   : SeqId
  id  : Nat
  lid : Nat
  gseq : Option Nat
  amo : Bool
  deriving DecidableEq, Repr

/-- Bytes of a command that have left for other packages: a burst (`port` 0, `no` its GSEQ) or a scheduled slot of port `port` - 1 (`no` its
LSEQ), with the command, its chunk, and whether this package has performed the burst (R302, R320, R321). -/
structure Flown where
  port : Nat
  no   : Nat
  u    : Nat
  lid  : Nat
  cmd  : CCmd
  idx  : Nat
  here : Bool
  deriving DecidableEq, Repr

/-- The broadcast plane beside its registers (R443 to R448): `ops` the group-scope operations, `done` those completed;
`arrived` the barrier bursts performed as group and position, `barSent` the groups whose barrier burst this package has sent;
`order` the carried atomics that are still to be performed, in their order in T; `data` the chunks that wait to be sent, `dataId` their commands
and chunks; `lost` the bursts received with an error and how often; `held` bursts received and not performed yet; `kept` bursts this package has sent, `resend` those asked for; `naks` the
naks of the frame `nakAt`; `tokenTo` and `tokenAt` the member the last token burst named and the real cycle of its performance;
`again` the token burst of a member alone in its view; `quota` the bursts sent in this hold; `clockId` the identity of the image and `best` the best grandmaster
heard (R450); `flown` what has been sent; `timeq` the timing messages that wait for a hold; `syncAt` and `gmAt` the real cycles on which
this package has last met a Sync and a message of a grandmaster. -/
structure Plane where
  ops     : List PlaneOp
  done    : List Nat
  order   : List PlaneOp
  arrived : List (Nat × Nat)
  barSent : List Nat
  data    : List BurstData
  dataId  : List (Nat × Nat)
  lost    : Map Nat
  held    : List Burst
  kept    : List Burst
  resend  : List Nat
  naks    : Nat
  nakAt   : Nat
  tokenTo : Nat
  tokenAt : Nat
  again   : Option (Nat × Burst)
  quota   : Nat
  noKey   : Bool
  clockId : Word
  best    : Option (Nat × Nat)
  flown   : List Flown
  timeq   : List TimeSent
  syncAt  : Nat
  gmAt    : Nat
  deriving DecidableEq, Repr

/-- One access as the cadastre stamps it (R286): its core, its unit as Table 11.2 codes it, its place `comp`, `clock` in
the happens-before history, its kind (0 read, 1 write, 2 + scope atomic) and the PHASE register it issued under. -/
structure Stamp where
  u     : Nat
  unit  : Nat
  comp  : Nat
  clock : Nat
  kind  : Nat
  phase : Word
  deriving DecidableEq, Repr

/-- The stamps of one line for one launch (R286). -/
structure LineStamp where
  lid : Nat
  wr  : Option Stamp
  rds : List Stamp
  deriving DecidableEq, Repr

/-- The theodolite, the alarm and the power controller beside their registers (R416, R417, R421 to R424); `tiers` the tiers whose engine
demotes until HIGH is reached (R260), `proceed` the held accesses of replayed launches whose page is resolved (R396), `endedQ` the queues of the launches that have ended in this power window (R417). -/
structure Misc where
  keysErased : Bool
  windowAt   : Nat
  throttled  : List Nat
  slots      : Map Nat
  waits      : Map Nat
  lastBound  : Nat
  lastSlot   : Nat
  rem        : Map Nat
  logPos     : Map Nat
  logHeld    : List Nat
  evHeld     : List (Nat × List Word)
  hung       : List Nat
  recording  : List Nat
  replay     : List Nat
  logHung    : List Nat
  logPend    : List (Nat × List Word)
  poisonMem  : List Nat
  poisonSpad : List (Nat × Nat)
  reload     : List Nat
  tiers      : List Nat
  proceed    : List Nat
  endedQ     : Map Nat
  deriving DecidableEq, Repr

/-- The outcome of the last try to issue: issued, stalled under a condition of Table 5.2, or a cause raised by an
instruction that has issued (brk, trap) or has not. -/
inductive Verdict where
  | issued
  | stalled (cond : Nat)
  | raised (issuing : Bool) (c : CauseArgs)
  deriving DecidableEq, Repr

/-- The micro-steps of a cycle: an event, the window loads and operand reads of an elastic core, which see no write of the cycle (R119,
R133), an issue of one sequencer, the decision which sequencers of a trap domain may issue, the sequencer-port writes at the end of the domain's cycle, and its end. A domain is named by its first unit. -/
inductive Act where
  | ev (i : Instr)
  | reads (u : Nat)
  | issue (u : Nat) (q : SeqId)
  | plan (u : Nat)
  | flush (u : Nat)
  | close (u : Nat) (frozen : Bool)
  deriving DecidableEq, Repr

/-- Whose instruction exec runs. -/
structure Turn where
  u : Nat
  q : SeqId
  deriving DecidableEq, Repr

/-- The state of the whole package. The model's own fields are `turn`, `word`, `verdict`, `agenda`, `inputs`, `free`,
`uid` and `sent` (log 3, log 5). `landed` holds the chunks from other packages that have landed while the add to their byte barrier was
refused (R303): package, core, channel, length and component. -/
structure State where
  now     : Nat
  cores   : Map Core
  ctt     : Map Word
  mem     : Mem
  regs    : Map Word
  tlb     : List TlbEnt
  walks   : List Walk
  outs    : List Out
  shoot   : List (Nat × Nat × Nat × Nat)
  absent  : List (Nat × Nat × Nat × Nat)
  seen    : List TlbEnt
  launches : List Launch
  hbm     : Map StackDie
  ports   : Map Port
  plane   : Plane
  datumNs : Word
  datumFr : Nat
  datumSlew : Int
  lockCnt : Nat
  misc    : Misc
  packets : List PktOut
  remote  : List RemOut
  fires   : List Firing
  stamps  : Map LineStamp
  clocks  : Map (Map Nat)
  tokHb   : Map (List (Nat × Map Nat))
  bbs     : Map (Map Nat × Map Nat)
  landed  : List (Nat × Nat × Nat × Nat × Nat)
  sched   : List (Nat × Nat)
  turn    : Turn
  word    : BitVec 32
  verdict : Verdict
  agenda  : List Act
  inputs  : List (Nat × Instr)
  free    : Nat
  uid     : Nat
  sent    : List OutMsg
  deriving DecidableEq, Repr

/-- Why the machine stops. -/
inductive Fault where
  /-- Raised by step when the agenda or an input names a unit the package does not have: nothing of the spec says what
  such an input does. Safe: the machine stops where hardware has no counterpart. -/
  | noSuchUnit (u : Nat)
  deriving DecidableEq, Repr

/-- Why an instruction has no meaning. -/
inductive Refusal where
  /-- Raised by an arm of exec whose instruction has no meaning yet. Safe: nothing is claimed of it. -/
  | notModelled (mnemonic : String)
  deriving DecidableEq, Repr

/-- R37: a loop register after reset. -/
def Loop.zero : Loop := ⟨0, 0, 0, false⟩
/-- A fault record that holds no cause. -/
def FRec.zero : FRec := ⟨false, 0, 0, 0, 0, 0⟩
/-- R37: a sequencer after reset, halted. -/
def Seq.zero : Seq := ⟨0, false, .zero, .zero, [], 0, 0, [], .zero, false, false, false⟩
/-- R179: the tiles after reset. -/
def Tiles.zero : Tiles := ⟨Vector.replicate 8 0, 0, Vector.replicate 8 0⟩
/-- R189: the real algebra, the reset value of a structure table: NSIG 1 in the header and entry (0, 0) = 0x40. -/
def algReal : BitVec 1024 := BitVec.ofNat 1024 (1 + 0x40 * 2 ^ 64)

/-- R37: a context after reset. -/
def Ctx.zero : Ctx where
  lid := 0
  mode := .elastic
  handler := false
  asid := 0
  gran := 0
  group := 0
  clk := 0
  frzn := 0
  frzs := 0
  s := .zero
  v := .zero
  m := .zero
  c := .zero
  x := Vector.replicate 32 0
  x1 := Vector.replicate 32 0
  x2 := Vector.replicate 32 0
  xo := Vector.replicate 8 0
  xq := Vector.replicate 16 0
  xb := Vector.replicate 3 0
  vr := Vector.replicate 32 0
  vo := Vector.replicate 8 0
  vq := Vector.replicate 16 0
  vb := Vector.replicate 3 0
  mkr := Vector.replicate 8 0
  tiles := .zero
  vtset := 0
  vl0 := .zero
  vl1 := .zero
  a := Vector.replicate 16 0
  g := Vector.replicate 16 0
  tok := Vector.replicate 16 0
  ctok := []
  fq := []
  sq := []
  vflag := Vector.replicate 4 0
  vrm := 0
  vseed := 0
  vsrctr := 0
  awround := 0
  awstat := 0
  valloc := 0
  mcmask := 0
  mdepth := 2
  members := 0
  phase := 0
  variant := 0xF00
  rwin := Vector.replicate 24 0
  alg := Vector.replicate 2 algReal
  lct := Vector.replicate 4 0
  work := []
  vis := []
  cmds := []
  slots := Vector.replicate 8 .empty
  mswap := none
  chans := Vector.replicate 4 ⟨[], 0⟩
  copies := []
  await := []
  rrCh := 3
  roomAt := 0
  rcache := []
  wins := []
  mcast := []
  arrive := []
  endOps := []
  wdogPer := 0
  wdogLeft := 0
  uid0 := 0
  barTry := none
  bar := none
  barSw := none
  barGo := false
  poisoned := false
  poison := []
  accBad := []
  toFill := []
  trap := none
  fresh := []

/-- R37: a core after reset. -/
def Core.zero : Core where
  ctx := .zero
  bank := .zero
  bankKind := .empty
  swap := none
  active := false
  frozen := false
  spad := []
  slog := []
  regions := []
  hevent := 0
  hseq := 0
  hdone := none
  savebase := 0
  savelen := 0
  spillst := 0
  spillpos := 0
  spillgo := false
  frzlim := 0
  frzNs := 0
  ecccnt := 0
  himg := 0
  rows := []
  saved := []
  saved0 := []
  savedRg := []
  fillWant := []
  hpc := 0
  bkcur := 0
  spbase := 0

/-- A base die after reset: every bucket IDLE. -/
def StackDie.zero : StackDie := ⟨[], [], [], [], []⟩
/-- The reduction state of a bucket before its first opening. -/
def Bucket.fresh : Bucket := ⟨[], [], [], [], [], [], [], 0, 0, [], []⟩
/-- A direct port after reset. -/
def Port.zero : Port := ⟨0, 0, none, 2 ^ 24 - 1, false, [], [], [], [], 0, 0, [], 0, []⟩
/-- The plane after reset. -/
def Plane.zero : Plane :=
  ⟨[], [], [], [], [], [], [], [], [], [], [], 0, 0, 0, 0, none, 0, false, 0, none, [], [], 0, 0⟩
/-- The remaining package state after reset. -/
def Misc.zero : Misc := ⟨false, 0, [], [], [], 0, 0, [], [], [], [], [], [], [], [], [], [], [], [], [], [], []⟩

/-- The package after reset: every field as the Reset columns state it, no sequencer running (R37), no memory listed, no
input to come. The identity register stands in the register map's defaults (R457). -/
def State.reset : State where
  now := 0
  cores := []
  ctt := []
  mem := []
  regs := []
  tlb := []
  walks := []
  outs := []
  shoot := []
  absent := []
  seen := []
  launches := []
  hbm := []
  ports := []
  plane := .zero
  datumNs := 0
  datumFr := 0
  datumSlew := 0
  lockCnt := 0
  misc := .zero
  packets := []
  remote := []
  fires := []
  stamps := []
  clocks := []
  tokHb := []
  bbs := []
  landed := []
  sched := []
  turn := ⟨0, .S⟩
  word := 0
  verdict := .issued
  agenda := []
  inputs := []
  free := 0
  uid := 1
  sent := []

end Sys2Proof.Machine
end

