-- ==== Sys2Proof/Machine/Ops.lean ====
section
/-! DEFINITION. The named operations over maps, memory, registers and sequencers; taking an exception (raiseCause) and
returning from one (returnFromHandler). -/
namespace Sys2Proof.Machine

/-- The answer of every meaning. -/
abbrev Res := Host.Outcome State Fault Refusal

/-- The value a sparse map gives a key, `d` for a key it does not list. -/
def mget {α : Type} (d : α) : Map α → Nat → α
  | [], _ => d
  | p :: l, k => if p.1 = k then p.2 else mget d l k
/-- Writes one key of a sparse map, keeping the keys in order. -/
def mput {α : Type} : Map α → Nat → α → Map α
  | [], k, v => [(k, v)]
  | p :: l, k, v => if p.1 = k then (k, v) :: l else if k < p.1 then (k, v) :: p :: l else p :: mput l k v
/-- Drops one key. -/
def mdel {α : Type} (l : Map α) (k : Nat) : Map α := l.filter (fun p => p.1 ≠ k)

/-- One byte of a memory; an unlisted address reads 0 (R37; log 1). -/
def Mem.rd (m : Mem) (a : Nat) : Byte := mget 0 m a
/-- Inserts a byte that is not 0 at an address the memory does not list. -/
def Mem.ins : Mem → Nat → Byte → Mem
  | [], k, v => [(k, v)]
  | p :: l, k, v => if k < p.1 then (k, v) :: p :: l else p :: Mem.ins l k v
/-- Writes one byte and keeps the canonical form. -/
def Mem.wr (m : Mem) (a : Nat) (b : Byte) : Mem :=
  let m' := m.filter (fun p => p.1 ≠ a)
  if b = 0 then m' else Mem.ins m' a b
/-- The canonical form: addresses strictly rising, no byte 0. -/
def Mem.wf (m : Mem) : Bool := decide (m.Pairwise (fun p q => p.1 < q.1)) && m.all (fun p => p.2 ≠ 0)
/-- n bytes from address a up (R7). -/
def Mem.rdN (m : Mem) (a n : Nat) : List Byte := (List.range n).map fun i => m.rd (a + i)
/-- Writes a list of addressed bytes, in order. -/
def Mem.wrL (m : Mem) (l : List (Nat × Byte)) : Mem := l.foldl (fun m p => m.wr p.1 p.2) m

/-- R7: the number that bytes, lowest address first, form. -/
def leNat : List Byte → Nat
  | [] => 0
  | b :: l => b.toNat + 256 * leNat l
/-- R7: the n bytes of a number, lowest address first. -/
def natLe : Nat → Nat → List Byte
  | 0, _ => []
  | n + 1, v => BitVec.ofNat 8 v :: natLe n (v / 256)
/-- Bytes with the addresses they go to, from a up. -/
def atAddr (a : Nat) (l : List Byte) : List (Nat × Byte) := l.zipIdx.map fun p => (a + p.2, p.1)

/-- A field of a 64-bit register, as a number. -/
def bits (w : Word) (hi lo : Nat) : Nat := (w.toNat / 2 ^ lo) % 2 ^ (hi + 1 - lo)
/-- One bit of a register. -/
def bit (w : Word) (i : Nat) : Bool := w.getLsbD i
/-- Replaces a field of a 64-bit register. -/
def setBits (w : Word) (hi lo : Nat) (v : Nat) : Word :=
  let m : Nat := 2 ^ (hi + 1 - lo)
  BitVec.ofNat 64 (w.toNat - (w.toNat / 2 ^ lo) % m * 2 ^ lo + v % m * 2 ^ lo)
/-- A truth value as a bit. -/
def b2n (b : Bool) : Nat := if b then 1 else 0

/-- Element i of a register file. -/
def vget {α : Type} {n : Nat} (v : Vector α n) (i : Nat) (d : α) : α := if h : i < n then v[i] else d
/-- Writes element i of a register file; an index outside it writes nothing. -/
def vset {α : Type} {n : Nat} (v : Vector α n) (i : Nat) (x : α) : Vector α n :=
  if h : i < n then v.set i x else v
/-- R19, R20: a value enters a queue as its newest entry and the oldest is lost. -/
def vpush {α : Type} {n : Nat} (v : Vector α n) (x : α) : Vector α n :=
  Vector.ofFn fun i => if i.val = 0 then x else vget v (i.val - 1) x

/-- Code of a sequencer (R88). -/
def seqCode : SeqId → Nat
  | .S => 0 | .V => 1 | .M => 2 | .C => 3
/-- The sequencer of a 2-bit code (R88). -/
def seqOfCode (n : Nat) : SeqId :=
  match n % 4 with
  | 0 => .S | 1 => .V | 2 => .M | _ => .C

/-- One sequencer of a context. -/
def Ctx.seq (c : Ctx) : SeqId → Seq
  | .S => c.s | .V => c.v | .M => c.m | .C => c.c
/-- Replaces one sequencer of a context. -/
def Ctx.setSeq (c : Ctx) (q : SeqId) (x : Seq) : Ctx :=
  match q with
  | .S => { c with s := x } | .V => { c with v := x } | .M => { c with m := x } | .C => { c with c := x }

/-- Whether a unit is a stack core (R392 numbers them from 384). -/
def isStack (u : Nat) : Bool := decide (Config.nCores ≤ u)
/-- R333: the stack of a stack core. -/
def stackOf (u : Nat) : Nat := (u - 384) / 8
/-- R123: cluster id of a compute core. -/
def clusterOf (u : Nat) : Nat := (u / 24 / 4) * 6 + (u % 24) / 4
/-- R123: cluster index of a compute core. -/
def clusterIdx (u : Nat) : Nat := (u / 24 % 4) * 4 + u % 24 % 4
/-- R123: the core of cluster cid with cluster index k. -/
def coreAt (cid k : Nat) : Nat := (cid / 6 * 4 + k / 4) * 24 + (cid % 6 * 4 + k % 4)
/-- R123, Table 5.1: the die of a cluster. -/
def dieOfCluster (cid : Nat) : Nat := (if cid / 6 ≥ 2 then 2 else 0) + (if cid % 6 ≥ 3 then 1 else 0)
/-- The compute die of a core. -/
def dieOf (u : Nat) : Nat := dieOfCluster (clusterOf u)
/-- R123: the distance of two cluster indices. -/
def distance (j k : Nat) : Nat :=
  (max (j / 4) (k / 4) - min (j / 4) (k / 4)) + (max (j % 4) (k % 4) - min (j % 4) (k % 4))

/-- The core of unit u. -/
def State.core (s : State) (u : Nat) : Core := mget Core.zero s.cores u
/-- Replaces the core of unit u. -/
def State.setCore (s : State) (u : Nat) (c : Core) : State := { s with cores := mput s.cores u c }
/-- Changes the core of unit u. -/
def State.modCore (s : State) (u : Nat) (f : Core → Core) : State := s.setCore u (f (s.core u))
/-- The running context of unit u. -/
def State.ctx (s : State) (u : Nat) : Ctx := (s.core u).ctx
/-- Replaces the running context of unit u. -/
def State.setCtx (s : State) (u : Nat) (c : Ctx) : State := s.modCore u fun k => { k with ctx := c }
/-- Changes the running context of unit u. -/
def State.modCtx (s : State) (u : Nat) (f : Ctx → Ctx) : State := s.setCtx u (f (s.ctx u))
/-- The context of a unit that holds a launch, in the core or in its shadow bank. -/
def State.ctxOf (s : State) (u lid : Nat) : Ctx :=
  let k := s.core u
  if k.ctx.lid = lid then k.ctx
  else if k.bank.lid = lid then k.bank
  else (k.saved.find? fun c => c.lid = lid).getD Ctx.zero
/-- Changes the context of a unit that holds a launch, wherever it is (R369). -/
def State.modCtxOf (s : State) (u lid : Nat) (f : Ctx → Ctx) : State :=
  s.modCore u fun k =>
    if k.ctx.lid = lid then { k with ctx := f k.ctx }
    else if k.bank.lid = lid then { k with bank := f k.bank }
    else { k with saved := k.saved.map fun c => if c.lid = lid then f c else c }

/-- Changes one sequencer of the running context of unit u. -/
def State.modSeq (s : State) (u : Nat) (q : SeqId) (f : Seq → Seq) : State :=
  s.modCtx u fun c => c.setSeq q (f (c.seq q))
/-- The context whose turn it is. -/
def State.me (s : State) : Ctx := s.ctx s.turn.u
/-- Changes the context whose turn it is. -/
def State.modMe (s : State) (f : Ctx → Ctx) : State := s.modCtx s.turn.u f
/-- The sequencer whose turn it is. -/
def State.mySeq (s : State) : Seq := s.me.seq s.turn.q
/-- Changes the sequencer whose turn it is. -/
def State.modSelf (s : State) (f : Seq → Seq) : State := s.modSeq s.turn.u s.turn.q f

/-- Takes the next free value of the service delays (log 5). -/
def State.delay (s : State) : Nat := Config.serviceDelay s.free
/-- R127: as `delay`, for part `n` of a service that sequencer q of unit u of a launch has asked for at an address: where the launch
records or replays, its place in the timetable fixes it (log 5). -/
def State.delayFor (s : State) (u lid : Nat) (q : SeqId) (va n : Nat) : Nat :=
  if lid % 2 ^ 40 ∈ s.misc.recording ∨ lid % 2 ^ 40 ∈ s.misc.replay then Config.placedDelay (4 * u + seqCode q) (s.ctxOf u lid).clk va n
  else s.delay
/-- Advances the counter of free values. -/
def State.tickFree (s : State) : State := { s with free := s.free + 1 }
/-- Advances the counter of identities. -/
def State.tickUid (s : State) : State := { s with uid := s.uid + 1 }

/-- Reset values of the package register space (Tables 17.10, 17.14, 18.10); the rest is 0. -/
def regDefault (off : Nat) : Word :=
  if off = 0 then 0x4453038400000000
  else if off = 0x3020010 then 0x80
  else if 0x1000000 ≤ off ∧ off < 0x1400000 ∧ (off % 0x100000 = 0x10018 ∨ off % 0x100000 = 0x10028) then 0x4000000000000000
  else 0
/-- A register of the package register space, by its offset from the base (R399). -/
def State.reg (s : State) (off : Nat) : Word := mget (regDefault off) s.regs off
/-- Sets a register of the package register space, as the hardware does. -/
def State.setReg (s : State) (off : Nat) (v : Word) : State := { s with regs := mput s.regs off v }

/-- The state of a stack's base die. -/
def State.die (s : State) (k : Nat) : StackDie := mget StackDie.zero s.hbm k
/-- Replaces the state of a stack's base die. -/
def State.setDie (s : State) (k : Nat) (d : StackDie) : State := { s with hbm := mput s.hbm k d }
/-- A direct port. -/
def State.port (s : State) (p : Nat) : Port := mget Port.zero s.ports p
/-- Replaces a direct port. -/
def State.setPort (s : State) (p : Nat) (x : Port) : State := { s with ports := mput s.ports p x }
/-- Something leaves the package. -/
def State.emit (s : State) (m : OutMsg) : State := { s with sent := s.sent ++ [m] }

/-- R424: whether the memory behind a physical address is encrypted under the memory keys. -/
def encrypted (pa : Nat) : Bool := decide (pa < 0x2000000000000)
/-- R390, R424: whether reading these bytes returns poison. -/
def State.physPoison (s : State) (pa n : Nat) : Bool :=
  (s.misc.keysErased && encrypted pa) ||
  (!s.misc.poisonMem.isEmpty && (List.range (n / 64 + 2)).any fun i => decide (64 * (pa / 64 + i) < pa + n) && decide (pa / 64 + i ∈ s.misc.poisonMem))

/-- R371, R137: the units that trap and swap together with unit u: its cluster in timed mode, itself otherwise. -/
def State.domain (s : State) (u : Nat) : List Nat :=
  if (s.ctx u).mode = .timed then
    if (s.ctx u).handler then [u] else (List.range 16).map (coreAt (clusterOf u))
  else [u]

/-- A launch by its identity. -/
def State.launch (s : State) (lid : Nat) : Option Launch := s.launches.find? (fun l => l.id = lid)
/-- R39: whether a launch, or the handler that serves it, has not come to its end. -/
def State.launchLive (s : State) (lid : Nat) : Bool :=
  match s.launch (lid % 2 ^ 40) with | some l => decide (l.st = .running) || decide (l.st = .preempted) | none => false
/-- Changes a launch. -/
def State.modLaunch (s : State) (lid : Nat) (f : Launch → Launch) : State :=
  { s with launches := s.launches.map fun l => if l.id = lid then f l else l }

/-- R418, R419, R420: offset of the block that holds event queue k: 0 to 3 the compute dies, 4 to 11 the stacks. -/
def evBlock (k : Nat) : Nat := if k < 4 then 0x1000000 + 0x100000 * k else 0x2000000 + 0x100000 * (k - 4)
/-- Offset of EVQH of queue k; EVQT stands 8 above it. -/
def evqhOff (k : Nat) : Nat := evBlock k + (if k < 4 then 0x10040 else 0x40040)
/-- Offset of the first record of queue k. -/
def evRecs (k : Nat) : Nat := evBlock k + (if k < 4 then 0x20000 else 0x50000)
/-- R401: the MSI-X vector of queue k. -/
def evVector (k : Nat) : Nat := if k < 4 then 32 + k else 36 + (k - 4)

/-- Writes a record of four words to a ring of the register space at its tail and moves the tail. -/
def State.ringPut (s : State) (recs tailOff : Nat) (ws : List Word) : State :=
  let t := (s.reg tailOff).toNat % 256
  let s := ws.zipIdx.foldl (fun s p => s.setReg (recs + 32 * t + 8 * p.2) p.1) s
  s.setReg tailOff (BitVec.ofNat 64 ((t + 1) % 256))
/-- R418: whether the ring with this head and tail is full. -/
def State.ringFull (s : State) (headOff tailOff : Nat) : Bool :=
  decide (((s.reg tailOff).toNat + 1) % 256 = (s.reg headOff).toNat % 256)

/-- R392, R418: posts an event record to queue k, or holds it while the ring is full. -/
def State.post (s : State) (k : Nat) (ws : List Word) : State :=
  if s.ringFull (evqhOff k) (evqhOff k + 8) then { s with misc := { s.misc with evHeld := s.misc.evHeld ++ [(k, ws)] } }
  else (s.ringPut (evRecs k) (evqhOff k + 8) ws).emit (.msix (evVector k))

/-- R418: whether the unit that posts records of a type to an event queue waits: one of them is held until the head moves. -/
def State.unitWaits (s : State) (k type : Nat) : Bool := s.misc.evHeld.any fun e => decide (e.1 = k) && decide (bits (e.2.headD 0) 63 56 = type)
/-- R392: word 0 of an event record. -/
def evWord0 (type cause unit core : Nat) : Word :=
  BitVec.ofNat 64 (type * 2 ^ 56 + cause % 256 * 2 ^ 48 + unit % 8 * 2 ^ 40 + core % 0x4000 * 2 ^ 26)
/-- R392: the event queue of a unit. -/
def evQueueOf (u : Nat) : Nat := if isStack u then 4 + stackOf u else dieOf u

/-- Table 17.4: launch header fields of word 0 and the addresses the machine uses later. -/
def hdrWord (h : List Word) (i : Nat) : Word := h.getD i 0

/-- The launch that a context serves: a handler context bears the number of its launch plus 2^40, so that its accesses are
its own. -/
def Ctx.launch (c : Ctx) : Nat := if c.lid = 0 then 0 else c.lid % 2 ^ 40
/-- R114: whether a command is a scale load. -/
def CCmd.isScale (k : CCmd) : Bool := match k.op with | .cscl _ _ _ => true | _ => false
/-- R301: whether a chunk of a command is in transfer to memory; the entries of a scale load wait for room in its queue (R112). -/
def CCmd.moving (k : CCmd) : Bool := (k.flights.any fun f => f.at_.isSome) && !k.isScale
/-- R301: whether a chunk of a context is in transfer. -/
def Ctx.moving (c : Ctx) : Bool := c.chans.toList.any fun x => (x.cmds.take 1).any (·.moving)
/-- R114, R377: what is left of a context that is discarded: the chunks in transfer, which finish; scale loads are abandoned. -/
def Ctx.remains (c : Ctx) : Ctx :=
  { c with cmds := [], await := [], copies := [], ctok := []
           chans := c.chans.map fun x => { x with cmds := ((x.cmds.take 1).filter (·.moving)).map fun k =>
             { k with flights := k.flights.takeWhile fun f => f.at_.isSome } } }
/-- R39, R377, R413: what a launch leaves behind when it ends: its contexts are discarded, work not started is dropped, chunks in
transfer and issued stores complete and the side logs drain; a logged store whose replay was refused is discarded (R413). -/
def Core.discard (k : Core) (lid : Nat) : Core :=
  let own (c : Ctx) : Bool := decide (c.launch = lid)
  let left := ((k.ctx :: k.bank :: k.saved).filter fun c => own c && !c.handler && c.moving).map Ctx.remains
  let k := { k with saved := k.saved.filter (fun c => !own c) ++ left, saved0 := k.saved0.filter (fun c => !own c), savedRg := mdel k.savedRg lid,
                    slog := k.slog.filter fun e => ¬ (e.denied ∧ e.lid % 2 ^ 40 = lid) }
  if own k.ctx then
    if own k.bank ∨ k.bank.lid = 0 ∨ k.bank.handler then
      { k with
        ctx := Ctx.zero, bank := Ctx.zero, bankKind := .empty, swap := none, active := false,
        hevent := 0, hseq := 0, hdone := none, rows := [], regions := [], spillst := 0, spillpos := 0, spillgo := false, fillWant := [] }
    else
      { k with
        ctx := Ctx.zero, active := false, hevent := 0, hseq := 0, hdone := none, rows := [], regions := [],
        swap := match k.swap with | some w => (if w.spill then some w else none) | none => none }
  else if own k.bank then { k with bank := Ctx.zero, bankKind := .empty, spillst := 0, spillpos := 0, spillgo := false, fillWant := [] }
  else k

/-- R454: a bucket in UPDATE whose stack core loses its context returns to COMPLETE at the head of the completion
queue. -/
def State.returnBuckets (s : State) (lid : Nat) : State :=
  s.cores.foldl (fun s p =>
    if (p.2.ctx.launch = lid ∨ p.2.bank.lid = lid ∨ p.2.saved.any fun c => decide (c.lid = lid)) ∧ isStack p.1 ∧ bit p.2.bkcur 63 then
      let st := stackOf p.1
      let b := bits p.2.bkcur 43 32
      let off := 0x2000000 + 0x100000 * st + 32 * b + 8
      let s := s.setReg off (setBits (s.reg off) 63 61 2)
      (s.modCore p.1 fun k => { k with bkcur := setBits k.bkcur 63 63 0 }).setDie st
        { s.die st with cq := (0, b) :: (s.die st).cq }
    else s) s

/-- R377, R405, R413: ends a launch with a status, a cause and a detail; the completion is written by LAUNCH_END. Where it was killed the
handler contexts of its cores are reloaded. -/
def State.endLaunch (s : State) (lid : Nat) (status cause detail : Nat) : State :=
  let s := s.returnBuckets lid
  let s := s.modLaunch lid fun l =>
    if l.st = .running ∨ l.st = .preempted then
      { l with st := .ending, status := BitVec.ofNat 8 status, cause := BitVec.ofNat 8 cause,
               detail := BitVec.ofNat 16 detail }
    else l
  let refused := s.cores.flatMap fun p => (p.2.slog.filter fun e => e.denied && decide (e.lid % 2 ^ 40 = lid)).map (·.id)
  { s with
    cores := s.cores.map fun p => (p.1, p.2.discard lid)
    outs := s.outs.filter fun o => decide (o.lid % 2 ^ 40 ≠ lid) ||
      (match o.op with | .store _ => decide (o.id ∉ refused) | .amo _ _ _ _ _ => decide (o.st ≠ .held) | _ => false)
    misc := if status = 3 ∨ status = 4 then
        { s.misc with reload := (s.misc.reload ++ (s.cores.filter fun p => decide (p.2.himg ≠ 0) &&
          (decide (p.2.ctx.launch = lid) || decide (p.2.bank.launch = lid))).map (·.1)).eraseDups }
      else s.misc }

/-- R413: a launch that a cause ends posts event type 6 and its completion has STATUS 2. -/
def State.endByFault (s : State) (u lid : Nat) (c : CauseArgs) (unit : Nat) : State :=
  match s.launch lid with
  | some l =>
    if l.st = .running ∨ l.st = .preempted then
      (s.endLaunch lid 2 c.code.toNat 0).post (evQueueOf u) [evWord0 6 c.code.toNat unit u, c.pc, c.addr, c.info]
    else s
  | none => s

/-- R371, R382, R384: whether a core's shadow bank is ready for a swap to the handler or for a swap-out. -/
def Core.bankReady (k : Core) (spill : Bool) : Bool :=
  if spill then decide (k.bankKind ≠ .spilling) && decide (k.bankKind ≠ .pinned) else decide (k.bankKind = .handler)
/-- R371: the cycle after the 64 of a swap of a domain that begins now: it freezes this cycle where the domain's cycle is still to be
decided, else it begins after this one. -/
def State.swapUntil (s : State) (dom : List Nat) : Nat :=
  s.now + (if s.agenda.any fun a => match a with | .plan j => decide (j = dom.headD 0) | _ => false then 64 else 65)
/-- R137, R371: the cores of a domain begin a swap on one cycle; where a shadow bank of theirs is not ready they first stay
frozen (R384), which `until_ = 0` marks. A swap in progress stands; a swap-out takes the place of a trap that still waits for its bank
(R388), and the context keeps the trap until it runs again (log 81). -/
def State.startSwaps (s : State) (dom : List Nat) (spill : Bool) : State :=
  let t := if dom.all fun j => (s.core j).bankReady spill then s.swapUntil dom else 0
  dom.foldl (fun s j => s.modCore j fun k =>
    match k.swap with
    | none => { k with swap := some ⟨t, !spill, spill⟩ }
    | some w =>
      if spill ∧ w.toHandler ∧ w.until_ = 0 then
        { k with ctx := { k.ctx with trap := some (k.hevent, k.hseq) }, swap := some ⟨t, false, true⟩ }
      else k) s
/-- R364, R371: starts the swap of the whole trap domain of unit u to its handlers. -/
def State.beginSwaps (s : State) (u : Nat) : State := s.startSwaps (s.domain u) false
/-- R382, R395, R397: the trap domain of unit u begins a swap-out that is followed by a spill; a handler context that runs
is not swapped out. -/
def State.swapOut (s : State) (u : Nat) : State :=
  if (s.ctx u).handler then s
  else
    let s := { s with misc := { s.misc with hung := (s.misc.hung ++ s.domain u).eraseDups } }
    s.startSwaps (s.domain u) true

/-- R365: the fault record of a cause. -/
def causeRec (c : CauseArgs) : FRec := ⟨true, c.code, c.n, c.pc, c.addr, c.info⟩

/-- R362 to R365, R379, R413: TAKING AN EXCEPTION, for the sequencer whose turn it is. The cause is recorded, the PC
stays that of the instruction to issue at the resume point, and the trap domain begins its swap to the handler. In a
handler context the handler halts, an event of type 1 is posted and the domain stays out (R379; log 15). A launch without a
handler ends (R413). -/
def raiseCause (c : CauseArgs) (issuing : Bool) (s : State) : State :=
  let u := s.turn.u
  let q := s.turn.q
  let s := { s with verdict := Verdict.raised issuing c }
  if s.me.handler then
    (s.modSelf fun x => { x with run := false }).post (evQueueOf u)
      [evWord0 1 c.code.toNat (seqCode q) u, c.pc, c.addr, c.info]
  else if (s.core u).himg = 0 then s.endByFault u s.me.lid c (seqCode q)
  else
    let s := s.modSelf fun x => { x with fault := causeRec c }
    let s := s.modCore u fun k => { k with hevent := 1, hseq := k.hseq ||| BitVec.ofNat 4 (2 ^ seqCode q) }
    s.beginSwaps u

/-- A cause raised at issue by the current instruction, which has not issued (R362). -/
def raiseAt (code : Nat) (addr info : Word) (n : BitVec 16) (s : State) : State :=
  raiseCause ⟨BitVec.ofNat 8 code, n, s.mySeq.pc, addr, info⟩ false s
/-- 0x01, illegal instruction (R366): INFO holds the word. -/
def raiseIllegal (s : State) : State := raiseAt 0x01 0 (s.word.setWidth 64) 0 s
/-- 0x02, illegal register (R148): INFO holds the word. -/
def raiseRegister (s : State) : State := raiseAt 0x02 0 (s.word.setWidth 64) 0 s
/-- 0x03, misaligned. -/
def raiseAlign (a : Word) (s : State) : State := raiseAt 0x03 a 0 0 s
/-- 0x04, protection. -/
def raiseProt (a : Word) (s : State) : State := raiseAt 0x04 a 0 0 s
/-- 0x06, timing: INFO holds the domain cycle (R130). -/
def raiseTiming (s : State) : State := raiseAt 0x06 0 (BitVec.ofNat 64 s.me.clk) 0 s
/-- 0x08, queue imbalance. -/
def raiseQueue (a : Word) (s : State) : State := raiseAt 0x08 a 0 0 s
/-- 0x0B, tile shape. -/
def raiseShape (s : State) : State := raiseAt 0x0B 0 0 0 s

/-- R377: the cause that a killed launch's completion reports: that of the first fault record in the order of the cores and of S, V, M and
C, or 0 (log 81). -/
def State.trapCause (s : State) (dom : List Nat) : Nat :=
  (dom.findSome? fun j => [SeqId.S, .V, .M, .C].findSome? fun q =>
    let f := ((s.core j).bank.seq q).fault
    if f.v then some f.cause.toNat else none).getD 0
/-- R375: RETURN FROM THE HANDLER of one core: every fault record of the trapped context clears, and the core is marked
done, with the status of `xkill` when that ended it (R377). When every core of the trapped domain is done the swap
back begins, or the launch ends. -/
def returnFromHandler (kill : Option (BitVec 8)) (s : State) : State :=
  let u := s.turn.u
  let clr (q : Seq) : Seq := { q with fault := { q.fault with v := false } }
  let s := s.modCore u fun k =>
    { k with
      bank := if kill.isSome then k.bank else { k.bank with s := clr k.bank.s, v := clr k.bank.v, m := clr k.bank.m, c := clr k.bank.c }
      hdone := some kill }
  let s := s.modSelf fun x => { x with run := false }
  let trapped := (s.core u).bank
  let dom := if trapped.mode = .timed then (List.range 16).map (coreAt (clusterOf u)) else [u]
  if dom.all fun j => (s.core j).hdone.isSome then
    match dom.findSome? fun j => ((s.core j).hdone.getD none) with
    | some st => s.endLaunch trapped.lid 3 (s.trapCause dom) st.toNat
    | none => dom.foldl (fun s j => s.modCore j fun k => { k with swap := some ⟨s.now + 65, false, false⟩ }) s
  else s

/-- R126, R129: the current instruction cannot issue under condition `cond` of Table 5.2; nothing but FRZS changes. -/
def stall (cond : Nat) (s : State) : State :=
  let s := { s with verdict := Verdict.stalled cond }
  let s := s.modSelf fun x => { x with stalled := true }
  if s.me.mode = .timed then s.modMe fun c => { c with frzs := c.frzs ||| BitVec.ofNat 12 (2 ^ cond) } else s

/-- R30: one loop's part of the end check; answers none when it falls through. -/
def Loop.endStep (l : Loop) (pc : Word) : Loop × Option Word :=
  if l.act ∧ pc = l.stop then
    if l.count.toNat > 1 then ({ l with count := l.count - 1 }, some l.start)
    else ({ l with count := 0, act := false }, none)
  else (l, none)
/-- R30: the end check of an instruction that is not a taken branch; the PC becomes that of the next instruction. -/
def Seq.endCheck (x : Seq) : Seq :=
  match x.lp1.endStep x.pc with
  | (l1, some t) => { x with lp1 := l1, pc := t }
  | (l1, none) =>
    match x.lp0.endStep x.pc with
    | (l0, some t) => { x with lp1 := l1, lp0 := l0, pc := t }
    | (l0, none) => { x with lp1 := l1, lp0 := l0, pc := x.pc + 4 }
/-- R27: the instruction issues and the next one issues n cycles later. -/
def advanceBy (n : Nat) (s : State) : State :=
  let s := { s with verdict := Verdict.issued }
  s.modMe fun c => c.setSeq s.turn.q { (c.seq s.turn.q).endCheck with nextAt := c.clk + n, stalled := false }
/-- R27: the instruction issues and is no taken branch. -/
def advance (s : State) : State := advanceBy 1 s

/-- R31: a taken branch clears the loops its target lies outside of. -/
def Loop.jumpStep (l : Loop) (t : Word) : Loop :=
  if l.act ∧ (t.toNat < l.start.toNat ∨ l.stop.toNat < t.toNat) then { l with act := false } else l
/-- R27, R31: a taken branch or jump to t, whose target is legal. -/
def jumpGo (t : Word) (s : State) : State :=
    let s := { s with verdict := Verdict.issued }
    s.modMe fun c =>
      let x := c.seq s.turn.q
      c.setSeq s.turn.q
        { x with pc := t, lp0 := x.lp0.jumpStep t, lp1 := x.lp1.jumpStep t, nextAt := c.clk + 3, stalled := false }
/-- R28: a taken branch or jump to t after the effect k, or the cause its target raises. -/
def jumpWith (t : Word) (k : State → State) (s : State) : State :=
  if t.toNat % 4 ≠ 0 then raiseAlign t s
  else if bit t 63 then raiseProt t s
  else jumpGo t (k s)
/-- R27, R28, R31: a taken branch or jump to t, or the cause its target raises. -/
def jumpTo (t : Word) (s : State) : State := jumpWith t id s

/-- R17: a result enters the ring of the sequencer whose turn it is, to land L cycles after this one. -/
def State.land (s : State) (kind : LandKind) (t : Bool) (dst : BitVec 6) (index : BitVec 13) (v : Wide) (L : Nat) : State :=
  s.modMe fun c => c.setSeq s.turn.q
    { c.seq s.turn.q with ring := (c.seq s.turn.q).ring ++ [⟨c.clk + L, false, kind, t, dst, index, v, 0, none, true⟩] }
/-- R22: a result whose data comes from access `acc`, due L cycles after this one. -/
def State.landWait (s : State) (t : Bool) (dst : BitVec 6) (v : Wide) (L acc : Nat) : State :=
  s.modMe fun c => c.setSeq s.turn.q
    { c.seq s.turn.q with ring := (c.seq s.turn.q).ring ++ [⟨c.clk + L, true, .reg, t, dst, 0, v, acc, none, true⟩] }

/-- R116: a flag slot's new word from the counts of vflag and the old word's GEN. -/
def flagWord (old : Word) (v : Wide) : Word :=
  BitVec.ofNat 64 (v.toNat % 2 ^ 40 + (bits old 47 40 + 1) % 256 * 2 ^ 40)

/-- Adds an effect for the end of the cycle. -/
def State.atEnd (s : State) (e : EndOp) : State := s.modMe fun c => { c with endOps := c.endOps ++ [e] }

end Sys2Proof.Machine
end

