-- ==== Sys2Proof/Machine/Operands.lean ====
section
/-! DEFINITION. The operand forms: the 6-bit operand codes of S (R14 to R16) and V (R147 to R151), the local registers of
M and C, the lagged S registers (R115), lanes, and which codes an instruction may name. -/
namespace Sys2Proof.Machine

/-- Whether an operand code names a main register. -/
def isMain (f : BitVec 6) : Bool := decide (f.toNat < 32)
/-- R15, R20, R154: whether T and a destination code may stand together. -/
def dstOk (t : BitVec 1) (d : BitVec 6) : Bool :=
  if t = 1 then decide (d = 59) else decide (d.toNat < 40) || decide (d = 59)
/-- How many of the codes name main registers. -/
def mains (l : List (BitVec 6)) : Nat := (l.filter isMain).length

/-- R15, R16: whether S may read these source codes in one instruction. -/
def sSrcOk (srcs : List (BitVec 6)) : Bool := srcs.all (fun f => decide (f ≠ 63)) && decide (mains srcs ≤ 2)
/-- R15, R16, R20, R65: whether an S instruction with these fields is legal; `srcs` holds the destination too where the
instruction reads it. -/
def sOk (t : BitVec 1) (d : BitVec 6) (srcs : List (BitVec 6)) : Bool := dstOk t d && sSrcOk srcs

/-- The core id that code 60 yields (R14, R36); on a stack core its unit number (log 16). -/
def coreIdOf (u : Nat) : Word := BitVec.ofNat 64 u
/-- R15, R125: the domain cycle that code 61 and DCYC yield. -/
def dcycle (c : Ctx) (q : SeqId) : Word :=
  if c.mode = .timed then BitVec.ofNat 64 c.clk else BitVec.ofNat 64 (c.seq q).live

/-- R393: the partition of the launch that runs on a unit. -/
def State.partOf (s : State) (u : Nat) : Nat :=
  match s.launch (s.ctx u).launch with
  | some l => bits (l.hdr.getD 0 0) 34 32
  | none => 8

/-- Table 1.2: the value that S reads in an operand field. `dat` is the datum time of the cycle. -/
def sVal (c : Ctx) (u : Nat) (dat : Word) (f : BitVec 6) : Word :=
  let n := f.toNat
  if n < 32 then vget c.x n 0
  else if n < 40 then vget c.xo (n - 32) 0
  else if n < 56 then vget c.xq (n - 40) 0
  else if n < 59 then vget c.xb (n - 56) 0
  else if n = 60 then coreIdOf u
  else if n = 61 then dcycle c .S
  else if n = 62 then dat
  else 0

/-- R115: an S main register as V, M and C see it. -/
def xLag (c : Ctx) (r : Nat) : Word := vget c.x2 r 0

/-- The lane of width w at place i (R149). -/
def lane (v : Wide) (w i : Nat) : Nat := v.toNat / 2 ^ (w * i) % 2 ^ w
/-- Number of lanes of width w. -/
def nLanes (w : Nat) : Nat := 2048 / w
/-- A number from its lanes of width w, lane 0 first. -/
def lanesNat (w : Nat) : List Nat → Nat
  | [] => 0
  | x :: l => x % 2 ^ w + 2 ^ w * lanesNat w l
/-- A register from its lanes of width w, lane 0 first; lanes not given are 0. -/
def ofLanes (w : Nat) (l : List Nat) : Wide := BitVec.ofNat 2048 (lanesNat w l)
/-- The lanes of width w of a register. -/
def lanesOf (w : Nat) (v : Wide) : List Nat := (List.range (nLanes w)).map (lane v w)

/-- R150: the value that V reads in an operand field at lane width w; `x` is the broadcast scalar. -/
def vVal (c : Ctx) (f : BitVec 6) (w : Nat) (x : Word) : Wide :=
  let n := f.toNat
  if n < 32 then vget c.vr n 0
  else if n < 40 then vget c.vo (n - 32) 0
  else if n < 56 then vget c.vq (n - 40) 0
  else if n < 59 then vget c.vb (n - 56) 0
  else if n = 60 then ofLanes w (List.range (nLanes w))
  else if n = 61 then ofLanes w (List.replicate (nLanes w) x.toNat)
  else if n = 62 then BitVec.allOnes 2048
  else 0
/-- R151: the value that V reads through its destination field. -/
def vDst (c : Ctx) (d : BitVec 6) : Wide := if d = 59 then 0 else vVal c d 32 0

/-- R148: whether a field names a main register beyond the allocated count. -/
def vBeyond (c : Ctx) (f : BitVec 6) : Bool := isMain f && decide (c.valloc.toNat ≤ f.toNat)

/-- R150, R151: whether V may read these source codes in a format without xs. -/
def vSrcOk (srcs : List (BitVec 6)) : Bool :=
  srcs.all (fun f => decide (f ≠ 63) && decide (f ≠ 61)) && decide (mains srcs ≤ 3)
/-- R150, R151: whether V may read these source codes in a format whose xs is the broadcast scalar; `extra` is the
destination where it is read as well. -/
def vSrcXOk (srcs : List (BitVec 6)) (x : BitVec 5) (extra : List (BitVec 6)) : Bool :=
  srcs.all (fun f => decide (f ≠ 63)) && decide (mains (srcs ++ extra) ≤ 3) &&
  decide ((srcs.filter (fun f => decide (f = 61))).length ≤ 1) &&
  (srcs.any (fun f => decide (f = 61)) || decide (x = 0))

/-- R157: whether lane i is active. -/
def active (c : Ctx) (m : BitVec 1) (i : Nat) : Bool := if m = 1 then (vget c.mkr 0 0).getLsbD i else true

/-- R152: the mode of VRM for an instruction that rounds under it. -/
def vrmMode (c : Ctx) : Option Rm := if c.vrm.toNat < 4 then Rm.ofCode c.vrm.toNat else none

/-- R200: a local register of M. -/
def aVal (c : Ctx) (r : BitVec 4) : Word := vget c.a r.toNat 0
/-- R292: a local register of C. -/
def gVal (c : Ctx) (r : BitVec 4) : Word := vget c.g r.toNat 0

/-- A 64-bit result as a ring entry holds it. -/
def wide (v : Word) : Wide := v.setWidth 2048

/-- R41: the sign-extended immediate. -/
def sx {n : Nat} (i : BitVec n) : Word := i.signExtend 64

end Sys2Proof.Machine
end

