-- ==== Sys2Proof/Machine/Flags.lean ====
section
/-! DEFINITION. The conditions and flags: branch conditions (Table 3.9), compares (R77, R162), the counts of `vflag`
(R164), and the freeze conditions of Table 5.2. -/
namespace Sys2Proof.Machine

/-- Table 3.9: whether a branch is taken. -/
inductive BrCond where
  | eq | ne | lt | ge | ltu | geu
  deriving DecidableEq, Repr
/-- Table 3.9: the conditions. -/
def BrCond.holds (c : BrCond) (a b : Word) : Bool :=
  match c with
  | .eq => decide (a = b) | .ne => decide (a ≠ b)
  | .lt => a.slt b | .ge => !(a.slt b) | .ltu => a.ult b | .geu => !(a.ult b)

/-- R77: `feq`, `flt`, `fle` by their func code. -/
def fCmp (k : Nat) (x y : Ex) : Bool :=
  match k with
  | 0 => x.eqv y
  | 1 => x.lt y
  | _ => x.lt y || x.eqv y

/-- The operand types of `vcmp`. -/
inductive CmpTy where
  | s32 | b32 | f32 | bf16
  deriving DecidableEq, Repr
/-- R162: the lane width of a compare. -/
def CmpTy.width : CmpTy → Nat
  | .bf16 => 16 | _ => 32
/-- R162: whether a cond code is listed for the type. -/
def CmpTy.condOk (ty : CmpTy) (cond : Nat) : Bool :=
  match ty with
  | .f32 | .bf16 => decide (cond ≤ 4)
  | _ => decide (cond ≤ 3)
/-- R162: whether the condition holds between two lanes. -/
def CmpTy.holds (ty : CmpTy) (cond a b : Nat) : Bool :=
  match ty with
  | .s32 | .b32 =>
    let p := if ty = .s32 then sext a 32 else (a : Int)
    let q := if ty = .s32 then sext b 32 else (b : Int)
    match cond with
    | 0 => decide (p = q) | 1 => decide (p ≠ q) | 2 => decide (p < q) | _ => decide (p ≤ q)
  | .f32 | .bf16 =>
    let f := if ty = .f32 then FFmt.fp32 else FFmt.bf16
    let x := decodeF f a
    let z := decodeF f b
    match cond with
    | 0 => x.eqv z | 1 => !(x.eqv z) | 2 => x.lt z | 3 => x.lt z || x.eqv z
    | _ => decide (x = .nan) || decide (z = .nan)

/-- R164: COUNT, ANY, ALL and NONE of `vflag` as Table 4.7a lays them out, from the active and the set lanes. -/
def flagCounts (act set_ : List Bool) : Nat :=
  let cnt := ((act.zip set_).filter fun p => p.1 && p.2).length
  let n := (act.filter id).length
  cnt + (if cnt > 0 then 2 ^ 32 else 0) + (if cnt = n then 2 ^ 33 else 0) + (if cnt = 0 then 2 ^ 34 else 0)

/-- Table 5.2: data past its deadline. -/
def frzData : Nat := 0
/-- Table 5.2: a `wait` short of pending tokens. -/
def frzWait : Nat := 1
/-- Table 5.2: a tile command awaiting scales. -/
def frzScale : Nat := 2
/-- Table 5.2: a versioned buffer not yet published. -/
def frzVer : Nat := 3
/-- Table 5.2: a fence, barrier or side-log drain. -/
def frzSync : Nat := 4
/-- Table 5.2: a `waitt`. -/
def frzDatum : Nat := 5
/-- Table 5.2: a full copy channel. -/
def frzChan : Nat := 6
/-- Table 5.2: no free side-log entry. -/
def frzLog : Nat := 7
/-- Table 5.2: a throttle slot. -/
def frzThrottle : Nat := 8
/-- Table 5.2: a context swap. -/
def frzSwap : Nat := 9
/-- Table 5.2: the theodolite port. -/
def frzObs : Nat := 10
/-- Table 5.2: an instruction fetch. -/
def frzFetch : Nat := 11
/-- A stall that Table 5.2 does not list (elastic idling, stack waits): no bit of FRZS. -/
def frzNone : Nat := 12

end Sys2Proof.Machine
end

