-- ==== Sys2Proof/Machine/Record.lean ====
section
/-! DEFINITION. Record and replay (R393 to R397): the log of the inputs whose value or order the hardware cannot fix. -/
namespace Sys2Proof.Machine

/-- R393: offset of RRCTL of a partition. -/
def rrctlOff (p : Nat) : Nat := 0x7000000 + 8 * p
/-- R393: physical base of a partition's log. -/
def State.logBase (s : State) (p : Nat) : Nat := bits (s.reg (rrctlOff p)) 47 12 * 4096
/-- R393: length of a partition's log in bytes. -/
def State.logSize (s : State) (p : Nat) : Nat := bits (s.reg (rrctlOff p)) 11 0 * 0x100000

/-- R395: the words of a log record, a header of four words and whole records of further data. -/
def logWords (ty u q cyc : Nat) (data : List Word) : List Word :=
  let pad := (4 - (data.length - 2) % 4) % 4
  BitVec.ofNat 64 (ty * 2 ^ 60 + q * 2 ^ 52 + u * 2 ^ 38) :: BitVec.ofNat 64 cyc ::
    (data ++ List.replicate (if data.length < 2 then 2 - data.length else pad) 0)

/-- The bytes of a list of words (R7). -/
def wordBytes (ws : List Word) : List Byte := ws.flatMap fun w => natLe 8 w.toNat

/-- R395: the units of a partition that run a launch. -/
def State.unitsOf (s : State) (p : Nat) : List Nat :=
  (s.cores.filter fun c => c.2.active ∧ s.partOf c.1 = p).map (·.1)

/-- R395: appends a record to a partition's log; when it has no room the partition's trap domains swap out, event type 9
is posted and the record waits for the next write of RRCTL. -/
def State.logPut (s : State) (p u : Nat) (ws : List Word) : State :=
  let pos := mget 0 s.misc.logPos p
  if p ∈ s.misc.logHeld ∨ pos + 8 * ws.length > s.logSize p then
    let s' := { s with misc := { s.misc with logPend := s.misc.logPend ++ [(p, ws)], logHeld := p :: s.misc.logHeld } }
    let us := s.unitsOf p
    let s' := { s' with misc := { s'.misc with logHung := (s'.misc.logHung ++ us).eraseDups } }
    if p ∈ s.misc.logHeld then s'
    else (us.foldl (fun s j => s.swapOut j) s').post (if u < 448 then evQueueOf u else 0) [evWord0 9 0 7 u, 0, 0, 0]
  else
    { s with
      mem := s.mem.wrL ((atAddr (s.logBase p + pos) (wordBytes ws)).filter fun w => !(s.misc.keysErased && encrypted w.1))
      misc := { s.misc with logPos := mput s.misc.logPos p (pos + 8 * ws.length) } }

/-- R394: logs an input of a sequencer of launch `lid`, wherever its context is, where the launch records. -/
def State.logFor (s : State) (lid ty u : Nat) (q : SeqId) (data : List Word) : State :=
  if lid % 2 ^ 40 ∈ s.misc.recording then
    s.logPut (match s.launch (lid % 2 ^ 40) with | some l => bits (l.hdr.getD 0 0) 34 32 | none => 8) u
      (logWords ty u (seqCode q) (s.ctxOf u lid).clk data)
  else s
/-- R394: logs an input of a sequencer of the running context of a unit. -/
def State.logInput (s : State) (ty u : Nat) (q : SeqId) (data : List Word) : State := s.logFor (s.ctx u).lid ty u q data

/-- Key of the replay position of a sequencer. -/
def replayKey (p u : Nat) (q : SeqId) : Nat := 16 + (p * 512 + u) * 4 + seqCode q

/-- A word of memory at a physical address. -/
def State.memWord (s : State) (a : Nat) : Word := BitVec.ofNat 64 (leNat (s.mem.rdN a 8))
/-- R395: bytes of data that follow a record of type 5 whose second data word is given: those of a write, of the answer to a read, or the
two words that name a race. -/
def arrivalBytes (info : Word) : Nat :=
  match bits info 19 16, bits info 21 20 with
  | 0, 0 | 1, 0 => bits info 12 0
  | _, 3 => 16
  | _, _ => 0
/-- R396: the next log record of a core and sequencer at or after a position: its type, its cycle, its place and the place behind it.
A word of type 0 ends the log. -/
def State.findRec (s : State) (base u : Nat) (q : SeqId) : Nat → Nat → Option (Nat × Nat × Nat × Nat)
  | 0, _ => none
  | n + 1, pos =>
    let w (i : Nat) := s.memWord (base + pos + 8 * i)
    let ty := bits (w 0) 63 60
    let skip := 32 + (if ty = 3 then 64 else if ty = 5 then (arrivalBytes (w 3) + 31) / 32 * 32
      else if ty = 10 ∧ bits (w 0) 53 52 = 1 then 256 else 0)
    if ty = 0 then none
    else if bits (w 0) 51 38 = u ∧ bits (w 0) 53 52 = seqCode q then some (ty, (w 1).toNat, base + pos, pos + skip)
    else s.findRec base u q n (pos + skip)
/-- R396: the next log record of a sequencer. -/
def State.nextRec (s : State) (u : Nat) (q : SeqId) : Option (Nat × Nat × Nat × Nat) :=
  let p := s.partOf u
  s.findRec (s.logBase p) u q (s.logSize p / 32) (mget 0 s.misc.logPos (replayKey p u q))
/-- R396: the log of a sequencer moves on. -/
def State.logMove (s : State) (u : Nat) (q : SeqId) (pos : Nat) : State :=
  { s with misc := { s.misc with logPos := mput s.misc.logPos (replayKey (s.partOf u) u q) pos } }

/-- R396: the logged value for an input of type `ty` at this cycle of a sequencer, where one matches. -/
def State.replayed (s : State) (ty u : Nat) (q : SeqId) : Option (Word × Nat) :=
  match s.nextRec u q with
  | some (t, cyc, at_, pos) => if t = ty ∧ cyc = (s.ctx u).clk then some (s.memWord (at_ + 16), pos) else none
  | none => none

/-- R394, R396: the value an input takes: the logged one in replay mode, the live one otherwise. -/
def State.inputVal (s : State) (ty u : Nat) (q : SeqId) (live : Word) : Word :=
  if (s.ctx u).launch ∈ s.misc.replay then
    match s.replayed ty u q with
    | some (v, _) => v
    | none => live
  else live

/-- R397: an input of a replayed context is not that of the log: its trap domain swaps out and event type 8 is posted. -/
def State.diverge (s : State) (u : Nat) (q : SeqId) (info : Word) : State :=
  (s.swapOut u).post (evQueueOf u) [evWord0 8 0 7 u, ((s.ctx u).seq q).pc, 0, info]

/-- R394 to R397: a sequencer has consumed an input: it is logged in record mode; in replay mode the log moves on, or
a divergence swaps the trap domain out and posts event type 8. -/
def State.inputDone (s : State) (ty u : Nat) (q : SeqId) (live : Word) : State :=
  if (s.ctx u).launch ∈ s.misc.replay then
    match s.replayed ty u q with
    | some (_, pos) => s.logMove u q pos
    | none => s.diverge u q live
  else s.logInput ty u q [live]

/-- R396: whether the launch of a context is replayed. -/
def State.replays (s : State) (lid : Nat) : Bool := decide (lid % 2 ^ 40 ∈ s.misc.replay)
/-- R396: the race that the log has next for a sequencer, in a timed launch on this cycle: its line address, its detail word and the place
behind it. -/
def State.raceLogged (s : State) (u : Nat) (q : SeqId) : Option (Word × Word × Nat) :=
  match s.nextRec u q with
  | some (9, cyc, at_, pos) =>
    if (s.ctx u).mode = .timed ∧ cyc ≠ (s.ctx u).clk then none else some (s.memWord (at_ + 16), s.memWord (at_ + 24), pos)
  | _ => none
/-- R394, R396: a race exception of sequencer q says which access was performed second: it is logged, or taken from the log. -/
def State.raceDone (s : State) (u lid : Nat) (q : SeqId) (c : CauseArgs) : State :=
  if c.code ≠ 0x05 ∨ Config.nUnits ≤ u then s
  else if s.replays lid then match s.raceLogged u q with | some r => s.logMove u q r.2.2 | none => s
  else if lid % 2 ^ 40 ∈ s.misc.recording then s.logPut (s.partOf u) u (logWords 9 u (seqCode q) (s.ctx u).clk [c.addr, c.info])
  else s
/-- R285: the sequencer whose turn it is raises the race that its access meets at issue. -/
def State.raiseRace (s : State) (c : CauseArgs) : State := raiseCause c false (s.raceDone s.turn.u s.me.lid s.turn.q c)

/-- R396: whether the launch of a unit is replayed, so that the ports deliver nothing to it. -/
def State.isReplay (s : State) (u : Nat) : Bool := decide ((s.ctx u).launch ∈ s.misc.replay)

/-- The value of operand code 62 (R14, R394). -/
def State.datumIn (s : State) (u : Nat) (q : SeqId) : Word := s.inputVal 1 u q s.datumNs

/-- The value S reads in an operand field (Table 1.2). -/
def State.rdS (s : State) (f : BitVec 6) : Word := sVal s.me s.turn.u (s.datumIn s.turn.u .S) f

/-- R394: an S instruction that has issued and read the datum has consumed an input; `s` is the state before it. -/
def sawDatum (srcs : List (BitVec 6)) (s s' : State) : State :=
  if decide (s'.verdict = .issued) && srcs.any (fun f => decide (f = 62)) then s'.inputDone 1 s.turn.u .S s.datumNs else s'
/-- An S instruction of the given fields: 0x01 when its operand codes are not legal (R15, R16, R20), else its effect; a
datum it has read is an input of record and replay (R394). -/
def guardS (t : BitVec 1) (d : BitVec 6) (srcs : List (BitVec 6)) (s : State) (k : State → State) : Res :=
  .next <|
    if sOk t d srcs then sawDatum srcs s (k s) else raiseIllegal s
/-- As guardS, for an instruction that writes no register (R65). -/
def guardS0 (srcs : List (BitVec 6)) (s : State) (k : State → State) : Res := guardS 0 0 srcs s k

/-- R67: `land(v, L)` for S. -/
def State.landS (s : State) (t : BitVec 1) (d : BitVec 6) (v : Word) (L : Nat) : State :=
  s.land .reg (decide (t = 1)) d 0 (wide v) L

end Sys2Proof.Machine
end

