-- ==== Sys2Proof/Machine/Races.lean ====
section
/-! DEFINITION. Scopes, the happens-before history and the cadastre (R269 to R291). A history is a vector clock: a map from
components to the number of the last access of the component that is ordered before. A party has one component for the
accesses its timetable fixes (R276) and one for the others; a copy chunk has a component of its own, since a byte barrier
publishes exactly the counted bytes (R279). -/
namespace Sys2Proof.Machine

/-- The larger clock of each component. -/
def vcJoin (a b : Map Nat) : Map Nat := b.foldl (fun a p => if p.2 ≤ mget 0 a p.1 then a else mput a p.1 p.2) a

/-- Component of the untimed accesses of a party of a launch. -/
def compOf (lid u : Nat) (q : SeqId) : Nat := lid * 100000 + u * 4 + seqCode q
/-- Component of its timed accesses (R276). -/
def compTimed (lid u : Nat) (q : SeqId) : Nat := compOf lid u q + 2000
/-- Component of the accesses of a copy chunk. -/
def compChunk (id : Nat) : Nat := 2 ^ 60 + id
/-- Key of what the party has performed or met that only its next synchronising operation publishes. -/
def keyPend (p : Nat) : Nat := p + 2000
/-- Key of the timetable's history at the party's last timed access. -/
def keySnap (p : Nat) : Nat := p + 4000
/-- Key of what the fences of a party have released at a scope. -/
def keyRel (p sc : Nat) : Nat := p + 6000 + 2000 * sc
/-- Key of the accesses of a party that were performed after a later operation of it had been published. -/
def keyLate (p : Nat) : Nat := p + 16000
/-- Component of an access that a party issued under the number `e` and that was performed after a publication (R106). -/
def compLate (p e : Nat) : Nat := 2 ^ 61 + p * 2 ^ 40 + e
/-- Key of what a core has published on its arrival at a barrier (R275). -/
def keyBar (lid u : Nat) : Nat := lid * 100000 + 21000 + u
/-- Key of what a core of another package of the group has written here (R272; log 51). -/
def keyRemote (lid pkg srcU : Nat) : Nat := lid * 100000 + 24000 + pkg * 512 + srcU
/-- Key of what the fences of another package have released (R272). -/
def keyRelR (lid pkg : Nat) : Nat := lid * 100000 + 22100 + pkg
/-- Key of what another package of the group has acquired from this one (R272, R275; log 51). -/
def keyAcqR (lid pkg : Nat) : Nat := lid * 100000 + 22200 + pkg
/-- Key of what precedes the publication of a round of a bucket (R280). -/
def keyPub (st b round : Nat) : Nat := 2 ^ 62 + (st * 4096 + b) * 2 ^ 32 + round
/-- Key of the history of a cluster's timetable. -/
def keyTimed (lid u : Nat) : Nat := lid * 100000 + 20000 + clusterOf u

/-- A stored history. -/
def State.vc (s : State) (k : Nat) : Map Nat := mget [] s.clocks k
/-- Replaces a stored history. -/
def State.setVc (s : State) (k : Nat) (v : Map Nat) : State := { s with clocks := mput s.clocks k v }
/-- Adds to a stored history. -/
def State.joinVc (s : State) (k : Nat) (v : Map Nat) : State := s.setVc k (vcJoin (s.vc k) v)

/-- The number that the next accesses of a party bear. -/
def State.epoch (s : State) (p : Nat) : Nat := mget 0 (s.vc p) p + 1

/-- What an access of a party of context `c` that issues now carries (R281, R282). -/
def State.histOf (s : State) (c : Ctx) (u : Nat) (q : SeqId) : Hist :=
  ⟨s.vc (compOf c.lid u q), if isStack u then 0 else c.phase⟩

/-- R106: what is ordered before an operation of the party that others may follow: the accesses that it has performed; later
ones get a new number. -/
def State.publish (s : State) (lid u : Nat) (q : SeqId) : Map Nat × State :=
  let p := compOf lid u q
  let e := s.epoch p
  let own := mput (mput (s.vc p) p e) (p + 2000) e
  (vcJoin (vcJoin (vcJoin own (s.vc (keyPend p))) (s.vc (keySnap p))) (s.vc (keyLate p)), s.setVc p own)
/-- R281: a synchronising operation of a party: everything before it is ordered before everything after it. -/
def State.syncPoint (s : State) (lid u : Nat) (q : SeqId) : State :=
  let r := s.publish lid u q
  r.2.setVc (compOf lid u q) r.1
/-- Log 78: the window accesses and multicast stores of a core that its timetable has still to perform, each with its party and the
component that it gets when a later operation of the party has been published. -/
def State.inFlight (s : State) (lid u : Nat) : List (SeqId × Nat × Nat) :=
  let c := s.ctxOf u lid
  if c.mode = .timed then
    ((c.wins.map fun w => (w.q, w.hb)) ++ c.mcast.map fun w => (w.q, w.hb)).map fun w =>
      let p := compOf lid u w.1
      (w.1, mget 0 w.2.vc p + 1, compLate p (mget 0 w.2.vc p + 1))
  else []
/-- R273: S has waited for the accesses of V, M and C that its tokens ordered before a fence: those performed late are ordered
too, and so are accesses that the timetable still performs (log 78). -/
def State.releaseLate (s : State) (lid u : Nat) : State :=
  let me := s.vc (compOf lid u .S)
  let fly := (s.inFlight lid u).filter fun w => decide (w.1 = .S) || decide (w.2.1 ≤ mget 0 me (compOf lid u w.1))
  let s := if fly.isEmpty then s else s.joinVc (compOf lid u .S) (fly.map fun w => (w.2.2, 1))
  [SeqId.V, .M, .C].foldl (fun s q =>
    let p := compOf lid u q
    s.joinVc (compOf lid u .S) ((s.vc (keyLate p)).filter fun e => decide (e.1 ≤ compLate p (mget 0 me p)))) s

/-- R270, R333: whether the scope `sc` of a party of unit u includes the parties of unit v. -/
def inScope (sc u v : Nat) : Bool :=
  match sc with
  | 0 => decide (u = v)
  | 1 => if isStack u then isStack v && decide (stackOf u = stackOf v)
         else !(isStack v) && decide (clusterOf u = clusterOf v)
  | 2 => if isStack u then isStack v && decide (stackOf u = stackOf v)
         else !(isStack v) && decide (dieOf u = dieOf v)
  | _ => true

/-- R270, R456: the scope of an operation of a launch with no group domain is at most the package. -/
def State.scopeOf (s : State) (lid u sc : Nat) : Nat := if sc = 4 ∧ (s.ctxOf u lid).group = 0 then 3 else sc
/-- R272, R291: what a party of unit u acquires with an operation of scope `sc` in T: what the constrained pairs of it have released, in
every launch that both scopes include; group scope includes the launches of one group launch. -/
def State.acquireRel (s : State) (lid p u sc : Nat) : State :=
  s.clocks.foldl (fun s' kv =>
    let r := kv.1 % 100000
    let j := (r - 6000) % 2000
    let sc' := (r - 6000) / 2000
    if 2 ^ 60 ≤ kv.1 then s'
    else if 6000 ≤ r ∧ r < 16000 ∧ inScope sc' (j / 4) u ∧ inScope sc u (j / 4) ∧ (kv.1 / 100000 = lid ∨ (sc' ≠ 4 ∧ sc ≠ 4)) then
      s'.joinVc p kv.2
    else if sc = 4 ∧ lid * 100000 + 22100 ≤ kv.1 ∧ kv.1 < lid * 100000 + 22200 then s'.joinVc p kv.2
    else s') s
/-- R272: what a party has done is released at a scope. -/
def State.scRelease (s : State) (lid u : Nat) (q : SeqId) (scope : Nat) : State :=
  let p := compOf lid u q
  let s := (s.releaseLate lid u).syncPoint lid u q
  s.joinVc (keyRel p (s.scopeOf lid u scope)) (s.vc p)
/-- R271 to R274: a sequentially consistent operation takes its place in T. -/
def State.scOp (s : State) (lid u : Nat) (q : SeqId) (scope : Nat) : State :=
  (s.scRelease lid u q scope).acquireRel lid (compOf lid u q) u (s.scopeOf lid u scope)
/-- R446: whether an operation of a scope has its place in T by a burst, and takes no other. -/
def State.carriedOp (s : State) (lid u scope : Nat) : Bool := decide (scope = 4) && decide ((s.ctxOf u lid).group ≠ 0)
/-- R271, R446: an operation takes its place in T, but for one that a burst has carried there. -/
def State.scFirst (s : State) (lid u : Nat) (q : SeqId) (scope : Nat) : State :=
  if s.carriedOp lid u scope then s else s.scOp lid u q scope
/-- R274, R446: what an atomic has done stands at its place in T. -/
def State.scLast (s : State) (lid u : Nat) (q : SeqId) (scope : Nat) : State :=
  if s.carriedOp lid u scope then s.scRelease lid u q scope else s.scOp lid u q scope
/-- R271, R272: fences of cores of another package take their places in T: what those cores have written here is released, and that package
acquires what operations of group scope have released here. -/
def State.scRemote (s : State) (lid pkg : Nat) (cores : List Nat) : State :=
  let s := cores.foldl (fun s c => s.joinVc (keyRelR lid pkg) (s.vc (keyRemote lid pkg c))) s
  s.clocks.foldl (fun s' kv =>
    if lid * 100000 + 14000 ≤ kv.1 ∧ kv.1 < lid * 100000 + 16000 then s'.joinVc (keyAcqR lid pkg) kv.2 else s') s

/-- R272, R281: what a chunk that another package may wait for carries there; that package has acquired it from then on (log 51). -/
def State.tellPeer (s : State) (lid pkg : Nat) (h : Map Nat) : State := if h.isEmpty then s else s.joinVc (keyAcqR lid pkg) h
/-- R106: tokens carry what the issuing sequencer has performed. -/
def State.tokenPut (s : State) (lid u : Nat) (src dst : SeqId) (n : Nat) : State :=
  if n = 0 then s else
  let r := s.publish lid u src
  let key := (lid * 512 + u) * 16 + seqCode src * 4 + seqCode dst
  { r.2 with tokHb := mput r.2.tokHb key (mget [] r.2.tokHb key ++ [(n, r.1)]) }
/-- Takes n tokens off the front of a queue's history; answers what they carry. -/
def takeTok : Nat → List (Nat × Map Nat) → Map Nat → List (Nat × Map Nat) × Map Nat
  | _, [], acc => ([], acc)
  | n, t :: r, acc =>
    if n = 0 then (t :: r, acc)
    else if t.1 ≤ n then takeTok (n - t.1) r (vcJoin acc t.2)
    else ((t.1 - n, t.2) :: r, vcJoin acc t.2)
/-- R106: a `wait` has taken n tokens. -/
def State.tokenTake (s : State) (lid u : Nat) (src dst : SeqId) (n : Nat) : State :=
  let key := (lid * 512 + u) * 16 + seqCode src * 4 + seqCode dst
  let r := takeTok n (mget [] s.tokHb key) []
  { s with tokHb := mput s.tokHb key r.1 }.joinVc (compOf lid u dst) r.2

/-- R275: a core arrives at a barrier: what its four sequencers have issued until now is what the barrier orders, the accesses of its
timetable that are still to come among it (log 78). -/
def State.barrierArrive (s : State) (lid u : Nat) : State :=
  let qs := [SeqId.S, .V, .M, .C]
  let s := qs.foldl (fun s q => s.syncPoint lid u q) s
  s.setVc (keyBar lid u) (qs.foldl (fun a q => vcJoin a (s.vc (compOf lid u q))) ((s.inFlight lid u).map fun w => (w.2.2, 1)))
/-- R275: a barrier of the given member units completes. -/
def State.barrierHb (s : State) (lid : Nat) (units : List Nat) : State :=
  let all := units.foldl (fun a u => vcJoin a (s.vc (keyBar lid u))) []
  (units.flatMap fun u => [(u, SeqId.S), (u, .V), (u, .M), (u, .C)]).foldl (fun s p => s.joinVc (compOf lid p.1 p.2) all) s

/-- R280, R355: a stack core publishes a version of a bucket: what S and V have done comes before every access behind a versioned copy of it. -/
def State.publishHb (s : State) (lid u st b round : Nat) : State :=
  let x := s.publish lid u .S
  let y := x.2.publish lid u .V
  y.2.joinVc (keyPub st b round) (vcJoin x.1 y.1)

/-- R278, R279: a chunk's bytes are counted into a byte barrier, `h` being the chunk with what happens before it (R281); `flip`
when the count completes the phase. -/
def State.bbCount (s : State) (u off : Nat) (h : Map Nat) (flip : Bool) : State :=
  let k := u * 2 ^ 21 + off
  let b := mget ([], []) s.bbs k
  { s with bbs := mput s.bbs k (if flip then ([], vcJoin b.1 h) else (vcJoin b.1 h, b.2)) }
/-- R279: what a wait acquires that has observed a flip. -/
def State.bbHist (s : State) (bbU off : Nat) : Map Nat := (mget ([], []) s.bbs (bbU * 2 ^ 21 + off)).2
/-- R279: a wait has observed a flip. -/
def State.bbAcquire (s : State) (lid u : Nat) (q : SeqId) (bbU off : Nat) : State :=
  (s.syncPoint lid u q).joinVc (compOf lid u q) (s.bbHist bbU off)

/-- R287: the core number of the detail word; a unit of another package is held as 100000 plus that number. -/
def ocore (pkg u : Nat) : Nat :=
  if 100000 ≤ u then u - 100000 else if isStack u then 12288 + pkg * 64 + (u - 384) else pkg * 384 + u
/-- R282, R287, R458: the level of the smallest common domain of two units. -/
def levelOf (u v : Nat) : Nat :=
  if 100000 ≤ u ∨ 100000 ≤ v then 5
  else if isStack u ∨ isStack v then 4
  else if clusterOf u = clusterOf v then 2
  else if dieOf u = dieOf v then 3 else 4
/-- R142: the phase number of a level in a PHASE register. -/
def phaseAt (phase : Word) (level : Nat) : Nat := bits phase (16 * (level - 2) + 15) (16 * (level - 2))

/-- R287: the detail word of a race. -/
def raceDetail (pkg : Nat) (other : Stamp) (skind : Nat) (u : Nat) (phase : Word) : Word :=
  let lv := levelOf u other.u
  BitVec.ofNat 64 (ocore pkg other.u * 2 ^ 50 + other.unit * 2 ^ 47 + min other.kind 2 * 2 ^ 45 + min skind 2 * 2 ^ 43 +
    lv * 2 ^ 40 + phaseAt phase lv)

/-- R274: whether two atomics include each other in their scopes; kinds are 2 + scope. -/
def atomicPair (a : Stamp) (b : Stamp) : Bool :=
  decide (2 ≤ a.kind) && decide (2 ≤ b.kind) && inScope (a.kind - 2) a.u b.u && inScope (b.kind - 2) b.u a.u

/-- R282: whether a stamped access and a new one form a race; `hb` and `tm` are the histories the new one has. -/
def isRace (st me : Stamp) (hb tm : Map Nat) : Bool :=
  decide (st.u ≠ me.u) && (decide (st.kind ≠ 0) || decide (me.kind ≠ 0)) && !(atomicPair st me) &&
  !(decide (st.clock ≤ mget 0 hb st.comp) || decide (st.clock ≤ mget 0 tm st.comp)) &&
  decide (phaseAt st.phase (levelOf st.u me.u) = phaseAt me.phase (levelOf st.u me.u))

/-- Key of the stamps of a line for a launch: a stamp that another launch left counts as absent (R286). -/
def stampKey (lid key : Nat) : Nat := lid * 2 ^ 80 + key
/-- The stamps of a line that belong to a launch (R286). -/
def State.lineStamp (s : State) (lid key : Nat) : LineStamp := mget ⟨lid, none, []⟩ s.stamps (stampKey lid key)

/-- R282, R284, R287: the line and stamp that a new access to lines `keys` races with: of several (log 83) the first line, and there the
write before the reads, the newest read first. -/
def State.raceWith (s : State) (lid : Nat) (me : Stamp) (hb tm : Map Nat) (keys : List Nat) :
    Option (Nat × Stamp) :=
  keys.findSome? fun k =>
    let l := s.lineStamp lid k
    (match l.wr with
     | some w => if isRace w me hb tm then some w else l.rds.find? fun r => isRace r me hb tm
     | none => l.rds.find? fun r => isRace r me hb tm).map fun st => (k, st)

/-- R286: stamps the lines with an access that raced with none; of the reads of one component in one phase the newest stands for all. -/
def State.stampLines (s : State) (lid : Nat) (me : Stamp) (keys : List Nat) : State :=
  { s with
    stamps := keys.foldl (fun m k =>
      let l := mget ⟨lid, none, []⟩ m (stampKey lid k)
      mput m (stampKey lid k) (if me.kind = 0 then { l with rds := me :: l.rds.filter (fun r => decide (r.comp ≠ me.comp) || decide (r.phase ≠ me.phase)) }
                else ⟨lid, some me, []⟩)) s.stamps }
/-- The stamps of two copies of a line as one (R286): every access of both is kept, the later-stamped write first. -/
def LineStamp.merge (a b : LineStamp) : LineStamp :=
  match a.wr, b.wr with
  | none, w => ⟨a.lid, w, a.rds ++ b.rds⟩
  | some w, none => ⟨a.lid, some w, a.rds ++ b.rds⟩
  | some w, some x => ⟨a.lid, some w, a.rds ++ x :: b.rds⟩
/-- R253, R261, R286: the stamps of `n` lines from key `from_` go to the lines from key `to_`, for every launch. -/
def State.moveStamps (s : State) (from_ to_ n : Nat) : State :=
  let here (k : Nat) : Bool := decide (from_ ≤ k % 2 ^ 80) && decide (k % 2 ^ 80 < from_ + n)
  let mv := s.stamps.filter fun p => here p.1
  { s with
    stamps := mv.foldl (fun m p =>
      let k := p.1 / 2 ^ 80 * 2 ^ 80 + (p.1 % 2 ^ 80 - from_ + to_)
      mput m k (LineStamp.merge p.2 (mget ⟨p.2.lid, none, []⟩ m k))) (s.stamps.filter fun p => !here p.1) }

/-- The lines of byte addresses in a space, each once. -/
def lineKeys (base : Nat) (addrs : List Nat) : List Nat := (addrs.map fun a => base + a / 64).eraseDups
/-- Line keys of a unit's scratchpad. -/
def spadKeyBase (u : Nat) : Nat := 2 ^ 58 + u * 2 ^ 20
/-- Line keys of a read-duplicated page, by virtual address (R252, R286). -/
def dupKeyBase (asid : BitVec 16) : Nat := 2 ^ 70 + asid.toNat * 2 ^ 60

/-- Offset of the scratchpad line of a key. -/
def keyOff (key : Nat) : Nat := key % 2 ^ 20 * 64
/-- Unit whose scratchpad a key lies in. -/
def keyUnit (key : Nat) : Nat := (key - 2 ^ 58) / 2 ^ 20

/-- Who makes an access: unit, sequencer charged, unit code of Table 11.2, launch, history at issue, PHASE at issue, and the unit whose
region claims do not bar it: its own, or the one whose map unit fills a region (R256, R288). -/
structure Acc where
  u     : Nat
  q     : SeqId
  unit  : Nat
  lid   : Nat
  hb    : Map Nat
  phase : Word
  comp  : Option Nat
  home  : Nat
  deriving DecidableEq, Repr

/-- R138, R287: the package position of the party of an access that is made in this package. -/
def State.pkgOf (s : State) (u lid : Nat) : Nat :=
  if u < Config.nUnits then bits (s.ctxOf u lid).members 36 32 else bits (s.reg 0x3010000) 52 48
/-- The access identity of a sequencer that issues now. -/
def State.accOf (s : State) (u : Nat) (q : SeqId) : Acc :=
  let c := s.ctx u
  let h := s.histOf c u q
  ⟨u, q, if isStack u then 5 else seqCode q, c.lid, h.vc, h.phase, none, u⟩

/-- R282, R284, R287: the line and the detail word of the race that an access completes; of a replayed launch the log says so (R396). -/
def State.raceAt (s : State) (a : Acc) (me : Stamp) (tm : Map Nat) (keys : List Nat) : Option (Nat × Word) :=
  if s.replays a.lid && decide (a.u < Config.nUnits) then
    match s.raceLogged a.u a.q with
    | some (ad, det, _) => (keys.find? fun k => decide (k % 1024 = ad.toNat / 64 % 1024)).map fun k => (k, det)
    | none => none
  else (s.raceWith a.lid me a.hb tm keys).map fun r =>
    (r.1, raceDetail (s.pkgOf a.u a.lid) r.2 me.kind a.u a.phase)
/-- R266, R282 to R287: an access to lines `keys` is performed: either it races, and the line and the detail word answer, or the
lines are stamped. `timed` marks an access that the timetable fixes (R276): it is ordered after everything the timetable holds,
and what is before it is before what the timetable orders later (R281). -/
def State.access (s : State) (a : Acc) (kind : Nat) (timed : Bool) (keys : List Nat) :
    Option (Nat × Word) × State :=
  let p := compOf a.lid a.u a.q
  let tk := keyTimed a.lid a.u
  let tm := if timed then s.vc tk else []
  let now := mget 0 (s.vc p) p
  let iss := mget 0 a.hb p + 1
  let late := a.comp.isNone && decide (iss ≤ now)
  let ce : Nat × Nat := match a.comp with
    | some c => (c, 1)
    | none => if late then (compLate p iss, 1) else if timed then (p + 2000, now + 1) else (p, now + 1)
  let me : Stamp := ⟨a.u, a.unit, ce.1, ce.2, kind, a.phase⟩
  match s.raceAt a me tm keys with
  | some r => (some r, s)
  | none =>
    let s := s.stampLines a.lid me keys
    if timed then
      let k' := vcJoin (mput (s.vc tk) ce.1 (max ce.2 (mget 0 (s.vc tk) ce.1))) a.hb
      (none, let s := (s.setVc tk k').setVc (keySnap p) k'; if late then s.joinVc (keyLate p) [ce] else s)
    else if late then (none, s.joinVc (keyLate p) [ce])
    else (none, s)

/-- R254, R288: the regions that a core holds for a launch: bound in its running context or its trapped one, or kept with the
context that the spill has written out. -/
def Core.regionsOf (k : Core) (lid : Nat) : Map Region :=
  if k.ctx.launch = lid ∧ lid ≠ 0 then k.regions else (mget ([], 0, 0) k.savedRg lid).1
/-- R288: a claim of another core of the launch that forbids an access to global bytes of [va, va + n), with the first byte
that it covers. -/
def State.claimed (s : State) (a : Acc) (asid : BitVec 16) (va n : Nat) (write : Bool) : Option (Nat × Nat) :=
  s.cores.findSome? fun p =>
    if p.1 = a.u ∨ p.1 = a.home then none
    else (p.2.regionsOf a.lid).findSome? fun r =>
      let lo := r.2.va.toNat
      if r.2.asid = asid ∧ va < lo + 4096 * r.2.chunks ∧ lo < va + n ∧ (write ∨ r.2.wb) then some (p.1, max va lo) else none
/-- R287, R288: the detail word of a region claim. -/
def claimDetail (pkg other u skind : Nat) (phase : Word) : Word :=
  let lv := levelOf u other
  BitVec.ofNat 64 (ocore pkg other * 2 ^ 50 + 4 * 2 ^ 47 + 3 * 2 ^ 45 + skind * 2 ^ 43 + lv * 2 ^ 40 + phaseAt phase lv)

/-- A cause raised by a race: its line address and detail word (R285). -/
def raceCause (pc : Word) (line : Nat) (detail : Word) : CauseArgs :=
  ⟨0x05, 0, pc, BitVec.ofNat 64 (line / 64 * 64), detail⟩

end Sys2Proof.Machine
end

