-- ==== Sys2Proof/Machine/Global.lean ====
section
/-! DEFINITION. Global addresses: translation (R232 to R245), the list addresses of stack cores (R335, R336), outstanding
accesses, page-fault records and the side log (R246 to R251). -/
namespace Sys2Proof.Machine

/-- R234, Table 10.1: whether a physical address exists. -/
def paOk (pa : Nat) : Bool :=
  decide (pa < 0x6000000000) || (decide (0x1000000000000 ≤ pa) && decide (pa < 0x1100000000000)) ||
  (decide (0x2000000000000 ≤ pa) && decide (pa < 0x3000000000000)) ||
  (decide (0x3000000000000 ≤ pa) && decide (pa < 0x3000100000000))
/-- R233: bytes of a page by its size code. -/
def pageBytes (sz : Nat) : Nat := if sz = 0 then 0x10000 else if sz = 1 then 0x200000 else 0x40000000
/-- R240: the fields of a response word. -/
def respStatus (r : Word) : Nat := bits r 63 62
/-- R240: SIZE. -/
def respSize (r : Word) : Nat := bits r 61 60
/-- R240: PA. -/
def respPa (r : Word) : Nat := bits r 51 16 * 65536
/-- R240: the response is a mapping that holds. -/
def respMaps (r : Word) : Bool :=
  decide (respStatus r = 0) && decide (respSize r ≠ 3) && decide (respPa r % pageBytes (respSize r) = 0) &&
  paOk (respPa r) && paOk (respPa r + pageBytes (respSize r) - 1)
/-- R240: the response says that the page is absent. -/
def respAbsent (r : Word) : Bool := decide (respStatus r = 1) && decide (respSize r ≠ 3)
/-- A response that denies (R240). -/
def respDeny : Word := 0x8000000000000000
/-- R240, R252: DUP, W and R of a response. -/
def respDup (r : Word) : Bool := bit r 59
/-- R240: W. -/
def respW (r : Word) : Bool := bit r 58
/-- R240: R. -/
def respR (r : Word) : Bool := bit r 57

/-- R237: whether an entry translates an address. -/
def TlbEnt.hits (e : TlbEnt) (asid : BitVec 16) (va : Nat) : Bool :=
  decide (e.asid = asid) && decide (e.va ≤ va) && decide (va < e.va + pageBytes (respSize e.resp))
/-- R237: what the translation caches of a cluster and of its die hold for an address. -/
def State.tlbFind (s : State) (cluster : Nat) (asid : BitVec 16) (va : Nat) : Option Word :=
  match s.tlb.find? fun e => !e.die && decide (e.at_ = cluster) && e.hits asid va with
  | some e => some e.resp
  | none =>
    match s.tlb.find? fun e => e.die && decide (e.at_ = dieOfCluster cluster) && e.hits asid va with
    | some e => some e.resp
    | none => none
/-- R237, log 14: an entry enters a cache; beyond the cache's size the oldest leaves. -/
def tlbAdd (l : List TlbEnt) (e : TlbEnt) : List TlbEnt :=
  let same (x : TlbEnt) : Bool := decide (x.die = e.die) && decide (x.at_ = e.at_)
  let l := l.filter fun x => !(same x && decide (x.asid = e.asid) && decide (x.va = e.va))
  let cap := if e.die then 16384 else 2048
  if (l.filter same).length < cap then l ++ [e]
  else match l.findIdx? same with
    | some i => l.eraseIdx i ++ [e]
    | none => l ++ [e]

/-- R335: the outcomes of a translation. -/
inductive Tr where
  | ok (pa : Nat) (resp : Word)
  | miss
  | stall
  | deny
  deriving DecidableEq, Repr

/-- R335, R336: a stack core's list address for an access of n bytes. -/
def State.xlateList (s : State) (st : Nat) (va n : Nat) : Tr :=
  let e := s.reg (0x2000000 + 0x100000 * st + 0x30000 + 8 * (va / 2 ^ 30 % 4096))
  let off := va % 2 ^ 30
  let sz := bits e 61 60
  let pa := bits e 51 16 * 65536
  let bad := sz = 3 ∨ pa < Config.stackBytes * st ∨ Config.stackBytes * (st + 1) < pa + pageBytes sz
  if va ≥ 2 ^ 42 then .deny
  else if bad ∨ (bit e 63 = false ∧ bit e 62 = false) then .deny
  else if off + n > pageBytes sz then .deny
  else if bit e 62 then .stall
  else .ok (pa + off) (0x0600000000000000 ||| BitVec.ofNat 64 pa)

/-- R352: whether another stack core of unit u's stack holds a row of 2 KiB that n bytes at a list address touch. -/
def State.rowHeld (s : State) (u va n : Nat) : Bool :=
  s.cores.any fun p => decide (p.1 ≠ u) && isStack p.1 && decide (stackOf p.1 = stackOf u) &&
    p.2.rows.any fun r => decide (r * 2048 < va + n) && decide (va < r * 2048 + 2048)

/-- R232, R237, R335, R352: translates an address of a unit. -/
def State.xlate (s : State) (u : Nat) (asid : BitVec 16) (va n : Nat) : Tr :=
  if isStack u then
    match s.xlateList (stackOf u) va n with
    | .ok pa r => if s.rowHeld u va n then .stall else .ok pa r
    | t => t
  else if va ≥ 2 ^ 57 then .deny
  else match s.tlbFind (clusterOf u) asid va with
    | some r => .ok (respPa r + va % pageBytes (respSize r)) r
    | none => .miss

/-- R419: base of a compute die's register block. -/
def dieBlock (d : Nat) : Nat := 0x1000000 + 0x100000 * d
/-- R238: raises the walker error count of a die by one. -/
def State.walkErr (s : State) (d : Nat) : State :=
  let o := dieBlock d + 0x10008
  s.setReg o (BitVec.ofNat 64 (((s.reg o).toNat + 1) % 2 ^ 32))

/-- R237 to R239: a miss starts a walk on the die, or joins one. An invalid table entry or an absent routine is answered
as a denial; otherwise the routine, which is passed ROOT, is to answer (log 6). A miss beyond 512 walks waits for one to finish. Log 76: an
entry's reserved bits are not looked at, and a miss joins the walk of its 64 KiB page. -/
def State.startWalk (s : State) (u : Nat) (q : SeqId) (asid : BitVec 16) (va kind : Nat) : State :=
  let d := dieOf u
  if s.walks.any (fun w => decide (w.die = d) && decide (w.asid = asid) && decide (w.va / 65536 = va / 65536)) then s
  else if (s.walks.filter fun w => decide (w.die = d)).length ≥ 512 then s
  else
    let at_ := bits (s.reg (dieBlock d + 0x10000)) 51 12 * 4096 + 16 * asid.toNat
    let ent := leNat (s.mem.rdN at_ 8)
    let root := BitVec.ofNat 64 (leNat (s.mem.rdN (at_ + 8) 8) % 2 ^ 52)
    let rout := s.reg (dieBlock d + 8 * (ent / 16 % 16))
    let bad := s.physPoison at_ 16
    let deny := bad || decide (ent % 2 = 0) || decide (rout = 0)
    let w : Walk := ⟨s.uid, d, asid, va, kind, u, q, root, if deny then some respDeny else none⟩
    let s := { s with walks := s.walks ++ [w], uid := s.uid + 1 }
    if bad || (decide (ent % 2 = 1) && decide (rout = 0)) then s.walkErr d else s

/-- Whether a walk for an address is outstanding on a die. -/
def State.walking (s : State) (d : Nat) (asid : BitVec 16) (va : Nat) : Bool :=
  s.walks.any fun w => decide (w.die = d) && decide (w.asid = asid) && decide (w.va / 65536 = va / 65536)

/-- R245, R418: posts a page-fault record for an absent page, unless one for the same page is unresolved on the die. -/
def State.pageFault (s : State) (d u : Nat) (q : SeqId) (asid : BitVec 16) (va kind size : Nat) : State :=
  let page := va / pageBytes size * pageBytes size
  if s.absent.any (fun a => decide (a = (d, asid.toNat, page, size))) then s
  else
    let s := { s with absent := s.absent ++ [(d, asid.toNat, page, size)] }
    let w1 := asid.toNat * 2 ^ 48 + kind * 2 ^ 44 + (if u < 448 then u else 0x1FF) % 512 * 2 ^ 32 + seqCode q * 2 ^ 30
    let ws := [BitVec.ofNat 64 (va % 2 ^ 57), BitVec.ofNat 64 w1, 0, 0]
    let h := dieBlock d + 0x10050
    if s.ringFull h (h + 8) then { s with misc := { s.misc with evHeld := s.misc.evHeld ++ [(100 + d, ws)] } }
    else (s.ringPut (dieBlock d + 0x30000) (h + 8) ws).emit (.msix (32 + d))

/-- The kind of an access in page-fault records (Table 17.13). -/
def OutOp.kind : OutOp → Nat
  | .load _ _ => 0 | .vload => 0 | .store _ => 2 | .amo _ _ _ _ _ => 3 | .operand _ => 7 | .fill _ _ _ => 4
  | .xlat k _ => k
/-- Bytes an access touches. -/
def OutOp.size : OutOp → Nat
  | .load z _ => z | .vload => 256 | .store wr => wr.length | .amo _ z _ _ _ => z | .operand _ => 64
  | .fill _ _ _ => 4096 | .xlat _ _ => 1
/-- Whether an access reads as R244 orders loads. -/
def OutOp.isLoad : OutOp → Bool
  | .load _ _ => true | .vload => true | .amo _ _ _ _ _ => true | _ => false
/-- Whether an access is a store that the side log covers. -/
def OutOp.isStore : OutOp → Bool
  | .store _ => true | _ => false
/-- R242: whether a response permits an access. -/
def OutOp.allowed (op : OutOp) (r : Word) : Bool :=
  match op with
  | .store _ => respW r
  | .amo _ _ _ _ _ => respR r && respW r
  | .xlat 5 _ => respW r
  | _ => respR r
/-- R242: access kinds by their code: whether a response permits them. -/
def kindAllowed (kind : Nat) (r : Word) : Bool :=
  if kind = 2 ∨ kind = 5 then respW r else if kind = 3 then respR r && respW r else respR r

/-- R242, R303, R413: a cause that reaches a sequencer after issue is raised on its first instruction to reach issue; where
the sequencer has halted, the cause ends the launch. -/
def State.deliverTo (s : State) (u lid : Nat) (q : SeqId) (c : CauseArgs) : State :=
  let x := s.ctxOf u lid
  if (x.seq q).run then
    s.modCtxOf u lid fun x => x.setSeq q { x.seq q with deliver := (x.seq q).deliver ++ [c] }
  else if x.handler then s.post (evQueueOf u) [evWord0 1 c.code.toNat (seqCode q) u, c.pc, c.addr, c.info]
  else s.endByFault u lid c (seqCode q)

/-- R302: a performed command is complete, and leaves the commands that await completion. -/
def State.endAwait (s : State) (u lid : Nat) (k : CCmd) : State :=
  s.modCtxOf u lid fun c => { c with await := c.await.filter (fun x => x.id ≠ k.id), copies := c.copies.filter (· ≠ k.id) }

/-- A new outstanding access of the sequencer whose turn it is; its identity is `s.uid`. -/
def State.newOut (s : State) (op : OutOp) (va : Nat) : State :=
  let u := s.turn.u
  let c := s.me
  let o : Out := ⟨s.uid, u, s.turn.q, c.lid, s.mySeq.pc, c.asid, BitVec.ofNat 64 va, op, .queued,
    s.now + 1 + s.delayFor u c.lid s.turn.q va 0, [], false, none, s.histOf c u s.turn.q⟩
  { s.tickFree with outs := s.outs ++ [o], uid := s.uid + 1 }

/-- R246: entries of the side log in use. -/
def Core.logUsed (k : Core) : Nat := k.slog.length
/-- R251: the SLSTAT register. -/
def Core.slstat (k : Core) : Word :=
  let lg := k.slog.filter (·.logged)
  let sq (q : SeqId) : Nat := b2n (lg.any fun e => e.q = q)
  BitVec.ofNat 64 (k.slog.length + lg.length * 2 ^ 16 + (sq .S + 2 * sq .V + 4 * sq .M + 8 * sq .C) * 2 ^ 36 +
    b2n (lg.any (·.denied)) * 2 ^ 40)

/-- Whether two byte ranges meet. -/
def meets (a n b m : Nat) : Bool := decide (a < b + m) && decide (b < a + n)
/-- R249: whether a byte of [va, va + n) is covered by a logged entry of the core. -/
def Core.logCovers (k : Core) (asid : BitVec 16) (va n : Nat) : Bool :=
  k.slog.any fun e => e.logged && decide (e.asid = asid) && e.wr.any fun w => decide (va ≤ w.1) && decide (w.1 < va + n)

/-- R83, R244, R247, R249: whether an outstanding access may be performed now, as far as order goes. -/
def State.inOrder (s : State) (o : Out) : Bool :=
  let k := s.core o.u
  let va := o.va.toNat
  let n := o.op.size
  let mine (p : Out) : Bool := decide (p.u = o.u) && decide (p.lid = o.lid) && decide (p.q = o.q) && decide (p.id < o.id)
  let before (e : LogEnt) : Bool := decide (e.lid = o.lid) && decide (e.q = o.q) && decide (e.id < o.id)
  let hit (e : LogEnt) : Bool := decide (e.asid = o.asid) && e.wr.any fun w => decide (va ≤ w.1) && decide (w.1 < va + n)
  match o.op with
  | .store _ =>
    !(k.slog.any before) &&
    !(s.outs.any fun p => mine p && p.op.isLoad && decide (p.st ≠ .answered) && decide (p.asid = o.asid) &&
        meets p.va.toNat p.op.size va n)
  | .xlat _ _ => true
  | .fill _ _ _ => !(k.logCovers o.asid va n)
  | .operand _ => !(k.logCovers o.asid va n)
  | _ =>
    !(k.logCovers o.asid va n) && !(k.slog.any fun e => before e && hit e) &&
    !(s.outs.any fun p => mine p && p.op.isLoad && decide (p.st ≠ .answered))

/-- R335: the physical address that a page list gives a list address, whether or not a shootdown stands (R336); none where no page
of the stack is there. -/
def State.listPa (s : State) (st va : Nat) : Option Nat :=
  let e := s.reg (0x2000000 + 0x100000 * st + 0x30000 + 8 * (va / 2 ^ 30 % 4096))
  if 2 ^ 42 ≤ va ∨ bits e 61 60 = 3 ∨ (bit e 63 = false ∧ bit e 62 = false) ∨ pageBytes (bits e 61 60) ≤ va % 2 ^ 30 then none
  else some (bits e 51 16 * 65536 + va % 2 ^ 30)
/-- R289, R358: the first byte of an ordinary access to physical bytes that lies in the accumulator lines of a bucket between its
opening and its publication; the stack core that holds a bucket in UPDATE may touch them. -/
def State.bucketLine (s : State) (u pa n : Nat) : Option Nat :=
  let st := pa / Config.stackBytes
  if st ≥ 8 then none
  else
    s.regs.findSome? fun r =>
      let base := 0x2000000 + 0x100000 * st
      if base ≤ r.1 ∧ r.1 < base + 0x20000 ∧ r.1 % 32 = 8 ∧ bits r.2 63 61 ≠ 0 then
        let b := (r.1 - base) / 32
        let mine := decide (bits r.2 63 61 = 3) && isStack u && decide (stackOf u = st) &&
          bit (s.core u).bkcur 63 && decide (bits (s.core u).bkcur 43 32 = b)
        match s.listPa st (s.reg (base + 32 * b + 16)).toNat with
        | some acc =>
          if !mine && meets (acc / 64 * 64) ((4 * bits (s.reg (base + 32 * b)) 12 0 + acc % 64 + 63) / 64 * 64) pa n then
            some (max pa (acc / 64 * 64))
          else none
        | none => none
      else none
/-- R289, R458, log 17: the detail word of an access to an open bucket's lines. -/
def bucketDetail (free skind : Nat) (phase : Word) : Word :=
  BitVec.ofNat 64 (Config.bucketParty free % 2 ^ 19 * 2 ^ 45 + skind * 2 ^ 43 + 4 * 2 ^ 40 + phaseAt phase 4)

/-- R267, R286: line keys of a physical access. -/
def physKeys (asid : BitVec 16) (va pa n : Nat) (r : Word) : List Nat :=
  if respDup r ∧ ¬ respW r then lineKeys (dupKeyBase asid) ((List.range n).map (va + ·))
  else lineKeys 0 ((List.range n).map (pa + ·))

/-- R284, R285, R288, R289, R358: the cause that a global access of an ordinary party meets at its lines, or the stamped state. An atomic on an
accumulator line counts as such an access (log 88). -/
def State.globalRace (s : State) (a : Acc) (kind : Nat) (pc : Word) (asid : BitVec 16) (va pa n : Nat) (r : Word) :
    Option CauseArgs × State :=
  let pkg := s.pkgOf a.u a.lid
  match (if s.replays a.lid then none else s.claimed a asid va n (kind ≠ 0)) with
  | some o => (some (raceCause pc o.2 (claimDetail pkg o.1 a.u (min kind 2) a.phase)), s)
  | none =>
    match (if s.replays a.lid then none else s.bucketLine a.u pa n) with
    | some x => (some (raceCause pc (va + (x - pa)) (bucketDetail s.free (min kind 2) a.phase)), s.tickFree)
    | none =>
      let keys := physKeys asid va pa n r
      match s.access a kind false keys with
      | (some (k, d), s') => (some (raceCause pc (va / 64 * 64 + 64 * (k - keys.headD 0)) d), s')
      | (none, s') => (none, s')

/-- R284: the cause that the pieces of one access meet, each given as its address, length, physical address and response; one that
races leaves every stamp as it was. -/
def State.globalAll (s : State) (a : Acc) (kind : Nat) (pc : Word) (asid : BitVec 16) (l : List (Nat × Nat × Nat × Word)) :
    Option CauseArgs × State :=
  let r := l.foldl (fun (p : Option CauseArgs × State) q =>
    match p.1 with
    | some _ => p
    | none => p.2.globalRace a kind pc asid q.1 q.2.2.1 q.2.1 q.2.2.2) (none, s)
  match r.1 with
  | some c => (some c, { s with free := r.2.free })
  | none => r

/-- The access identity of an outstanding access (R266). -/
def Out.acc (o : Out) : Acc :=
  ⟨o.u, o.q, if isStack o.u then 5 else (match o.op with | .fill _ _ _ => 4 | _ => seqCode o.q), o.lid, o.hb.vc, o.hb.phase, none,
    match o.op with | .fill r _ _ => r | _ => o.u⟩

/-- Table 3.8: the new value of an atomic of z bytes. -/
def amoNew (op : Nat) (z : Nat) (old b cmp : Nat) : Nat :=
  let w := 8 * z
  match op with
  | 0 => (old + b) % 2 ^ w
  | 1 => old &&& b
  | 2 => old ||| b
  | 3 => old ^^^ b
  | 4 => b
  | 5 => if sext old w ≤ sext b w then old else b
  | 6 => if sext old w ≥ sext b w then old else b
  | 7 => min old b
  | 8 => max old b
  | _ => if old = cmp % 2 ^ w then b else old

/-- The low z bytes of a value as a load delivers them (Table 3.7). -/
def extend (z : Nat) (sx_ : Bool) (v : Nat) : Word :=
  if sx_ then BitVec.ofInt 64 (sext v (8 * z)) else BitVec.ofNat 64 (v % 2 ^ (8 * z))

end Sys2Proof.Machine
end

