-- ==== Sys2Proof/Machine/Local.lean ====
section
/-! DEFINITION. The local address space (R23 to R26, R334), ownership, region touches (R254 to R257), accesses to
scratchpads, windows and multicast windows (R119, R133 to R135). -/
namespace Sys2Proof.Machine

/-- What a local address names (Tables 1.5 and 13.1): own scratchpad, window of a cluster index, multicast window, control
window, or a word of the stack's descriptor and job tables by its offset in the stack die block. -/
inductive Loc where
  | own (off : Nat)
  | win (k off : Nat)
  | mc (off : Nat)
  | csr (off : Nat)
  | table (off : Nat)
  | bad
  deriving DecidableEq, Repr

/-- R23, R334: what a local address names on a unit. -/
def locOf (u : Nat) (a : Word) : Loc :=
  let o := a.toNat % 2 ^ 63
  if isStack u then
    if o < 0x40000 then .own o
    else if 0x8000000 ≤ o ∧ o < 0x8010000 then .csr (o - 0x8000000)
    else if 0xC000000 ≤ o ∧ o < 0xC020000 then .table (o - 0xC000000)
    else if 0xE000000 ≤ o ∧ o < 0xE002000 then .table (0x20000 + (o - 0xE000000))
    else .bad
  else
    if o < 0x180000 then .own o
    else if 0x1000000 ≤ o ∧ o < 0x3000000 ∧ (o - 0x1000000) % 0x200000 < 0x180000 then
      .win ((o - 0x1000000) / 0x200000) ((o - 0x1000000) % 0x200000)
    else if 0x4000000 ≤ o ∧ o < 0x4180000 then .mc (o - 0x4000000)
    else if 0x8000000 ≤ o ∧ o < 0x8010000 then .csr (o - 0x8000000)
    else .bad

/-- R25, R372, R411: whether the context owns scratchpad offset `off`. -/
def owns (u : Nat) (c : Ctx) (off : Nat) : Bool :=
  if isStack u then decide (off < Config.stackSpadBytes)
  else if c.handler then decide (off < Config.spadBytes)
  else decide (off < c.gran * Config.granule)

/-- R254: the bound slot whose scratchpad range holds an offset. -/
def Core.regionAt (k : Core) (off : Nat) : Option (Nat × Region) :=
  k.regions.find? fun r => decide (r.2.off ≤ off) && decide (off < r.2.off + 4096 * r.2.chunks)
/-- R255, R256: the first chunk of the offsets that is not FILLED, with its slot. -/
def Core.unfilled (k : Core) (offs : List Nat) : Option (Nat × Nat) :=
  offs.findSome? fun o =>
    match k.regionAt o with
    | some (j, r) => if (o - r.off) / 4096 ∈ r.filled then none else some (j, (o - r.off) / 4096)
    | none => none
/-- R382: whether an offset lies in a granule of the outgoing context that the spill has not written yet. -/
def Core.spillHolds (k : Core) (offs : List Nat) : Bool :=
  decide (k.bankKind = .spilling ∨ k.bankKind = .pinned) && offs.any fun o =>
    decide (o < k.bank.gran * Config.granule) && decide (k.spillpos.toNat < 0x30000 + (o / Config.granule + 1) * Config.granule)
/-- R372: the context whose scratchpad a core holds: a handler runs over that of the trapped context. -/
def Core.padOwner (k : Core) : Ctx := if k.ctx.handler ∧ k.bankKind = .trapped then k.bank else k.ctx
/-- Changes the context whose scratchpad a core holds. -/
def Core.modPadOwner (k : Core) (f : Ctx → Ctx) : Core :=
  if k.ctx.handler ∧ k.bankKind = .trapped then { k with bank := f k.bank } else { k with ctx := f k.ctx }
/-- R382: the granules of some offsets that await their first touch. -/
def Core.unread (k : Core) (offs : List Nat) : List (Nat × Bool) :=
  k.padOwner.toFill.filter fun f => offs.any fun o => decide (o / Config.granule = f.1)
/-- R382, R391: a granule of a scratchpad takes new bytes, all sound. -/
def State.putGranule (s : State) (u g : Nat) (bytes : Mem) : State :=
  let lo := g * Config.granule
  let hi := lo + Config.granule
  { s.modCore u fun k => { k.modPadOwner (fun c => { c with toFill := c.toFill.filter fun f => f.1 ≠ g }) with
      spad := (k.spad.filter fun c => decide (c.1 < lo)) ++ bytes ++ k.spad.filter fun c => decide (hi ≤ c.1)
      fillWant := k.fillWant.filter fun f => f.1 ≠ g } with
    misc := { s.misc with poisonSpad := s.misc.poisonSpad.filter fun p => !(decide (p.1 = u) && decide (lo ≤ 64 * p.2) && decide (64 * p.2 < hi)) } }
/-- R266: the party of an access: its unit, sequencer and launch, with the PC of its instruction and its history. -/
structure Toucher where
  u   : Nat
  q   : SeqId
  lid : Nat
  pc  : Word
  hb  : Hist
  deriving DecidableEq, Repr
/-- The sequencer whose turn it is, as the party of an access that it makes now. -/
def State.toucher (s : State) : Toucher :=
  ⟨s.turn.u, s.turn.q, s.me.lid, s.mySeq.pc, s.histOf s.me s.turn.u s.turn.q⟩
/-- R382, R412: the first touch of granules: those of a start become zero, and the fill of the others begins. -/
def State.firstTouch (s : State) (w : Toucher) (u : Nat) (l : List (Nat × Bool)) : State :=
  l.foldl (fun s f =>
    if f.2 = false then s.putGranule u f.1 []
    else s.modCore u fun k =>
      if k.fillWant.any fun w => w.1 = f.1 then k else { k with fillWant := k.fillWant ++ [(f.1, w.u, w.q)] }) s

/-- R256, R266: the fill of a chunk of unit u's region begins, charged to the sequencer that touched it first. -/
def State.startFill (s : State) (w : Toucher) (u j ch : Nat) : State :=
  match (s.core u).regions.find? fun r => r.1 = j with
  | some (_, r) =>
    if ch ∈ r.filled ∨ (r.filling.any fun f => f.1 = ch) then s
    else
      let o : Out := ⟨s.uid, w.u, w.q, w.lid, w.pc, r.asid, BitVec.ofNat 64 (r.va.toNat + 4096 * ch), .fill u j ch, .queued,
        s.now + 1 + s.delayFor w.u w.lid w.q (r.va.toNat + 4096 * ch) 0, [], false, none, w.hb⟩
      let s := { s.tickFree with outs := s.outs ++ [o], uid := s.uid + 1 }
      s.modCore u fun k => { k with regions := k.regions.map fun p => if p.1 = j then (p.1, { p.2 with filling := (ch, s.now) :: p.2.filling }) else p }
  | none => s

/-- R256, R382: whether the offsets of a unit can be accessed now; when a chunk or a granule is not filled its fill begins, and the
access waits. `w` is the party of the access. -/
def State.touchBy (s : State) (w : Toucher) (u : Nat) (offs : List Nat) : Bool × State :=
  if (s.core u).spillHolds offs then (false, s)
  else
    let g := (s.core u).unread offs
    if g ≠ [] then (false, s.firstTouch w u g)
    else match (s.core u).unfilled offs with
      | some (j, ch) => (false, s.startFill w u j ch)
      | none => (true, s)
/-- R256: the sequencer whose turn it is touches offsets of a unit. -/
def State.touch (s : State) (u : Nat) (offs : List Nat) : Bool × State := s.touchBy s.toucher u offs

/-- Offsets a list of elements covers. -/
def Elems.offs (e : Elems) : List Nat := e.at_.flatMap fun p => (List.range e.z).map (p.2 + ·)
/-- The value of a load of elements from a scratchpad. -/
def Elems.read (e : Elems) (m : Mem) : Wide :=
  if e.lw = 64 then
    match e.at_ with
    | p :: _ => wide (extend e.z e.sx (leNat (m.rdN p.2 e.z)))
    | [] => e.base
  else
    ofLanes e.lw ((List.range (nLanes e.lw)).map fun i =>
      match e.at_.find? fun p => p.1 = i with
      | some p => (extend e.z e.sx (leNat (m.rdN p.2 e.z))).toNat % 2 ^ e.lw
      | none => lane e.base e.lw i)

/-- R390, R391: lines of a scratchpad write that it covers in full. -/
def fullLines (wr : List (Nat × Byte)) : List Nat :=
  let ls := (wr.map fun p => p.1 / 64).eraseDups
  ls.filter fun l => (List.range 64).all fun i => wr.any fun p => p.1 = 64 * l + i

/-- R424: whether the staging memory of a stack core reads as poison and takes no write: its keys are erased. -/
def State.padSealed (s : State) (u : Nat) : Bool := s.misc.keysErased && isStack u
/-- R257, R267, R424: bytes are written to a unit's scratchpad: dirty bytes of `cmap.w` regions are marked, and a poisoned line
overwritten in full is poisoned no longer. -/
def State.spadWrite (s : State) (u : Nat) (wr : List (Nat × Byte)) : State :=
  if s.padSealed u then s else
  let full := fullLines wr
  let s := if s.misc.poisonSpad.isEmpty then s else
    { s with misc := { s.misc with poisonSpad := s.misc.poisonSpad.filter fun p => ¬ (p.1 = u ∧ p.2 ∈ full) } }
  s.modCore u fun k =>
    { k with
      spad := k.spad.wrL wr
      regions := k.regions.map fun p =>
        if p.2.wb then
          (p.1, { p.2 with dirty := (p.2.dirty ++ (wr.filterMap fun w =>
            if p.2.off ≤ w.1 ∧ w.1 < p.2.off + 4096 * p.2.chunks then some (w.1 - p.2.off) else none)).eraseDups })
        else p }
/-- R390: whether a read of these offsets meets a poisoned line. -/
def State.spadPoison (s : State) (u : Nat) (offs : List Nat) : Bool :=
  s.padSealed u || (!s.misc.poisonSpad.isEmpty && offs.any fun o => decide ((u, o / 64) ∈ s.misc.poisonSpad))
/-- R390: the local address of the poisoned line that a load of these offsets meets. -/
def State.spadBad (s : State) (u : Nat) (offs : List Nat) : Option Word :=
  if s.misc.poisonSpad.isEmpty && !s.padSealed u then none
  else (offs.find? fun o => s.padSealed u || decide ((u, o / 64) ∈ s.misc.poisonSpad)).map fun o => BitVec.ofNat 64 (2 ^ 63 + o / 64 * 64)

/-- R276: whether an access of a unit to scratchpads is fixed by a timetable. -/
def State.timed (s : State) (u : Nat) : Bool := decide ((s.ctx u).mode = .timed)

/-- A result with a chosen wait, access and poison mark enters the ring of the current sequencer. -/
def State.landAcc (s : State) (wait : Bool) (t : BitVec 1) (d : BitVec 6) (v : Wide) (L acc : Nat) (poison : Option Word) :
    State :=
  s.modMe fun c => c.setSeq s.turn.q
    { c.seq s.turn.q with
      ring := (c.seq s.turn.q).ring ++ [⟨c.clk + L, wait, .reg, decide (t = 1), d, 0, v, acc, poison, true⟩] }

/-- R83: the bytes of a scratchpad after a window access in flight; those that a later own-range store has written stay as they are. -/
def WinAcc.leaves (w : WinAcc) (m : Mem) : Mem :=
  match w.rd, w.amo with
  | none, _ => m.wrL w.wr
  | some e, some (op, b, cmp, _) =>
    let off := (e.at_.headD (0, 0)).2
    m.wrL ((atAddr off (natLe e.z (amoNew op e.z (leNat ((m.wrL w.wr).rdN off e.z)) b cmp))).filter fun x => !(w.wr.any fun y => y.1 = x.1))
  | some _, none => m
/-- R83: a window access in flight that an own-range store of its sequencer stands behind, `m` being what the access meets: a store leaves
the stored bytes alone, a load or an atomic keeps what they held. -/
def WinAcc.before (w : WinAcc) (m : Mem) (wr : List (Nat × Byte)) : WinAcc :=
  let meet (o : Nat) : Bool := wr.any fun x => x.1 = o
  match w.rd with
  | none => { w with wr := w.wr.filter fun x => !meet x.1 }
  | some e => { w with wr := w.wr ++ (e.offs.filter fun o => meet o && !(w.wr.any fun x => x.1 = o)).map fun o => (o, m.rd o) }
/-- Whether a window access is one of sequencer q to its own core's scratchpad. -/
def WinAcc.mine (w : WinAcc) (u : Nat) (q : SeqId) : Bool := decide (w.q = q) && decide (w.target = u)
/-- R83, R172: the scratchpad of unit u as its sequencer q meets it: what q has sent there through the window of its own core and
R133 has not performed yet stands already (log 77). -/
def State.ownSpad (s : State) (u : Nat) (q : SeqId) : Mem :=
  ((s.ctx u).wins.filter fun w => w.mine u q).foldl (fun m w => w.leaves m) (s.core u).spad
/-- R83, R172: an access of sequencer q writes bytes of its own scratchpad now, behind every window access of q to them that is still to
be performed (log 77). -/
def State.ownWrite (s : State) (u : Nat) (q : SeqId) (wr : List (Nat × Byte)) : State :=
  if (s.ctx u).wins.any fun w => w.mine u q then
    let r := (s.ctx u).wins.foldl (fun (r : Mem × List WinAcc) w =>
      if w.mine u q then (w.leaves r.1, r.2 ++ [w.before r.1 wr]) else (r.1, r.2 ++ [w])) ((s.core u).spad, [])
    (s.modCtx u fun c => { c with wins := r.2 }).spadWrite u wr
  else s.spadWrite u wr

/-- R277: whether offsets of a unit lie in the line of a byte barrier that has been armed or added to. -/
def State.bbLine (s : State) (u : Nat) (offs : List Nat) : Bool :=
  s.bbs.any fun b => decide (b.1 / 2 ^ 21 = u) && offs.any fun o => decide (o / 64 = b.1 % 2 ^ 21 / 64)
/-- R394, R396: what an ordinary load by sequencer q of unit u delivers: the value of a byte barrier's line is an input, which is logged,
or taken from the log. -/
def State.bbLoad (s : State) (u : Nat) (q : SeqId) (tgt : Nat) (offs : List Nat) (v : Wide) : Wide × State :=
  if s.bbLine tgt offs = false then (v, s)
  else
    let n := if q = .V then 32 else 1
    if s.isReplay u then
      match s.nextRec u q with
      | some (10, cyc, at_, pos) =>
        if cyc = (s.ctx u).clk then (BitVec.ofNat 2048 (leNat (s.mem.rdN (at_ + 16) (8 * n))), s.logMove u q pos)
        else (v, s.diverge u q (v.setWidth 64))
      | _ => (v, s.diverge u q (v.setWidth 64))
    else (v, s.logInput 10 u q ((List.range n).map fun i => v.extractLsb' (64 * i) 64))

/-- R82, R85, R119, R133, R170 to R172: a load of elements from the own scratchpad (`k = none`) or through a window, after
every check; the result lands L cycles after the issue, plus the window's distance. -/
def State.localLoad (s : State) (t : BitVec 1) (d : BitVec 6) (e : Elems) (k : Option Nat) (L : Nat) : State :=
  let u := s.turn.u
  let tgt := match k with | some j => coreAt (clusterOf u) j | none => u
  if e.at_.isEmpty then advance (s.landAcc false t d (e.read []) L 0 none)
  else
  let r := s.touch tgt e.offs
  if r.1 = false then stall frzData r.2
  else match k with
    | none =>
      let a := s.accOf u s.turn.q
      match s.access a 0 (s.timed u) (lineKeys (spadKeyBase u) e.offs) with
      | (some (l, det), s') => s'.raiseRace (raceCause s.mySeq.pc (keyOff l + 2 ^ 63) det)
      | (none, s') =>
        let v := s'.bbLoad u s.turn.q u e.offs (e.read (s.ownSpad u s.turn.q))
        advance (v.2.landAcc false t d v.1 L 0 (s.spadBad u e.offs))
    | some j =>
      let dist := distance (clusterIdx u) j
      let w : WinAcc := ⟨s.me.clk + 2 + dist, s.turn.q, tgt, s.uid, some e, none, [], s.mySeq.pc,
        s.histOf s.me u s.turn.q⟩
      let s' := ({ s with uid := s.uid + 1 }).modMe fun c => { c with wins := c.wins ++ [w] }
      advance (s'.landAcc true t d e.base (L + dist) s.uid none)

/-- R254: whether a store may write these offsets of a unit: none lies in a region bound by `cmap.r`. -/
def Core.storeOk (k : Core) (offs : List Nat) : Bool :=
  offs.all fun o => match k.regionAt o with | some (_, r) => r.wb | none => true

/-- R83, R119, R133, R135, R172: a store of bytes to a local place, after every check. Log 77: a multicast store to the issuing core
itself is performed when R135 says, whatever that core does to the bytes meanwhile. -/
def State.localStore (s : State) (loc : Loc) (wr : List (Nat × Byte)) : State :=
  let u := s.turn.u
  let offs := wr.map (·.1)
  if wr.isEmpty then advance s
  else
  match loc with
  | .own _ =>
    let r := s.touch u offs
    if r.1 = false then stall frzData r.2
    else
      match s.access (s.accOf u s.turn.q) 1 (s.timed u) (lineKeys (spadKeyBase u) offs) with
      | (some (l, det), s') => s'.raiseRace (raceCause s.mySeq.pc (keyOff l + 2 ^ 63) det)
      | (none, s') => advance (s'.ownWrite u s.turn.q wr)
  | .win j _ =>
    let tgt := coreAt (clusterOf u) j
    let r := s.touch tgt offs
    if r.1 = false then stall frzData r.2
    else
      let w : WinAcc := ⟨s.me.clk + 2 + distance (clusterIdx u) j, s.turn.q, tgt, 0, none, none, wr, s.mySeq.pc,
        s.histOf s.me u s.turn.q⟩
      advance (s.modMe fun c => { c with wins := c.wins ++ [w] })
  | .mc _ =>
    let tgts := ((List.range 16).filter fun j => s.me.mcmask.getLsbD j).map (coreAt (clusterOf u))
    let r := tgts.foldl (fun (a : Bool × State) j => let b := a.2.touch j offs; (a.1 && b.1, b.2)) (true, s)
    if r.1 = false then stall frzData r.2
    else
      let w : McWrite := ⟨s.me.clk + 12, s.turn.q, s.me.mcmask, wr, s.mySeq.pc, s.histOf s.me u s.turn.q⟩
      advance (s.modMe fun c => { c with mcast := c.mcast ++ [w] })
  | _ => advance s

end Sys2Proof.Machine
end

