-- ==== Sys2Proof/Machine/Csr.lean ====
section
/-! DEFINITION. The control registers by offset: what a read returns (R33 to R36, R108 to R118, R128 to R142, R185, R186,
R191, R223 to R225, R251, R258, R265, R318 to R330, R359, Table 15.7) and what a write does. -/
namespace Sys2Proof.Machine

/-- R35: ACT and COUNT of a loop register. -/
def Loop.nWord (l : Loop) : Word := BitVec.ofNat 64 (b2n l.act * 2 ^ 63 + l.count.toNat)
/-- Table 1.6: words 0 to 5 of a pair of loop registers. -/
def loopWord (l0 l1 : Loop) (i : Nat) : Word :=
  match i with
  | 0 => l0.start | 1 => l0.stop | 2 => l0.nWord | 3 => l1.start | 4 => l1.stop | _ => l1.nWord
/-- R34, R35: writes one word of a loop register. -/
def Loop.put (l : Loop) (i : Nat) (v : Word) : Loop :=
  match i % 3 with
  | 0 => { l with start := v &&& ~~~3 }
  | 1 => { l with stop := v &&& ~~~3 }
  | _ => { l with act := bit v 63, count := v.setWidth 32 }
/-- R117: writes word i of a sequencer's loop registers. -/
def Seq.putLoop (x : Seq) (i : Nat) (v : Word) : Seq :=
  if i < 3 then { x with lp0 := x.lp0.put i v } else { x with lp1 := x.lp1.put i v }

/-- R102: the count of the queue from j to k. -/
def Ctx.tokens (c : Ctx) (j k : SeqId) : Nat := (vget c.tok (4 * seqCode j + seqCode k) 0).toNat
/-- R102: replaces the count of a queue. -/
def Ctx.setTokens (c : Ctx) (j k : SeqId) (n : Nat) : Ctx :=
  { c with tok := vset c.tok (4 * seqCode j + seqCode k) (BitVec.ofNat 6 n) }
/-- R104: tokens that C has issued towards k and not posted. -/
def Ctx.pendTok (c : Ctx) (k : SeqId) : Nat := ((c.ctok.filter fun p => p.dest = k).map (·.n)).sum
/-- R108, Table 4.3: TOKA (`i = 0`) and TOKB (`i = 1`). -/
def Ctx.tokWord (c : Ctx) (i : Nat) : Word :=
  let q (j k : SeqId) (lo : Nat) : Nat := c.tokens j k * 2 ^ lo
  BitVec.ofNat 64 <|
    if i = 0 then q .V .S 0 + q .M .S 8 + q .C .S 16 + q .S .V 24 + q .M .V 32 + q .C .V 40
    else q .S .M 0 + q .V .M 8 + q .C .M 16 + q .S .C 24 + q .V .C 32 + q .M .C 40
/-- R108: TOKP. -/
def Ctx.tokp (c : Ctx) : Word := BitVec.ofNat 64 (c.pendTok .S + c.pendTok .V * 2 ^ 8 + c.pendTok .M * 2 ^ 16)
/-- R374: sets the counts a handler may set through TOKA and TOKB. -/
def Ctx.putTokWord (c : Ctx) (i : Nat) (v : Word) : Ctx :=
  let f (c : Ctx) (j k : SeqId) (lo : Nat) : Ctx := c.setTokens j k (bits v (lo + 5) lo)
  if i = 0 then f (f (f (f (f (f c .V .S 0) .M .S 8) .C .S 16) .S .V 24) .M .V 32) .C .V 40
  else f (f (f (f (f (f c .S .M 0) .V .M 8) .C .M 16) .S .C 24) .V .C 32) .M .C 40

/-- R111: FQSTAT. -/
def Ctx.fqstat (c : Ctx) : Word :=
  BitVec.ofNat 64 ((match c.fq with | p :: _ => p.1.toNat | [] => 0) * 2 ^ 32 + c.fq.length)
/-- R112: entries still to come from a channel command, when it is a scale load. -/
def CCmd.scalesLeft (k : CCmd) : Option Nat :=
  match k.op with | .cscl _ cnt _ => some (cnt - k.done) | _ => none
/-- R112: what each outstanding scale load still has to bring. -/
def Ctx.scaleLoads (c : Ctx) : List Nat := c.chans.toList.flatMap fun ch => ch.cmds.filterMap CCmd.scalesLeft
/-- R114: SQSTAT. -/
def Ctx.sqstat (c : Ctx) : Word :=
  BitVec.ofNat 64 (c.sq.length + min c.scaleLoads.length 255 * 2 ^ 8 + min c.scaleLoads.sum 255 * 2 ^ 16)

/-- The bits of the slots in a state. -/
def slotBits (v : Vector Slot 8) (p : Slot → Bool) : Nat :=
  ((List.range 8).map fun i => if p (vget v i .empty) then 2 ^ i else 0).sum
/-- R218: whether a slot is STAGED. -/
def Slot.isStaged : Slot → Bool
  | .staged _ => true | _ => false
/-- R218: whether a slot is BOUND. -/
def Slot.isBound : Slot → Bool
  | .bound _ => true | _ => false
/-- R225: MSTAT. -/
def Ctx.mstat (c : Ctx) : Word :=
  let m := c.cmds.filter fun k => !k.follow
  BitVec.ofNat 64 (min m.length 255 + (m.filter fun k => k.fetched && k.started.isNone).length * 2 ^ 8 +
    (c.cmds.filter (·.follow)).length * 2 ^ 16 + slotBits c.slots Slot.isStaged * 2 ^ 24 +
    slotBits c.slots Slot.isBound * 2 ^ 32)

/-- R329: CHSTAT of channel i; `held` says that its head chunk waits for a page. -/
def Ctx.chstat (c : Ctx) (i : Nat) : Word :=
  let ch := vget c.chans i ⟨[], 0⟩
  match ch.cmds with
  | [] => BitVec.ofNat 64 (ch.cause.toNat * 2 ^ 48)
  | k :: _ =>
    BitVec.ofNat 64 (b2n k.faulted.isSome * 2 ^ 63 + b2n k.held.isSome * 2 ^ 62 + ch.cause.toNat * 2 ^ 48 +
      (match k.op with | .cscl _ _ _ => 0 | _ => k.done) % 2 ^ 20 * 2 ^ 24 + ch.cmds.length)

/-- R186: the tile entries as TILECFG0 and TILECFG1 hold them. -/
def Tiles.cfgWord (t : Tiles) (hi : Nat) : Word :=
  BitVec.ofNat 64 (((List.range 4).map fun i => (vget t.cfg (4 * hi + i) 0).toNat * 2 ^ (16 * i)).sum)
/-- R186: the entry that is stored for a written value: reserved bits zero, V cleared where W is 3. -/
def tileEntry (e : Nat) : BitVec 16 :=
  let m := BitVec.ofNat 16 e &&& 0x8CFF
  if (e / 1024) % 4 = 3 then m &&& 0x7FFF else m
/-- R181: gives a tile's entry a value; a change zeroes the tile and clears its dirty bit. -/
def Tiles.setCfg (t : Tiles) (n : Nat) (e : BitVec 16) : Tiles :=
  if vget t.cfg n 0 = e then t
  else { cfg := vset t.cfg n e, dirty := t.dirty &&& ~~~(BitVec.ofNat 8 (2 ^ n)), el := vset t.el n 0 }
/-- R181, R186: a write of TILECFG0 or TILECFG1; a tile that V configured on the same cycle keeps V's value. -/
def Tiles.putCfgWord (t : Tiles) (hi : Nat) (v : Word) (keep : BitVec 8) : Tiles :=
  (List.range 4).foldl (fun t i =>
    if keep.getLsbD (4 * hi + i) then t else t.setCfg (4 * hi + i) (tileEntry (bits v (16 * i + 15) (16 * i)))) t

/-- R263: BUDGET word of variant v of a launch. -/
def Launch.budget (l : Launch) (v : Nat) : Nat := bits (hdrWord l.hdr (12 + 4 * v)) 31 0
/-- R263, R408: number of variants of a launch. -/
def Launch.nvar (l : Launch) : Nat := bits (hdrWord l.hdr 0) 28 26
/-- R265: OVER shows the excess of a use over the budget of the current variant. -/
def Ctx.overBudget (c : Ctx) (l : Launch) (use : Nat) : Ctx :=
  { c with variant := setBits c.variant 63 32 (use - l.budget (bits c.variant 5 4)) }
/-- R263, R265: OVER of a launch's contexts shows its HBM use above the budget of its current variant; the use is free (log 32). -/
def State.showOver (s : State) (l : Launch) : State :=
  if l.nvar = 0 then s else
  let use := Config.hbmUse s.free
  let f (c : Ctx) : Ctx := if c.lid = l.id then c.overBudget l use else c
  { s.tickFree with cores := s.cores.map fun p =>
      (p.1, { p.2 with ctx := f p.2.ctx, bank := f p.2.bank, saved := p.2.saved.map f }) }
/-- R265: OVER is what a read of VARIANT finds at that moment. -/
def State.sampleOver (s : State) (off : Nat) : State :=
  if off = 0x610 then (match s.launch s.me.launch with | some l => s.showOver l | none => s) else s
/-- R186, R128, R142, R265: a plain register of a context by its offset, on compute and stack cores alike. -/
def Ctx.plainReg (c : Ctx) (off : Nat) : Option Word :=
  if off < 0x30 then some (loopWord c.s.lp0 c.s.lp1 (off / 8))
  else if 0x80 ≤ off ∧ off < 0xB0 then some (loopWord c.vl0 c.vl1 ((off - 0x80) / 8))
  else if 0x180 ≤ off ∧ off < 0x1A0 then some (vget c.vflag ((off - 0x180) / 8) 0)
  else if off = 0x140 then some (c.tokWord 0)
  else if off = 0x200 then some (dcycle c .S)
  else if off = 0x208 then some c.frzn
  else if off = 0x210 then some (c.frzs.setWidth 64)
  else if off = 0x218 then some c.members
  else if off = 0x220 then some c.phase
  else if off = 0x300 then some (c.vrm.setWidth 64)
  else if off = 0x308 then some c.vseed
  else if off = 0x310 then some c.vsrctr
  else if off = 0x340 then some (c.valloc.setWidth 64)
  else if 0x400 ≤ off ∧ off < 0x500 then
    let w := (off - 0x400) / 8
    some (if w % 16 ≤ 8 then (vget c.alg (w / 16) 0).extractLsb' (64 * (w % 16)) 64 else 0)
  else if off = 0x610 then some c.variant
  else none

/-- A register that only compute cores have, by its offset (R118, R128, R185, R223, R318, R329, R330). -/
def Ctx.computeReg (c : Ctx) (off : Nat) : Option Word :=
  if 0xC0 ≤ off ∧ off < 0xF0 then some (loopWord c.m.lp0 c.m.lp1 ((off - 0xC0) / 8))
  else if 0x100 ≤ off ∧ off < 0x130 then some (loopWord c.c.lp0 c.c.lp1 ((off - 0x100) / 8))
  else if off = 0x148 then some (c.tokWord 1)
  else if off = 0x150 then some c.tokp
  else if off = 0x160 then some c.fqstat
  else if off = 0x168 then some c.sqstat
  else if off = 0x228 then some (c.mcmask.setWidth 64)
  else if off = 0x318 then some (c.awround.setWidth 64)
  else if off = 0x320 then some c.awstat
  else if off = 0x328 then some (c.tiles.cfgWord 0)
  else if off = 0x330 then some (c.tiles.cfgWord 1)
  else if off = 0x338 then some (c.tiles.dirty.setWidth 64)
  else if off = 0x500 then some (c.mdepth.setWidth 64)
  else if off = 0x508 then some c.mstat
  else if 0x800 ≤ off ∧ off < 0x900 ∧ off % 32 < 24 then some (vget c.rwin ((off - 0x800) / 32 * 3 + off % 32 / 8) 0)
  else if 0x900 ≤ off ∧ off < 0x920 then some (c.chstat ((off - 0x900) / 8))
  else if off = 0x920 then some (BitVec.ofNat 64 c.rcache.length)
  else none

/-- R258: the words of a region slot. -/
def Core.rgn (k : Core) (j : Nat) (b : Bool) : Word :=
  match k.regions.find? fun r => r.1 = j with
  | none => 0
  | some (_, r) =>
    if b then BitVec.ofNat 64 (r.chunks * 2 ^ 32 + r.off / 4096 * 4096 + r.filled.length)
    else BitVec.ofNat 64 (2 ^ 63 + b2n r.wb * 2 ^ 62 + r.va.toNat / 4096 * 4096)

/-- Table 15.7: the handler-reserved registers by offset; a handler reads the WDOG of the launch it serves (R386). -/
def Core.handlerReg (k : Core) (off : Nat) : Option Word :=
  if off = 0xC00 then some (BitVec.ofNat 64 (k.hevent.toNat * 2 ^ 60 + k.hseq.toNat))
  else if off = 0xC08 then some k.savebase
  else if off = 0xC10 then some (k.savelen.setWidth 64)
  else if off = 0xC18 then some (BitVec.ofNat 64 ((if k.spillst = 0 ∧ k.fillWant ≠ [] then 5 else k.spillst.toNat) * 2 ^ 61 + b2n k.spillgo * 2 ^ 60 + k.spillpos.toNat))
  else if off = 0xC20 then
    let c := if k.ctx.handler then k.bank else k.ctx
    some (BitVec.ofNat 64 (c.wdogPer.toNat * 2 ^ 32 + c.wdogLeft.toNat))
  else if off = 0xC28 then some (k.frzlim.setWidth 64)
  else if off = 0xC30 then some k.ecccnt
  else none

/-- R359: the registers of a stack core. -/
def Core.stackReg (k : Core) (u off : Nat) : Option Word :=
  if off = 0xA00 then some k.bkcur
  else if off = 0xA08 then some k.spbase
  else if off = 0xA10 then some (BitVec.ofNat 64 (u - 384))
  else if off = 0xA18 then some (BitVec.ofNat 64 k.rows.length)
  else none

/-- R323: a word of the collective tile table of a unit's cluster. -/
def State.cttWord (s : State) (u off : Nat) : Word := mget 0 s.ctt (clusterOf u * 4096 + (off - 0x8000) / 8)

/-- R92: the control register at an offset as it stands; none where no register is assigned or the context may not reach
it. -/
def State.csrRead (s : State) (u off : Nat) : Option Word :=
  let k := s.core u
  if 0xC00 ≤ off ∧ off < 0xD00 then (if k.ctx.handler then k.handlerReg off else none)
  else if off = 0x40 then some (coreIdOf u)
  else if off = 0x600 then some k.slstat
  else match k.ctx.plainReg off with
    | some v => some v
    | none =>
      if isStack u then k.stackReg u off
      else if 0x700 ≤ off ∧ off < 0x800 then some (k.rgn ((off - 0x700) / 16) (decide (off % 16 = 8)))
      else if 0x8000 ≤ off then some (s.cttWord u off)
      else k.ctx.computeReg off

/-- Table 15.10: whether a read of the register is an input that record and replay logs. -/
def csrLogged (off : Nat) : Bool :=
  decide (off ∈ [0x208, 0x210, 0x150, 0x168, 0x600, 0x320, 0x508, 0x610, 0xC20, 0xC18]) ||
  (decide (0x900 ≤ off) && decide (off < 0x920)) || (decide (0x800 ≤ off) && decide (off < 0x900) && decide (off % 32 = 0)) ||
  (decide (0x700 ≤ off) && decide (off < 0x800) && decide (off % 16 = 8))

/-- R318: a written window register: reserved bits zero, OUT kept. -/
def rwinWord (i : Nat) (old v : Word) : Word :=
  match i with
  | 0 => (v &&& 0xC7FFE0FFFF0000FF) ||| (old &&& 0xFF0000)
  | 1 => v &&& 0x01FFFFFFFFFFFFC0
  | _ => v &&& 0xFFFFFFFFFF

/-- The launches whose contexts a core holds (R369). -/
def Core.lids (k : Core) : List Nat :=
  ((if k.ctx.handler then [] else [k.ctx.lid]) ++ (if k.bank.handler ∨ k.bankKind = .empty then [] else [k.bank.lid]) ++
    k.saved.map (·.lid)).eraseDups
/-- R323: a write of word w of a table entry; a write of word 0 while READY is not zero abandons the collection, and
every command that joined it completes with a copy fault 0x08. -/
def State.cttWrite (s : State) (cl e w : Nat) (v : Word) : State :=
  let key := cl * 4096 + 4 * e + w
  let old := mget 0 s.ctt key
  let s' (x : Word) := { s with ctt := mput s.ctt key x }
  match w with
  | 0 =>
    let ready := bits old 47 32
    let base := (v &&& 0xFFFF0000FFC00000)
    if ready = 0 then s' (base ||| (old &&& 0x00000000003FFFFF))
    else
      (List.range 16).foldl (fun s j =>
        let u := coreAt cl j
        (s.core u).lids.foldl (fun s lid =>
          let hit := (s.ctxOf u lid).await.filter fun k => decide (k.op = .tready e) && decide (k.sent = 0)
          hit.foldl (fun s k => ((s.endAwait u lid k).modCtxOf u lid fun c =>
            { c with chans := vset c.chans k.ch { vget c.chans k.ch ⟨[], 0⟩ with cause := 0x08 } }).deliverTo u lid .C
            ⟨0x08, 0, k.pc, 0, BitVec.ofNat 64 (k.ch * 2 ^ 62)⟩) s) s) (s' (base ||| (old &&& 0x00000000000FFFFF)))
  | 1 => s' (v &&& 0x001FFFFF001FFFFF)
  | 2 => s' v
  | _ => s' (v &&& 0x1FFFFF)

/-- R224: a written MDEPTH. -/
def mdepthPut (old : BitVec 4) (v : Word) : BitVec 4 :=
  if 1 ≤ v.toNat % 16 ∧ v.toNat % 16 ≤ 8 then BitVec.ofNat 4 (v.toNat % 16) else old

/-- What a write of a context's register does (R92); a read-only register keeps its value. -/
def Ctx.csrPut (c : Ctx) (stack : Bool) (off : Nat) (v : Word) : Ctx :=
  if off < 0x30 then { c with s := c.s.putLoop (off / 8) v }
  else if 0x80 ≤ off ∧ off < 0xB0 then
    let x := c.v.putLoop ((off - 0x80) / 8) v
    { c with v := x, vl0 := x.lp0, vl1 := x.lp1 }
  else if off = 0x210 then { c with frzs := c.frzs &&& ~~~(v.setWidth 12) }
  else if off = 0x300 then { c with vrm := v.setWidth 3 }
  else if off = 0x308 then { c with vseed := v }
  else if off = 0x310 then { c with vsrctr := v }
  else if stack then c
  else if 0xC0 ≤ off ∧ off < 0xF0 then { c with m := c.m.putLoop ((off - 0xC0) / 8) v }
  else if 0x100 ≤ off ∧ off < 0x130 then { c with c := c.c.putLoop ((off - 0x100) / 8) v }
  else if off = 0x228 then { c with mcmask := v.setWidth 16 }
  else if off = 0x318 then { c with awround := v.setWidth 32 }
  else if off = 0x320 then { c with awstat := v }
  else if off = 0x328 then { c with tiles := c.tiles.putCfgWord 0 v c.vtset }
  else if off = 0x330 then { c with tiles := c.tiles.putCfgWord 1 v c.vtset }
  else if off = 0x338 then { c with tiles := { c.tiles with dirty := c.tiles.dirty &&& ~~~(v.setWidth 8) } }
  else if off = 0x500 then { c with mdepth := mdepthPut c.mdepth v }
  else if 0x800 ≤ off ∧ off < 0x900 ∧ off % 32 < 24 then
    let i := (off - 0x800) / 32 * 3 + off % 32 / 8
    { c with rwin := vset c.rwin i (rwinWord (off % 32 / 8) (vget c.rwin i 0) v) }
  else c

/-- R8, R383: a 1 sets SPILLST.GO, which restarts a paused or pinned spill at POS; it stays set until a spill begins, stops or ends (log
87). -/
def Core.spillGo (k : Core) : Core :=
  if k.spillst = 2 ∨ k.spillst = 3 ∨ k.spillst = 4 then { k with spillst := 1, bankKind := .spilling, spillgo := true }
  else { k with spillgo := true }
/-- R385: a write of an RW field of Table 15.7 by its offset. -/
def Core.handlerPut (k : Core) (off : Nat) (v : Word) : Core :=
  if off = 0xC08 then { k with savebase := v &&& 0xFFFFFFFFFFFF0000 }
  else if off = 0xC10 then { k with savelen := v.setWidth 16 }
  else if off = 0xC18 then (if bit v 60 then k.spillGo else k)
  else if off = 0xC28 then { k with frzlim := v.setWidth 32 }
  else k

/-- R92: what a landing `csrw` does. -/
def State.csrWrite (s : State) (u off : Nat) (v : Word) : State :=
  if 0xC00 ≤ off ∧ off < 0xD00 then
    s.modCore u fun k => k.handlerPut off v
  else if 0x8000 ≤ off ∧ ¬ isStack u then s.cttWrite (clusterOf u) ((off - 0x8000) / 32) ((off - 0x8000) % 32 / 8) v
  else if off = 0xA08 ∧ isStack u then s.modCore u fun k => { k with spbase := v &&& ~~~3 }
  else s.modCtx u fun c => c.csrPut (isStack u) off v

end Sys2Proof.Machine
end

