-- ==== Sys2Proof/Machine/Image.lean ====
section
/-! DEFINITION. Context images (R365, R368, R374, R380, R381): the 8 bytes at an offset, and what writing them changes. -/
namespace Sys2Proof.Machine

/-- R368: code of a ring entry's kind. -/
def LandKind.num : LandKind → Nat
  | .reg => 0 | .mask => 1 | .flag => 2 | .csrw => 3 | .reserved k => 4 + k.toNat
/-- R368: the kind of a code. -/
def LandKind.ofNum (n : Nat) : LandKind :=
  match n with
  | 0 => .reg | 1 => .mask | 2 => .flag | 3 => .csrw | n => .reserved (BitVec.ofNat 2 (n - 4))

/-- Table 15.3: the header of a ring entry, with LEFT counted from `clk`. -/
def Land.header (l : Land) (clk : Nat) : Word :=
  BitVec.ofNat 64 (b2n l.v * 2 ^ 63 + b2n l.wait * 2 ^ 62 + (l.due - clk) % 64 * 2 ^ 56 + l.kind.num * 2 ^ 53 + b2n l.t * 2 ^ 52 +
    l.dst.toNat * 2 ^ 46 + l.index.toNat * 2 ^ 33)
/-- R369: a header that a handler writes over an entry. WAIT stays 1 only in an entry still tied to an access, and clearing
it unties the entry. -/
def Land.putHeader (l : Land) (clk : Nat) (v : Word) : Land :=
  let w := bit v 62 && l.wait
  { l with due := clk + bits v 61 56, wait := w, kind := LandKind.ofNum (bits v 55 53), t := bit v 52,
           dst := BitVec.ofNat 6 (bits v 51 46), index := BitVec.ofNat 13 (bits v 45 33),
           acc := if w then l.acc else 0, v := bit v 63 }

/-- Word i of a wide value. -/
def wideWord (v : Wide) (i : Nat) : Word := v.extractLsb' (64 * i) 64
/-- Replaces word i of a wide value. -/
def putWide (v : Wide) (i : Nat) (x : Word) : Wide :=
  (v &&& ~~~((BitVec.ofNat 2048 (2 ^ 64 - 1)) <<< (64 * i))) ||| ((x.setWidth 2048) <<< (64 * i))
/-- Word i of a number of any width, low word first. -/
def bigWord {n : Nat} (v : BitVec n) (i : Nat) : Word := v.extractLsb' (64 * i) 64
/-- Replaces word i of a number of any width. -/
def putBig {n : Nat} (v : BitVec n) (i : Nat) (x : Word) : BitVec n :=
  (v &&& ~~~((BitVec.ofNat n (2 ^ 64 - 1)) <<< (64 * i))) ||| ((x.setWidth n) <<< (64 * i))

/-- R368: a word of a ring in the image, with entries of `stride` words. -/
def ringRead (r : List Land) (clk stride i : Nat) : Word :=
  match r[i / stride]? with
  | none => 0
  | some l =>
    let w := i % stride
    if w = 0 then l.header clk else if w ≤ 32 then wideWord l.val (w - 1) else 0
/-- R369, R374: a word written to a ring; one written over an empty place makes an entry that no access is tied to. -/
def ringWrite (r : List Land) (clk stride i : Nat) (v : Word) : List Land :=
  let k := i / stride
  let w := i % stride
  let none_ : Land := ⟨clk, false, .reg, false, 0, 0, 0, 0, none, false⟩
  let r := if r.length ≤ k ∧ k < 64 ∧ v ≠ 0 then r ++ List.replicate (k + 1 - r.length) none_ else r
  match r[k]? with
  | some l =>
    if w = 0 then r.set k (l.putHeader clk v)
    else if w ≤ 32 then r.set k { l with val := putWide l.val (w - 1) v }
    else r
  | none => r

/-- R381: a word of a sequencer's fault record. -/
def FRec.word (f : FRec) (i : Nat) : Word :=
  match i with
  | 0 => BitVec.ofNat 64 (b2n f.v * 2 ^ 63 + f.cause.toNat * 2 ^ 16 + f.n.toNat)
  | 1 => f.pc | 2 => f.addr | _ => f.info
/-- R374: a word written to a fault record. -/
def FRec.put (f : FRec) (i : Nat) (v : Word) : FRec :=
  match i with
  | 0 => { f with v := bit v 63, cause := BitVec.ofNat 8 (bits v 23 16), n := BitVec.ofNat 16 (bits v 15 0) }
  | 1 => { f with pc := v } | 2 => { f with addr := v } | _ => { f with info := v }

/-- R365, R381: the sequencer of index k. -/
def Ctx.seqN (c : Ctx) (k : Nat) : Seq := c.seq (seqOfCode k)
/-- Changes the sequencer of index k. -/
def Ctx.modSeqN (c : Ctx) (k : Nat) (f : Seq → Seq) : Ctx := c.setSeq (seqOfCode k) (f (c.seqN k))

/-- Word i of a queue of narrow entries, oldest first. -/
def packWord (w : Nat) (l : List Nat) (i : Nat) : Word :=
  BitVec.ofNat 64 (lanesNat w ((l.drop (i * (64 / w))).take (64 / w)))

/-- R45, R381: word o of the scalar block; the scales of the queue are written with bits 15 to 12 zero. -/
def Ctx.scalarRead (c : Ctx) (o : Nat) : Word :=
  if o < 0x100 then vget c.x (o / 8) 0
  else if o < 0x140 then vget c.xo ((o - 0x100) / 8) 0
  else if o < 0x1C0 then vget c.xq ((o - 0x140) / 8) 0
  else if o < 0x1D8 then vget c.xb ((o - 0x1C0) / 8) 0
  else if o < 0x1E0 then 0
  else if o < 0x200 then (c.seqN ((o - 0x1E0) / 8)).pc
  else if o < 0x280 then vget c.a ((o - 0x200) / 8) 0
  else if o < 0x300 then vget c.g ((o - 0x280) / 8) 0
  else if o < 0x3C0 then
    let k := c.seqN ((o - 0x300) / 48)
    loopWord k.lp0 k.lp1 ((o - 0x300) % 48 / 8)
  else if o < 0x3D0 then c.tokWord ((o - 0x3C0) / 8)
  else if o < 0x3D8 then c.tokp
  else if o < 0x3E0 then 0
  else if o < 0x3E8 then dcycle c .S
  else if o < 0x3F0 then c.frzn
  else if o < 0x400 then 0
  else if o < 0x440 then packWord 32 (c.fq.map (·.1.toNat)) ((o - 0x400) / 8)
  else if o < 0x448 then c.fqstat
  else if o < 0x480 then 0
  else if o < 0x500 then packWord 16 (c.sq.map (·.1.toNat % 2 ^ 12)) ((o - 0x480) / 8)
  else if o < 0x508 then c.sqstat
  else if o < 0x600 then 0
  else if o < 0x700 then bigWord (vget c.mkr ((o - 0x600) / 32) 0) ((o - 0x600) % 32 / 8)
  else if o < 0x748 then
    match (o - 0x700) / 8 with
    | 0 => c.vrm.setWidth 64 | 1 => c.vseed | 2 => c.vsrctr | 3 => c.awround.setWidth 64 | 4 => c.awstat
    | 5 => c.tiles.cfgWord 0 | 6 => c.tiles.cfgWord 1 | 7 => c.tiles.dirty.setWidth 64 | _ => c.valloc.setWidth 64
  else if o < 0x780 then 0
  else if o < 0x7A0 then vget c.vflag ((o - 0x780) / 8) 0
  else if o < 0x7C0 then 0
  else if o < 0x7D8 then
    match (o - 0x7C0) / 8 with
    | 0 => c.mcmask.setWidth 64 | 1 => c.mdepth.setWidth 64 | _ => c.mstat
  else if o < 0x800 then 0
  else if o < 0x880 then (c.seqN ((o - 0x800) / 32)).fault.word ((o - 0x800) % 32 / 8)
  else if o < 0x900 then 0
  else if o < 0x9C0 then vget c.rwin ((o - 0x900) / 8) 0
  else if o < 0xA00 then 0
  else if o < 0xA20 then c.chstat ((o - 0xA00) / 8)
  else if o < 0xA38 then (match (o - 0xA20) / 8 with | 0 => c.phase | 1 => c.members | _ => c.variant)
  else 0

/-- R374: a word written to the scalar block. -/
def Ctx.scalarWrite (c : Ctx) (o : Nat) (v : Word) : Ctx :=
  if o < 0x100 then { c with x := vset c.x (o / 8) v }
  else if o < 0x140 then { c with xo := vset c.xo ((o - 0x100) / 8) v }
  else if o < 0x1C0 then { c with xq := vset c.xq ((o - 0x140) / 8) v }
  else if o < 0x1D8 then { c with xb := vset c.xb ((o - 0x1C0) / 8) v }
  else if o < 0x1E0 then c
  else if o < 0x200 then c.modSeqN ((o - 0x1E0) / 8) fun x => { x with pc := v &&& ~~~3 }
  else if o < 0x280 then { c with a := vset c.a ((o - 0x200) / 8) v }
  else if o < 0x300 then { c with g := vset c.g ((o - 0x280) / 8) v }
  else if o < 0x3C0 then c.modSeqN ((o - 0x300) / 48) fun x => x.putLoop ((o - 0x300) % 48 / 8) v
  else if o < 0x3D0 then c.putTokWord ((o - 0x3C0) / 8) v
  else if o < 0x400 then c
  else if o < 0x440 then
    let i := (o - 0x400) / 8
    { c with fq := c.fq.zipIdx.map fun p =>
        if p.2 / 2 = i then (BitVec.ofNat 32 (bits v (32 * (p.2 % 2) + 31) (32 * (p.2 % 2))), p.1.2) else p.1 }
  else if o < 0x480 then c
  else if o < 0x500 then
    let i := (o - 0x480) / 8
    { c with sq := c.sq.zipIdx.map fun p =>
        if p.2 / 4 = i then (BitVec.ofNat 16 (bits v (16 * (p.2 % 4) + 15) (16 * (p.2 % 4))), p.1.2) else p.1 }
  else if o < 0x600 then c
  else if o < 0x700 then
    let i := (o - 0x600) / 32
    { c with mkr := vset c.mkr i (putBig (vget c.mkr i 0) ((o - 0x600) % 32 / 8) v) }
  else if o < 0x748 then
    match (o - 0x700) / 8 with
    | 0 => { c with vrm := v.setWidth 3 } | 1 => { c with vseed := v } | 2 => { c with vsrctr := v }
    | 3 => { c with awround := v.setWidth 32 } | 4 => { c with awstat := v }
    | 5 => { c with tiles := { c.tiles with cfg := (List.range 4).foldl (fun t i => vset t i (tileEntry (bits v (16 * i + 15) (16 * i)))) c.tiles.cfg } }
    | 6 => { c with tiles := { c.tiles with cfg := (List.range 4).foldl (fun t i => vset t (4 + i) (tileEntry (bits v (16 * i + 15) (16 * i)))) c.tiles.cfg } }
    | 7 => { c with tiles := { c.tiles with dirty := v.setWidth 8 } }
    | _ => c
  else if o < 0x780 then c
  else if o < 0x7A0 then { c with vflag := vset c.vflag ((o - 0x780) / 8) (v &&& 0x0000FF07000001FF) }
  else if o < 0x7C0 then c
  else if o < 0x7C8 then { c with mcmask := v.setWidth 16 }
  else if o < 0x7D0 then { c with mdepth := mdepthPut c.mdepth v }
  else if o < 0x800 then c
  else if o < 0x880 then c.modSeqN ((o - 0x800) / 32) fun x => { x with fault := x.fault.put ((o - 0x800) % 32 / 8) v }
  else if o < 0x900 then c
  else if o < 0x9C0 then
    let i := (o - 0x900) / 8
    { c with rwin := vset c.rwin i (rwinWord (i % 3) (vget c.rwin i 0) v) }
  else c

/-- R183: elements of a tile: columns 2i and 2i + 1 of the slot layout as one word. -/
def tileWord (el : BitVec 8192) (i : Nat) : Word := bigWord el i
/-- R374: a word written over two elements of a tile, each within the tile's width and shape. -/
def Tiles.putWord (t : Tiles) (n i : Nat) (v : Word) : Tiles :=
  let e := (vget t.cfg n 0).toNat
  let w := 8 * 2 ^ (e / 1024 % 4)
  let row := i / 8
  let one (el : BitVec 8192) (j : Nat) : BitVec 8192 :=
    let col := 2 * (i % 8) + j
    if e / 32768 % 2 = 1 ∧ row ≤ e / 16 % 16 ∧ col ≤ e % 16 then
      let k := 16 * row + col
      let x := bits v (32 * j + 31) (32 * j) % 2 ^ w
      BitVec.ofNat 8192 (el.toNat - el.toNat / 2 ^ (32 * k) % 2 ^ 32 * 2 ^ (32 * k) + x * 2 ^ (32 * k))
    else el
  { t with el := vset t.el n (one (one (vget t.el n 0) 0) 1) }

/-- A component of an accumulator bank; one not listed is +0 (R197). -/
def bankGet (b : Map (BitVec 32)) (i : Nat) : BitVec 32 := mget 0 b i
/-- Writes a component of an accumulator bank. -/
def bankPut (b : Map (BitVec 32)) (i : Nat) (v : BitVec 32) : Map (BitVec 32) :=
  if v = 0 then mdel b i else mput b i v
/-- Two components as a word. -/
def bankWord (b : Map (BitVec 32)) (i : Nat) : Word :=
  BitVec.ofNat 64 ((bankGet b (2 * i)).toNat + (bankGet b (2 * i + 1)).toNat * 2 ^ 32)
/-- Writes two components. -/
def bankPutWord (b : Map (BitVec 32)) (i : Nat) (v : Word) : Map (BitVec 32) :=
  bankPut (bankPut b (2 * i) (v.setWidth 32)) (2 * i + 1) (BitVec.ofNat 32 (bits v 63 32))

/-- R380: the 8 bytes at an image offset below the scratchpad part; `free` feeds the progress area (log 18). -/
def Ctx.imageRead (c : Ctx) (free o : Nat) : Word :=
  if o < 0x1000 then c.scalarRead (o / 8 * 8)
  else if o < 0x1400 then ringRead c.s.ring c.clk 2 ((o - 0x1000) / 8)
  else if o < 0x1800 then ringRead c.m.ring c.clk 2 ((o - 0x1400) / 8)
  else if o < 0x1C00 then ringRead c.c.ring c.clk 2 ((o - 0x1800) / 8)
  else if o < 0x2000 then Config.progressWord free o
  else if o < 0x4000 then tileWord (vget c.tiles.el ((o - 0x2000) / 1024) 0) ((o - 0x2000) % 1024 / 8)
  else if o < 0x8400 then ringRead c.v.ring c.clk 34 ((o - 0x4000) / 8)
  else if o < 0x9000 then 0
  else if o < 0xAB00 then
    let r := (o - 0x9000) / 256
    wideWord (if r < 8 then vget c.vo r 0 else if r < 24 then vget c.vq (r - 8) 0 else vget c.vb (r - 24) 0) (o % 256 / 8)
  else if o < 0xB000 then 0
  else if o < 0xD000 then wideWord (vget c.vr ((o - 0xB000) / 256) 0) (o % 256 / 8)
  else if o < 0xE000 then bigWord (vget c.lct ((o - 0xD000) / 1024) 0) (o % 1024 / 8)
  else if o < 0xE100 then bigWord (vget c.alg ((o - 0xE000) / 128) 0) (o % 128 / 8)
  else if o < 0x10000 then 0
  else if o < 0x20000 then bankWord c.work ((o - 0x10000) / 8)
  else bankWord c.vis ((o - 0x20000) / 8)

/-- R374: 8 bytes written at an image offset below the scratchpad part; `full` restores the elements a handler's `xwr`
has no effect on as well (R382, R412). -/
def Ctx.imageWrite (c : Ctx) (full : Bool) (o : Nat) (v : Word) : Ctx :=
  if o < 0x1000 then
    let o := o / 8 * 8
    if full ∧ o = 0xA20 then { c with phase := v }
    else if full ∧ o = 0xA28 then { c with members := v }
    else if full ∧ o = 0xA30 then { c with variant := v }
    else if full ∧ o = 0x3E8 then { c with frzn := v }
    else if full ∧ o = 0x740 then { c with valloc := v.setWidth 6 }
    else c.scalarWrite o v
  else if o < 0x1400 then { c with s := { c.s with ring := ringWrite c.s.ring c.clk 2 ((o - 0x1000) / 8) v } }
  else if o < 0x1800 then { c with m := { c.m with ring := ringWrite c.m.ring c.clk 2 ((o - 0x1400) / 8) v } }
  else if o < 0x1C00 then { c with c := { c.c with ring := ringWrite c.c.ring c.clk 2 ((o - 0x1800) / 8) v } }
  else if o < 0x2000 then c
  else if o < 0x4000 then { c with tiles := c.tiles.putWord ((o - 0x2000) / 1024) ((o - 0x2000) % 1024 / 8) v }
  else if o < 0x8400 then { c with v := { c.v with ring := ringWrite c.v.ring c.clk 34 ((o - 0x4000) / 8) v } }
  else if o < 0x9000 then c
  else if o < 0xAB00 then
    let r := (o - 0x9000) / 256
    let i := o % 256 / 8
    if r < 8 then { c with vo := vset c.vo r (putWide (vget c.vo r 0) i v) }
    else if r < 24 then { c with vq := vset c.vq (r - 8) (putWide (vget c.vq (r - 8) 0) i v) }
    else { c with vb := vset c.vb (r - 24) (putWide (vget c.vb (r - 24) 0) i v) }
  else if o < 0xB000 then c
  else if o < 0xD000 then
    let r := (o - 0xB000) / 256
    { c with vr := vset c.vr r (putWide (vget c.vr r 0) (o % 256 / 8) v) }
  else if o < 0xE000 then
    let r := (o - 0xD000) / 1024
    { c with lct := vset c.lct r (putBig (vget c.lct r 0) (o % 1024 / 8) v) }
  else if o < 0xE100 then
    let r := (o - 0xE000) / 128
    if full then { c with alg := vset c.alg r (putBig (vget c.alg r 0) (o % 128 / 8) v) } else c
  else if o < 0x10000 then c
  else if o < 0x20000 then { c with work := bankPutWord c.work ((o - 0x10000) / 8) v }
  else if o < 0x30000 then { c with vis := bankPutWord c.vis ((o - 0x20000) / 8) v }
  else c

/-- R380: bytes of a context's image. -/
def Ctx.imageSize (c : Ctx) : Nat := 0x30000 + 0x10000 * c.gran

/-- R374, R421: the 8 bytes of a core's image of context c, its scratchpad part included. -/
def Core.imageWord (k : Core) (c : Ctx) (free o : Nat) : Word :=
  if o < 0x30000 then c.imageRead free o else BitVec.ofNat 64 (leNat (k.spad.rdN ((o - 0x30000) / 8 * 8) 8))

/-- The words of an image part in memory, as offset and value, for `n` words from address `a`. -/
def memWords (m : Mem) (a n : Nat) : List (Nat × Word) :=
  (List.range n).map fun i => (8 * i, BitVec.ofNat 64 (leNat (m.rdN (a + 8 * i) 8)))

/-- R412: the handler context of a domain, from its image without the scratchpad part: only S runs, in elastic mode,
from its PC (R372). `ws` are the words of the image by offset. -/
def handlerCtx (ws : List (Nat × Word)) (lid : Nat) (asid : BitVec 16) : Ctx :=
  let c := ws.foldl (fun c w => c.imageWrite true w.1 w.2) { Ctx.zero with handler := true }
  { c with handler := true, lid := lid + 2 ^ 40, asid := asid, mode := .elastic, gran := 24, clk := 0,
           s := { c.s with run := true }, v := { c.v with run := false }, m := { c.m with run := false },
           c := { c.c with run := false } }

end Sys2Proof.Machine
end

