-- ==== Sys2Proof/Machine/Regions.lean ====
section
/-! DEFINITION. Physical bytes under the memory keys and poison (R390, R391, R424), write-backs of bound regions (R257), and
the descriptor and job tables of a stack (R334, R337, R338). -/
namespace Sys2Proof.Machine

/-- R267, R391, R424: bytes are written to memory; the register space takes none of them (R399). -/
def State.physWrite (s : State) (wr : List (Nat × Byte)) : State :=
  let wr := wr.filter fun p => decide (p.1 < Config.regBase ∨ 2 ^ 84 ≤ p.1) && !(s.misc.keysErased && encrypted p.1)
  let s := { s with mem := s.mem.wrL wr }
  if s.misc.poisonMem.isEmpty then s
  else
    let full := fullLines wr
    { s with misc := { s.misc with poisonMem := s.misc.poisonMem.filter fun l => l ∉ full } }
/-- R390: marks the lines of written bytes as poisoned. -/
def State.physTaint (s : State) (addrs : List Nat) : State :=
  { s with misc := { s.misc with poisonMem := (s.misc.poisonMem ++ addrs.map (· / 64)).eraseDups } }

/-- How a write-back stands: every dirty byte performed, waiting for a page, or a cause. -/
inductive WbRes where
  | done
  | wait
  | fault (c : CauseArgs)
  deriving DecidableEq, Repr

/-- Whether an access that waits for a page of the given kind and tag is outstanding for a party. -/
def State.xlatWait (s : State) (u lid kind tag : Nat) : Bool :=
  s.outs.any fun o => decide (o.u = u) && decide (o.lid = lid) && decide (o.op = .xlat kind tag)

/-- A translation that must wait: an access of kind `kind` is held outstanding until its page translates (R237, R245). -/
def State.awaitPage (s : State) (u : Nat) (q : SeqId) (lid : Nat) (asid : BitVec 16) (va kind tag : Nat) (pc : Word) : State :=
  if s.xlatWait u lid kind tag then s
  else
    let o : Out := ⟨s.uid, u, q, lid, pc, asid, BitVec.ofNat 64 va, .xlat kind tag, .walking, s.now, [], false, none, ⟨[], 0⟩⟩
    { s with outs := s.outs ++ [o], uid := s.uid + 1 }.startWalk u q asid va kind

/-- R257: the chunks of slot j of unit u that hold dirty bytes. -/
def State.dirtyChunks (s : State) (u j : Nat) : List Nat :=
  match (s.core u).regions.find? fun r => r.1 = j with
  | some (_, r) => if r.wb then (List.range r.chunks).filter fun ch => r.dirty.any fun o => o / 4096 = ch else []
  | none => []
/-- R257, R282, R286: writes the dirty bytes of one chunk of slot j of unit u back; charged to sequencer q of launch `lid`. -/
def State.writeBackChunk (s : State) (u j ch : Nat) (q : SeqId) (lid : Nat) (pc : Word) : WbRes × State :=
  match (s.core u).regions.find? fun r => r.1 = j with
  | none => (.done, s)
  | some (_, r) =>
    let ds := r.dirty.filter fun o => o / 4096 = ch
    let va := r.va.toNat + 4096 * ch
    match s.xlate u r.asid va 1 with
    | .ok pa resp =>
      if respW resp = false then (.fault ⟨0x04, 0, pc, BitVec.ofNat 64 va, 0⟩, s)
      else
        let wr := ds.map fun o => (pa + (o - 4096 * ch), (s.core u).spad.rd (r.off + o))
        let h := s.histOf (s.ctxOf u lid) u q
        let lines := (ds.map fun o => (o - 4096 * ch) / 64).eraseDups
        match s.globalAll ⟨u, q, 4, lid, h.vc, h.phase, none, u⟩ 1 pc r.asid (lines.map fun l => (va + 64 * l, 64, pa + 64 * l, resp)) with
        | (some c, s) => (.fault c, s)
        | (none, s) =>
          let s' := s.physWrite wr
          let s' := if s.spadPoison u (ds.map fun o => r.off + o) then s'.physTaint (wr.map (·.1)) else s'
          (.done, s'.modCore u fun k => { k with regions := k.regions.map fun p =>
            if p.1 = j then (p.1, { p.2 with dirty := p.2.dirty.filter fun o => o / 4096 ≠ ch }) else p })
    | .miss => (.wait, s.awaitPage u q lid r.asid va 5 j pc)
    | .stall => (.wait, s)
    | .deny => (.fault ⟨0x04, 0, pc, BitVec.ofNat 64 va, 0⟩, s)
/-- R257: writes the dirty bytes of slot j of unit u back, chunk by chunk. -/
def State.writeBack (s : State) (u j : Nat) (q : SeqId) (lid : Nat) (pc : Word) : WbRes × State :=
  (s.dirtyChunks u j).foldl (fun (acc : WbRes × State) ch =>
    if acc.1 ≠ .done then acc else acc.2.writeBackChunk u j ch q lid pc) (.done, s)
/-- R257: writes back every bound region of a unit. -/
def State.writeBackAll (s : State) (u : Nat) (q : SeqId) (lid : Nat) (pc : Word) : WbRes × State :=
  (s.core u).regions.foldl (fun (acc : WbRes × State) r =>
    if acc.1 ≠ .done then acc else acc.2.writeBack u r.1 q lid pc) (.done, s)

/-- R420: base of a stack's die block. -/
def stackBlock (st : Nat) : Nat := 0x2000000 + 0x100000 * st
/-- R338: word w of bucket descriptor b. -/
def State.desc (s : State) (st b w : Nat) : Word := s.reg (stackBlock st + 32 * b + 8 * w)
/-- Sets word w of bucket descriptor b, as the hardware does. -/
def State.setDesc (s : State) (st b w : Nat) (v : Word) : State := s.setReg (stackBlock st + 32 * b + 8 * w) v
/-- R337: word w of job record j. -/
def State.job (s : State) (st j w : Nat) : Word := s.reg (stackBlock st + 0x20000 + 32 * j + 8 * w)
/-- Sets word w of job record j. -/
def State.setJob (s : State) (st j w : Nat) (v : Word) : State := s.setReg (stackBlock st + 0x20000 + 32 * j + 8 * w) v
/-- R338: STATE of a bucket. -/
def State.bState (s : State) (st b : Nat) : Nat := bits (s.desc st b 1) 63 61
/-- R338: JOB, ROUND, COUNT of a bucket. -/
def State.bJob (s : State) (st b : Nat) : Nat := bits (s.desc st b 0) 31 24
/-- R338: ROUND. -/
def State.bRound (s : State) (st b : Nat) : Nat := bits (s.desc st b 0) 63 32
/-- R337: the buckets of a stack whose state is not IDLE. -/
def State.liveBuckets (s : State) (st : Nat) : List Nat :=
  s.regs.filterMap fun r =>
    if stackBlock st ≤ r.1 ∧ r.1 < stackBlock st + 0x20000 ∧ r.1 % 32 = 8 ∧ bits r.2 63 61 ≠ 0 then
      some ((r.1 - stackBlock st) / 32) else none

/-- R9, R338: a store to a bucket descriptor has an effect only in IDLE and POISON; STATE keeps its value. The descriptor is a record in
memory: its reserved bits are kept, and `bkopen` refuses them. -/
def State.descWrite (s : State) (st b w : Nat) (v : Word) : State :=
  let state := s.bState st b
  if state = 0 ∨ state = 4 then
    match w with
    | 1 => s.setDesc st b 1 ((v &&& 0x1FFFFFFFFFFFFFFF) ||| (s.desc st b 1 &&& 0xE000000000000000))
    | _ => s.setDesc st b w v
  else s
/-- R337: a write of a job record; while a bucket of the job is not IDLE it changes only SEED. -/
def State.jobWrite (s : State) (st j w : Nat) (v : Word) : State :=
  let busy := (s.liveBuckets st).any fun b => decide (s.bJob st b = j)
  match w with
  | 0 =>
    if busy then s
    else (s.setJob st j 0 (v &&& 0x80FF1FFFFFFFFFFF)).setDie st { s.die st with pubd := (s.die st).pubd.filter fun p => p.1 ≠ j }
  | 1 => s.setJob st j 1 v
  | _ => s
/-- R334, R420: an 8-byte write to the tables of a stack, by offset in its die block. -/
def State.tableWrite (s : State) (st off : Nat) (v : Word) : State :=
  if off < 0x20000 then s.descWrite st (off / 32) (off % 32 / 8) v
  else s.jobWrite st ((off - 0x20000) / 32) (off % 32 / 8) v

end Sys2Proof.Machine
end

