-- ==== Sys2Proof/Machine/Scalar.lean ====
section
/-! DEFINITION. The scalar register instructions (R70 to R79): one meaning each over the shared forms below. -/
namespace Sys2Proof.Machine

/-- Table 3.4: an instruction of two sources. -/
def aluRR (t : BitVec 1) (d a b : BitVec 6) (L : Nat) (f : Word → Word → Word) (s : State) : Res :=
  guardS t d [a, b] s fun s => advance (s.landS t d (f (s.rdS a) (s.rdS b)) L)
/-- An instruction of one source. -/
def aluR (t : BitVec 1) (d a : BitVec 6) (L : Nat) (f : Word → Word) (s : State) : Res :=
  guardS t d [a] s fun s => advance (s.landS t d (f (s.rdS a)) L)
/-- R74: an instruction without a source. -/
def aluK (t : BitVec 1) (d : BitVec 6) (f : State → Word) (s : State) : Res :=
  guardS t d [] s fun s => advance (s.landS t d (f s) 1)
/-- R76, R78: an instruction whose rounding field is a mode code from 0 to 3; any other raises 0x01. -/
def withRm (m : BitVec 3) (s : State) (k : Rm → Res) : Res :=
  if m.toNat < 4 then (match Rm.ofCode m.toNat with | some rm => k rm | none => .next (raiseIllegal s))
  else .next (raiseIllegal s)
/-- R67: the FP32 value of a source. -/
def f32 (v : Word) : Ex := decodeF .fp32 v.toNat
/-- A result as a 64-bit field. -/
def w64 (n : Nat) : Word := BitVec.ofNat 64 n
/-- A truth value as a result. -/
def wBool (b : Bool) : Word := if b then 1 else 0

/-- R71: `div`. -/
def sDiv (a b : Word) : Word := if b = 0 then BitVec.allOnes 64 else BitVec.ofInt 64 (a.toInt.tdiv b.toInt)
/-- R71: `rem`. -/
def sRem (a b : Word) : Word := if b = 0 then a else BitVec.ofInt 64 (a.toInt.tmod b.toInt)
/-- R71: `divu`. -/
def uDiv (a b : Word) : Word := if b = 0 then BitVec.allOnes 64 else w64 (a.toNat / b.toNat)
/-- R71: `remu`. -/
def uRem (a b : Word) : Word := if b = 0 then a else w64 (a.toNat % b.toNat)
/-- R70: leading zero bits of a. -/
def clz64 (a : Word) : Nat := if a = 0 then 64 else 63 - Nat.log2 a.toNat
/-- R70: one bits of a. -/
def popc64 (a : Word) : Nat := ((List.range 64).filter a.getLsbD).length

/-- R70: `add`. -/
def execAdd (t : BitVec 1) (d a b : BitVec 6) (s : State) : Res :=
  aluRR t d a b 1 (fun a b => a + b) s
/-- R70: `sub`. -/
def execSub (t : BitVec 1) (d a b : BitVec 6) (s : State) : Res :=
  aluRR t d a b 1 (fun a b => a - b) s
/-- R70: `and`. -/
def execAnd (t : BitVec 1) (d a b : BitVec 6) (s : State) : Res :=
  aluRR t d a b 1 (fun a b => a &&& b) s
/-- R70: `or`. -/
def execOr (t : BitVec 1) (d a b : BitVec 6) (s : State) : Res :=
  aluRR t d a b 1 (fun a b => a ||| b) s
/-- R70: `xor`. -/
def execXor (t : BitVec 1) (d a b : BitVec 6) (s : State) : Res :=
  aluRR t d a b 1 (fun a b => a ^^^ b) s
/-- R70: `sll`. -/
def execSll (t : BitVec 1) (d a b : BitVec 6) (s : State) : Res :=
  aluRR t d a b 1 (fun a b => a <<< (b.toNat % 64)) s
/-- R70: `srl`. -/
def execSrl (t : BitVec 1) (d a b : BitVec 6) (s : State) : Res :=
  aluRR t d a b 1 (fun a b => a >>> (b.toNat % 64)) s
/-- R70: `sra`. -/
def execSra (t : BitVec 1) (d a b : BitVec 6) (s : State) : Res :=
  aluRR t d a b 1 (fun a b => a.sshiftRight (b.toNat % 64)) s
/-- R70: `slt`. -/
def execSlt (t : BitVec 1) (d a b : BitVec 6) (s : State) : Res :=
  aluRR t d a b 1 (fun a b => wBool (a.slt b)) s
/-- R70: `sltu`. -/
def execSltu (t : BitVec 1) (d a b : BitVec 6) (s : State) : Res :=
  aluRR t d a b 1 (fun a b => wBool (a.ult b)) s
/-- R70: `seq`. -/
def execSeq (t : BitVec 1) (d a b : BitVec 6) (s : State) : Res :=
  aluRR t d a b 1 (fun a b => wBool (decide (a = b))) s
/-- R70: `min`. -/
def execMin (t : BitVec 1) (d a b : BitVec 6) (s : State) : Res :=
  aluRR t d a b 1 (fun a b => if a.slt b then a else b) s
/-- R70: `max`. -/
def execMax (t : BitVec 1) (d a b : BitVec 6) (s : State) : Res :=
  aluRR t d a b 1 (fun a b => if a.slt b then b else a) s
/-- R70: `minu`. -/
def execMinu (t : BitVec 1) (d a b : BitVec 6) (s : State) : Res :=
  aluRR t d a b 1 (fun a b => if a.ult b then a else b) s
/-- R70: `maxu`. -/
def execMaxu (t : BitVec 1) (d a b : BitVec 6) (s : State) : Res :=
  aluRR t d a b 1 (fun a b => if a.ult b then b else a) s
/-- R70: `adds`. -/
def execAdds (t : BitVec 1) (d a b : BitVec 6) (s : State) : Res :=
  aluRR t d a b 1 (fun a b => w64 (satS (a.toInt + b.toInt) 64)) s
/-- R70: `subs`. -/
def execSubs (t : BitVec 1) (d a b : BitVec 6) (s : State) : Res :=
  aluRR t d a b 1 (fun a b => w64 (satS (a.toInt - b.toInt) 64)) s
/-- R70: `addsu`. -/
def execAddsu (t : BitVec 1) (d a b : BitVec 6) (s : State) : Res :=
  aluRR t d a b 1 (fun a b => w64 (satB ((a.toNat : Int) + b.toNat) 64)) s
/-- R70: `subsu`. -/
def execSubsu (t : BitVec 1) (d a b : BitVec 6) (s : State) : Res :=
  aluRR t d a b 1 (fun a b => w64 (satB ((a.toNat : Int) - b.toNat) 64)) s
/-- R70: `mul`. -/
def execMul (t : BitVec 1) (d a b : BitVec 6) (s : State) : Res :=
  aluRR t d a b 3 (fun a b => a * b) s
/-- R70: `mulh`. -/
def execMulh (t : BitVec 1) (d a b : BitVec 6) (s : State) : Res :=
  aluRR t d a b 3 (fun a b => BitVec.ofInt 64 (a.toInt * b.toInt / 18446744073709551616)) s
/-- R70: `mulhu`. -/
def execMulhu (t : BitVec 1) (d a b : BitVec 6) (s : State) : Res :=
  aluRR t d a b 3 (fun a b => w64 (a.toNat * b.toNat / 2 ^ 64)) s
/-- R71: `div`. -/
def execDiv (t : BitVec 1) (d a b : BitVec 6) (s : State) : Res :=
  aluRR t d a b 18 (fun a b => sDiv a b) s
/-- R71: `divu`. -/
def execDivu (t : BitVec 1) (d a b : BitVec 6) (s : State) : Res :=
  aluRR t d a b 18 (fun a b => uDiv a b) s
/-- R71: `rem`. -/
def execRem (t : BitVec 1) (d a b : BitVec 6) (s : State) : Res :=
  aluRR t d a b 18 (fun a b => sRem a b) s
/-- R71: `remu`. -/
def execRemu (t : BitVec 1) (d a b : BitVec 6) (s : State) : Res :=
  aluRR t d a b 18 (fun a b => uRem a b) s
/-- R70: `andn`. -/
def execAndn (t : BitVec 1) (d a b : BitVec 6) (s : State) : Res :=
  aluRR t d a b 1 (fun a b => a &&& ~~~b) s
/-- R70: `clz`. -/
def execClz (t : BitVec 1) (d a : BitVec 6) (s : State) : Res := aluR t d a 1 (fun a => w64 (clz64 a)) s
/-- R70: `popc`. -/
def execPopc (t : BitVec 1) (d a : BitVec 6) (s : State) : Res := aluR t d a 1 (fun a => w64 (popc64 a)) s
/-- R72: `addi`. -/
def execAddi (t : BitVec 1) (d a : BitVec 6) (i : BitVec 12) (s : State) : Res :=
  aluR t d a 1 (fun a => a + sx i) s
/-- R72: `andi`. -/
def execAndi (t : BitVec 1) (d a : BitVec 6) (i : BitVec 12) (s : State) : Res :=
  aluR t d a 1 (fun a => a &&& sx i) s
/-- R72: `ori`. -/
def execOri (t : BitVec 1) (d a : BitVec 6) (i : BitVec 12) (s : State) : Res :=
  aluR t d a 1 (fun a => a ||| sx i) s
/-- R72: `xori`. -/
def execXori (t : BitVec 1) (d a : BitVec 6) (i : BitVec 12) (s : State) : Res :=
  aluR t d a 1 (fun a => a ^^^ sx i) s
/-- R72: `slti`. -/
def execSlti (t : BitVec 1) (d a : BitVec 6) (i : BitVec 12) (s : State) : Res :=
  aluR t d a 1 (fun a => wBool (a.slt (sx i))) s
/-- R72: `sltiu`. -/
def execSltiu (t : BitVec 1) (d a : BitVec 6) (i : BitVec 12) (s : State) : Res :=
  aluR t d a 1 (fun a => wBool (a.ult (sx i))) s
/-- R72: `seqi`. -/
def execSeqi (t : BitVec 1) (d a : BitVec 6) (i : BitVec 12) (s : State) : Res :=
  aluR t d a 1 (fun a => wBool (decide (a = sx i))) s
/-- R73: `slli`. -/
def execSlli (t : BitVec 1) (d a n : BitVec 6) (s : State) : Res :=
  aluR t d a 1 (fun a => a <<< n.toNat) s
/-- R73: `srli`. -/
def execSrli (t : BitVec 1) (d a n : BitVec 6) (s : State) : Res :=
  aluR t d a 1 (fun a => a >>> n.toNat) s
/-- R73: `srai`. -/
def execSrai (t : BitVec 1) (d a n : BitVec 6) (s : State) : Res :=
  aluR t d a 1 (fun a => a.sshiftRight n.toNat) s
/-- R74: `movi`. -/
def execMovi (t : BitVec 1) (d : BitVec 6) (i : BitVec 18) (s : State) : Res := aluK t d (fun _ => sx i) s
/-- R74: a value with one 16-bit part replaced. -/
def putHw (v : Word) (h : BitVec 2) (i : BitVec 16) : Word := setBits v (16 * h.toNat + 15) (16 * h.toNat) i.toNat
/-- R65: what `movk` and `cas` read through their destination field. -/
def State.rdDst (s : State) (d : BitVec 6) : Word := if d = 59 then 0 else s.rdS d
/-- R74, R65: `movk`. -/
def execMovk (t : BitVec 1) (d : BitVec 6) (h : BitVec 2) (i : BitVec 16) (s : State) : Res :=
  guardS t d [d] s fun s => advance (s.landS t d (putHw (s.rdDst d) h i) 1)
/-- R74: `adr`. -/
def execAdr (t : BitVec 1) (d : BitVec 6) (i : BitVec 18) (s : State) : Res :=
  aluK t d (fun s => s.mySeq.pc + 4 * sx i) s
/-- R75: `sel`. -/
def execSel (t : BitVec 1) (d a b c : BitVec 6) (s : State) : Res :=
  guardS t d [a, b, c] s fun s => advance (s.landS t d (if s.rdS c ≠ 0 then s.rdS a else s.rdS b) 1)

/-- Table 3.5: an FP32 operation of two sources that rounds. -/
def fpRR (t : BitVec 1) (d a b : BitVec 6) (m : BitVec 3) (f : Ex → Ex → Ex) (s : State) : Res :=
  withRm m s fun rm => aluRR t d a b 4 (fun a b => w64 (roundF (f (f32 a) (f32 b)) .fp32 rm 0)) s
/-- R76: `fadd.f32`. -/
def execFaddF32 (t : BitVec 1) (d a b : BitVec 6) (m : BitVec 3) (s : State) : Res :=
  fpRR t d a b m (fun x y => exactSum [x, y]) s
/-- R76: `fsub.f32`. -/
def execFsubF32 (t : BitVec 1) (d a b : BitVec 6) (m : BitVec 3) (s : State) : Res :=
  fpRR t d a b m (fun x y => exactSum [x, mulX exMinusOne y]) s
/-- R76: `fmul.f32`. -/
def execFmulF32 (t : BitVec 1) (d a b : BitVec 6) (m : BitVec 3) (s : State) : Res := fpRR t d a b m mulX s
/-- R76: `fmin.f32`. -/
def execFminF32 (t : BitVec 1) (d a b : BitVec 6) (s : State) : Res := fpRR t d a b 0 fminX s
/-- R76: `fmax.f32`. -/
def execFmaxF32 (t : BitVec 1) (d a b : BitVec 6) (s : State) : Res := fpRR t d a b 0 fmaxX s
/-- R76: `fneg.f32`. -/
def execFnegF32 (t : BitVec 1) (d a : BitVec 6) (s : State) : Res :=
  aluR t d a 1 (fun a => (a &&& 0xFFFFFFFF) ^^^ 0x80000000) s
/-- R76: `fabs.f32`. -/
def execFabsF32 (t : BitVec 1) (d a : BitVec 6) (s : State) : Res := aluR t d a 1 (fun a => a &&& 0x7FFFFFFF) s

/-- R77: `feq.f32`. -/
def execFeqF32 (t : BitVec 1) (d a b : BitVec 6) (s : State) : Res :=
  aluRR t d a b 4 (fun a b => wBool (fCmp 0 (f32 a) (f32 b))) s
/-- R77: `flt.f32`. -/
def execFltF32 (t : BitVec 1) (d a b : BitVec 6) (s : State) : Res :=
  aluRR t d a b 4 (fun a b => wBool (fCmp 1 (f32 a) (f32 b))) s
/-- R77: `fle.f32`. -/
def execFleF32 (t : BitVec 1) (d a b : BitVec 6) (s : State) : Res :=
  aluRR t d a b 4 (fun a b => wBool (fCmp 2 (f32 a) (f32 b))) s
/-- Table 3.6: a conversion that rounds. -/
def cvtR (t : BitVec 1) (d a : BitVec 6) (m : BitVec 3) (f : Rm → Word → Word) (s : State) : Res :=
  withRm m s fun rm => aluR t d a 4 (f rm) s
/-- R78: `fcvt.f32.s64`. -/
def execFcvtF32S64 (t : BitVec 1) (d a : BitVec 6) (m : BitVec 3) (s : State) : Res :=
  cvtR t d a m (fun rm a => w64 (roundF (exOfInt a.toInt) .fp32 rm 0)) s
/-- R78: `fcvt.f32.b64`. -/
def execFcvtF32B64 (t : BitVec 1) (d a : BitVec 6) (m : BitVec 3) (s : State) : Res :=
  cvtR t d a m (fun rm a => w64 (roundF (exOfInt a.toNat) .fp32 rm 0)) s
/-- R78: `fcvt.s64.f32`. -/
def execFcvtS64F32 (t : BitVec 1) (d a : BitVec 6) (m : BitVec 3) (s : State) : Res :=
  cvtR t d a m (fun rm a => w64 (f2i (f32 a) true 64 rm)) s
/-- R78: `fcvt.b64.f32`. -/
def execFcvtB64F32 (t : BitVec 1) (d a : BitVec 6) (m : BitVec 3) (s : State) : Res :=
  cvtR t d a m (fun rm a => w64 (f2i (f32 a) false 64 rm)) s
/-- R78: `fcvt.s32.f32`. -/
def execFcvtS32F32 (t : BitVec 1) (d a : BitVec 6) (m : BitVec 3) (s : State) : Res :=
  cvtR t d a m (fun rm a => (BitVec.ofNat 32 (f2i (f32 a) true 32 rm)).signExtend 64) s
/-- R78: `fcvt.b32.f32`. -/
def execFcvtB32F32 (t : BitVec 1) (d a : BitVec 6) (m : BitVec 3) (s : State) : Res :=
  cvtR t d a m (fun rm a => w64 (f2i (f32 a) false 32 rm)) s
/-- R78: `fcvt.f32.bf16`. -/
def execFcvtF32Bf16 (t : BitVec 1) (d a : BitVec 6) (s : State) : Res :=
  aluR t d a 4 (fun a => w64 (roundF (decodeF .bf16 a.toNat) .fp32 .rne 0)) s
/-- R78: `fcvt.bf16.f32`. -/
def execFcvtBf16F32 (t : BitVec 1) (d a : BitVec 6) (m : BitVec 3) (s : State) : Res :=
  cvtR t d a m (fun rm a => w64 (roundF (f32 a) .bf16 rm 0)) s
/-- R79: `fma.f32`; the major opcode names the mode. -/
def execFmaF32 (m : BitVec 2) (t : BitVec 1) (d a b c : BitVec 6) (s : State) : Res :=
  withRm (m.setWidth 3) s fun rm => guardS t d [a, b, c] s fun s =>
    advance (s.landS t d (w64 (fmaF (f32 (s.rdS a)) (f32 (s.rdS b)) (f32 (s.rdS c)) .fp32 rm 0)) 4)

end Sys2Proof.Machine
end

