-- ==== Sys2Proof/Machine/ScalarMem.lean ====
section
/-! DEFINITION. The scalar loads, stores and atomics (R80 to R85). -/
namespace Sys2Proof.Machine

/-- R80: the effective address of a load or store. -/
def State.ea (s : State) (base : BitVec 6) (i : BitVec 12) : Word := s.rdS base + sx i

/-- R80: what a global access of the current unit may do at issue: go on, wait in place, or raise 0x04. -/
inductive GAdm where
  | go | hold | deny
  deriving DecidableEq, Repr
/-- R80, R232, R242, R335: admission of a global access of n bytes with permission test `ok`. -/
def State.globalAdm (s : State) (va n : Nat) (ok : Word → Bool) : GAdm :=
  match s.xlate s.turn.u s.me.asid va n with
  | .deny => .deny
  | .stall => .hold
  | .miss => .go
  | .ok _ r => if ok r then .go else .deny

/-- R244: a global access leaves the core, and a walk begins where no cache translates it. -/
def State.sendOut (s : State) (op : OutOp) (va : Nat) : State :=
  let s' := s.newOut op va
  match s.xlate s.turn.u s.me.asid va 1 with
  | .miss => s'.startWalk s.turn.u s.turn.q s.me.asid va op.kind
  | _ => s'

/-- R92, R265, R394: the register of the control window at `off` is read whole and lands L cycles on; `a` is its local address. -/
def readCsr (t : BitVec 1) (d : BitVec 6) (off : Nat) (a : Word) (L : Nat) (s : State) : State :=
  let u := s.turn.u
  match s.csrRead u off with
  | none => raiseProt a s
  | some _ =>
    let s := s.sampleOver off
    let v := (s.csrRead u off).getD 0
    let s' := advance (s.landS t d (if csrLogged off then s.inputVal 2 u .S v else v) L)
    if csrLogged off then s'.inputDone 2 u .S v else s'

/-- R26, R80, R81: a scalar load of z bytes. -/
def loadS (z : Nat) (sx_ : Bool) (t : BitVec 1) (d a : BitVec 6) (i : BitVec 12) (s : State) : Res :=
  guardS t d [a] s fun s =>
    let ea := s.ea a i
    let u := s.turn.u
    let e (off : Nat) : Elems := ⟨[(0, off)], z, sx_, 64, 0⟩
    if ea.toNat % z ≠ 0 then raiseAlign ea s
    else if bit ea 63 then
      match locOf u ea with
      | .csr off =>
        if z ≠ 8 then raiseAlign ea s else readCsr t d off ea 4 s
      | .table off =>
        if z ≠ 8 then raiseAlign ea s else advance (s.landS t d (s.reg (stackBlock (stackOf u) + off)) 4)
      | .own off => if owns u s.me off then s.localLoad t d (e off) none 4 else raiseProt ea s
      | .mc off => if owns u s.me off then s.localLoad t d (e off) none 4 else raiseProt ea s
      | .win k off => if owns u s.me off then s.localLoad t d (e off) (some k) 4 else raiseProt ea s
      | .bad => raiseProt ea s
    else
      match s.globalAdm ea.toNat z respR with
      | .deny => raiseProt ea s
      | .hold => stall frzNone s
      | .go => advance ((s.sendOut (.load z sx_) ea.toNat).landAcc true t d 0 40 s.uid none)

/-- R25, R80, R124, R135, R254: whether a store may write n bytes at a place other than the control window and tables. -/
def State.storeAdm (s : State) (loc : Loc) (offs : List Nat) : Bool :=
  let u := s.turn.u
  let own := offs.all (owns u s.me)
  match loc with
  | .own _ => own && (s.core u).storeOk offs
  | .win k _ => own && (s.core (coreAt (clusterOf u) k)).storeOk offs
  | .mc _ => own && s.timed u &&
      (List.range 16).all fun j => !(s.me.mcmask.getLsbD j) || (s.core (coreAt (clusterOf u) j)).storeOk offs
  | _ => false

/-- R246: a store takes its side-log entries, one for each line, and leaves the core; without room it does not issue. -/
def State.storeOut (s : State) (wrs : List (List (Nat × Byte))) : State :=
  let u := s.turn.u
  if (s.core u).slog.length + wrs.length > 256 then stall frzLog s
  else
    advance (wrs.foldl (fun s wr =>
      let va := (wr.headD (0, 0)).1
      let ent : LogEnt := ⟨s.uid, s.turn.q, s.me.asid, s.mySeq.pc, wr, false, false, false, false, s.me.lid⟩
      (s.sendOut (.store wr) va).modCore u fun k => { k with slog := k.slog ++ [ent] }) s)

/-- R80, R81: a scalar store of z bytes. -/
def storeS (z : Nat) (d b : BitVec 6) (i : BitVec 12) (s : State) : Res :=
  guardS0 [d, b] s fun s =>
    let ea := s.ea b i
    let u := s.turn.u
    let v := s.rdS d
    let by_ := natLe z v.toNat
    if ea.toNat % z ≠ 0 then raiseAlign ea s
    else if bit ea 63 then
      match locOf u ea with
      | .csr off =>
        if z ≠ 8 then raiseAlign ea s
        else if (s.csrRead u off).isNone then raiseProt ea s
        else advance (s.land .csrw false 0 (BitVec.ofNat 13 (off / 8)) (wide v) 2)
      | .table off => if z ≠ 8 then raiseAlign ea s else advance (s.tableWrite (stackOf u) off v)
      | .bad => raiseProt ea s
      | loc =>
        let off := match loc with | .own o => o | .win _ o => o | .mc o => o | _ => 0
        let wr := atAddr off by_
        if s.storeAdm loc (wr.map (·.1)) then s.localStore loc wr else raiseProt ea s
    else
      match s.globalAdm ea.toNat z (fun r => respW r || respDup r) with
      | .deny => raiseProt ea s
      | .hold => stall frzNone s
      | .go => s.storeOut [atAddr ea.toNat by_]

/-- R81: `ld.s8`. -/
def execLdS8 (t : BitVec 1) (d a : BitVec 6) (i : BitVec 12) (s : State) : Res := loadS 1 true t d a i s
/-- R81: `ld.b8`. -/
def execLdB8 (t : BitVec 1) (d a : BitVec 6) (i : BitVec 12) (s : State) : Res := loadS 1 false t d a i s
/-- R81: `ld.s16`. -/
def execLdS16 (t : BitVec 1) (d a : BitVec 6) (i : BitVec 12) (s : State) : Res := loadS 2 true t d a i s
/-- R81: `ld.b16`. -/
def execLdB16 (t : BitVec 1) (d a : BitVec 6) (i : BitVec 12) (s : State) : Res := loadS 2 false t d a i s
/-- R81: `ld.s32`. -/
def execLdS32 (t : BitVec 1) (d a : BitVec 6) (i : BitVec 12) (s : State) : Res := loadS 4 true t d a i s
/-- R81: `ld.b32`. -/
def execLdB32 (t : BitVec 1) (d a : BitVec 6) (i : BitVec 12) (s : State) : Res := loadS 4 false t d a i s
/-- R81: `ld.b64`. -/
def execLdB64 (t : BitVec 1) (d a : BitVec 6) (i : BitVec 12) (s : State) : Res := loadS 8 false t d a i s
/-- R81: `st.b8`. -/
def execStB8 (d b : BitVec 6) (i : BitVec 12) (s : State) : Res := storeS 1 d b i s
/-- R81: `st.b16`. -/
def execStB16 (d b : BitVec 6) (i : BitVec 12) (s : State) : Res := storeS 2 d b i s
/-- R81: `st.b32`. -/
def execStB32 (d b : BitVec 6) (i : BitVec 12) (s : State) : Res := storeS 4 d b i s
/-- R81: `st.b64`. -/
def execStB64 (d b : BitVec 6) (i : BitVec 12) (s : State) : Res := storeS 8 d b i s

/-- R106, R273: whether an access that sequencer q of unit u issued under the history `hb` belongs to what S releases now:
its own, and those that a token S has consumed ordered before. -/
def State.released (s : State) (u : Nat) (q : SeqId) (hb : Hist) : Bool :=
  let lid := (s.ctx u).lid
  decide (q = .S) || decide (mget 0 hb.vc (compOf lid u q) < mget 0 (s.vc (compOf lid u .S)) (compOf lid u q))

/-- R94, R273: whether a fence of scope `sc` in S of unit u is complete. Log 78: in a timed cluster the fence freezes the domain cycles on
which S's window accesses and multicast stores in flight are performed, so it does not wait for them. -/
def State.fenceDone (s : State) (u sc : Nat) : Bool :=
  let c := s.ctx u
  if sc = 0 then !((s.core u).slog.any fun e => decide (e.q = .S) && decide (e.lid = c.lid))
  else
    !(s.outs.any fun o => decide (o.u = u) && decide (o.lid = c.lid) && s.released u o.q o.hb &&
        (o.op.isStore || (o.op.isLoad && decide (o.q = .S)))) &&
    !(decide (c.mode ≠ .timed) && c.wins.any fun w => s.released u w.q w.hb) &&
    !(s.packets.any fun p => decide (p.u = u) && decide (p.lid = c.lid) && s.released u p.q p.hb)

/-- R274: whether S of unit u has issued an atomic whose old value has not reached the core, so that it issues nothing; in a timed
cluster an atomic through a window is no such one (log 78). -/
def State.amoPending (s : State) (u : Nat) : Bool :=
  let c := s.ctx u
  (s.outs.any fun o => decide (o.u = u) && decide (o.lid = c.lid) && decide (o.q = .S) &&
    (match o.op with | .amo _ _ _ _ _ => true | _ => false)) ||
  (decide (c.mode ≠ .timed) && c.wins.any fun w => decide (w.q = .S) && w.amo.isSome)

/-- The answer of the broadcast plane to a group-scope operation. -/
inductive PlaneAns where
  | wait (s : State)
  | lost
  | done (s : State)

/-- R446: whether a carried atomic is still to be performed: its sequencer has not tried again, or its access is on its way. -/
def State.amoAlive (s : State) (o : PlaneOp) : Bool :=
  s.launchLive o.lid &&
  ((s.plane.ops.any fun p => decide (p.id = o.id) && decide ((s.ctxOf o.u o.lid).s.pc = o.pc)) ||
    s.outs.any fun x => decide (x.u = o.u) && decide (x.lid = o.lid) && decide (x.st ≠ .answered) &&
      (match x.op with | .amo _ _ _ _ sc => decide (sc = 4) | _ => false))
/-- R274, R446: whether the atomics before that of a core in T are performed. -/
def State.amoFirst (s : State) (u lid : Nat) : Bool :=
  match s.plane.order.filter s.amoAlive with
  | o :: _ => decide (o.u = u) && decide (o.lid = lid)
  | [] => true
/-- R446, R456: whether a group-scope operation of the sequencer whose turn it is has been carried and performed; an
operation that the plane does not hold yet is handed to it. In a timed cluster the timetable says when an atomic is performed. -/
def State.planeOp (s : State) (amo : Bool) : PlaneAns :=
  let u := s.turn.u
  let mine (o : PlaneOp) : Bool := decide (o.u = u) && decide (o.q = s.turn.q) && decide (o.lid = s.me.lid)
  let live := decide (bits (s.reg 0x3010018) 63 62 = 1)
  match s.plane.ops.find? fun o => mine o && decide (o.pc = s.mySeq.pc) with
  | some o =>
    if o.id ∈ s.plane.done then
      if amo ∧ s.me.mode ≠ .timed ∧ s.amoFirst u s.me.lid = false then .wait s
      else
        .done { s with plane := { s.plane with ops := s.plane.ops.filter fun p => p.id ≠ o.id,
                                               done := s.plane.done.filter (· ≠ o.id) } }
    else if o.gseq.isSome || live then .wait s
    else .lost
  | none =>
    if live then
      .wait { s with plane := { s.plane with
                ops := s.plane.ops.filter (fun o => !mine o) ++ [⟨s.mySeq.pc, u, s.turn.q, s.uid, s.me.lid, none, amo⟩] },
                     uid := s.uid + 1 }
    else .lost
/-- R446, R456: goes on with `k` once a group-scope operation has its place; other scopes go on at once. -/
def withPlane (sc : Nat) (amo : Bool) (s : State) (k : State → State) : State :=
  if sc = 4 ∧ s.me.group ≠ 0 then
    match s.planeOp amo with
    | .wait s' => stall frzSync s'
    | .lost => raiseAt 0x13 0 0 0 { s with plane := { s.plane with ops := s.plane.ops.filter fun o => ¬ (o.u = s.turn.u ∧ o.q = s.turn.q) } }
    | .done s' => k s'
  else k s

/-- R84, R85, R274: an atomic of scope `sc`, operation `op` (Table 3.8) and size code z. -/
def atomS (op sc : Nat) (t : BitVec 1) (d a b : BitVec 6) (zc : BitVec 1) (s : State) : Res :=
  guardS t d (if op = 9 then [a, b, d] else [a, b]) s fun s =>
    if sc > 4 then raiseIllegal s else
    let z := if zc = 1 then 8 else 4
    let ea := s.rdS a
    let u := s.turn.u
    let bv := (s.rdS b).toNat % 2 ^ (8 * z)
    let cmp := if op = 9 then (s.rdDst d).toNat % 2 ^ (8 * z) else 0
    if ea.toNat % z ≠ 0 then raiseAlign ea s
    else if bit ea 63 then
      match locOf u ea with
      | .own off =>
        let offs := (List.range z).map (off + ·)
        if ¬ (offs.all (owns u s.me) ∧ (s.core u).storeOk offs) then raiseProt ea s
        else if ¬ s.fenceDone u sc then stall frzSync s
        else
          let r := s.touch u offs
          if r.1 = false then stall frzData r.2
          else withPlane sc true s fun s =>
            let s1 := s.scFirst s.me.lid u .S sc
            match s1.access (s1.accOf u .S) (2 + sc) (s.timed u) (lineKeys (spadKeyBase u) offs) with
            | (some (_, det), _) => s.raiseRace (raceCause s.mySeq.pc ea.toNat det)
            | (none, s') =>
              let old := leNat ((s.ownSpad u .S).rdN off z)
              let s' := (s'.ownWrite u .S (atAddr off (natLe z (amoNew op z old bv cmp)))).scLast s.me.lid u .S sc
              advance (s'.landAcc false t d (wide (w64 old)) 40 0 (s.spadBad u offs))
      | .win k off =>
        let offs := (List.range z).map (off + ·)
        let tgt := coreAt (clusterOf u) k
        if tgt ≠ u ∧ sc = 0 then raiseProt ea s
        else if ¬ (offs.all (owns u s.me) ∧ (s.core tgt).storeOk offs) then raiseProt ea s
        else if ¬ s.fenceDone u sc then stall frzSync s
        else
          let r := s.touch tgt offs
          if r.1 = false then stall frzData r.2
          else withPlane sc true s fun s =>
            let s := s.scFirst s.me.lid u .S sc
            let w : WinAcc := ⟨s.me.clk + 2 + distance (clusterIdx u) k, .S, tgt, s.uid, some ⟨[(0, off)], z, false, 64, 0⟩,
              some (op, bv, cmp, sc), [], s.mySeq.pc, s.histOf s.me u .S⟩
            let s' := ({ s with uid := s.uid + 1 }).modMe fun c => { c with wins := c.wins ++ [w] }
            advance (s'.landAcc true t d 0 40 s.uid none)
      | _ => raiseProt ea s
    else
      match s.globalAdm ea.toNat z (fun r => respR r && respW r) with
      | .deny => raiseProt ea s
      | .hold => stall frzNone s
      | .go =>
        if ¬ s.fenceDone u sc then stall frzSync s
        else withPlane sc true s fun s =>
          let s := s.scFirst s.me.lid u .S sc
          advance ((s.sendOut (.amo (BitVec.ofNat 4 op) z (w64 bv) (w64 cmp) (BitVec.ofNat 3 sc)) ea.toNat).landAcc
            true t d 0 40 s.uid none)
/-- R84: `amo.add`. -/
def execAmoAdd (sc : BitVec 3) (t : BitVec 1) (d a b : BitVec 6) (z : BitVec 1) (s : State) : Res :=
  atomS 0 sc.toNat t d a b z s
/-- R84: `amo.and`. -/
def execAmoAnd (sc : BitVec 3) (t : BitVec 1) (d a b : BitVec 6) (z : BitVec 1) (s : State) : Res :=
  atomS 1 sc.toNat t d a b z s
/-- R84: `amo.or`. -/
def execAmoOr (sc : BitVec 3) (t : BitVec 1) (d a b : BitVec 6) (z : BitVec 1) (s : State) : Res :=
  atomS 2 sc.toNat t d a b z s
/-- R84: `amo.xor`. -/
def execAmoXor (sc : BitVec 3) (t : BitVec 1) (d a b : BitVec 6) (z : BitVec 1) (s : State) : Res :=
  atomS 3 sc.toNat t d a b z s
/-- R84: `amo.swap`. -/
def execAmoSwap (sc : BitVec 3) (t : BitVec 1) (d a b : BitVec 6) (z : BitVec 1) (s : State) : Res :=
  atomS 4 sc.toNat t d a b z s
/-- R84: `amo.smin`. -/
def execAmoSmin (sc : BitVec 3) (t : BitVec 1) (d a b : BitVec 6) (z : BitVec 1) (s : State) : Res :=
  atomS 5 sc.toNat t d a b z s
/-- R84: `amo.smax`. -/
def execAmoSmax (sc : BitVec 3) (t : BitVec 1) (d a b : BitVec 6) (z : BitVec 1) (s : State) : Res :=
  atomS 6 sc.toNat t d a b z s
/-- R84: `amo.umin`. -/
def execAmoUmin (sc : BitVec 3) (t : BitVec 1) (d a b : BitVec 6) (z : BitVec 1) (s : State) : Res :=
  atomS 7 sc.toNat t d a b z s
/-- R84: `amo.umax`. -/
def execAmoUmax (sc : BitVec 3) (t : BitVec 1) (d a b : BitVec 6) (z : BitVec 1) (s : State) : Res :=
  atomS 8 sc.toNat t d a b z s
/-- R84: `amo.cas`. -/
def execAmoCas (sc : BitVec 3) (t : BitVec 1) (d a b : BitVec 6) (z : BitVec 1) (s : State) : Res :=
  atomS 9 sc.toNat t d a b z s

end Sys2Proof.Machine
end

