-- ==== Sys2Proof/Machine/Control.lean ====
section
/-! DEFINITION. Control flow of S (R86, R87) and the shared group of all four streams (R88 to R91, R102 to R105, R130, R386,
R387). -/
namespace Sys2Proof.Machine

/-- R86: a target at a word offset from the current instruction. -/
def State.rel {n : Nat} (s : State) (o : BitVec n) : Word := s.mySeq.pc + (sx o) * 4

/-- R86: a branch of S. -/
def branchS (c : BrCond) (a b : BitVec 6) (o : BitVec 13) (s : State) : Res :=
  guardS0 [a, b] s fun s => if c.holds (s.rdS a) (s.rdS b) then jumpTo (s.rel o) s else advance s

/-- Table 3.9: `beq`. -/
def execBeq (a b : BitVec 6) (o : BitVec 13) (s : State) : Res := branchS .eq a b o s
/-- Table 3.9: `bne`. -/
def execBne (a b : BitVec 6) (o : BitVec 13) (s : State) : Res := branchS .ne a b o s
/-- Table 3.9: `blt`. -/
def execBlt (a b : BitVec 6) (o : BitVec 13) (s : State) : Res := branchS .lt a b o s
/-- Table 3.9: `bge`. -/
def execBge (a b : BitVec 6) (o : BitVec 13) (s : State) : Res := branchS .ge a b o s
/-- Table 3.9: `bltu`. -/
def execBltu (a b : BitVec 6) (o : BitVec 13) (s : State) : Res := branchS .ltu a b o s
/-- Table 3.9: `bgeu`. -/
def execBgeu (a b : BitVec 6) (o : BitVec 13) (s : State) : Res := branchS .geu a b o s

/-- R87: `call`. -/
def execCall (t : BitVec 1) (d : BitVec 6) (i : BitVec 18) (s : State) : Res :=
  guardS t d [] s fun s => jumpWith (s.rel i) (fun s => s.landS t d (s.mySeq.pc + 4) 1) s
/-- R87: `callr`. -/
def execCallr (t : BitVec 1) (d a : BitVec 6) (i : BitVec 12) (s : State) : Res :=
  guardS t d [a] s fun s => jumpWith (s.rdS a + sx i) (fun s => s.landS t d (s.mySeq.pc + 4) 1) s

/-- The register operand of a shared instruction: its low 64 bits, or the cause that its code raises. -/
inductive ShVal where
  | ok (v : Word)
  | illegal
  | beyond
  deriving DecidableEq, Repr

/-- R88, R91: the register that a shared instruction names, in the operand encoding of the issuing stream. -/
def State.shVal (s : State) (r : BitVec 6) : ShVal :=
  match s.turn.q with
  | .S => if sSrcOk [r] then .ok (s.rdS r) else .illegal
  | .V =>
    if r = 61 ∨ r = 63 then .illegal
    else if vBeyond s.me r then .beyond
    else .ok ((vVal s.me r 32 0).setWidth 64)
  | .M => if r.toNat < 16 then .ok (aVal s.me (r.setWidth 4)) else .illegal
  | .C => if r.toNat < 16 then .ok (gVal s.me (r.setWidth 4)) else .illegal

/-- R394: a shared instruction of S that has read the datum consumes an input. -/
def State.shDone (s0 : State) (r : BitVec 6) (s : State) : State :=
  if s.turn.q = .S ∧ r = 62 ∧ s.verdict = .issued then s.inputDone 1 s.turn.u .S s0.datumNs else s

/-- R88: a shared instruction with a register operand. -/
def withShared (r : BitVec 6) (s : State) (k : Word → State) : Res :=
  .next <| match s.shVal r with
    | .ok v => s.shDone r (k v)
    | .illegal => raiseIllegal s
    | .beyond => raiseRegister s

/-- R29, R90, R93: `zloop` with count n; a pending `csrw` to the same loop register does not take effect after it. Log 35: the loop
register is set before the end check of the zloop's own issue. -/
def zloopTo (l : BitVec 1) (n : BitVec 32) (o : BitVec 11) (s : State) : State :=
  let pc := s.mySeq.pc
  let stop := pc + (o.setWidth 64) * 4
  if o = 0 then raiseIllegal s
  else
    let lp : Loop := ⟨pc + 4, stop, n, decide (n ≠ 0)⟩
    let base := (match s.turn.q with | .S => 0 | .V => 16 | .M => 24 | .C => 32) + 3 * l.toNat
    let cut (e : Land) : Bool :=
      decide (e.kind = .csrw) && decide (base ≤ e.index.toNat) && decide (e.index.toNat < base + 3) &&
      decide (e.due ≤ s.me.clk + 1)
    let s := s.modMe fun c => { c with s := { c.s with ring := c.s.ring.filter fun e => !cut e } }
    let put (s : State) : State := s.modSelf fun x => if l = 1 then { x with lp1 := lp } else { x with lp0 := lp }
    if n = 0 then jumpWith (stop + 4) put s else advance (put s)

/-- R90: `zloop` with a count in the word. -/
def execZloop (l : BitVec 1) (c : BitVec 8) (o : BitVec 11) (s : State) : Res :=
  .next (zloopTo l (c.setWidth 32) o s)
/-- R90: `zloop` with a count in a register. -/
def execZloopReg (l : BitVec 1) (r : BitVec 6) (o : BitVec 11) (s : State) : Res :=
  withShared r s fun v => zloopTo l (v.setWidth 32) o s
/-- R91: `jmp` with an offset in the word. -/
def execJmp (o : BitVec 20) (s : State) : Res := .next (jumpTo (s.rel o) s)
/-- R91: `jmp` to the value of a register. -/
def execJmpReg (r : BitVec 6) (s : State) : Res := withShared r s fun v => jumpTo v s

/-- Table 3.10: `nop`. -/
def execNop (s : State) : Res := .next (advance s)

/-- R89, R333: whether a token instruction of the current sequencer may name sequencer k. -/
def State.tokOk (s : State) (k : SeqId) : Bool :=
  decide (k ≠ s.turn.q) && (!(isStack s.turn.u) || decide (k = .S) || decide (k = .V))

/-- R104: `sig`. -/
def execSig (k : BitVec 2) (n : BitVec 6) (s : State) : Res :=
  .next <|
    let dst := seqOfCode k.toNat
    let src := s.turn.q
    if s.tokOk dst = false then raiseIllegal s
    else
      let p := if src = .C then s.me.pendTok dst else 0
      let soon := (s.me.endOps.filterMap fun e => match e with | .token a b m => if a = src ∧ b = dst then some m else none | _ => none).sum
      if s.me.tokens src dst + p + soon + n.toNat > 63 then raiseAt 0x09 0 (BitVec.ofNat 64 (seqCode dst)) 0 s
      else if n = 0 then advance s
      else if src = .C then
        advance (({ s with uid := s.uid + 1 } : State).modMe fun c => { c with ctok := c.ctok ++ [⟨dst, n.toNat, s.uid⟩] })
      else advance (s.atEnd (.token src dst n.toNat))

/-- R122, R140: whether a sequencer had halted, or was never started, before this cycle: one that issues `halt` on this cycle has its
next issue cycle behind it still to come. -/
def Ctx.wasHalted (c : Ctx) (q : SeqId) : Bool := !(c.seq q).run && decide ((c.seq q).nextAt ≤ c.clk)
/-- R122: whether a sequencer of the running context of unit u has halted or was never started. -/
def State.halted (s : State) (u : Nat) (q : SeqId) : Bool := (s.ctx u).wasHalted q

/-- The condition code of a stall that R122 counts as stuck; it is no condition of Table 5.2. -/
def frzStuck : Nat := 13

/-- R105, R122: `wait`. -/
def execWait (k : BitVec 2) (n : BitVec 6) (s : State) : Res :=
  .next <|
    let src := seqOfCode k.toNat
    let me := s.turn.q
    if s.tokOk src = false then raiseIllegal s
    else
      let have_ := s.me.tokens src me
      let p := if src = .C then s.me.pendTok me else 0
      if n.toNat ≤ have_ then
        advance ((s.modMe fun c => c.setTokens src me (have_ - n.toNat)).tokenTake s.me.lid s.turn.u src me n.toNat)
      else if s.me.mode = .timed then
        if n.toNat ≤ have_ + p then stall frzWait s else raiseQueue 0 s
      else if n.toNat ≤ have_ + p then stall frzWait s
      else if s.halted s.turn.u src then raiseQueue 0 s
      else stall frzStuck s

/-- R130: `tmark`. -/
def execTmark (n : BitVec 21) (s : State) : Res :=
  .next <|
    if s.me.mode ≠ .timed then raiseIllegal s
    else if s.me.clk % 2 ^ 21 = n.toNat then advance s
    else raiseTiming s

/-- R386: a beacon sets the watchdog's count to its period. -/
def Ctx.beaconed (c : Ctx) : Ctx := { c with wdogLeft := c.wdogPer }
/-- R386: `beacon`. -/
def execBeacon (s : State) : Res := .next (advance (s.modMe Ctx.beaconed))
/-- R386, R387, R394, R397: `beacon.w` idles until the next notify of its launch's queue; in a replay the log names the cycle, and a record
of another type, or one whose cycle has passed, is a divergence. -/
def execBeaconW (s : State) : Res :=
  .next <|
    if s.me.mode = .timed then raiseIllegal s
    else
      let u := s.turn.u
      let q := s.turn.q
      let x := s.mySeq
      let go := if s.isReplay u then x.idle && (s.replayed 4 u q).isSome else x.idle && x.woken
      let past := s.isReplay u && x.idle && !go &&
        (match s.nextRec u q with | some (t, cyc, _, _) => decide (t ≠ 4) || decide (cyc < s.me.clk) | none => false)
      let s := s.modMe Ctx.beaconed
      if go then
        let queue := match s.launch s.me.launch with | some l => l.queue | none => 0
        let s' := advance (s.modSelf fun x => { x with idle := false, woken := false })
        s'.inputDone 4 u q (BitVec.ofNat 64 queue)
      else
        let s' := stall frzNone (s.modSelf fun x => { x with idle := true, woken := x.woken && x.idle })
        if past then s'.diverge u q 0 else s'


/-- R89, R362: a cause that an instruction raises after it has issued and taken part in the end check. -/
def raiseIssued (code : Nat) (n : BitVec 16) (s : State) : State :=
  let s := advance s
  raiseCause ⟨BitVec.ofNat 8 code, n, s.mySeq.pc, 0, 0⟩ true s
/-- R89: `brk`. -/
def execBrk (n : BitVec 16) (s : State) : Res := .next (raiseIssued 0x0F n s)
/-- R89: `trap`. -/
def execTrap (n : BitVec 16) (s : State) : Res := .next (raiseIssued 0x0E n s)

/-- R39: `halt` ends its sequencer; a stack core gives up its held rows when S halts (R352). -/
def execHalt (s : State) : Res :=
  .next <|
    let s := (advance s).modSelf fun x => { x with run := false }
    if isStack s.turn.u ∧ s.turn.q = .S then s.modCore s.turn.u fun k => { k with rows := [] } else s

end Sys2Proof.Machine
end

