-- ==== Sys2Proof/Machine/Sync.lean ====
section
/-! DEFINITION. Fences, barriers, `waitt`, `fpush` and the control-register instructions (R92 to R97, R138 to R142, R264,
R272, R273, R275), and the fetch of an instruction word (R27). -/
namespace Sys2Proof.Machine

/-- What a fetch finds: the word, poison, a translation that must be awaited, or a denial. -/
inductive Fetch where
  | word (w : BitVec 32)
  | bad
  | wait
  | deny
  deriving DecidableEq, Repr

/-- R27, R232, R242, R335, R424: the instruction word at an address of the running context of unit u. -/
def State.fetch (s : State) (u : Nat) (pc : Word) : Fetch :=
  match s.xlate u (s.ctx u).asid pc.toNat 4 with
  | .ok pa r =>
    if respR r = false then .deny
    else if (s.core u).logCovers (s.ctx u).asid pc.toNat 4 then .wait
    else if s.physPoison pa 4 then .bad
    else .word (BitVec.ofNat 32 (leNat (s.mem.rdN pa 4)))
  | .miss => .wait
  | .stall => .wait
  | .deny => .deny

/-- R94, R270 to R273: `fence`. -/
def execFence (sc : BitVec 3) (s : State) : Res :=
  .next <|
    if sc.toNat > 4 then raiseIllegal s
    else if ¬ s.fenceDone s.turn.u sc.toNat then stall frzSync s
    else withPlane sc.toNat false s fun s => advance (s.scFirst s.me.lid s.turn.u .S sc.toNat)

/-- R138: the domain of a level that a unit belongs to, as a number. -/
def domainOf (level u : Nat) : Nat :=
  match level with
  | 1 => u | 2 => clusterOf u | 3 => dieOf u | _ => 0
/-- Whether a core holds a context of a launch. -/
def Core.holds (k : Core) (lid : Nat) : Bool :=
  decide (k.ctx.lid = lid) || decide (k.bank.lid = lid) || k.saved.any fun c => decide (c.lid = lid)
/-- R138: the units of a launch that take part in barriers of a level in a domain. -/
def State.members (s : State) (lid level dom : Nat) : List Nat :=
  s.cores.filterMap fun p =>
    if p.2.holds lid ∧ ¬ isStack p.1 ∧ domainOf level p.1 = dom ∧ bit (s.ctxOf p.1 lid).members (47 + level) then some p.1 else none
/-- R141: whether the four sequencers of a context have all halted. -/
def Ctx.allHalted (c : Ctx) : Bool := !c.s.run && !c.v.run && !c.m.run && !c.c.run
/-- R140: whether they had before this cycle. -/
def Ctx.allWereHalted (c : Ctx) : Bool := c.wasHalted .S && c.wasHalted .V && c.wasHalted .M && c.wasHalted .C

/-- R139, R275: whether what a core has issued before its S issued a barrier lets it arrive, `at_` being the identity counter and the
clock of that issue. Log 78: in a timed domain, window accesses and multicast stores in flight do not count: they are performed on
domain cycles that come after the barrier. -/
def State.drained (s : State) (u level : Nat) (at_ : Nat × Nat) : Bool :=
  let c := s.ctx u
  let k := s.core u
  let mine (o : Out) : Bool := decide (o.u = u) && decide (o.lid = c.lid) && decide (o.id < at_.1)
  !(k.slog.any fun e => decide (e.lid = c.lid) && decide (e.id < at_.1)) && !(c.copies.any fun i => decide (i < at_.1)) &&
  !(s.outs.any fun o => mine o &&
      (o.op.isStore || o.op.isLoad || (match o.op with | .operand _ => true | _ => false))) &&
  (decide (c.mode = .timed) || !(c.wins.any fun w => decide (w.due < at_.2 + 2 + distance (clusterIdx u) (clusterIdx w.target)))) &&
  !(s.packets.any fun p => decide (p.u = u) && decide (p.lid = c.lid) && decide (p.p.id < at_.1)) &&
  (decide (level ≠ 1) || decide (c.mode = .timed) ||
    ([SeqId.S, .V, .M, .C].all (fun q => (c.seq q).ring.all fun l => !l.v) && c.cmds.all fun m => decide (m.quies ≤ c.clk) && m.started.isSome))

/-- R140: whether every other member core of a timed cluster issues the same barrier on this cycle; a word that is not
fetched yet is no mismatch. -/
def State.barAgrees (s : State) (u level : Nat) : Bool :=
  ((List.range 16).map (coreAt (clusterOf u))).all fun j =>
    let c := s.ctx j
    if j = u ∨ c.lid ≠ (s.ctx u).lid ∨ bit c.members (47 + level) = false then true
    else if c.allWereHalted then true
    else if !c.s.run || decide (c.s.nextAt > c.clk) then false
    else match s.fetch j c.s.pc with
      | .word w => decide (w = s.word)
      | .wait => true
      | .bad => false
      | .deny => false

/-- R95, R139 to R142, R257, R264: a barrier of a level, with the variant that `bar.sw` names. -/
def barrier (level : Nat) (sw : Option Nat) (s : State) : State :=
  let u := s.turn.u
  let c := s.me
  if level = 0 ∨ level > 5 ∨ bit c.members (47 + level) = false ∨ isStack u then raiseIllegal s
  else if c.barGo then
    advance (s.modMe fun c => { c with barTry := none, bar := none, barSw := none, barGo := false })
  else if (match sw with | some v => decide (bits c.variant 3 0 ≤ v) | none => false) then
    raiseAt 0x17 0 (Config.variantsNamed (sw.toList)) 0 s
  else if c.mode = .timed ∧ ¬ s.barAgrees u level then raiseTiming s
  else
    let halted := sw.isNone || (!c.v.run && !c.m.run && !c.c.run)
    if level = 5 ∧ bits (s.reg 0x3010018) 63 62 ≠ 1 then
      raiseAt 0x13 0 0 0 (s.modMe fun c => { c with barTry := none, bar := none, barSw := none })
    else if c.bar.isSome then stall frzSync s
    else
    let at_ := c.barTry.getD (c.uid0, c.clk)
    let s := s.modMe fun c => { c with barTry := some at_ }
    if s.drained u level at_ ∧ halted then
      if level = 1 ∧ sw.isNone then advance (s.modMe fun c => { c with barTry := none })
      else
        let w := if level = 1 then (WbRes.done, s) else s.writeBackAll u .S c.lid s.mySeq.pc
        match w.1 with
        | .done => stall frzSync ((w.2.barrierArrive c.lid u).modMe fun c => { c with bar := some (level, s.now), barSw := sw })
        | .wait => stall frzSync w.2
        | .fault e => w.2.raiseRace e
    else stall frzSync s

/-- R95: `bar`. -/
def execBar (l : BitVec 3) (s : State) : Res := .next (barrier l.toNat none s)
/-- R95, R264: `bar.sw`. -/
def execBarSw (v : BitVec 2) (l : BitVec 3) (s : State) : Res := .next (barrier l.toNat (some v.toNat) s)

/-- R96, R434: `waitt`; scheduled writes that datum time has ordered are acquired. -/
def execWaitt (a : BitVec 6) (s : State) : Res :=
  guardS0 [a] s fun s =>
    let v := s.rdS a
    if v.toNat ≤ s.datumNs.toNat then
      let p := compOf s.me.lid s.turn.u .S
      let got := (s.sched.filter fun e => e.1 ≤ v.toNat).map fun e => (e.2, 1)
      advance (if got.isEmpty then s else (s.syncPoint s.me.lid s.turn.u .S).joinVc p (got.foldl (fun m e => mput m e.1 e.2) []))
    else stall frzDatum s

/-- R97, R110, R111: `fpush`. -/
def execFpush (a : BitVec 6) (s : State) : Res :=
  if isStack s.turn.u then .next (raiseIllegal s)
  else guardS0 [a] s fun s =>
    if s.me.fq.length < 16 then
      advance (s.modMe fun c => { c with fq := c.fq ++ [((s.rdS a).setWidth 32, c.clk)] })
    else if s.me.mode = .timed ∨ s.halted s.turn.u .M then raiseQueue 0 s
    else stall frzStuck s

/-- The local address of the control register of an index (Table 1.5). -/
def csrAddr (off : Nat) : Word := BitVec.ofNat 64 (0x8000000008000000 + off)
/-- R92, R394: `csrr`. -/
def execCsrr (t : BitVec 1) (d : BitVec 6) (i : BitVec 13) (s : State) : Res :=
  guardS t d [] s (readCsr t d (8 * i.toNat) (csrAddr (8 * i.toNat)) 2)
/-- R92: `csrw`. -/
def execCsrw (a : BitVec 6) (i : BitVec 13) (s : State) : Res :=
  guardS0 [a] s fun s =>
    let off := 8 * i.toNat
    match s.csrRead s.turn.u off with
    | none => raiseProt (csrAddr off) s
    | some _ => advance (s.land .csrw false 0 i (wide (s.rdS a)) 2)

end Sys2Proof.Machine
end

