-- ==== Sys2Proof/Machine/System.lean ====
section
/-! DEFINITION. The system instructions of a handler context (R373 to R378) and the posting of C's tokens (R104). -/
namespace Sys2Proof.Machine

/-- R373: a system instruction outside a handler context raises 0x01. -/
def guardH (s : State) (k : State → Res) : Res := if s.me.handler then k s else .next (raiseIllegal s)

/-- R374: the checks of an image offset. -/
def withImage (o : Word) (s : State) (k : Nat → State) : State :=
  if o.toNat % 8 ≠ 0 then raiseAlign o s
  else if o.toNat ≥ (s.core s.turn.u).bank.imageSize then raiseProt o s
  else k o.toNat

/-- R374, R382: the scratchpad part of an image is touched as by any access. -/
def withPad (o : Nat) (s : State) (k : State → State) : State :=
  if o < 0x30000 then k s
  else
    let t := s.touch s.turn.u [o - 0x30000]
    if t.1 then k t.2 else stall frzNone t.2
/-- R390: a context with every poisoned element of it changed: a word of its image that this changes holds poison. -/
def Ctx.flipped (c : Ctx) : Ctx :=
  let c := c.poison.foldl (fun c p =>
    let r := p.2
    match p.1 with
    | .S =>
      if r < 32 then { c with x := vset c.x r (~~~ vget c.x r 0) } else if r < 40 then { c with xo := vset c.xo (r - 32) (~~~ vget c.xo (r - 32) 0) }
      else if r < 56 then { c with xq := vset c.xq (r - 40) (~~~ vget c.xq (r - 40) 0) } else { c with xb := vset c.xb (r - 56) (~~~ vget c.xb (r - 56) 0) }
    | .V =>
      if r < 32 then { c with vr := vset c.vr r (~~~ vget c.vr r 0) } else if r < 40 then { c with vo := vset c.vo (r - 32) (~~~ vget c.vo (r - 32) 0) }
      else if r < 56 then { c with vq := vset c.vq (r - 40) (~~~ vget c.vq (r - 40) 0) }
      else if r < 64 then { c with vb := vset c.vb (r - 56) (~~~ vget c.vb (r - 56) 0) } else { c with mkr := vset c.mkr (r - 64) (~~~ vget c.mkr (r - 64) 0) }
    | .M => { c with a := vset c.a r (~~~ vget c.a r 0) }
    | .C => { c with g := vset c.g r (~~~ vget c.g r 0) }) c
  let turn (x : Seq) : Seq := { x with ring := x.ring.map fun l => if l.poison.isSome then { l with val := ~~~ l.val } else l }
  let c := { c with s := turn c.s, v := turn c.v, m := turn c.m, c := turn c.c }
  c.accBad.foldl (fun c p =>
    if p.1 then { c with vis := bankPut c.vis p.2 (~~~ bankGet c.vis p.2) } else { c with work := bankPut c.work p.2 (~~~ bankGet c.work p.2) }) c
/-- R390: the address of the poison that a word of the trapped context's image holds. -/
def State.imageBad? (s : State) (u o : Nat) : Option Word :=
  let k := s.core u
  if 0x30000 ≤ o then s.spadBad u ((List.range 8).map (o - 0x30000 + ·))
  else if k.imageWord k.bank.flipped s.free o ≠ k.imageWord k.bank s.free o then some (BitVec.ofNat 64 o)
  else none
/-- R374, R390: `xrd`. -/
def execXrd (t : BitVec 1) (d a : BitVec 6) (i : BitVec 12) (s : State) : Res :=
  guardH s fun s => guardS t d [a] s fun s =>
    withImage (s.ea a i) s fun o =>
      withPad o s fun s =>
        let k := s.core s.turn.u
        advance (s.tickFree.landAcc false t d (wide (k.imageWord k.bank s.free o)) 2 0 (s.imageBad? s.turn.u o))
/-- R374: `xwr`. -/
def execXwr (d b : BitVec 6) (i : BitVec 12) (s : State) : Res :=
  guardH s fun s => guardS0 [d, b] s fun s =>
    withImage (s.ea b i) s fun o =>
      withPad o s fun s =>
      let v := s.rdS d
      let u := s.turn.u
      advance (if o < 0x30000 then s.modCore u fun k => { k with bank := k.bank.imageWrite false o v }
        else s.spadWrite u (atAddr (o - 0x30000) (natLe 8 v.toNat)))
/-- R375: `hret`. -/
def execHret (s : State) : Res :=
  guardH s fun s => .next (returnFromHandler none (advance s))

/-- R104: the tokens of C that are due, and the context with them added. Log 82: a count that a handler has set so high that the sum
passes 63 wraps modulo 64. -/
def Ctx.postDue (c : Ctx) : List (SeqId × Nat) × Ctx :=
  let due (p : PendTok) : Bool := c.copies.all fun i => decide (p.upTo ≤ i)
  let out := (c.ctok.filter due).map fun p => (p.dest, p.n)
  (out, out.foldl (fun c p => c.setTokens .C p.1 (c.tokens .C p.1 + p.2)) { c with ctok := c.ctok.filter fun p => !due p })

/-- R376: removes the head command of a channel. -/
def Ctx.dropHead (c : Ctx) (ch : Nat) : Ctx :=
  let x := vget c.chans ch ⟨[], 0⟩
  match x.cmds with
  | [] => c
  | k :: r =>
    { c with
      chans := vset c.chans ch { x with cmds := r }
      copies := c.copies.filter (· ≠ k.id)
      await := c.await.filter fun a => a.id ≠ k.id
      slots := match k.slot with | some i => vset c.slots i .empty | none => c.slots }
/-- R377: `xkill`. -/
def execXkill (a : BitVec 6) (s : State) : Res :=
  guardH s fun s => guardS0 [a] s fun s => returnFromHandler (some ((s.rdS a).setWidth 8)) (advance s)
/-- R378, R418: `xpost`; it waits while the event ring of its unit is full. -/
def execXpost (a : BitVec 6) (s : State) : Res :=
  guardH s fun s => guardS0 [a] s fun s =>
    let k := evQueueOf s.turn.u
    if s.ringFull (evqhOff k) (evqhOff k + 8) then stall frzNone s
    else advance (s.post (evQueueOf s.turn.u) [evWord0 10 0 0 s.turn.u, s.mySeq.pc, 0, s.rdS a])

end Sys2Proof.Machine
end

