-- ==== Sys2Proof/Machine/Algebra.lean ====
section
/-! DEFINITION. The structure tables (R189, R190) and the involutions of R175. -/
namespace Sys2Proof.Machine

/-- Table 7.3: the dimension of an algebra. -/
def algDim (t : BitVec 1024) : Nat := 2 ^ (t.toNat / 2 ^ 56 % 4)
/-- R189: the sign that an SG or NSIG code stands for. -/
def sgOf (code : Nat) : Int := if code = 1 then 1 else if code = 3 then -1 else 0
/-- Table 7.4: entry (i, j): target and sign. -/
def algTab (t : BitVec 1024) (i j : Nat) : Nat × Int :=
  let b := t.toNat / 2 ^ (8 * (8 + 8 * i + j)) % 256
  (b % 8, sgOf (b / 64))
/-- Table 7.3: bit t of the mask of involution code k: 1 CONJ, 2 REV, 3 GRADE. -/
def algMask (tab : BitVec 1024) (k t : Nat) : Bool := decide (k ≠ 0) && decide (tab.toNat / 2 ^ (16 + 8 * k + t) % 2 = 1)
/-- Table 7.3: NSIG[t]. -/
def algSig (tab : BitVec 1024) (t : Nat) : Int := sgOf (tab.toNat / 2 ^ (2 * t) % 4)
/-- R175: an involution of one element. -/
def algInv (tab : BitVec 1024) (k : Nat) (x : List Ex) : List Ex :=
  x.zipIdx.map fun p => if algMask tab k p.2 then mulX exMinusOne p.1 else p.1
/-- R195: the product of two elements under ORD. -/
def algProd (tab : BitVec 1024) (ord : Bool) (l r : List Ex) : List Ex :=
  if ord then algMul (algDim tab) (algTab tab) r l else algMul (algDim tab) (algTab tab) l r

/-- R190: whether the table load accepts an image. -/
def algOk (img : BitVec 1024) : Bool :=
  let h := img.toNat % 2 ^ 64
  let f (hi lo : Nat) : Nat := h / 2 ^ lo % 2 ^ (hi + 1 - lo)
  let d := 2 ^ f 57 56
  decide (f 63 58 = 0) && decide (f 55 48 = 0) && decide (f 23 16 = 0) && decide (img.toNat / 2 ^ 576 = 0) &&
  (List.range 8).all (fun t =>
    decide (f (2 * t + 1) (2 * t) ≠ 2) &&
    (decide (t < d) || (decide (f (2 * t + 1) (2 * t) = 0) && decide (f (24 + t) (24 + t) = 0) &&
      decide (f (32 + t) (32 + t) = 0) && decide (f (40 + t) (40 + t) = 0)))) &&
  (List.range 64).all (fun n =>
    let b := img.toNat / 2 ^ (64 + 8 * n) % 256
    let sg := b / 64
    decide (b / 8 % 8 = 0) && decide (sg ≠ 2) &&
    (if n / 8 ≥ d ∨ n % 8 ≥ d then decide (b = 0)
     else if sg = 0 then decide (b % 8 = 0) else decide (b % 8 < d)))

end Sys2Proof.Machine
end

