-- ==== Sys2Proof/Machine/Vector.lean ====
section
/-! DEFINITION. The V arithmetic: integers, floats, transcendentals, compares, masks, flags, reductions, permutations,
moves, conversions and element-wise algebra (R157 to R169, R175, R176). -/
namespace Sys2Proof.Machine

/-- R148, R151, R155: a V instruction: 0x01 when its fields are not legal, 0x02 when one names a main register that the
launch has not allocated, else its effect. -/
def guardV (ok : Bool) (regs : List (BitVec 6)) (s : State) (k : State → State) : Res :=
  .next (if ok = false then raiseIllegal s else if regs.any (vBeyond s.me) then raiseRegister s else k s)
/-- A result of V enters its ring. -/
def State.landV (s : State) (t : BitVec 1) (d : BitVec 6) (v : Wide) (L : Nat) : State :=
  s.land .reg (decide (t = 1)) d 0 v L
/-- R157: a result of width w: lane i is f i where it is active, else the destination's own lane. -/
def masked (c : Ctx) (m : BitVec 1) (d : BitVec 6) (w : Nat) (f : Nat → Nat) : Wide :=
  ofLanes w ((List.range (nLanes w)).map fun i => if active c m i then f i else lane (vDst c d) w i)

/-- R153, R157: an instruction of format VA with two sources at lane width w; `rd` that it reads its destination whatever
M holds, `vrm` that it needs a legal VRM (R152). -/
def vaOp (w L : Nat) (rd vrm : Bool) (t : BitVec 1) (d a b : BitVec 6) (x : BitVec 5) (m : BitVec 1)
    (f : Ctx → Nat → Nat → Nat → Nat) (s : State) : Res :=
  let ex := if rd || decide (m = 1) then [d] else []
  guardV (dstOk t d && vSrcXOk [a, b] x ex && (!vrm || (vrmMode s.me).isSome)) [d, a, b] s fun s =>
    let c := s.me
    let xv := xLag c x.toNat
    let av := vVal c a w xv
    let bv := vVal c b w xv
    advance (s.landV t d (masked c m d w fun i => f c (lane av w i) (lane bv w i) (lane (vDst c d) w i)) L)
/-- R159: an integer instruction. -/
def vInt (w L : Nat) (f : Nat → Nat → Nat) (t : BitVec 1) (d a b : BitVec 6) (x : BitVec 5) (m : BitVec 1) (s : State) : Res :=
  vaOp w L false false t d a b x m (fun _ p q _ => f p q) s
/-- R160: a floating-point instruction of format F. -/
def vFlt (F : FFmt) (rd : Bool) (f : Rm → Ex → Ex → Ex → Nat) (t : BitVec 1) (d a b : BitVec 6) (x : BitVec 5) (m : BitVec 1)
    (s : State) : Res :=
  vaOp F.width 5 rd true t d a b x m
    (fun c p q r => f ((vrmMode c).getD .rne) (decodeF F p) (decodeF F q) (decodeF F r)) s
/-- R161: a transcendental. -/
def vTrans (f : Ex → Ex) (t : BitVec 1) (d a : BitVec 6) (x : BitVec 5) (m : BitVec 1) (s : State) : Res :=
  guardV (dstOk t d && vSrcXOk [a] x (if m = 1 then [d] else [])) [d, a] s fun s =>
    let c := s.me
    let av := vVal c a 32 (xLag c x.toNat)
    advance (s.landV t d (masked c m d 32 fun i => roundF (f (decodeF .fp32 (lane av 32 i))) .fp32 .rne 0) 10)


/-- R159, Table 6.4. -/
def execVaddS32 (t : BitVec 1) (d a b : BitVec 6) (x : BitVec 5) (m : BitVec 1) (s : State) : Res :=
  vInt 32 2 (fun p q => (p + q) % 2 ^ 32) t d a b x m s
/-- R159, Table 6.4. -/
def execVsubS32 (t : BitVec 1) (d a b : BitVec 6) (x : BitVec 5) (m : BitVec 1) (s : State) : Res :=
  vInt 32 2 (fun p q => (p + 2 ^ 32 - q) % 2 ^ 32) t d a b x m s
/-- R159, Table 6.4. -/
def execVmulS32 (t : BitVec 1) (d a b : BitVec 6) (x : BitVec 5) (m : BitVec 1) (s : State) : Res :=
  vInt 32 4 (fun p q => p * q % 2 ^ 32) t d a b x m s
/-- R159, Table 6.4. -/
def execVmulhS32 (t : BitVec 1) (d a b : BitVec 6) (x : BitVec 5) (m : BitVec 1) (s : State) : Res :=
  vInt 32 4 (fun p q => wrap ((sext p 32 * sext q 32) / 2 ^ 32) 32) t d a b x m s
/-- R159, Table 6.4. -/
def execVmulhB32 (t : BitVec 1) (d a b : BitVec 6) (x : BitVec 5) (m : BitVec 1) (s : State) : Res :=
  vInt 32 4 (fun p q => p * q / 2 ^ 32) t d a b x m s
/-- R159, Table 6.4. -/
def execVminS32 (t : BitVec 1) (d a b : BitVec 6) (x : BitVec 5) (m : BitVec 1) (s : State) : Res :=
  vInt 32 2 (fun p q => if sext p 32 < sext q 32 then p else q) t d a b x m s
/-- R159, Table 6.4. -/
def execVmaxS32 (t : BitVec 1) (d a b : BitVec 6) (x : BitVec 5) (m : BitVec 1) (s : State) : Res :=
  vInt 32 2 (fun p q => if sext p 32 < sext q 32 then q else p) t d a b x m s
/-- R159, Table 6.4. -/
def execVminB32 (t : BitVec 1) (d a b : BitVec 6) (x : BitVec 5) (m : BitVec 1) (s : State) : Res :=
  vInt 32 2 (fun p q => Nat.min p q) t d a b x m s
/-- R159, Table 6.4. -/
def execVmaxB32 (t : BitVec 1) (d a b : BitVec 6) (x : BitVec 5) (m : BitVec 1) (s : State) : Res :=
  vInt 32 2 (fun p q => Nat.max p q) t d a b x m s
/-- R159, Table 6.4. -/
def execVaddsS32 (t : BitVec 1) (d a b : BitVec 6) (x : BitVec 5) (m : BitVec 1) (s : State) : Res :=
  vInt 32 2 (fun p q => satS (sext p 32 + sext q 32) 32) t d a b x m s
/-- R159, Table 6.4. -/
def execVsubsS32 (t : BitVec 1) (d a b : BitVec 6) (x : BitVec 5) (m : BitVec 1) (s : State) : Res :=
  vInt 32 2 (fun p q => satS (sext p 32 - sext q 32) 32) t d a b x m s
/-- R159, Table 6.4. -/
def execVaddsB32 (t : BitVec 1) (d a b : BitVec 6) (x : BitVec 5) (m : BitVec 1) (s : State) : Res :=
  vInt 32 2 (fun p q => satB ((p : Int) + q) 32) t d a b x m s
/-- R159, Table 6.4. -/
def execVsubsB32 (t : BitVec 1) (d a b : BitVec 6) (x : BitVec 5) (m : BitVec 1) (s : State) : Res :=
  vInt 32 2 (fun p q => satB ((p : Int) - q) 32) t d a b x m s
/-- R159, Table 6.4. -/
def execVandB32 (t : BitVec 1) (d a b : BitVec 6) (x : BitVec 5) (m : BitVec 1) (s : State) : Res :=
  vInt 32 2 (fun p q => p &&& q) t d a b x m s
/-- R159, Table 6.4. -/
def execVorB32 (t : BitVec 1) (d a b : BitVec 6) (x : BitVec 5) (m : BitVec 1) (s : State) : Res :=
  vInt 32 2 (fun p q => p ||| q) t d a b x m s
/-- R159, Table 6.4. -/
def execVxorB32 (t : BitVec 1) (d a b : BitVec 6) (x : BitVec 5) (m : BitVec 1) (s : State) : Res :=
  vInt 32 2 (fun p q => p ^^^ q) t d a b x m s
/-- R159, Table 6.4. -/
def execVandnB32 (t : BitVec 1) (d a b : BitVec 6) (x : BitVec 5) (m : BitVec 1) (s : State) : Res :=
  vInt 32 2 (fun p q => p &&& (2 ^ 32 - 1 - q)) t d a b x m s
/-- R159, Table 6.4. -/
def execVsllB32 (t : BitVec 1) (d a b : BitVec 6) (x : BitVec 5) (m : BitVec 1) (s : State) : Res :=
  vInt 32 2 (fun p q => p * 2 ^ (q % 32) % 2 ^ 32) t d a b x m s
/-- R159, Table 6.4. -/
def execVsrlB32 (t : BitVec 1) (d a b : BitVec 6) (x : BitVec 5) (m : BitVec 1) (s : State) : Res :=
  vInt 32 2 (fun p q => p / 2 ^ (q % 32)) t d a b x m s
/-- R159, Table 6.4. -/
def execVsraS32 (t : BitVec 1) (d a b : BitVec 6) (x : BitVec 5) (m : BitVec 1) (s : State) : Res :=
  vInt 32 2 (fun p q => wrap (sext p 32 / 2 ^ (q % 32)) 32) t d a b x m s
/-- R159, Table 6.4. -/
def execVaddS16 (t : BitVec 1) (d a b : BitVec 6) (x : BitVec 5) (m : BitVec 1) (s : State) : Res :=
  vInt 16 2 (fun p q => (p + q) % 2 ^ 16) t d a b x m s
/-- R159, Table 6.4. -/
def execVsubS16 (t : BitVec 1) (d a b : BitVec 6) (x : BitVec 5) (m : BitVec 1) (s : State) : Res :=
  vInt 16 2 (fun p q => (p + 2 ^ 16 - q) % 2 ^ 16) t d a b x m s
/-- R159, Table 6.4. -/
def execVaddsS16 (t : BitVec 1) (d a b : BitVec 6) (x : BitVec 5) (m : BitVec 1) (s : State) : Res :=
  vInt 16 2 (fun p q => satS (sext p 16 + sext q 16) 16) t d a b x m s
/-- R159, Table 6.4. -/
def execVsubsS16 (t : BitVec 1) (d a b : BitVec 6) (x : BitVec 5) (m : BitVec 1) (s : State) : Res :=
  vInt 16 2 (fun p q => satS (sext p 16 - sext q 16) 16) t d a b x m s
/-- R159, Table 6.4. -/
def execVaddsB16 (t : BitVec 1) (d a b : BitVec 6) (x : BitVec 5) (m : BitVec 1) (s : State) : Res :=
  vInt 16 2 (fun p q => satB ((p : Int) + q) 16) t d a b x m s
/-- R159, Table 6.4. -/
def execVsubsB16 (t : BitVec 1) (d a b : BitVec 6) (x : BitVec 5) (m : BitVec 1) (s : State) : Res :=
  vInt 16 2 (fun p q => satB ((p : Int) - q) 16) t d a b x m s
/-- R159, Table 6.4. -/
def execVmulS16 (t : BitVec 1) (d a b : BitVec 6) (x : BitVec 5) (m : BitVec 1) (s : State) : Res :=
  vInt 16 4 (fun p q => p * q % 2 ^ 16) t d a b x m s
/-- R159, Table 6.4. -/
def execVaddS8 (t : BitVec 1) (d a b : BitVec 6) (x : BitVec 5) (m : BitVec 1) (s : State) : Res :=
  vInt 8 2 (fun p q => (p + q) % 2 ^ 8) t d a b x m s
/-- R159, Table 6.4. -/
def execVsubS8 (t : BitVec 1) (d a b : BitVec 6) (x : BitVec 5) (m : BitVec 1) (s : State) : Res :=
  vInt 8 2 (fun p q => (p + 2 ^ 8 - q) % 2 ^ 8) t d a b x m s
/-- R159, Table 6.4. -/
def execVaddsS8 (t : BitVec 1) (d a b : BitVec 6) (x : BitVec 5) (m : BitVec 1) (s : State) : Res :=
  vInt 8 2 (fun p q => satS (sext p 8 + sext q 8) 8) t d a b x m s
/-- R159, Table 6.4. -/
def execVsubsS8 (t : BitVec 1) (d a b : BitVec 6) (x : BitVec 5) (m : BitVec 1) (s : State) : Res :=
  vInt 8 2 (fun p q => satS (sext p 8 - sext q 8) 8) t d a b x m s
/-- R159, Table 6.4. -/
def execVaddsB8 (t : BitVec 1) (d a b : BitVec 6) (x : BitVec 5) (m : BitVec 1) (s : State) : Res :=
  vInt 8 2 (fun p q => satB ((p : Int) + q) 8) t d a b x m s
/-- R159, Table 6.4. -/
def execVsubsB8 (t : BitVec 1) (d a b : BitVec 6) (x : BitVec 5) (m : BitVec 1) (s : State) : Res :=
  vInt 8 2 (fun p q => satB ((p : Int) - q) 8) t d a b x m s
/-- R160, Table 6.5. -/
def execVfaddF32 (t : BitVec 1) (d a b : BitVec 6) (x : BitVec 5) (m : BitVec 1) (s : State) : Res :=
  vFlt .fp32 false (fun rm x z _ => roundF (exactSum [x, z]) .fp32 rm 0) t d a b x m s
/-- R160, Table 6.5. -/
def execVfsubF32 (t : BitVec 1) (d a b : BitVec 6) (x : BitVec 5) (m : BitVec 1) (s : State) : Res :=
  vFlt .fp32 false (fun rm x z _ => roundF (exactSum [x, mulX exMinusOne z]) .fp32 rm 0) t d a b x m s
/-- R160, Table 6.5. -/
def execVfmulF32 (t : BitVec 1) (d a b : BitVec 6) (x : BitVec 5) (m : BitVec 1) (s : State) : Res :=
  vFlt .fp32 false (fun rm x z _ => roundF (mulX x z) .fp32 rm 0) t d a b x m s
/-- R160, Table 6.5. -/
def execVfminF32 (t : BitVec 1) (d a b : BitVec 6) (x : BitVec 5) (m : BitVec 1) (s : State) : Res :=
  vFlt .fp32 false (fun _ x z _ => roundF (fminX x z) .fp32 .rne 0) t d a b x m s
/-- R160, Table 6.5. -/
def execVfmaxF32 (t : BitVec 1) (d a b : BitVec 6) (x : BitVec 5) (m : BitVec 1) (s : State) : Res :=
  vFlt .fp32 false (fun _ x z _ => roundF (fmaxX x z) .fp32 .rne 0) t d a b x m s
/-- R160, Table 6.5. -/
def execVfmaF32 (t : BitVec 1) (d a b : BitVec 6) (x : BitVec 5) (m : BitVec 1) (s : State) : Res :=
  vFlt .fp32 true (fun rm x z r => fmaF x z r .fp32 rm 0) t d a b x m s
/-- R160, Table 6.5. -/
def execVfaddBf16 (t : BitVec 1) (d a b : BitVec 6) (x : BitVec 5) (m : BitVec 1) (s : State) : Res :=
  vFlt .bf16 false (fun rm x z _ => roundF (exactSum [x, z]) .bf16 rm 0) t d a b x m s
/-- R160, Table 6.5. -/
def execVfsubBf16 (t : BitVec 1) (d a b : BitVec 6) (x : BitVec 5) (m : BitVec 1) (s : State) : Res :=
  vFlt .bf16 false (fun rm x z _ => roundF (exactSum [x, mulX exMinusOne z]) .bf16 rm 0) t d a b x m s
/-- R160, Table 6.5. -/
def execVfmulBf16 (t : BitVec 1) (d a b : BitVec 6) (x : BitVec 5) (m : BitVec 1) (s : State) : Res :=
  vFlt .bf16 false (fun rm x z _ => roundF (mulX x z) .bf16 rm 0) t d a b x m s
/-- R160, Table 6.5. -/
def execVfminBf16 (t : BitVec 1) (d a b : BitVec 6) (x : BitVec 5) (m : BitVec 1) (s : State) : Res :=
  vFlt .bf16 false (fun _ x z _ => roundF (fminX x z) .bf16 .rne 0) t d a b x m s
/-- R160, Table 6.5. -/
def execVfmaxBf16 (t : BitVec 1) (d a b : BitVec 6) (x : BitVec 5) (m : BitVec 1) (s : State) : Res :=
  vFlt .bf16 false (fun _ x z _ => roundF (fmaxX x z) .bf16 .rne 0) t d a b x m s
/-- R160, Table 6.5. -/
def execVfmaBf16 (t : BitVec 1) (d a b : BitVec 6) (x : BitVec 5) (m : BitVec 1) (s : State) : Res :=
  vFlt .bf16 true (fun rm x z r => fmaF x z r .bf16 rm 0) t d a b x m s
/-- R161. -/
def execVexp2F32 (t : BitVec 1) (d a : BitVec 6) (x : BitVec 5) (m : BitVec 1) (s : State) : Res :=
  vTrans exp2X t d a x m s
/-- R161. -/
def execVlog2F32 (t : BitVec 1) (d a : BitVec 6) (x : BitVec 5) (m : BitVec 1) (s : State) : Res :=
  vTrans log2X t d a x m s
/-- R161. -/
def execVrcpF32 (t : BitVec 1) (d a : BitVec 6) (x : BitVec 5) (m : BitVec 1) (s : State) : Res :=
  vTrans rcpX t d a x m s
/-- R161. -/
def execVrsqrtF32 (t : BitVec 1) (d a : BitVec 6) (x : BitVec 5) (m : BitVec 1) (s : State) : Res :=
  vTrans rsqrtX t d a x m s

/-- R162: a compare into mask register k. -/
def vCmp (ty : CmpTy) (cond : BitVec 4) (k : BitVec 3) (a b : BitVec 6) (x : BitVec 5) (m : BitVec 1) (s : State) : Res :=
  guardV (vSrcXOk [a, b] x [] && ty.condOk cond.toNat) [a, b] s fun s =>
    let c := s.me
    let w := ty.width
    let xv := xLag c x.toNat
    let av := vVal c a w xv
    let bv := vVal c b w xv
    let r := lanesNat 1 ((List.range (nLanes w)).map fun i =>
      b2n (active c m i && ty.holds cond.toNat (lane av w i) (lane bv w i)))
    advance (s.land .mask false (k.setWidth 6) 0 (BitVec.ofNat 2048 r) 2)
/-- R162. -/
def execVcmpS32 (c : BitVec 4) (k : BitVec 3) (a b : BitVec 6) (x : BitVec 5) (m : BitVec 1) (s : State) : Res :=
  vCmp .s32 c k a b x m s
/-- R162. -/
def execVcmpB32 (c : BitVec 4) (k : BitVec 3) (a b : BitVec 6) (x : BitVec 5) (m : BitVec 1) (s : State) : Res :=
  vCmp .b32 c k a b x m s
/-- R162. -/
def execVcmpF32 (c : BitVec 4) (k : BitVec 3) (a b : BitVec 6) (x : BitVec 5) (m : BitVec 1) (s : State) : Res :=
  vCmp .f32 c k a b x m s
/-- R162. -/
def execVcmpBf16 (c : BitVec 4) (k : BitVec 3) (a b : BitVec 6) (x : BitVec 5) (m : BitVec 1) (s : State) : Res :=
  vCmp .bf16 c k a b x m s

/-- R163: a mask operation. -/
def vMask (d : BitVec 3) (f : (Nat → BitVec 256) → BitVec 256) (s : State) : Res :=
  .next (advance (s.land .mask false (d.setWidth 6) 0 ((f fun r => vget s.me.mkr r 0).setWidth 2048) 1))
/-- R163. -/
def execVmand (d a b : BitVec 3) (s : State) : Res :=
  vMask d (fun r => r a.toNat &&& r b.toNat) s
/-- R163. -/
def execVmor (d a b : BitVec 3) (s : State) : Res :=
  vMask d (fun r => r a.toNat ||| r b.toNat) s
/-- R163. -/
def execVmxor (d a b : BitVec 3) (s : State) : Res :=
  vMask d (fun r => r a.toNat ^^^ r b.toNat) s
/-- R163. -/
def execVmandn (d a b : BitVec 3) (s : State) : Res :=
  vMask d (fun r => r a.toNat &&& ~~~(r b.toNat)) s
/-- R163. -/
def execVmnot (d a : BitVec 3) (s : State) : Res :=
  vMask d (fun r => ~~~(r a.toNat)) s
/-- R163. -/
def execVmset (d : BitVec 3) (s : State) : Res :=
  vMask d (fun _ => BitVec.allOnes 256) s
/-- R163. -/
def execVmclr (d : BitVec 3) (s : State) : Res :=
  vMask d (fun _ => 0) s
/-- R163. -/
def execVmmov (d a : BitVec 3) (s : State) : Res :=
  vMask d (fun r => r a.toNat) s

/-- R116, R164: `vflag`; the slot is written so that a `csrr` four cycles later reads it. -/
def execVflag (sl : BitVec 2) (k : BitVec 3) (w : BitVec 2) (m : BitVec 1) (s : State) : Res :=
  guardV (decide (w.toNat ≠ 3)) [] s fun s =>
    let c := s.me
    let n := 256 / 2 ^ w.toNat
    let act := (List.range n).map (active c m)
    let st := (List.range n).map fun i => (vget c.mkr k.toNat 0).getLsbD i
    advance (s.land .flag false (sl.setWidth 6) 0 (BitVec.ofNat 2048 (flagCounts act st)) 4)

/-- R59, R165: a reduction at width w; the result stands in lane 0. -/
def vRed (w : Nat) (vrm : Bool) (f : Rm → Nat → Nat → Nat) (t : BitVec 1) (d a : BitVec 6) (x : BitVec 5) (m : BitVec 1)
    (s : State) : Res :=
  guardV (dstOk t d && vSrcXOk [a] x [] && (!vrm || (vrmMode s.me).isSome)) [d, a] s fun s =>
    let c := s.me
    let av := vVal c a w (xLag c x.toNat)
    let rm := (vrmMode c).getD .rne
    let l := (List.range (nLanes w)).map fun i => if active c m i then some (lane av w i) else none
    advance (s.landV t d (BitVec.ofNat 2048 (tree (f rm) 0 l)) 10)
/-- R165. -/
def execVredAddS32 (t : BitVec 1) (d a : BitVec 6) (x : BitVec 5) (m : BitVec 1) (s : State) : Res :=
  vRed 32 false (fun _ p q => (p + q) % 2 ^ 32) t d a x m s
/-- R165. -/
def execVredAddsS32 (t : BitVec 1) (d a : BitVec 6) (x : BitVec 5) (m : BitVec 1) (s : State) : Res :=
  vRed 32 false (fun _ p q => satS (sext p 32 + sext q 32) 32) t d a x m s
/-- R165. -/
def execVredMinS32 (t : BitVec 1) (d a : BitVec 6) (x : BitVec 5) (m : BitVec 1) (s : State) : Res :=
  vRed 32 false (fun _ p q => if sext p 32 < sext q 32 then p else q) t d a x m s
/-- R165. -/
def execVredMaxS32 (t : BitVec 1) (d a : BitVec 6) (x : BitVec 5) (m : BitVec 1) (s : State) : Res :=
  vRed 32 false (fun _ p q => if sext p 32 < sext q 32 then q else p) t d a x m s
/-- R165. -/
def execVredMinB32 (t : BitVec 1) (d a : BitVec 6) (x : BitVec 5) (m : BitVec 1) (s : State) : Res :=
  vRed 32 false (fun _ p q => Nat.min p q) t d a x m s
/-- R165. -/
def execVredMaxB32 (t : BitVec 1) (d a : BitVec 6) (x : BitVec 5) (m : BitVec 1) (s : State) : Res :=
  vRed 32 false (fun _ p q => Nat.max p q) t d a x m s
/-- R165. -/
def execVredAndB32 (t : BitVec 1) (d a : BitVec 6) (x : BitVec 5) (m : BitVec 1) (s : State) : Res :=
  vRed 32 false (fun _ p q => p &&& q) t d a x m s
/-- R165. -/
def execVredOrB32 (t : BitVec 1) (d a : BitVec 6) (x : BitVec 5) (m : BitVec 1) (s : State) : Res :=
  vRed 32 false (fun _ p q => p ||| q) t d a x m s
/-- R165. -/
def execVredXorB32 (t : BitVec 1) (d a : BitVec 6) (x : BitVec 5) (m : BitVec 1) (s : State) : Res :=
  vRed 32 false (fun _ p q => p ^^^ q) t d a x m s
/-- R165. -/
def execVredAddF32 (t : BitVec 1) (d a : BitVec 6) (x : BitVec 5) (m : BitVec 1) (s : State) : Res :=
  vRed 32 true (fun rm p q => roundF (exactSum [decodeF .fp32 p, decodeF .fp32 q]) .fp32 rm 0) t d a x m s
/-- R165. -/
def execVredMinF32 (t : BitVec 1) (d a : BitVec 6) (x : BitVec 5) (m : BitVec 1) (s : State) : Res :=
  vRed 32 false (fun _ p q => roundF (fminX (decodeF .fp32 p) (decodeF .fp32 q)) .fp32 .rne 0) t d a x m s
/-- R165. -/
def execVredMaxF32 (t : BitVec 1) (d a : BitVec 6) (x : BitVec 5) (m : BitVec 1) (s : State) : Res :=
  vRed 32 false (fun _ p q => roundF (fmaxX (decodeF .fp32 p) (decodeF .fp32 q)) .fp32 .rne 0) t d a x m s
/-- R165. -/
def execVredAddBf16 (t : BitVec 1) (d a : BitVec 6) (x : BitVec 5) (m : BitVec 1) (s : State) : Res :=
  vRed 16 true (fun rm p q => roundF (exactSum [decodeF .bf16 p, decodeF .bf16 q]) .bf16 rm 0) t d a x m s

/-- R166: a permutation at width w. -/
def vPerm (w : Nat) (t : BitVec 1) (d a b : BitVec 6) (x : BitVec 5) (m : BitVec 1) (s : State) : Res :=
  guardV (dstOk t d && vSrcXOk [a, b] x (if m = 1 then [d] else [])) [d, a, b] s fun s =>
    let c := s.me
    let xv := xLag c x.toNat
    let av := vVal c a w xv
    let bv := vVal c b w xv
    advance (s.landV t d (masked c m d w fun i => lane av w (lane bv w i % nLanes w)) 3)
/-- R166: `vperm.b32`. -/
def execVpermB32 (t : BitVec 1) (d a b : BitVec 6) (x : BitVec 5) (m : BitVec 1) (s : State) : Res := vPerm 32 t d a b x m s
/-- R166: `vperm.b8`. -/
def execVpermB8 (t : BitVec 1) (d a b : BitVec 6) (x : BitVec 5) (m : BitVec 1) (s : State) : Res := vPerm 8 t d a b x m s
/-- R166: `vrot.b32`. -/
def execVrotB32 (t : BitVec 1) (d a i : BitVec 6) (s : State) : Res :=
  guardV (dstOk t d && vSrcOk [a]) [d, a] s fun s =>
    let av := vVal s.me a 32 0
    advance (s.landV t d (ofLanes 32 ((List.range 64).map fun j => lane av 32 ((j + i.toNat) % 64))) 2)
/-- R157, R166: `vsel.b32` always reads m0. -/
def execVselB32 (t : BitVec 1) (d a b : BitVec 6) (x : BitVec 5) (s : State) : Res :=
  guardV (dstOk t d && vSrcXOk [a, b] x []) [d, a, b] s fun s =>
    let c := s.me
    let xv := xLag c x.toNat
    let av := vVal c a 32 xv
    let bv := vVal c b 32 xv
    advance (s.landV t d (ofLanes 32 ((List.range 64).map fun i =>
      if (vget c.mkr 0 0).getLsbD i then lane av 32 i else lane bv 32 i)) 2)
/-- R166: `vmovi`. -/
def execVmovi (t : BitVec 1) (d : BitVec 6) (i : BitVec 12) (s : State) : Res :=
  guardV (dstOk t d) [d] s fun s =>
    advance (s.landV t d (ofLanes 32 (List.replicate 64 (i.signExtend 32).toNat)) 1)

/-- R42, Table 2.2: the formats that `vcvt` converts between: signed, unsigned and floating-point. -/
inductive CvFmt where
  | s (w : Nat)
  | b (w : Nat)
  | f (F : FFmt)
  deriving DecidableEq, Repr
/-- Table 2.2: the format of a code, where `vcvt` takes it (R167). -/
def CvFmt.ofCode (c : Nat) : Option CvFmt :=
  match c with
  | 0 => some (.s 8) | 1 => some (.s 16) | 2 => some (.s 32)
  | 4 => some (.b 8) | 5 => some (.b 16) | 6 => some (.b 32)
  | 8 => some (.f .fp32) | 9 => some (.f .bf16) | 10 => some (.f .e4m3) | 11 => some (.f .e5m2)
  | _ => none
/-- The width of a format. -/
def CvFmt.width : CvFmt → Nat
  | .s w => w | .b w => w | .f F => F.width
/-- Whether a format is floating-point. -/
def CvFmt.isF : CvFmt → Bool
  | .f _ => true | _ => false
/-- R167: whether a rounding code may stand with a pair of formats. -/
def cvRmOk (from_ to_ : CvFmt) (r : Nat) : Bool :=
  decide (r ≤ 4) &&
  (if !from_.isF && !to_.isF then decide (r = 0)
   else if from_.isF && to_.isF && decide (from_.width < to_.width) then decide (r = 0)
   else if !to_.isF then decide (r ≠ 4) else true)
/-- R167: CV. -/
def cvOne (from_ to_ : CvFmt) (rm : Rm) (rb : BitVec 64) (w : Nat) : Nat :=
  let iv : Int := match from_ with | .s n => sext w n | _ => (w : Int)
  match to_ with
  | .f F => roundF (match from_ with | .f G => decodeF G w | _ => exOfInt iv) F rm rb
  | .s n => match from_ with | .f G => f2i (decodeF G w) true n rm | _ => satS iv n
  | .b n => match from_ with | .f G => f2i (decodeF G w) false n rm | _ => satB iv n
/-- R169: the draw of element i in V. -/
def vDraw (c : Ctx) (i : Nat) : BitVec 64 := srDraw c.vseed (c.vsrctr * 256 + BitVec.ofNat 64 i)
/-- R169: an instruction that rounds with SR moves the counter at the end of its cycle. -/
def State.srUsed (s : State) (rm : Rm) : State := if rm = .sr then s.atEnd .vsrctr else s

/-- R167: `vcvt`. -/
def execVcvt (p : BitVec 2) (t : BitVec 1) (d a : BitVec 6) (f g : BitVec 4) (r : BitVec 3) (m : BitVec 1) (s : State) : Res :=
  match CvFmt.ofCode f.toNat, CvFmt.ofCode g.toNat, Rm.ofCode r.toNat with
  | some from_, some to_, some rm =>
    let ws := from_.width
    let wd := to_.width
    let part := p.toNat
    guardV (dstOk t d && vSrcOk [a] && decide (f ≠ g) && decide (part < max ws wd / min ws wd) && cvRmOk from_ to_ r.toNat)
      [d, a] s fun s =>
      let c := s.me
      let av := vVal c a ws 0
      let dv := vDst c d
      let cv (w i : Nat) : Nat := cvOne from_ to_ rm (vDraw c i) w
      let v := if wd ≤ ws then
          let ns := nLanes ws
          ofLanes wd ((List.range (nLanes wd)).map fun j =>
            let i := j - part * ns
            if part * ns ≤ j ∧ i < ns ∧ active c m i then cv (lane av ws i) i else lane dv wd j)
        else
          ofLanes wd ((List.range (nLanes wd)).map fun i =>
            if active c m i then cv (lane av ws (part * nLanes wd + i)) i else lane dv wd i)
      advance ((s.landV t d v 4).srUsed rm)
  | _, _, _ => .next (raiseIllegal s)
/-- R168: `vmxpk`. -/
def execVmxpk (t : BitVec 1) (d a : BitVec 6) (f g : BitVec 4) (r : BitVec 3) (s : State) : Res :=
  match Rm.ofCode r.toNat with
  | some rm =>
    guardV (dstOk t d && vSrcOk [a] && (decide (f = 8) || decide (f = 9)) && (decide (g = 12) || decide (g = 13))) [d, a] s fun s =>
      let c := s.me
      let F : FFmt := if f = 8 then .fp32 else .bf16
      let G : FFmt := if g = 12 then .e4m3 else .e5m2
      let w := F.width
      let n := nLanes w
      let av := vVal c a w 0
      let bl := (List.range (n / 32)).map fun k =>
        mxPack ((List.range 32).map fun j => decodeF F (lane av w (32 * k + j))) G rm (fun j => vDraw c (32 * k + j))
      advance ((s.landV t d (ofLanes 8 (bl.flatMap (·.2) ++ bl.map (·.1))) 6).srUsed rm)
  | none => .next (raiseIllegal s)

/-- R175: the elements of a register under a table. -/
def vElems (tab : BitVec 1024) (v : Wide) : List (List Ex) :=
  let d := algDim tab
  (List.range (64 / d)).map fun e => (List.range d).map fun t => decodeF .fp32 (lane v 32 (d * e + t))
/-- R176: `vamul`. -/
def execVamul (t : BitVec 1) (d a b : BitVec 6) (l o : BitVec 1) (i j : BitVec 2) (s : State) : Res :=
  guardV (dstOk t d && vSrcOk [a, b] && (vrmMode s.me).isSome) [d, a, b] s fun s =>
    let c := s.me
    let tab := vget c.alg l.toNat 0
    let rm := (vrmMode c).getD .rne
    let x := vElems tab (vVal c a 32 0)
    let y := vElems tab (vVal c b 32 0)
    let r := (x.zip y).flatMap fun p =>
      (algProd tab (decide (o = 1)) (algInv tab i.toNat p.1) (algInv tab j.toNat p.2)).map fun e => roundF e .fp32 rm 0
    advance (s.landV t d (ofLanes 32 r) 6)
/-- R176: `vconj`. -/
def execVconj (t : BitVec 1) (d a : BitVec 6) (l : BitVec 1) (i : BitVec 2) (s : State) : Res :=
  guardV (dstOk t d && vSrcOk [a]) [d, a] s fun s =>
    let c := s.me
    let tab := vget c.alg l.toNat 0
    let av := vVal c a 32 0
    advance (s.landV t d (ofLanes 32 ((List.range 64).map fun k =>
      if algMask tab i.toNat (k % algDim tab) then lane av 32 k ^^^ 2 ^ 31 else lane av 32 k)) 2)
/-- R176: `vnorm`. -/
def execVnorm (t : BitVec 1) (d a : BitVec 6) (l : BitVec 1) (s : State) : Res :=
  guardV (dstOk t d && vSrcOk [a] && (vrmMode s.me).isSome) [d, a] s fun s =>
    let c := s.me
    let tab := vget c.alg l.toNat 0
    let rm := (vrmMode c).getD .rne
    let n := algDim tab
    let r := (vElems tab (vVal c a 32 0)).flatMap fun x =>
      let terms := x.zipIdx.map fun p =>
        mulX (exOfInt (algSig tab p.2)) (mulX p.1 p.1)
      roundF (exactSum terms) .fp32 rm 0 :: List.replicate (n - 1) 0
    advance (s.landV t d (ofLanes 32 r) 6)

end Sys2Proof.Machine
end

