-- ==== Sys2Proof/Machine/VecMem.lean ====
section
/-! DEFINITION. The V accesses to memory (R170 to R172), sends (R131, R132, R173), reads of the accumulator (R174) and
accumulate-writes (R177, R178). -/
namespace Sys2Proof.Machine

/-- R170: an address from an S main register and an offset. -/
def State.eaV (s : State) (x : BitVec 5) (i : BitVec 12) : Word := xLag s.me x.toNat + sx i

/-- R170: the 64 words of a contiguous access at an offset. -/
def rowElems (off : Nat) (base : Wide) : Elems := ⟨(List.range 64).map fun i => (i, off + 4 * i), 4, false, 32, base⟩

/-- R170, R172: `vld`. -/
def execVld (t : BitVec 1) (r : BitVec 6) (x : BitVec 5) (i : BitVec 12) (s : State) : Res :=
  guardV (dstOk t r) [r] s fun s =>
    let ea := s.eaV x i
    let u := s.turn.u
    let all (off : Nat) : Bool := owns u s.me off && owns u s.me (off + 255)
    if ea.toNat % 4 ≠ 0 then raiseAlign ea s
    else if bit ea 63 = false then raiseProt ea s
    else match locOf u ea with
      | .own off => if all off then s.localLoad t r (rowElems off 0) none 4 else raiseProt ea s
      | .mc off => if all off then s.localLoad t r (rowElems off 0) none 4 else raiseProt ea s
      | .win k off => if all off then s.localLoad t r (rowElems off 0) (some k) 4 else raiseProt ea s
      | .table _ => raiseAlign ea s
      | _ => raiseProt ea s
/-- R153, R170, R172: `vst`; its format VL has no mask field, so every lane is stored (log 82). -/
def execVst (r : BitVec 6) (x : BitVec 5) (i : BitVec 12) (s : State) : Res :=
  guardV (vSrcOk [r]) [r] s fun s =>
    let ea := s.eaV x i
    let u := s.turn.u
    let bytes := natLe 256 (vVal s.me r 32 0).toNat
    if ea.toNat % 4 ≠ 0 then raiseAlign ea s
    else if bit ea 63 = false then raiseProt ea s
    else match locOf u ea with
      | .csr _ => raiseProt ea s
      | .bad => raiseProt ea s
      | .table _ => raiseAlign ea s
      | loc =>
        let off := match loc with | .own o => o | .win _ o => o | .mc o => o | _ => 0
        let wr := atAddr off bytes
        if s.storeAdm loc (wr.map (·.1)) then s.localStore loc wr else raiseProt ea s

/-- R171: whether a type is one of the listed suffixes. -/
def vsTypeOk (z : BitVec 2) (sgn : BitVec 1) : Bool := decide (z.toNat ≤ 1) || (decide (z = 2) && decide (sgn = 0))
/-- R171: what the active addresses of an indexed access come to. -/
inductive VsAdm where
  | misaligned (a : Word)
  | refused (a : Word)
  | own (offs : List (Nat × Nat))
  | win (k : Nat) (offs : List (Nat × Nat))
  deriving DecidableEq, Repr
/-- R171, R334: the checks on the active lanes of an indexed access of z-byte elements; the tables of a stack take no such size. -/
def State.vsAdm (s : State) (z : Nat) (eas : List (Nat × Word)) : VsAdm :=
  let u := s.turn.u
  let table (a : Word) : Bool := bit a 63 && (match locOf u a with | .table _ => true | _ => false)
  match eas.find? fun p => decide (p.2.toNat % z ≠ 0) || table p.2 with
  | some p => .misaligned p.2
  | none =>
    let locs := eas.map fun p => (p.1, p.2, if bit p.2 63 then locOf u p.2 else .bad)
    let first := match locs with | p :: _ => p.2.2 | [] => .own 0
    let ok (l : Loc) : Bool :=
      match first, l with
      | .own _, .own o => owns u s.me o && owns u s.me (o + z - 1)
      | .win j _, .win k o => decide (j = k) && owns u s.me o && owns u s.me (o + z - 1)
      | _, _ => false
    match locs.find? fun p => !(ok p.2.2) with
    | some p => .refused p.2.1
    | none =>
      let offs := locs.map fun p => (p.1, match p.2.2 with | .own o => o | .win _ o => o | _ => 0)
      match first with
      | .win k _ => .win k offs
      | _ => .own offs
/-- R171: an indexed load; `ea i` is the address of lane i. -/
def vsLoad (t : BitVec 1) (r : BitVec 6) (z : BitVec 2) (sgn m : BitVec 1) (regs : List (BitVec 6)) (ok : Bool)
    (ea : Ctx → Nat → Word) (s : State) : Res :=
  guardV (dstOk t r && ok && vsTypeOk z sgn) regs s fun s =>
    let c := s.me
    let n := 2 ^ z.toNat
    let act := (List.range 64).filter (active c m)
    let e (offs : List (Nat × Nat)) : Elems := ⟨offs, n, decide (sgn = 1), 32, if m = 1 then vDst c r else 0⟩
    match s.vsAdm n (act.map fun i => (i, ea c i)) with
    | .misaligned a => raiseAlign a s
    | .refused a => raiseProt a s
    | .own offs => s.localLoad t r (e offs) none 6
    | .win k offs => s.localLoad t r (e offs) (some k) 6
/-- R171, R254: an indexed store. ADDR of a refusal is the address of the lowest active lane that it refuses (log 66). -/
def vsStore (r : BitVec 6) (z : BitVec 2) (sgn m : BitVec 1) (regs : List (BitVec 6)) (ok : Bool)
    (ea : Ctx → Nat → Word) (s : State) : Res :=
  guardV (ok && vsTypeOk z sgn) regs s fun s =>
    let c := s.me
    let n := 2 ^ z.toNat
    let v := vVal c r 32 0
    let act := (List.range 64).filter (active c m)
    let wr (offs : List (Nat × Nat)) : List (Nat × Byte) := offs.flatMap fun p => atAddr p.2 (natLe n (lane v 32 p.1))
    let go (loc : Loc) (offs : List (Nat × Nat)) : State :=
      if s.storeAdm loc ((wr offs).map (·.1)) then s.localStore loc (wr offs)
      else raiseProt (ea c (((offs.find? fun p => !s.storeAdm loc ((wr [p]).map (·.1))).getD (0, 0)).1)) s
    match s.vsAdm n (act.map fun i => (i, ea c i)) with
    | .misaligned a => raiseAlign a s
    | .refused a => raiseProt a s
    | .own offs => go (.own 0) offs
    | .win k offs => go (.win k 0) offs
/-- R171: strided addresses. -/
def eaStride (b x : BitVec 5) (c : Ctx) (i : Nat) : Word := xLag c b.toNat + BitVec.ofNat 64 i * xLag c x.toNat
/-- R171: indexed addresses. -/
def eaIndex (b : BitVec 5) (v : BitVec 6) (c : Ctx) (i : Nat) : Word :=
  xLag c b.toNat + BitVec.ofNat 64 (lane (vVal c v 32 0) 32 i)

/-- R171: `vlds`. -/
def execVlds (t : BitVec 1) (r : BitVec 6) (b c : BitVec 5) (z : BitVec 2) (sc m : BitVec 1) (s : State) : Res :=
  vsLoad t r z sc m [r] true (eaStride b c) s
/-- R171: `vsts`. -/
def execVsts (r : BitVec 6) (b c : BitVec 5) (z : BitVec 2) (sc m : BitVec 1) (s : State) : Res :=
  vsStore r z sc m [r] (vSrcOk [r]) (eaStride b c) s
/-- R171: `vldx`. -/
def execVldx (t : BitVec 1) (r : BitVec 6) (b : BitVec 5) (i : BitVec 6) (z : BitVec 2) (sc m : BitVec 1) (s : State) : Res :=
  vsLoad t r z sc m [r, i] (vSrcOk [i]) (eaIndex b i) s
/-- R171: `vstx`. -/
def execVstx (r : BitVec 6) (b : BitVec 5) (i : BitVec 6) (z : BitVec 2) (sc m : BitVec 1) (s : State) : Res :=
  vsStore r z sc m [r, i] (vSrcOk [r, i]) (eaIndex b i) s

/-- R80, R170: the admission of a 256-byte global access, which two pages may hold. -/
def State.globalAdm256 (s : State) (ea : Word) (ok : Word → Bool) : GAdm :=
  if bits ea 63 57 ≠ 0 then .deny
  else if isStack s.turn.u then s.globalAdm ea.toNat 256 ok
  else match s.globalAdm ea.toNat 1 ok, s.globalAdm (ea.toNat + 255) 1 ok with
    | .deny, _ => .deny
    | _, .deny => .deny
    | .hold, _ => .hold
    | _, .hold => .hold
    | _, _ => .go
/-- R170: `vgld`. -/
def execVgld (t : BitVec 1) (r : BitVec 6) (x : BitVec 5) (i : BitVec 12) (s : State) : Res :=
  guardV (dstOk t r) [r] s fun s =>
    let ea := s.eaV x i
    if ea.toNat % 64 ≠ 0 then raiseAlign ea s
    else match s.globalAdm256 ea respR with
      | .deny => raiseProt ea s
      | .hold => stall frzNone s
      | .go => advance ((s.sendOut .vload ea.toNat).landAcc true t r 0 48 s.uid none)
/-- R170, R246: `vgst` takes four entries of the side log. -/
def execVgst (r : BitVec 6) (x : BitVec 5) (i : BitVec 12) (s : State) : Res :=
  guardV (vSrcOk [r]) [r] s fun s =>
    let ea := s.eaV x i
    let v := vVal s.me r 32 0
    if ea.toNat % 64 ≠ 0 then raiseAlign ea s
    else match s.globalAdm256 ea (fun w => respW w || respDup w) with
      | .deny => raiseProt ea s
      | .hold => stall frzNone s
      | .go => s.storeOut ((List.range 4).map fun k => atAddr (ea.toNat + 64 * k) (natLe 64 (lane v 512 k)))

/-- R131, R173: `vsend`. -/
def execVsend (r : BitVec 6) (k : BitVec 4) (s : State) : Res :=
  guardV (decide (s.me.mode = .timed) && vSrcOk [r]) [r] s fun s =>
    let u := s.turn.u
    let due := s.me.clk + 4 + distance (clusterIdx u) k.toNat
    let v := vVal s.me r 32 0
    advance (s.modCtx (coreAt (clusterOf u) k.toNat) fun c => { c with arrive := c.arrive ++ [(due, v)] })
/-- R132, R173: `vrecv`. -/
def execVrecv (t : BitVec 1) (r : BitVec 6) (s : State) : Res :=
  guardV (decide (s.me.mode = .timed) && dstOk t r) [r] s fun s =>
    let now := s.me.arrive.filter fun p => p.1 = s.me.clk
    let s' := s.modMe fun c => { c with arrive := c.arrive.filter fun p => p.1 ≠ c.clk }
    match now with
    | [p] => advance (s'.landV t r p.2 1)
    | _ => raiseTiming s'

/-- R174: 64 components of the visible bank from index idx. -/
def Ctx.visRow (c : Ctx) (idx : Nat) : Wide :=
  ofLanes 32 ((List.range 64).map fun i => (bankGet c.vis (64 * idx + i)).toNat)
/-- R174, R390: a row of the visible bank lands, with the poison of its components. -/
def State.landVis (s : State) (t : BitVec 1) (d : BitVec 6) (idx : Nat) : State :=
  let bad := s.me.accBad.any fun p => p.1 && decide (p.2 / 64 = idx)
  s.landAcc false t d (s.me.visRow idx) 4 0 (if bad then some 0 else none)
/-- R174, R333: `vacc` with an index in the word. -/
def execVacc (t : BitVec 1) (d : BitVec 6) (i : BitVec 8) (s : State) : Res :=
  guardV (!(isStack s.turn.u) && dstOk t d) [d] s fun s => advance (s.landVis t d i.toNat)
/-- R174, R333: `vacc` with an index from an S register. -/
def execVaccX (t : BitVec 1) (d : BitVec 6) (x : BitVec 5) (i : BitVec 8) (s : State) : Res :=
  guardV (!(isStack s.turn.u) && dstOk t d) [d] s fun s =>
    advance (s.landVis t d (((xLag s.me x.toNat).toNat + i.toNat) % 256))

/-- R177: the packet of a descriptor (Table 6.6). -/
def awPacketOf (id : Nat) (desc : Word) (seg : Nat) (round : BitVec 32) (ty : BitVec 2) (data : List (BitVec 32)) : Packet :=
  ⟨id, 0, BitVec.ofNat 8 (bits desc 40 33), BitVec.ofNat 12 (bits desc 32 21), BitVec.ofNat 6 seg,
    BitVec.ofNat 12 (bits desc 11 0), round, ty, data⟩
/-- R177, R178: `vaw`. -/
def execVaw (y : BitVec 2) (a : BitVec 6) (x : BitVec 5) (s : State) : Res :=
  guardV (!(isStack s.turn.u) && decide (y ≠ 3) && vSrcOk [a]) [a] s fun s =>
    let c := s.me
    let desc := xLag c x.toNat
    if bits desc 63 41 ≠ 0 then raiseAt 0x0C desc 0 0 s
    else
      let w := if y = 0 then 16 else 32
      let v := vVal c a w 0
      let data := (List.range 64).map fun i => BitVec.ofNat 32 (lane v w i)
      let k : PktOut := ⟨awPacketOf s.uid desc (bits desc 20 15) c.awround y data, bits desc 14 12, desc, false, none, false,
        s.turn.u, c.lid, .V, s.mySeq.pc, s.histOf c s.turn.u .V, 0, 0⟩
      advance { s with packets := s.packets ++ [k], uid := s.uid + 1 }

end Sys2Proof.Machine
end

