-- ==== Sys2Proof/Machine/Tile.lean ====
section
/-! DEFINITION. The tile instructions (R179 to R184). -/
namespace Sys2Proof.Machine

/-- R179: whether a tile is configured. -/
def Tiles.on (t : Tiles) (n : Nat) : Bool := (vget t.cfg n 0).getLsbD 15
/-- Table 6.9: rows of a tile. -/
def Tiles.rows (t : Tiles) (n : Nat) : Nat := (vget t.cfg n 0).toNat / 16 % 16 + 1
/-- Table 6.9: columns of a tile. -/
def Tiles.cols (t : Tiles) (n : Nat) : Nat := (vget t.cfg n 0).toNat % 16 + 1
/-- Table 6.9: element width of a tile. -/
def Tiles.width (t : Tiles) (n : Nat) : Nat := 8 * 2 ^ ((vget t.cfg n 0).toNat / 1024 % 4)
/-- Element (i, j) of a tile. -/
def Tiles.get (t : Tiles) (n i j : Nat) : Nat := (vget t.el n 0).toNat / 2 ^ (32 * (16 * i + j)) % 2 ^ 32
/-- Writes element (i, j) of a tile, at the tile's width. -/
def Tiles.put (t : Tiles) (n i j v : Nat) : Tiles :=
  let e := vget t.el n 0
  let o := 32 * (16 * i + j)
  { t with el := vset t.el n (BitVec.ofNat 8192 (e.toNat - e.toNat / 2 ^ o % 2 ^ 32 * 2 ^ o + v % 2 ^ t.width n * 2 ^ o)) }
/-- Sets or clears a tile's TILEDIRTY bit. -/
def Tiles.mark (t : Tiles) (n : Nat) (b : Bool) : Tiles :=
  { t with dirty := if b then t.dirty ||| BitVec.ofNat 8 (2 ^ n) else t.dirty &&& ~~~(BitVec.ofNat 8 (2 ^ n)) }

/-- R179: the cause of a touch of an unconfigured tile. -/
def raiseTile (n : Nat) (s : State) : State := raiseAt 0x0A 0 (BitVec.ofNat 64 n) 0 s
/-- R180, R181: the entry of a tile becomes e at the end of the cycle. -/
def tileCfg (n : Nat) (e : BitVec 16) (s : State) : State :=
  advance (s.atEnd (.tiles (s.me.tiles.setCfg n e) (BitVec.ofNat 8 (2 ^ n))))

/-- R180: `vtcfg`. -/
def execVtcfg (t : BitVec 3) (r c : BitVec 4) (w : BitVec 2) (s : State) : Res :=
  guardV (!(isStack s.turn.u) && decide (w ≠ 3)) [] s fun s =>
    tileCfg t.toNat (BitVec.ofNat 16 (0x8000 + w.toNat * 1024 + r.toNat * 16 + c.toNat)) s
/-- R180: `vtrel`. -/
def execVtrel (t : BitVec 3) (s : State) : Res :=
  guardV (!(isStack s.turn.u)) [] s fun s => tileCfg t.toNat (vget s.me.tiles.cfg t.toNat 0 &&& 0x7FFF) s

/-- R182: a tile write of the elements that `at_` gives for the lanes 0 to n of quad q. -/
def tileWrite (row : Bool) (r : BitVec 6) (t : BitVec 3) (i : BitVec 4) (q : BitVec 2) (s : State) : Res :=
  guardV (!(isStack s.turn.u) && vSrcOk [r]) [r] s fun s =>
    let n := t.toNat
    let tl := s.me.tiles
    if tl.on n = false then raiseTile n s
    else if (if row then tl.rows n else tl.cols n) ≤ i.toNat then raiseShape s
    else
      let v := vVal s.me r 32 0
      let len := if row then tl.cols n else tl.rows n
      let tl' := (List.range len).foldl (fun tl j =>
        let x := lane v 32 (16 * q.toNat + j)
        if row then tl.put n i.toNat j x else tl.put n j i.toNat x) tl
      advance (s.atEnd (.tiles (tl'.mark n true) 0))
/-- R182: a tile read into quad q. -/
def tileRead (row : Bool) (tb : BitVec 1) (r : BitVec 6) (t : BitVec 3) (i : BitVec 4) (q : BitVec 2) (s : State) : Res :=
  guardV (!(isStack s.turn.u) && dstOk tb r) [r] s fun s =>
    let n := t.toNat
    let tl := s.me.tiles
    if tl.on n = false then raiseTile n s
    else if (if row then tl.rows n else tl.cols n) ≤ i.toNat then raiseShape s
    else
      let len := if row then tl.cols n else tl.rows n
      let dv := vDst s.me r
      let v := (List.range 64).map fun k =>
        if k / 16 = q.toNat then
          (if k % 16 < len then (if row then tl.get n i.toNat (k % 16) else tl.get n (k % 16) i.toNat) else 0)
        else lane dv 32 k
      advance (s.landV tb r (ofLanes 32 v) 2)
/-- R182: `vtrow`. -/
def execVtrow (r : BitVec 6) (t : BitVec 3) (i : BitVec 4) (q : BitVec 2) (s : State) : Res := tileWrite true r t i q s
/-- R182: `vtrowr`. -/
def execVtrowr (t : BitVec 1) (r : BitVec 6) (n : BitVec 3) (i : BitVec 4) (q : BitVec 2) (s : State) : Res :=
  tileRead true t r n i q s
/-- R182: `vtcol`. -/
def execVtcol (t : BitVec 1) (r : BitVec 6) (n : BitVec 3) (i : BitVec 4) (q : BitVec 2) (s : State) : Res :=
  tileRead false t r n i q s
/-- R182: `vtcolw`. -/
def execVtcolw (r : BitVec 6) (t : BitVec 3) (i : BitVec 4) (q : BitVec 2) (s : State) : Res := tileWrite false r t i q s

/-- The tiles of a mask, lowest first. -/
def tileList (m : BitVec 8) : List Nat := (List.range 8).filter fun n => m.getLsbD n
/-- R183: the slots of a tile as (row, column, offset). -/
def Tiles.slots (t : Tiles) (n off : Nat) : List (Nat × Nat × Nat) :=
  (List.range (t.rows n)).flatMap fun i => (List.range (t.cols n)).map fun j => (i, j, off + 1024 * n + 64 * i + 4 * j)
/-- R183: the address checks of a save area; goes on with its scratchpad offset. -/
def withArea (m : BitVec 8) (x : BitVec 5) (s : State) (k : Nat → State) : State :=
  let ea := xLag s.me x.toNat
  let u := s.turn.u
  if ea.toNat % 1024 ≠ 0 then raiseAlign ea s
  else if m = 0 then advance s
  else
    let hi := (tileList m).foldl max 0
    match (if bit ea 63 then locOf u ea else .bad) with
    | .own off => if owns u s.me (off + 1024 * (hi + 1) - 1) then k off else raiseProt ea s
    | _ => raiseProt ea s
/-- R119, R255, R256, R282: an access of V to own offsets: region touches and the race rules; goes on when it may be made. -/
def withOwn (offs : List Nat) (kind : Nat) (s : State) (k : State → State) : State :=
  let u := s.turn.u
  let r := s.touch u offs
  if r.1 = false then stall frzData r.2
  else match s.access (s.accOf u .V) kind (s.timed u) (lineKeys (spadKeyBase u) offs) with
    | (some (l, det), _) => s.raiseRace (raceCause s.mySeq.pc (keyOff l + 2 ^ 63) det)
    | (none, s') => k s'

/-- R183: `vtsave`. -/
def execVtsave (m : BitVec 8) (x : BitVec 5) (s : State) : Res :=
  guardV (!(isStack s.turn.u)) [] s fun s =>
    withArea m x s fun off =>
      let tl := s.me.tiles
      let ns := (tileList m).filter fun n => tl.on n && tl.dirty.getLsbD n
      let wr := ns.flatMap fun n => (tl.slots n off).flatMap fun p => atAddr p.2.2 (natLe 4 (tl.get n p.1 p.2.1))
      if (s.core s.turn.u).storeOk (wr.map (·.1)) = false then raiseProt (xLag s.me x.toNat) s
      else if wr.isEmpty then advance s
      else withOwn (wr.map (·.1)) 1 s fun s =>
        advanceBy (1 + 4 * ns.length) ((s.atEnd (.spad wr)).atEnd (.tiles (ns.foldl (fun t n => t.mark n false) tl) 0))
/-- R184: `vtload`. Of several unconfigured tiles the 0x0A names the lowest (log 88). -/
def execVtload (m : BitVec 8) (x : BitVec 5) (s : State) : Res :=
  guardV (!(isStack s.turn.u)) [] s fun s =>
    let tl := s.me.tiles
    match (tileList m).find? fun n => !(tl.on n) with
    | some n => raiseTile n s
    | none =>
      withArea m x s fun off =>
        let offs := (tileList m).flatMap fun n => (tl.slots n off).flatMap fun p => (List.range 4).map (p.2.2 + ·)
        withOwn offs 0 s fun s => advanceBy (1 + 4 * (tileList m).length) (s.atEnd (.tload m.toNat off))

/-- R184: the tiles of a mask as the save area at an offset of a scratchpad holds them. -/
def Tiles.load (t : Tiles) (m : Mem) (mask off : Nat) : Tiles :=
  (tileList (BitVec.ofNat 8 mask)).foldl (fun t n =>
    ((t.slots n off).foldl (fun t p => t.put n p.1 p.2.1 (leNat (m.rdN p.2.2 4))) t).mark n false) t

end Sys2Proof.Machine
end

