-- ==== Sys2Proof/Machine/Matrix.lean ====
section
/-! DEFINITION. The M stream (R200 to R225): local arithmetic, branches, tile commands, staging, zeroing and the bank swap;
and what a command computes (R187 to R195, R209 to R214). -/
namespace Sys2Proof.Machine

/-- R204: a result of M lands one cycle later. -/
def landM (d : BitVec 4) (v : Word) (s : State) : Res := .next (advance (s.land .reg false (d.setWidth 6) 0 (wide v) 1))
/-- Table 8.3: an operation on two local registers. -/
def mOp (d a b : BitVec 4) (f : Word → Word → Word) (s : State) : Res := landM d (f (aVal s.me a) (aVal s.me b)) s
/-- R204: `madd`. -/
def execMadd (d a b : BitVec 4) (s : State) : Res := mOp d a b (fun p q => p + q) s
/-- R204: `msub`. -/
def execMsub (d a b : BitVec 4) (s : State) : Res := mOp d a b (fun p q => p - q) s
/-- R204: `mand`. -/
def execMand (d a b : BitVec 4) (s : State) : Res := mOp d a b (fun p q => p &&& q) s
/-- R204: `mor`. -/
def execMor (d a b : BitVec 4) (s : State) : Res := mOp d a b (fun p q => p ||| q) s
/-- R204: `mxor`. -/
def execMxor (d a b : BitVec 4) (s : State) : Res := mOp d a b (fun p q => p ^^^ q) s
/-- R204: `msll`. -/
def execMsll (d a b : BitVec 4) (s : State) : Res := mOp d a b (fun p q => p <<< (q.toNat % 64)) s
/-- R204: `msrl`. -/
def execMsrl (d a b : BitVec 4) (s : State) : Res := mOp d a b (fun p q => p >>> (q.toNat % 64)) s
/-- R204: `mminu`. -/
def execMminu (d a b : BitVec 4) (s : State) : Res := mOp d a b (fun p q => if p.ult q then p else q) s
/-- R204: `maddi`. -/
def execMaddi (d a : BitVec 4) (i : BitVec 17) (s : State) : Res := landM d (aVal s.me a + sx i) s
/-- R204: `mmovk`. -/
def execMmovk (d : BitVec 4) (h : BitVec 2) (i : BitVec 16) (s : State) : Res :=
  landM d (setBits (aVal s.me d) (16 * h.toNat + 15) (16 * h.toNat) i.toNat) s
/-- R115, R204: `mmovx`. -/
def execMmovx (d : BitVec 4) (x : BitVec 5) (s : State) : Res := landM d (xLag s.me x.toNat) s
/-- R204: `mmovi`. -/
def execMmovi (d : BitVec 4) (i : BitVec 17) (s : State) : Res := landM d (sx i) s
/-- R205: `mbeq`. -/
def execMbeq (a b : BitVec 4) (o : BitVec 17) (s : State) : Res :=
  .next (if aVal s.me a = aVal s.me b then jumpTo (s.rel o) s else advance s)
/-- R205: `mbne`. -/
def execMbne (a b : BitVec 4) (o : BitVec 17) (s : State) : Res :=
  .next (if aVal s.me a ≠ aVal s.me b then jumpTo (s.rel o) s else advance s)
/-- R205: `mbltu`. -/
def execMbltu (a b : BitVec 4) (o : BitVec 17) (s : State) : Res :=
  .next (if (aVal s.me a).ult (aVal s.me b) then jumpTo (s.rel o) s else advance s)

/-- Table 8.4: a field of a format word. -/
def fwBits (w : BitVec 32) (hi lo : Nat) : Nat := w.toNat / 2 ^ lo % 2 ^ (hi + 1 - lo)
/-- R207: whether a format word may be popped; `sel` is the format check, 0xF for none. -/
def fwOk (w : BitVec 32) (sel : Nat) : Bool :=
  let a := fwBits w 31 28
  let b := fwBits w 27 24
  let int8 := decide (fwBits w 12 12 = 1)
  let fl (c : Nat) : Bool := decide (8 ≤ c) && decide (c ≤ 14)
  decide (fwBits w 11 0 = 0) &&
  (if int8 then decide (a = 0) && decide (b = 0) else fl a && fl b) &&
  (decide (fwBits w 23 22 = 0) || decide (a = 14) || decide (b = 14)) &&
  (decide (sel = 15) || decide (sel = b))
/-- R209: four times the bytes of a component of a format. -/
def compQ (fmt : Nat) : Nat := if fmt = 8 then 16 else if fmt = 9 then 8 else if fmt = 14 then 1 else 4
/-- R193: components of a scale block, 0 for a format without blocks. -/
def blockLen (fmt : Nat) : Nat := if fmt = 12 ∨ fmt = 13 then 32 else if fmt = 14 then 64 else 0
/-- Table 7.1: side of the C tile for a dimension. -/
def tileSide (d : Nat) : Nat := if d = 1 then 128 else if d = 2 then 64 else if d = 4 then 32 else 16
/-- R60: the size of a K-group. -/
def kGroup (a b : Nat) : Nat := if a = 14 ∨ b = 14 then 4 else if a = 8 ∨ a = 9 ∨ b = 8 ∨ b = 9 then 1 else if a = 0 then 1 else 2
/-- R188, Table 7.2: the occupancy of K elements. -/
def occupancy (a b k : Nat) : Nat :=
  if a = 8 ∨ b = 8 then 4 * k else if a = 9 ∨ b = 9 then k else if a = 14 ∨ b = 14 then (k + 3) / 4 else (k + 1) / 2

/-- The geometry of an operand (R208, R209): format, dimension, stored rows, elements of a row that are read, stored row
length, base. -/
structure Geo where
  fmt  : Nat
  d    : Nat
  rows : Nat
  w    : Nat
  l    : Nat
  base : Word
  mode : Nat
  deriving DecidableEq, Repr
/-- R208, R209: an operand's geometry from its descriptor. -/
def geoOf (fmt d : Nat) (tr : Bool) (side k : Nat) (isA : Bool) (x : MDesc) : Geo :=
  let flip := tr ≠ isA
  ⟨fmt, d, if flip then side else k, if flip then k else side, bits x.ctl 47 32, x.base, bits x.ctl 63 62⟩
/-- R208, R209: the shape checks of an operand. -/
def Geo.shapeOk (g : Geo) (ctl : Word) : Bool :=
  decide (g.mode ≤ 1) && decide (bits ctl 60 48 = 0) && decide (bits ctl 31 0 = 0) && decide (g.l ≠ 0) && decide (g.w ≤ g.l) &&
  (decide (blockLen g.fmt = 0) || (decide (g.l * g.d % blockLen g.fmt = 0) && decide (g.w * g.d % blockLen g.fmt = 0)))
/-- R209: the offset of stored row r from the base. -/
def Geo.rowOff (g : Geo) (r : Nat) : Nat := r * g.l * g.d * compQ g.fmt / 4
/-- R210: bytes read from one stored row. -/
def Geo.rowLen (g : Geo) : Nat := g.w * g.d * compQ g.fmt / 4
/-- R210: bytes of the region. -/
def Geo.len (g : Geo) : Nat := g.rowOff (g.rows - 1) + g.rowLen
/-- R211: scales that the operand takes. -/
def Geo.blocks (g : Geo) : Nat := if blockLen g.fmt = 0 then 0 else g.rows * (g.w * g.d / blockLen g.fmt)
/-- R210: the offsets from the base of every byte that is read. -/
def Geo.reads (g : Geo) : List Nat := (List.range g.rows).flatMap fun r => (List.range g.rowLen).map (g.rowOff r + ·)
/-- R210: whether the region of an operand may be read, and the window distance it costs; none is refused. -/
def Geo.place (g : Geo) (u : Nat) (c : Ctx) : Option Nat :=
  if g.mode = 1 then (if bits g.base 63 57 = 0 then some 0 else none)
  else if bit g.base 63 = false then none
  else match locOf u g.base with
    | .own o => if owns u c (o + g.len - 1) then some 0 else none
    | .win k o => if owns u c (o + g.len - 1) then some (distance (clusterIdx u) k) else none
    | _ => none
/-- R215: whether an operand lies in a cluster window. -/
def Geo.isWin (g : Geo) (u : Nat) : Bool :=
  decide (g.mode = 0) && (match locOf u g.base with | .win _ _ => true | _ => false)

/-- R212: component c of a stored row, from its bytes. -/
def compVal (fmt : Nat) (lct : BitVec 8192) (scales : List (BitVec 16)) (row : List Byte) (c : Nat) : Ex :=
  let z := compQ fmt / 4
  if fmt = 14 then
    let idx := leNat ((row.drop (2 * (c / 8))).take 2)
    let entry := lct.toNat / 2 ^ (32 * (idx / 256)) % 2 ^ 32
    (vq2Decode idx entry (scales.getD (c / 64) 0).toNat).getD (c % 8) .nan
  else
    let w := leNat ((row.drop (c * z)).take z)
    match fmt with
    | 8 => decodeF .fp32 w
    | 9 => decodeF .bf16 w
    | 10 => decodeF .e4m3 w
    | 11 => decodeF .e5m2 w
    | 12 => mxDecode (scales.getD (c / 32) 0).toNat .e4m3 w
    | 13 => mxDecode (scales.getD (c / 32) 0).toNat .e5m2 w
    | _ => exOfInt (sext w 8)
/-- R211, R212: the stored rows of an operand, decoded; `byte` reads a byte by its offset from the base. -/
def Geo.decoded (g : Geo) (lct : BitVec 8192) (scales : List (BitVec 16)) (byte : Nat → Byte) : List (List Ex) :=
  let per := if blockLen g.fmt = 0 then 0 else g.w * g.d / blockLen g.fmt
  (List.range g.rows).map fun r =>
    let row := (List.range g.rowLen).map fun i => byte (g.rowOff r + i)
    (List.range (g.w * g.d)).map fun c => compVal g.fmt lct (scales.drop (r * per)) row c

/-- The elements of a stored row. -/
def elemsOf (d : Nat) (row : List Ex) : List (List Ex) :=
  (List.range (row.length / d)).map fun i => (row.drop (i * d)).take d
/-- R195: the factors of each line of C, A's by row or B's by column: `byRow` that the stored rows are those lines. -/
def factors (tab : BitVec 1024) (inv n : Nat) (byRow : Bool) (rows : List (List Ex)) : List (List (List Ex)) :=
  let es := rows.map fun r => (elemsOf (algDim tab) r).map (algInv tab inv)
  if byRow then es else (List.range n).map fun i => es.map fun r => r.getD i []
/-- R60: a list in groups of g. -/
def groupsOf {α : Type} (g : Nat) (l : List α) : List (List α) :=
  (List.range ((l.length + g - 1) / g)).map fun i => (l.drop (i * g)).take g
/-- The integer that an exact value of INT8 mode is. -/
def exInt : Ex → Int
  | .fin m e => if 0 ≤ e then m * 2 ^ e.toNat else m / 2 ^ (-e).toNat
  | _ => 0
/-- R60, R195, R214: the components of one C element from its starting components. -/
def cellOf (tab : BitVec 1024) (ord int8 : Bool) (g : Nat) (l r : List (List Ex)) (acc : List Nat) : List Nat :=
  let p := (l.zip r).map fun q => algProd tab ord q.1 q.2
  acc.zipIdx.map fun a =>
    (groupsOf g p).foldl (fun v grp =>
      let terms := grp.map fun e => e.getD a.2 .z0
      if int8 then wrap (sext v 32 + (terms.map exInt).sum) 32 else kacc v terms) a.1

/-- R194: components of a command's region. -/
def MCmd.size (k : MCmd) : Nat := match k.zero with | some n => n | none => 8 / algDim k.tab
/-- R198, R219: whether the regions of two commands overlap. -/
def MCmd.overlaps (a b : MCmd) : Bool := decide (a.region < b.region + b.size) && decide (b.region < a.region + a.size)
/-- R195, R213, R214, R220: the components that a command writes to the working bank. -/
def MCmd.results (k : MCmd) (work : Map (BitVec 32)) : List (Nat × BitVec 32) :=
  match k.zero with
  | some n => (List.range (2048 * n)).map fun i => (2048 * k.region + i, 0)
  | none =>
    let d := algDim k.tab
    let n := tileSide d
    let fa := factors k.tab (fwBits k.fw 19 18) n (decide (fwBits k.fw 15 15 = 0)) k.opA
    let fb := factors k.tab (fwBits k.fw 17 16) n (decide (fwBits k.fw 14 14 = 1)) k.opB
    let g := kGroup (fwBits k.fw 31 28) (fwBits k.fw 27 24)
    fa.zipIdx.flatMap fun a => fb.zipIdx.flatMap fun b =>
      let base := 2048 * k.region + (a.2 * n + b.2) * d
      let acc := (List.range d).map fun t =>
        if fwBits k.fw 13 13 = 1 then (bankGet work (base + t)).toNat else 0
      (cellOf k.tab (decide (fwBits k.fw 20 20 = 1)) (decide (fwBits k.fw 12 12 = 1)) g a.1 b.1 acc).zipIdx.map fun v =>
        (base + v.2, BitVec.ofNat 32 v.1)
/-- R198, R390: the updates of a quiescent command reach the working bank; poison spreads to its whole region. -/
def Ctx.applyCmd (c : Ctx) (k : MCmd) : Ctx :=
  let r := k.results c.work
  let hit := fun (p : Bool × Nat) => !p.1 && r.any fun q => decide (q.1 = p.2)
  { c with
    work := r.foldl (fun w p => bankPut w p.1 p.2) c.work
    accBad := if k.bad then c.accBad.filter (fun p => !hit p) ++ r.map (fun p => (false, p.1))
              else if k.zero.isSome ∨ fwBits k.fw 13 13 = 0 then (if c.accBad.isEmpty then [] else c.accBad.filter fun p => !hit p)
              else c.accBad }

/-- R199, R215, R217: M does not issue on this cycle and tries again on the next; nothing freezes. -/
def deferM (s : State) : State :=
  { s with verdict := Verdict.issued }.modSelf fun x => { x with nextAt := s.me.clk + 1 }
/-- R110: the format word that a command on this cycle pops. -/
def Ctx.fqHead (c : Ctx) : Option (BitVec 32) :=
  match c.fq with
  | p :: _ => if p.2 + 2 ≤ c.clk then some p.1 else none
  | [] => none
/-- R215: commands of M that stand issued and not started; one that starts on this cycle still counts. -/
def Ctx.waiting (c : Ctx) : List MCmd :=
  c.cmds.filter fun k => !k.follow && (match k.started with | none => true | some n => decide (n = c.clk))
/-- R217: the fetched commands among them. -/
def Ctx.fetching (c : Ctx) : Nat := (c.waiting.filter (·.fetched)).length
/-- R219: a follow-on that is not quiescent and overlaps a command. -/
def Ctx.followHit (c : Ctx) (k : MCmd) : Bool := c.cmds.any fun f => f.follow && f.overlaps k

/-- R113: what the scale queue answers a command that takes b scales. -/
inductive ScaleAns where
  | take (l : List (BitVec 16)) (c : Ctx)
  | wait
  | short
/-- R112, R113: takes b scales; an entry of this real cycle is not poppable yet. -/
def Ctx.takeScales (c : Ctx) (now b : Nat) : ScaleAns :=
  let p := (c.sq.filter fun e => decide (e.2 < now)).length
  let o := c.sq.length - p + c.scaleLoads.sum
  if b ≤ p then .take ((c.sq.take b).map (·.1)) { c with sq := c.sq.drop b }
  else if b ≤ p + o then .wait else .short

/-- R213: the count K of a tile command, and the command it names apart from scales; the cause where a check fails. -/
inductive TileChk where
  | ok (k : MCmd) (b : Nat)
  | illegal
  | under
  | shape
  | align (a : Word)
  | prot (a : Word)

/-- R203, R207 to R211, R213: the checks of a tile command in their order. -/
def State.tileChk (s : State) (u a b : BitVec 3) (sel k : Nat) : TileChk :=
  let c := s.me
  match c.fqHead with
  | none => .under
  | some fw =>
    if fwOk fw sel = false then .illegal
    else
      let tab := vget c.alg (fwBits fw 21 21) 0
      let d := algDim tab
      let n := tileSide d
      let desc (j : BitVec 3) : MDesc := ⟨vget c.a (2 * j.toNat) 0, vget c.a (2 * j.toNat + 1) 0⟩
      let ga := geoOf (fwBits fw 31 28) d (decide (fwBits fw 15 15 = 1)) n k true (desc a)
      let gb := geoOf (fwBits fw 27 24) d (decide (fwBits fw 14 14 = 1)) n k false (desc b)
      let blocks := ga.blocks + gb.blocks
      if k = 0 ∨ 2047 < k ∨ u.toNat + 8 / d > 8 ∨ ga.shapeOk (desc a).ctl = false ∨ gb.shapeOk (desc b).ctl = false ∨
         blocks > 64 then .shape
      else if ga.base.toNat % 64 ≠ 0 then .align ga.base
      else if gb.base.toNat % 64 ≠ 0 then .align gb.base
      else match ga.place s.turn.u c, gb.place s.turn.u c with
        | none, _ => .prot ga.base
        | _, none => .prot gb.base
        | some _, some _ =>
          .ok ⟨s.uid, s.mySeq.pc, none, u.toNat, fw, k, desc a, desc b, [], tab, vget c.lct (fwBits fw 23 22) 0, c.clk, false,
            occupancy (fwBits fw 31 28) (fwBits fw 27 24) k, 0, none, 0, decide (ga.mode = 1) || decide (gb.mode = 1), [], [],
            [], [], false, s.histOf c s.turn.u .M⟩ blocks

/-- The geometry of a command's A operand. -/
def MCmd.geoA (k : MCmd) : Geo :=
  geoOf (fwBits k.fw 31 28) (algDim k.tab) (decide (fwBits k.fw 15 15 = 1)) (tileSide (algDim k.tab)) k.k true k.da
/-- The geometry of a command's B operand. -/
def MCmd.geoB (k : MCmd) : Geo :=
  geoOf (fwBits k.fw 27 24) (algDim k.tab) (decide (fwBits k.fw 14 14 = 1)) (tileSide (algDim k.tab)) k.k false k.db
/-- R217: the lines of global memory that a fetched operand takes. -/
def Geo.lines (g : Geo) : List Nat := if g.mode = 1 then g.reads.map fun o => (g.base.toNat + o) / 64 else []
/-- R217: the lines of global memory that a command fetches. -/
def MCmd.lines (k : MCmd) : List Nat := (k.geoA.lines ++ k.geoB.lines).eraseDups
/-- R215: the first cycle on which a command may start, as far as its own operands go. -/
def MCmd.earliest (k : MCmd) (u : Nat) (c : Ctx) : Nat :=
  match k.zero with
  | some _ => k.issue + 1
  | none =>
    let w (g : Geo) : Nat := if g.isWin u then 4 + (g.place u c).getD 0 else 1
    max (max (k.issue + w k.geoA) (k.issue + w k.geoB)) (if k.fetched then k.issue + 40 else 0)

/-- R266: the sequencer that a command's operand reads are charged to. -/
def MCmd.party (k : MCmd) : SeqId := if k.follow then .C else .M
/-- R215, R217, R219: a command goes to the array; its fetched lines are asked for. -/
def State.issueCmd (s : State) (u lid : Nat) (k : MCmd) : State :=
  let lines := if k.zero.isSome then [] else k.lines
  let s := s.modCtxOf u lid fun c => { c with cmds := c.cmds ++ [{ k with need := lines }] }
  lines.foldl (fun s l =>
    let o : Out := ⟨s.uid, u, k.party, lid, k.pc, (s.ctxOf u lid).asid, BitVec.ofNat 64 (64 * l), .operand k.id, .queued,
      s.now + 1 + s.delayFor u lid k.party (64 * l) 0, [], false, none, k.hb⟩
    { s.tickFree with outs := s.outs ++ [o], uid := s.uid + 1 }) s

/-- R213: a tile command up to its issue: the checks, the overlap rule, the scales; then `k` with the command. -/
def tileCommand (u a b : BitVec 3) (sel kk : Nat) (stage : Bool) (s : State) (k : MCmd → State → State) : State :=
  match s.tileChk u a b sel kk with
  | .under => raiseAt 0x07 0 0 0 s
  | .illegal => raiseIllegal s
  | .shape => raiseShape s
  | .align x => raiseAlign x s
  | .prot x => raiseProt x s
  | .ok cmd n =>
    if ¬ stage ∧ s.me.followHit cmd then (if s.me.mode = .timed then raiseTiming s else deferM s)
    else match s.me.takeScales s.now n with
      | .wait => stall frzScale s
      | .short => raiseQueue 0 s
      | .take l c =>
        let s := (s.modMe fun _ => { c with fq := c.fq.drop 1 })
        k { cmd with scales := l } { s with uid := s.uid + 1 }

/-- R208, R217: whether a descriptor names an operand that is fetched. -/
def Ctx.descFetched (c : Ctx) (j : BitVec 3) : Bool := decide (bits (vget c.a (2 * j.toNat + 1) 0) 63 62 = 1)
/-- R203, R213, R215, R217: `mma` with a count K. A deferral comes before every check: they are made on the cycle it ends. -/
def mmaOp (u a b : BitVec 3) (sel : BitVec 4) (kk : Nat) (s : State) : State :=
  if s.me.waiting.length ≥ 4 then deferM s
  else
    let fetched := s.me.descFetched a || s.me.descFetched b
    if fetched = true ∧ s.me.fetching ≥ s.me.mdepth.toNat then deferM s
    else tileCommand u a b sel.toNat kk false s fun cmd s => advance (s.issueCmd s.turn.u s.me.lid cmd)
/-- R213: `mma` with K in the word. -/
def execMma (u a b : BitVec 3) (sc : BitVec 4) (k : BitVec 11) (s : State) : Res := .next (mmaOp u a b sc k.toNat s)
/-- R213: `mma` with K in a local register. -/
def execMmaReg (u a b : BitVec 3) (sc r : BitVec 4) (s : State) : Res := .next (mmaOp u a b sc (aVal s.me r).toNat s)

/-- R218: `mstage` with a count K. -/
def mstageOp (u a b l : BitVec 3) (kk : Nat) (s : State) : State :=
  let slot := vget s.me.slots l.toNat .empty
  match slot with
  | .empty => tileCommand u a b 15 kk true s fun cmd s =>
      advance (s.modMe fun c => { c with slots := vset c.slots l.toNat (.staged { cmd with follow := true }) })
  | _ =>
    match s.tileChk u a b 15 kk with
    | .under => raiseAt 0x07 0 0 0 s
    | .illegal => raiseIllegal s
    | .shape => raiseShape s
    | .align x => raiseAlign x s
    | .prot x => raiseProt x s
    | .ok _ _ => if slot.isBound ∧ s.me.mode ≠ .timed then stall frzNone s else raiseQueue 0 s
/-- R218: `mstage` with K in the word. -/
def execMstage (u a b l : BitVec 3) (k : BitVec 11) (s : State) : Res := .next (mstageOp u a b l k.toNat s)
/-- R218: `mstage` with K in a local register. -/
def execMstageReg (u a b l : BitVec 3) (r : BitVec 4) (s : State) : Res := .next (mstageOp u a b l (aVal s.me r).toNat s)

/-- R220: `mzero`; the field holds n − 1. -/
def execMzero (u n : BitVec 3) (s : State) : Res :=
  .next <|
    let c := s.me
    let cmd : MCmd := ⟨s.uid, s.mySeq.pc, some (n.toNat + 1), u.toNat, 0, 0, ⟨0, 0⟩, ⟨0, 0⟩, [], 0, 0, c.clk, false, 1, 0, none, 0,
      false, [], [], [], [], false, ⟨[], 0⟩⟩
    if c.waiting.length ≥ 4 then deferM s
    else if u.toNat + (n.toNat + 1) > 8 then raiseShape s
    else if c.followHit cmd then (if c.mode = .timed then raiseTiming s else deferM s)
    else advance ({ s with uid := s.uid + 1 }.issueCmd s.turn.u s.me.lid cmd)
/-- R199, R221: `mswap`; a follow-on that C has sent to the array on this very cycle counts as issued before it (log 88); the banks are exchanged at the end of the first cycle that finds every earlier command quiescent. -/
def execMswap (s : State) : Res :=
  .next <|
    let c := s.me
    if c.mode = .timed ∧ c.cmds.any (·.follow) then raiseTiming s
    else advance (s.modMe fun c => { c with mswap := some (c.cmds.map (·.id)) })

/-- R199: the exchange of the banks. -/
def Ctx.exchange (c : Ctx) : Ctx :=
  { c with work := c.vis, vis := c.work, mswap := none, accBad := c.accBad.map fun p => (!p.1, p.2) }

end Sys2Proof.Machine
end

