-- ==== Sys2Proof/Machine/Copy.lean ====
section
/-! DEFINITION. The C stream (R292 to R327): register operations, branches, and the issue of the channel commands with the
checks of R298 to R302. -/
namespace Sys2Proof.Machine

/-- R294: a result of C lands one cycle later. -/
def landC (d : BitVec 4) (v : Word) (s : State) : Res := .next (advance (s.land .reg false (d.setWidth 6) 0 (wide v) 1))
/-- Table 12.1: an operation on two local registers. -/
def cOp (d a b : BitVec 4) (f : Word → Word → Word) (s : State) : Res := landC d (f (gVal s.me a) (gVal s.me b)) s
/-- R294: `cadd`. -/
def execCadd (d a b : BitVec 4) (s : State) : Res := cOp d a b (fun p q => p + q) s
/-- R294: `csub`. -/
def execCsub (d a b : BitVec 4) (s : State) : Res := cOp d a b (fun p q => p - q) s
/-- R294: `cand`. -/
def execCand (d a b : BitVec 4) (s : State) : Res := cOp d a b (fun p q => p &&& q) s
/-- R294: `cor`. -/
def execCor (d a b : BitVec 4) (s : State) : Res := cOp d a b (fun p q => p ||| q) s
/-- R294: `cxor`. -/
def execCxor (d a b : BitVec 4) (s : State) : Res := cOp d a b (fun p q => p ^^^ q) s
/-- R294: `csll`. -/
def execCsll (d a b : BitVec 4) (s : State) : Res := cOp d a b (fun p q => p <<< (q.toNat % 64)) s
/-- R294: `csrl`. -/
def execCsrl (d a b : BitVec 4) (s : State) : Res := cOp d a b (fun p q => p >>> (q.toNat % 64)) s
/-- R294: `cminu`. -/
def execCminu (d a b : BitVec 4) (s : State) : Res := cOp d a b (fun p q => if p.ult q then p else q) s
/-- R294: `caddi`. -/
def execCaddi (d a : BitVec 4) (i : BitVec 17) (s : State) : Res := landC d (gVal s.me a + sx i) s
/-- R294: `cmovk`. -/
def execCmovk (d : BitVec 4) (h : BitVec 2) (i : BitVec 16) (s : State) : Res :=
  landC d (setBits (gVal s.me d) (16 * h.toNat + 15) (16 * h.toNat) i.toNat) s
/-- R115, R294: `cmovx`. -/
def execCmovx (d : BitVec 4) (x : BitVec 5) (s : State) : Res := landC d (xLag s.me x.toNat) s
/-- R294: `cmovi`. -/
def execCmovi (d : BitVec 4) (i : BitVec 17) (s : State) : Res := landC d (sx i) s
/-- R295: `cbeq`. -/
def execCbeq (a b : BitVec 4) (o : BitVec 17) (s : State) : Res :=
  .next (if gVal s.me a = gVal s.me b then jumpTo (s.rel o) s else advance s)
/-- R295: `cbne`. -/
def execCbne (a b : BitVec 4) (o : BitVec 17) (s : State) : Res :=
  .next (if gVal s.me a ≠ gVal s.me b then jumpTo (s.rel o) s else advance s)
/-- R295: `cbltu`. -/
def execCbltu (a b : BitVec 4) (o : BitVec 17) (s : State) : Res :=
  .next (if (gVal s.me a).ult (gVal s.me b) then jumpTo (s.rel o) s else advance s)

/-- A check that fails: its cause and the address concerned. -/
abbrev Chk := List (Nat × Word)
/-- One check: `b` says that it fails. -/
def ck (b : Bool) (code : Nat) (a : Word) : Chk := if b then [(code, a)] else []
/-- R298: the first cause of the failed checks. -/
def firstCause (l : Chk) : Option (Nat × Word) :=
  [0x01, 0x0B, 0x03, 0x04, 0x08, 0x0C, 0x15].findSome? fun c => l.find? fun p => decide (p.1 = c)

/-- R300: whether a local span of n bytes lies in the own scratchpad or one window, all of it owned. -/
def localSpan (u : Nat) (c : Ctx) (a : Word) (n : Nat) : Bool :=
  match locOf u a with
  | .own o => owns u c o && owns u c (o + n - 1)
  | .win _ o => owns u c o && owns u c (o + n - 1)
  | _ => false
/-- R300: a span may be anywhere, must be local, must lie in the own scratchpad, or must be global. -/
inductive SpanKind where
  | any | loc | own | glob
  deriving DecidableEq, Repr
/-- R300, R302: whether an address and its length may be named. -/
def spanOk (k : SpanKind) (u : Nat) (c : Ctx) (a : Word) (n : Nat) : Bool :=
  if n = 0 then bit a 63 || decide (bits a 62 57 = 0)
  else if bit a 63 then
    match k with
    | .glob => false
    | .own => (match locOf u a with | .own _ => localSpan u c a n | _ => false)
    | _ => localSpan u c a n
  else
    match k with
    | .any | .glob => decide (bits a 62 57 = 0)
    | _ => false
/-- R300: the check of a span. -/
def State.spanCk (s : State) (k : SpanKind) (a : Word) (n : Nat) : Chk := ck (!spanOk k s.turn.u s.me a n) 0x04 a
/-- R300: an alignment check. -/
def alignCk (a : Word) (m : Nat) : Chk := ck (decide (a.toNat % m ≠ 0)) 0x03 a
/-- R296: a field that is reserved. -/
def rsvCk {n : Nat} (f : BitVec n) : Chk := ck (decide (f ≠ 0)) 0x01 0
/-- R296, R302, R325: the checks of the byte barrier at a local address; of a command with no bytes (`len` 0) its form alone. -/
def State.bbCk (s : State) (x : BitVec 1) (b : BitVec 4) (len : Nat) : Chk :=
  if x = 0 then rsvCk b else alignCk (gVal s.me b) 8 ++ s.spanCk .loc (gVal s.me b) (if len = 0 then 0 else 8)
/-- R296: the byte barrier that a command names. -/
def State.bbOf (s : State) (x : BitVec 1) (b : BitVec 4) : Option Word := if x = 1 then some (gVal s.me b) else none
/-- R296, R313: the checks of a follow-on slot. -/
def State.slotCk (s : State) (f : BitVec 1) (l : BitVec 3) : Chk :=
  if f = 0 then rsvCk l else ck (!(vget s.me.slots l.toNat .empty).isStaged) 0x08 0

/-- R218, R313: a staged command becomes bound to the copy that carries it. -/
def Ctx.bindSlot (c : Ctx) (l : Nat) : Ctx :=
  match vget c.slots l .empty with
  | .staged k => { c with slots := vset c.slots l (.bound k) }
  | _ => c
/-- R219, R313: C issues a bound command to the array on this cycle, and its slot is free. Answers its identity. -/
def State.followOn (s : State) (u lid l : Nat) : Nat × State :=
  let c := s.ctxOf u lid
  match vget c.slots l .empty with
  | .bound k =>
    (k.id, (s.modCtxOf u lid fun c => { c with slots := vset c.slots l .empty }).issueCmd u lid
      { k with follow := true, issue := c.clk, left := k.occ, hb := s.histOf c u .C })
  | _ => (0, s)

/-- R299: a command with the values that it read enters its channel; one of no length is complete at once (R302), but for the
follow-on that it carries: C issues that on the next cycle (R313) and the command is complete when it is quiescent (R219). -/
def State.enqueue (s : State) (ch : Nat) (op : COp) (bb : Option Word) (slot : Option Nat) (empty : Bool) : State :=
  let u := s.turn.u
  let k : CCmd := ⟨s.uid, ch, s.mySeq.pc, op, bb, slot, 0, 0, 0, [], 0, [], 0, none, none, s.histOf s.me u .C, false, []⟩
  let s := { s with uid := s.uid + 1 }
  let s := match slot with | some l => s.modMe fun c => c.bindSlot l | none => s
  if empty then
    match slot with
    | some _ => s.modMe fun c => { c with await := c.await ++ [{ k with t0 := c.clk + 1 }], copies := c.copies ++ [k.id] }
    | none => s
  else
    s.modMe fun c =>
      let x := vget c.chans ch ⟨[], 0⟩
      { c with chans := vset c.chans ch { x with cmds := x.cmds ++ [k] }, copies := c.copies ++ [k.id] }

/-- R120, R298, R299: the issue of a channel command: the first failed check, a stall, or the command's place in its
channel. -/
def copyCmd (checks : Chk) (hold : Bool) (ch : BitVec 2) (op : COp) (bb : Option Word) (slot : Option Nat) (empty : Bool)
    (s : State) : State :=
  match firstCause checks with
  | some (c, a) => if c = 0x01 then raiseIllegal s else raiseAt c a 0 0 s
  | none =>
    if hold then stall frzVer s
    else if (vget s.me.chans ch.toNat ⟨[], 0⟩).cmds.length ≥ 16 then stall frzChan s
    else advance (s.enqueue ch.toNat op bb slot empty)

/-- R305: `cpy`. -/
def execCpy (c : BitVec 2) (d sr n b : BitVec 4) (x f : BitVec 1) (l : BitVec 3) (s : State) : Res :=
  let dst := gVal s.me d
  let src := gVal s.me sr
  let len := (gVal s.me n).toNat
  let checks := s.bbCk x b len ++ s.slotCk f l ++ ck (decide (2 ^ 32 ≤ len)) 0x0B 0 ++ alignCk dst 4 ++ alignCk src 4 ++
    alignCk (gVal s.me n) 4 ++ s.spanCk .any dst len ++ s.spanCk .any src len
  .next (copyCmd checks false c (.cpy dst src len) (s.bbOf x b) (if f = 1 then some l.toNat else none) (len = 0) s)
/-- R306: `cpya`. -/
def execCpya (c : BitVec 2) (d sr n b : BitVec 4) (x : BitVec 1) (s : State) : Res :=
  let dst := gVal s.me d
  let first := (gVal s.me sr).toNat
  let len := (gVal s.me n).toNat
  let checks := s.bbCk x b len ++ ck (decide (first % 16 ≠ 0) || decide (len % 64 ≠ 0) || decide (4 * first + len > 65536)) 0x0B 0 ++
    s.spanCk .any dst len
  .next (copyCmd checks false c (.cpya dst first len) (s.bbOf x b) none (len = 0) s)
/-- R307, R309: `ctens`; a record in the cache is bound at issue. -/
def execCtens (c : BitVec 2) (r b : BitVec 4) (x f : BitVec 1) (l : BitVec 3) (s : State) : Res :=
  let ra := gVal s.me r
  let checks := s.bbCk x b 1 ++ s.slotCk f l ++ alignCk ra 64 ++ s.spanCk .any ra 192
  let hit := (s.me.rcache.find? fun p => p.1 = ra).map (·.2)
  let slot := if f = 1 then some l.toNat else none
  let t := copyCmd checks false c (.ctens ra hit) (s.bbOf x b) slot false s
  .next <| match hit with
    | some w =>
      if t.verdict = .issued then
        t.modMe fun c => { c with rcache := (c.rcache.filter fun p => p.1 ≠ ra) ++ [(ra, w)] }
      else t
    | none => t

/-- R310: the element size of a gather or scatter. -/
def gathSize (e : BitVec 2) : Nat := 4 * 4 ^ e.toNat
/-- R310: a gather or a scatter. -/
def gathOp (scatter : Bool) (c : BitVec 2) (d sr i n b : BitVec 4) (x : BitVec 1) (e : BitVec 2) (s : State) : State :=
  let dst := gVal s.me d
  let src := gVal s.me sr
  let idx := gVal s.me i
  let cnt := (gVal s.me n).toNat
  let z := gathSize e
  let run := z * cnt
  let checks := s.bbCk x b 1 ++ ck (decide (cnt = 0) || decide (65536 < cnt)) 0x0B 0 ++ alignCk idx 4 ++ s.spanCk .own idx (4 * cnt) ++
    s.spanCk .any dst (if scatter then 1 else run) ++ s.spanCk .any src (if scatter then run else 1)
  copyCmd checks false c (.cgath scatter dst src idx cnt z) (s.bbOf x b) none false s
/-- R310: `cgath`. -/
def execCgath (c : BitVec 2) (d sr i n b : BitVec 4) (x : BitVec 1) (e : BitVec 2) (s : State) : Res :=
  .next (gathOp false c d sr i n b x e s)
/-- R310: `cscat`. -/
def execCscat (c : BitVec 2) (d sr i n b : BitVec 4) (x : BitVec 1) (e : BitVec 2) (s : State) : Res :=
  .next (gathOp true c d sr i n b x e s)

/-- R293: the address that an ra field yields; none for a code that raises 0x01. -/
def raVal (c : Ctx) (r : BitVec 6) : Option Word :=
  if r.toNat < 32 then some (xLag c r.toNat) else if r.toNat < 48 then some (vget c.g (r.toNat - 32) 0) else none
/-- R311: `cscl`. -/
def execCscl (c : BitVec 2) (r : BitVec 6) (n : BitVec 9) (k : BitVec 1) (s : State) : Res :=
  let a := (raVal s.me r).getD 0
  let z := if k = 1 then 1 else 2
  let checks := ck ((raVal s.me r).isNone || decide (n = 0) || decide (256 < n.toNat)) 0x01 0 ++ alignCk a z ++
    s.spanCk .any a (z * n.toNat)
  .next (copyCmd checks false c (.cscl a n.toNat (decide (k = 1))) none none false s)
/-- R312: a table load of z bytes. -/
def tableLoad (c : BitVec 2) (r : BitVec 6) (n : BitVec 9) (z most : Nat) (op : Word → COp) (s : State) : State :=
  let a := (raVal s.me r).getD 0
  let checks := ck ((raVal s.me r).isNone || decide (most < n.toNat)) 0x01 0 ++ alignCk a 64 ++ s.spanCk .any a z
  copyCmd checks false c (op a) none none false s
/-- R312: `cldlct`. -/
def execCldlct (c : BitVec 2) (r : BitVec 6) (n : BitVec 9) (s : State) : Res :=
  .next (tableLoad c r n 1024 3 (fun a => .cldlct n.toNat a) s)
/-- R312: `cldalg`. -/
def execCldalg (c : BitVec 2) (r : BitVec 6) (n : BitVec 9) (s : State) : Res :=
  .next (tableLoad c r n 128 1 (fun a => .cldalg n.toNat a) s)

/-- R314: bytes of a segment by its payload type. -/
def segBytes (y : BitVec 2) : Nat := if y = 0 then 128 else 256
/-- R314: `caw`. -/
def execCaw (c : BitVec 2) (sr q n : BitVec 4) (y : BitVec 2) (s : State) : Res :=
  let src := gVal s.me sr
  let desc := gVal s.me q
  let cnt := (gVal s.me n).toNat
  let checks := ck (decide (y = 3)) 0x01 0 ++ ck (decide (cnt = 0) || decide (64 < cnt)) 0x0B 0 ++ alignCk src 64 ++
    s.spanCk .own src (segBytes y * cnt) ++ ck (decide (bits desc 63 41 ≠ 0) || decide (64 < bits desc 20 15 + cnt)) 0x0C desc
  .next (copyCmd checks false c (.caw src desc cnt y s.me.awround) none none false s)

/-- R315, R337: P of the job of a versioned buffer. -/
def State.published (s : State) (st b : Nat) : Nat := bits (s.job st (s.bJob st b) 0) 31 0
/-- R315: `cver`. -/
def execCver (c : BitVec 2) (d q o n b : BitVec 4) (x : BitVec 1) (s : State) : Res :=
  let dst := gVal s.me d
  let v := gVal s.me q
  let off := (gVal s.me o).toNat
  let len := (gVal s.me n).toNat
  let st := bits v 14 12
  let buf := bits v 11 0
  let round := bits v 63 32
  let vers := (mget Bucket.fresh (s.die st).buckets buf).vers
  let late := decide (s.published st buf < round)
  let checks := s.bbCk x b len ++ alignCk (gVal s.me o) 4 ++ alignCk (gVal s.me n) 4 ++ s.spanCk .any dst len ++
    ck (decide (bits v 31 15 ≠ 0) || (!late && decide (round ∉ vers))) 0x0C v
  .next (copyCmd checks late c (.cver dst (BitVec.ofNat 3 st) (BitVec.ofNat 12 buf) (BitVec.ofNat 32 round) off len)
    (s.bbOf x b) none (len = 0) s)

/-- R316: whether a scratchpad range meets another slot's range, bound or with a map pending. -/
def State.mapMeets (s : State) (slot off n : Nat) : Bool :=
  ((s.core s.turn.u).regions.any fun r => decide (r.1 ≠ slot) && meets off (4096 * n) r.2.off (4096 * r.2.chunks)) ||
  (s.me.chans.toList.any fun ch => ch.cmds.any fun k =>
    match k.op with
    | .cmap _ j o _ m => decide (j ≠ slot) && meets off (4096 * n) o (4096 * m)
    | _ => false)
/-- R316: a region map. -/
def mapOp (wb : Bool) (c : BitVec 2) (l o q n : BitVec 4) (s : State) : State :=
  let a := gVal s.me o
  let va := gVal s.me q
  let cnt := (gVal s.me n).toNat
  let off := match locOf s.turn.u a with | .own x => x | _ => 0
  let checks := ck (decide (cnt = 0) || decide (384 < cnt)) 0x0B 0 ++ alignCk a 4096 ++ alignCk va 4096 ++
    ck (!(bit a 63) || !(spanOk .own s.turn.u s.me a (4096 * cnt)) || s.mapMeets l.toNat off cnt) 0x04 a ++
    s.spanCk .glob va (4096 * cnt)
  copyCmd checks false c (.cmap wb l.toNat off va cnt) none none false s
/-- R316: `cmap.r`. -/
def execCmapR (c : BitVec 2) (l o q n : BitVec 4) (s : State) : Res := .next (mapOp false c l o q n s)
/-- R316: `cmap.w`. -/
def execCmapW (c : BitVec 2) (l o q n : BitVec 4) (s : State) : Res := .next (mapOp true c l o q n s)
/-- R317: `cwb`. -/
def execCwb (c : BitVec 2) (m : BitVec 16) (s : State) : Res := .next (copyCmd [] false c (.cwb m) none none false s)

/-- R318: word w of a remote window. -/
def Ctx.win (c : Ctx) (j w : Nat) : Word := vget c.rwin (3 * j + w) 0
/-- R319, R322: the checks of an offset and a length in a window. -/
def Ctx.winCk (c : Ctx) (j : Nat) (off n : Word) : Chk :=
  alignCk off 64 ++ alignCk n 64 ++
  ck (!(bit (c.win j 0) 63) || decide (bits (c.win j 2) 39 0 < off.toNat + n.toNat)) 0x04 off
/-- R319: `cput`. -/
def execCput (c : BitVec 2) (w : BitVec 3) (a o n b : BitVec 4) (x : BitVec 1) (s : State) : Res :=
  let k := s.me
  let j := w.toNat
  let len := (gVal k n).toNat
  let wa := k.win j 0
  let checks := (if x = 0 then rsvCk b else []) ++ k.winCk j (gVal k o) (gVal k n) ++
    ck (decide (bits wa 7 0 = 0) || (bit wa 62 && decide (x = 1))) 0x04 (gVal k o) ++ s.spanCk .loc (gVal k a) len
  .next (copyCmd checks false c (.cput j wa (k.win j 1) (gVal k o).toNat (gVal k a) len
    (if x = 1 then some ((gVal k b).setWidth 21) else none)) none none (len = 0) s)
/-- R319: `cget`. -/
def execCget (c : BitVec 2) (w : BitVec 3) (a o n b : BitVec 4) (x : BitVec 1) (s : State) : Res :=
  let k := s.me
  let j := w.toNat
  let len := (gVal k n).toNat
  let wa := k.win j 0
  let checks := s.bbCk x b len ++ k.winCk j (gVal k o) (gVal k n) ++ ck (decide (bits wa 7 0 = 0)) 0x04 (gVal k o) ++
    s.spanCk .loc (gVal k a) len
  .next (copyCmd checks false c (.cget j wa (k.win j 1) (gVal k o).toNat (gVal k a) len) (s.bbOf x b) none (len = 0) s)
/-- R321: `cbcast`. -/
def execCbcast (c : BitVec 2) (d sr n b : BitVec 4) (x : BitVec 1) (s : State) : Res :=
  let dst := gVal s.me d
  let src := gVal s.me sr
  let len := (gVal s.me n).toNat
  let checks := s.bbCk x b len ++ ck (decide (len % 64 ≠ 0) || decide (len = 0) || decide (65536 < len)) 0x0B 0 ++
    ck (decide (s.me.group = 0)) 0x04 0 ++ s.spanCk .own src len ++ s.spanCk .glob dst len
  .next (copyCmd checks false c (.cbcast dst src len (s.bbOf x b)) none none false s)
/-- R440: offset of a direct port's block. -/
def portBlock (p : Nat) : Nat := 0x3000000 + 0x1000 * p
/-- R440: PEER of a port. -/
def State.peer (s : State) (p : Nat) : Nat := bits (s.reg (portBlock p)) 52 48
/-- R322: `csend.t`. -/
def execCsendT (c : BitVec 2) (w : BitVec 3) (a o n t p : BitVec 4) (s : State) : Res :=
  let k := s.me
  let j := w.toNat
  let len := (gVal k n).toNat
  let wa := k.win j 0
  let gt := gVal k t
  let checks := k.winCk j (gVal k o) (gVal k n) ++ ck (decide (bits wa 58 54 ≠ s.peer p.toNat)) 0x04 (gVal k o) ++
    s.spanCk .own (gVal k a) len ++ ck (decide (gt.toNat ≤ s.datumNs.toNat)) 0x15 (gVal k o)
  .next (copyCmd checks false c (.csendt p wa (k.win j 1) (gVal k o).toNat (gVal k a) len gt) none none (len = 0) s)
/-- R324: `tready`. -/
def execTready (c : BitVec 2) (e : BitVec 4) (s : State) : Res :=
  let n := (gVal s.me e).toNat
  .next (copyCmd (ck (decide (1024 ≤ n)) 0x0B 0) false c (.tready n) none none false s)
/-- R326: an update of a byte barrier. -/
def bbOp (c : BitVec 2) (b v : BitVec 4) (op : Word → Nat → COp) (s : State) : State :=
  let n := (gVal s.me v).toNat
  copyCmd (s.bbCk 1 b 8 ++ ck (decide (n = 0) || decide (2 ^ 27 ≤ n)) 0x0B 0) false c (op (gVal s.me b) n) none none false s
/-- R326: `cbbarm`. -/
def execCbbarm (c : BitVec 2) (b v : BitVec 4) (s : State) : Res := .next (bbOp c b v .cbbarm s)
/-- R326: `cbbadd`. -/
def execCbbadd (c : BitVec 2) (b v : BitVec 4) (s : State) : Res := .next (bbOp c b v .cbbadd s)
/-- R327: `cbbwait`. -/
def execCbbwait (c : BitVec 2) (b : BitVec 4) (p : BitVec 1) (s : State) : Res :=
  .next (copyCmd (s.bbCk 1 b 8) false c (.cbbwait (gVal s.me b) (decide (p = 1))) none none false s)
/-- R309: `rcfence`. -/
def execRcfence (s : State) : Res := .next (advance (s.atEnd .dropRecords))

end Sys2Proof.Machine
end

