-- ==== Sys2Proof/Machine/Ports.lean ====
section
/-! DEFINITION. What a direct port offers the channels (R319, R427, R432, R433, R435): its level, its slot map, and the sending
of open requests. -/
namespace Sys2Proof.Machine

/-- R400: CFGST.SIGBAD: only the register space and the management port answer. -/
def State.imageBad (s : State) : Bool := bit (s.reg 8) 62
/-- R440: PCTL.EN and PSTAT.STATE up. -/
def State.portUp (s : State) (p : Nat) : Bool :=
  bit (s.reg (portBlock p)) 63 && decide (bits (s.reg (portBlock p + 8)) 63 62 = 1)
/-- R427, R437: the port whose peer is package `pkg`. -/
def State.portFor (s : State) (pkg : Nat) : Option Nat :=
  (List.range 16).find? fun p => bit (s.reg (portBlock p)) 63 && decide (s.peer p = pkg)
/-- Table 18.2: payload bytes of a slot by level. -/
def slotCap (lv : Nat) : Nat := match lv with | 0 => 6720 | 1 => 3360 | 2 => 1568 | _ => 0
/-- R440: the transmit level of a port. -/
def State.txLevel (s : State) (p : Nat) : Nat := bits (s.reg (portBlock p + 8)) 61 60
/-- R432: whether the slot that starts at datum `t` is scheduled; a write of the map takes effect at a later frame. -/
def State.scheduled (s : State) (p t : Nat) : Bool :=
  let i := t / 8 % 1024
  let w := match (s.port p).mapOld.find? fun m => decide (m.2.1 = i / 64) && decide (t < m.1) with
    | some m => m.2.2
    | none => s.reg (portBlock p + 0x80 + 8 * (i / 64))
  bit w (i % 64)
/-- R433: the first `need` scheduled slots from the one that starts at 8t on; the list is shorter where `fuel` runs out. -/
def State.slotsFrom (s : State) (p : Nat) : Nat → Nat → Nat → List Nat
  | 0, _, _ => []
  | fuel + 1, t, need =>
    if need = 0 then []
    else if s.scheduled p (8 * t) then 8 * t :: s.slotsFrom p fuel (t + 1) (need - 1)
    else s.slotsFrom p fuel (t + 1) need
/-- R433, R434, R450: whether both ends of a port are LOCKED. -/
def State.locked (s : State) (p : Nat) : Bool :=
  decide (bits (s.reg 0x3020008) 63 62 = 2) && bit (s.reg (portBlock p + 8)) 57
/-- R433: the slots that a `csend.t` of `len` bytes claims for datum gt, or none when it is a copy fault 0x15. -/
def State.claimSlots (s : State) (p gt len : Nat) : Option (List Nat) :=
  let cap := slotCap (s.txLevel p)
  if cap = 0 ∨ s.locked p = false ∨ s.portUp p = false then none
  else
    let need := (len + cap - 1) / cap
    let l := s.slotsFrom p (1024 * (need + 1)) ((gt + 7) / 8) need
    if l.length < need ∨ (l.any fun t => (s.port p).claims.any fun c => c.start = t) then none else some l

/-- R318: position of this package in the group. -/
def State.pos (s : State) : Nat := bits (s.reg 0x3010000) 52 48
/-- R318, R319: OUT of a window changes. -/
def Ctx.setOut (c : Ctx) (win : Nat) (f : Nat → Nat) : Ctx :=
  { c with rwin := vset c.rwin (3 * win) (setBits (c.win win 0) 23 16 (f (bits (c.win win 0) 23 16))) }
/-- R435: outstanding chunks towards a port's peer. -/
def State.portOut (s : State) (p : Nat) : Nat := (s.remote.filter fun r => r.port = p).length
/-- R435: PDEPTH. -/
def State.pdepth (s : State) (p : Nat) : Nat := bits (s.reg (portBlock p + 8)) 37 32
/-- R435: a ring slot of the peer that no outstanding chunk uses. -/
def State.freeSlot (s : State) (p : Nat) : Nat :=
  ((List.range 64).find? fun i => !(s.remote.any fun r => decide (r.port = p) && decide (r.slot = i))).getD 0
/-- R318, R319: the base of a window. -/
def winBase (wb : Word) : Nat := bits wb 56 6 * 64

/-- R429, R430: a port stops in both directions. -/
def portStop (s : State) (p : Nat) : State :=
  s.setReg (portBlock p + 8) (setBits (s.reg (portBlock p + 8)) 63 62 3)
/-- R392: the event record of a link: type 7, UNIT 6, in the queue of CD0. -/
def State.linkEvent (s : State) (cause : Nat) (info : Word) : State := s.post 0 [evWord0 7 cause 6 0x3FFF, 0, 0, info]
/-- R429: the end of a key epoch of port p: the next key is taken, or the port stops and event 0x16 names it. -/
def State.portEpochEnd (s : State) (p : Nat) : State :=
  let o := portBlock p + 0x18
  let w := s.reg o
  if bit w 63 then s.setReg o (BitVec.ofNat 64 ((bits w 55 40 + 1) % 2 ^ 16 * 2 ^ 40))
  else (portStop (s.setPort p { s.port p with noKey := true }) p).linkEvent 0x16 (BitVec.ofNat 64 p)
/-- R429: n flits leave a port, idle ones among them: CTR rises by n; a warning is posted when the epoch nears its end. -/
def State.countFlits (s : State) (p n : Nat) : State :=
  let o := portBlock p + 0x18
  let c := bits (s.reg o) 39 0
  let c' := c + n
  let s := if c < 2 ^ 40 - 2 ^ 32 ∧ 2 ^ 40 - 2 ^ 32 ≤ c' then s.linkEvent 0 (BitVec.ofNat 64 p) else s
  if c' < 2 ^ 40 then s.setReg o (setBits (s.reg o) 39 0 c')
  else
    let s := s.portEpochEnd p
    s.setReg o (setBits (s.reg o) 39 0 (if (s.port p).noKey then 2 ^ 40 - 1 else c' - 2 ^ 40))
/-- R429: how many of n flits the key epoch still allows: all of them where a next key is installed. -/
def State.flitsLeft (s : State) (p n : Nat) : Nat :=
  let w := s.reg (portBlock p + 0x18)
  if bit w 63 then n else min n (2 ^ 40 - bits w 39 0)

/-- R437: flits take their place in the order of precedence; a message that has begun to leave is not interrupted (log 72). -/
def putMsg (m : TxMsg) : List TxMsg → List TxMsg
  | [] => [m]
  | x :: l => if m.cls < x.cls ∧ x.left = x.n then m :: x :: l else x :: putMsg m l
/-- R437: n flits of a class wait to leave port p: 1 link control, 2 answers, 3 privileged flits, 4 ordinary ones. -/
def State.sendMsg (s : State) (p cls n : Nat) (b : FlitBody) : State :=
  s.setPort p { s.port p with txq := putMsg ⟨cls, n, n, 0, none, b⟩ (s.port p).txq }
/-- R428: the ACK that leaves port p: the LSEQ of the last flit received intact. -/
def Port.ack (x : Port) : Nat := (x.lseqRx + 2 ^ 24 - 1) % 2 ^ 24
/-- R320, R435: the request of a chunk leaves, from when its time-out counts. -/
def State.sentRequest (s : State) (p : Nat) (b : FlitBody) : State :=
  match b with
  | .request r => { s with remote := s.remote.map fun x => if x.port = p ∧ x.seq = r.seq.toNat then { x with since := s.now } else x }
  | _ => s
/-- R428, R438: a message leaves port p under its LSEQ and is kept until it is acknowledged. -/
def State.sendFlits (s : State) (p : Nat) (m : TxMsg) : State :=
  let x := s.port p
  let l := m.lseq.getD x.lseqTx
  ((s.setPort p { x with
      lseqTx := if m.lseq.isSome then x.lseqTx else (l + m.n) % 2 ^ 24, ackTx := x.ack
      buf := x.buf ++ [{ m with left := 0, lseq := some l }] }).sentRequest p m.body).emit (.flits p l x.ack m.body)
/-- R432, R437, R438: open flits leave in an open slot that has n flit times left; scheduled ones never do. -/
def State.serveOpen (p : Nat) : Nat → Nat → State → Nat × State
  | 0, n, s => (n, s)
  | fuel + 1, n, s =>
    let x := s.port p
    match x.txq.find? fun m => decide (m.cmd = 0) with
    | none => (n, s)
    | some m =>
      if m.left ≤ n then
        State.serveOpen p fuel (n - m.left) ((s.setPort p { x with txq := x.txq.erase m }).sendFlits p m)
      else (0, s.setPort p { x with txq := x.txq.map fun y => if y = m then { y with left := y.left - n } else y })
/-- Table 18.2: flits of a slot by level. -/
def slotFlits (lv : Nat) : Nat := match lv with | 0 => 30 | 1 => 15 | 2 => 7 | _ => 0
/-- R428: an idle flit carries the ACK where no other flit has, and takes no LSEQ (log 72). -/
def State.sendIdle (s : State) (p : Nat) : State :=
  let x := s.port p
  if x.ack = x.ackTx then s else (s.setPort p { x with ackTx := x.ack }).emit (.flits p x.lseqTx x.ack .idle)
/-- R418, R428, R429, R432: a slot of port p begins, where the links do not wait for their event queue (log 59): its flits are counted, idle ones among them (log 50), and an open slot takes open flits.
Scheduled data leave by an event of their own. -/
def State.slotBegins (s : State) (p : Nat) : State :=
  if s.portUp p = false ∨ s.unitWaits 0 7 then s
  else
    let t := s.datumNs.toNat / 8 * 8
    let x := s.port p
    let s := s.setPort p { x with claims := x.claims.filter fun c => !c.gone || decide (t ≤ c.start) }
    let n := s.flitsLeft p (slotFlits (s.txLevel p))
    let s := if s.scheduled p t then s else
      (let r := s.serveOpen p (x.txq.length + 1) n
       if r.1 = 0 then r.2 else r.2.sendIdle p)
    s.countFlits p n

/-- R436, Table 18.5: the open data of a chunk: a flit for three lines, each with its flag word. -/
def chunkFlits (seq : BitVec 32) (slot : BitVec 6) (data : List Byte) : List FlitBody :=
  let lines := (List.range ((data.length + 63) / 64)).map fun i => (⟨seq, BitVec.ofNat 6 i, slot, (data.drop (64 * i)).take 64⟩ : OpenLine)
  (List.range ((lines.length + 2) / 3)).map fun i => .data ((lines.drop (3 * i)).take 3)

/-- R319, R435, R436: an open request with its data is to leave by port p and is outstanding from then on; nothing leaves while
the launch is replayed (R396). -/
def State.sendChunk (s : State) (p : Nat) (o : RemOut) (kind : Nat) (wa wb : Word) (off len : Nat) (bb : Option (BitVec 21))
    (data : List Byte) : State :=
  let x := s.port p
  let a := BitVec.ofNat 64 (winBase wb + off)
  let o := { o with port := p, seq := x.seqTx, slot := s.freeSlot p, addr := a, since := s.now }
  let r : OpenReq := ⟨BitVec.ofNat 2 kind, BitVec.ofNat 16 (bits wa 39 24), BitVec.ofNat 1 (bits wa 62 62),
    BitVec.ofNat 9 (bits wa 53 45), a, BitVec.ofNat 13 len, bb.isSome, bb.getD 0, BitVec.ofNat 32 x.seqTx, BitVec.ofNat 6 o.slot,
    o.u, BitVec.ofNat 2 o.ch, 0, none, decide (kind = 0) && data.isEmpty⟩
  let s' := { s.setPort p { x with seqTx := (x.seqTx + 1) % 2 ^ 32 } with remote := s.remote ++ [o] }
  if s.isReplay o.u then s'
  else (chunkFlits r.seq r.slot data).foldl (fun s b => s.sendMsg p 4 1 b) (s'.sendMsg p 4 1 (.request r))
/-- The remote chunks whose commands still wait for their answers (R319, R320). -/
def State.awaited (s : State) : List RemOut := s.remote.filter fun r => !r.late

end Sys2Proof.Machine
end

