-- ==== Sys2Proof/Machine/Channel.lean ====
section
/-! DEFINITION. The copy channels (R121, R299 to R327): chunks, commits, byte barriers (R277 to R279), copy faults, region maps
and the firing of collective tiles. -/
namespace Sys2Proof.Machine

/-- R302: bytes of a command's stream; a shape record that has not been read counts as none. -/
def tensorCount (r : BitVec 1536) (d : Nat) : Nat := r.toNat / 2 ^ (192 * d + 192) % 2 ^ 32
/-- R308: NDIM of a shape record. -/
def tensorDims (r : BitVec 1536) : Nat := r.toNat / 2 ^ 131 % 8
/-- R308: bytes of an element of a shape record. -/
def tensorEsz (r : BitVec 1536) : Nat := 2 ^ (r.toNat / 2 ^ 128 % 4)
/-- R307: bytes that a shape record moves. -/
def tensorBytes (r : BitVec 1536) : Nat :=
  (List.range (tensorDims r)).foldl (fun n d => n * tensorCount r d) (tensorEsz r)
/-- R308: a stride of a shape record. -/
def tensorStride (r : BitVec 1536) (dst : Bool) (d : Nat) : Word := r.extractLsb' (192 * d + (if dst then 320 else 256)) 64
/-- R307: the cause that a shape record is refused with. -/
def tensorBad (r : BitVec 1536) : Option Nat :=
  let f (hi lo : Nat) : Nat := r.toNat / 2 ^ lo % 2 ^ (hi + 1 - lo)
  let n := tensorDims r
  let z := tensorEsz r
  if f 1535 1152 ≠ 0 ∨ f 191 134 ≠ 0 ∨ f 130 130 ≠ 0 ∨ n = 0 ∨ 5 < n ∨ 2 ^ 32 ≤ tensorBytes r ∨
     ((List.range 5).any fun d => decide (f (192 * d + 255) (192 * d + 224) ≠ 0) ||
       (if d < n then decide (tensorCount r d = 0) else decide (f (192 * d + 383) (192 * d + 192) ≠ 0))) then some 0x0B
  else if f 63 0 % z ≠ 0 ∨ f 127 64 % z ≠ 0 ∨
     ((List.range n).any fun d => decide ((tensorStride r false d).toNat % z ≠ 0) || decide ((tensorStride r true d).toNat % z ≠ 0))
    then some 0x03
  else none
/-- R307: the addresses of element e. -/
def tensorElem (r : BitVec 1536) (e : Nat) : Word × Word :=
  let p := (List.range (tensorDims r)).foldl (fun (a : Word × Word × Nat) d =>
    let c := tensorCount r d
    let i := BitVec.ofNat 64 (a.2.2 % c)
    (a.1 + i * tensorStride r false d, a.2.1 + i * tensorStride r true d, a.2.2 / c))
    (r.extractLsb' 0 64, r.extractLsb' 64 64, e)
  (p.1, p.2.1)

/-- R301: bytes of a command's stream. -/
def CCmd.bytes (k : CCmd) : Nat :=
  match k.op with
  | .cpy _ _ n => n
  | .cpya _ _ n => n
  | .ctens _ r => match r with | some w => tensorBytes w | none => 1
  | .cgath _ _ _ _ n z => n * z
  | .cscl _ n b => if b then n else 2 * n
  | .cldlct _ _ => 1024
  | .cldalg _ _ => 128
  | .caw _ _ n y _ => segBytes y * n
  | .cver _ _ _ _ _ n => n
  | .cput _ _ _ _ _ n _ => n
  | .cget _ _ _ _ _ n => n
  | .cbcast _ _ n _ => n
  | .csendt _ _ _ _ _ n _ => n
  | _ => 1
/-- R121: chunks of a command. -/
def CCmd.chunks (k : CCmd) : Nat := (k.bytes + 4095) / 4096
/-- Bytes of chunk i. -/
def CCmd.chunkLen (k : CCmd) (i : Nat) : Nat := min 4096 (k.bytes - 4096 * i)
/-- R278, R301: whether an add of a committed chunk is still to come. -/
def CCmd.owes (k : CCmd) : Bool := k.bb.isSome && decide (k.added < k.done)
/-- R327: whether a command is a wait on a byte barrier. -/
def CCmd.isBbWait (k : CCmd) : Bool := match k.op with | .cbbwait _ _ => true | _ => false

/-- The commands in a context's channels. -/
def Ctx.allCmds (c : Ctx) : List CCmd := c.chans.toList.flatMap (·.cmds)
/-- Whether a command stands in a channel. -/
def Ctx.queues (c : Ctx) (id : Nat) : Bool := c.allCmds.any fun k => k.id = id
/-- A command of a context, in its channel or performed. -/
def Ctx.cmd (c : Ctx) (id : Nat) : Option CCmd := (c.allCmds ++ c.await).find? fun k => k.id = id
/-- Replaces a command, in its channel or among those that await completion. -/
def Ctx.putCmd (c : Ctx) (k : CCmd) : Ctx :=
  let x := vget c.chans k.ch ⟨[], 0⟩
  { c with chans := vset c.chans k.ch { x with cmds := x.cmds.map fun y => if y.id = k.id then k else y }
           await := c.await.map fun y => if y.id = k.id then k else y }
/-- Replaces a command of the context that holds it. -/
def State.putCmd (s : State) (u lid : Nat) (k : CCmd) : State := s.modCtxOf u lid (·.putCmd k)

/-- R303: a fault of a copy: the command stays, or stands again, at the head of its channel, and the cause goes to C. A race
reports its detail word (R285), every other cause the channel and the chunk (R366). -/
def State.copyFault (s : State) (u lid : Nat) (k : CCmd) (i code : Nat) (addr : Word) (info : Option Word) : State :=
  let c : CauseArgs := ⟨BitVec.ofNat 8 code, 0, k.pc, addr, info.getD (BitVec.ofNat 64 (k.ch * 2 ^ 62 + i % 2 ^ 32))⟩
  ((s.raceDone u lid .C c).modCtxOf u lid fun x =>
    let ch := vget x.chans k.ch ⟨[], 0⟩
    { x with
      await := x.await.filter fun y => y.id ≠ k.id
      chans := vset x.chans k.ch ⟨{ k with faulted := some c, held := none } :: ch.cmds.filter (fun y => y.id ≠ k.id), BitVec.ofNat 8 code⟩ }).deliverTo
    u lid .C c
/-- R303: when C resumes, a command whose fault has been raised is tried again. -/
def Ctx.resumeCopies (c : Ctx) : Ctx :=
  { c with chans := c.chans.map fun ch =>
      { ch with cmds := ch.cmds.map fun k =>
          match k.faulted with
          | some f => if f ∈ c.c.deliver then k else { k with faulted := none }
          | none => k } }

/-- The history of a command's chunks (R279): what a chunk wrote and what it read. -/
def chunkComp (id i : Nat) (wr : Bool) : Nat := compChunk (id * 2 ^ 22 + 2 * i + b2n (!wr))
/-- The chunk number under which the shape record of a command is read (R309). -/
def recordChunk : Nat := 2097151
/-- The accesses of a command (R266): those of its chunks and of its shape record. -/
def CCmd.accesses (k : CCmd) : Map Nat :=
  ((List.range (2 * max 1 (max k.next k.done))).map fun i => (compChunk (k.id * 2 ^ 22 + i), 1)) ++
  (match k.op with | .ctens _ _ => [(chunkComp k.id recordChunk false, 1)] | _ => [])
/-- R280: what a versioned copy acquires from the publication that released it. -/
def State.pubHist (s : State) (k : CCmd) : Map Nat :=
  match k.op with | .cver _ st b round _ _ => s.vc (keyPub st.toNat b.toNat round.toNat) | _ => []
/-- R280, R302: a performed command becomes complete: it orders under R106. -/
def State.completeCopy (s : State) (u lid : Nat) (k : CCmd) : State :=
  (s.endAwait u lid k).joinVc (keyPend (compOf lid u .C)) (vcJoin (s.pubHist k) k.accesses)
/-- R302: a command is performed and leaves its channel; it is complete at once, or awaits its completion. -/
def State.performCopy (s : State) (u lid : Nat) (k : CCmd) (waits : Bool) : State :=
  let s := s.modCtxOf u lid fun c =>
    let x := vget c.chans k.ch ⟨[], 0⟩
    { c with chans := vset c.chans k.ch { x with cmds := x.cmds.filter fun y => y.id ≠ k.id },
             await := if waits then c.await ++ [k] else c.await }
  if waits then s else s.completeCopy u lid k
/-- R302, R313: a chunk has been committed; the last one performs the command, and C issues a bound follow-on on the next cycle; an add
that is still to come keeps it from being complete. A chunk commits behind the cycle's other accesses, when the clock already counts the
next one. -/
def State.finishChunk (s : State) (u lid : Nat) (k : CCmd) : State :=
  if k.done < k.chunks then s.putCmd u lid k
  else s.performCopy u lid { k with t0 := (s.ctxOf u lid).clk } (k.slot.isSome || k.owes)

/-- Where an address of a local span lies: the unit and the scratchpad offset. -/
def placeOf (u : Nat) (a : Word) : Nat × Nat :=
  match locOf u a with
  | .own o => (u, o)
  | .win j o => (coreAt (clusterOf u) j, o)
  | _ => (u, 0)
/-- The parts of a global range that one page each may hold (R233). -/
def pageParts (va n : Nat) : List (Nat × Nat) :=
  let m := 65536 - va % 65536
  if n ≤ m then [(va, n)] else [(va, m), (va + m, n - m)]
/-- R237: the physical address of a global one that translates. -/
def State.physOf (s : State) (u : Nat) (asid : BitVec 16) (va : Nat) : Nat :=
  match s.xlate u asid va 1 with | .ok pa _ => pa | _ => 0

/-- R266: a command of core u as the party of its accesses. -/
def CCmd.toucher (k : CCmd) (u lid : Nat) : Toucher := ⟨u, .C, lid, k.pc, k.hb⟩
/-- What the admission of a chunk's addresses comes to. -/
inductive Adm where
  | ok
  | wait
  | walk
  | fault (code : Nat) (a : Word)
  deriving DecidableEq, Repr
/-- R241, R249, R254, R256, R300, R301: whether a chunk may access n bytes at an address, `wr` to write them; `wait` where its channel is
not ready, `walk` where the chunk has started and its page is being translated. -/
def State.admOne (s : State) (u : Nat) (k : CCmd) (wr : Bool) (a : Word) (n : Nat) : Adm × State :=
  let c := s.ctx u
  if bit a 63 then
    if localSpan u c a n = false then (.fault 0x04 a, s)
    else
      let p := placeOf u a
      let offs := [p.2, p.2 + n - 1]
      if wr ∧ (s.core p.1).storeOk offs = false then (.fault 0x04 a, s)
      else
        let r := s.touchBy (k.toucher u c.lid) p.1 offs
        if r.1 then (.ok, s) else (.wait, r.2)
  else
    (pageParts a.toNat n).foldl (fun (acc : Adm × State) q =>
      match acc.1 with
      | .ok =>
        let s := acc.2
        match s.xlate u c.asid q.1 1 with
        | .ok _ r =>
          if (if wr then respW r else respR r) = false then (.fault 0x04 (BitVec.ofNat 64 q.1), s)
          else if !wr && (s.core u).logCovers c.asid q.1 q.2 then (.wait, s)
          else (.ok, s)
        | .miss => (.walk, s.awaitPage u .C c.lid c.asid q.1 6 k.ch k.pc)
        | .stall => (.wait, s)
        | .deny => (.fault 0x04 (BitVec.ofNat 64 q.1), s)
      | _ => acc) (.ok, s)
/-- R301: the admission of every address of a chunk, in order. -/
def State.admAll (s : State) (u : Nat) (k : CCmd) (l : List (Bool × Word × Nat)) : Adm × State :=
  l.foldl (fun (acc : Adm × State) p => match acc.1 with | .ok => acc.2.admOne u k p.1 p.2.1 p.2.2 | _ => acc) (.ok, s)

/-- Line keys of n bytes from offset a of a space. -/
def lineSpan (base a n : Nat) : List Nat :=
  (List.range ((a + n - 1) / 64 - a / 64 + 1)).map fun i => base + a / 64 + i
/-- The access identity of chunk i of a command (R266, R282). -/
def CCmd.acc (k : CCmd) (u lid : Nat) (i : Nat) (wr : Bool) : Acc :=
  ⟨u, .C, 3, lid, k.hb.vc, k.hb.phase, some (chunkComp k.id i wr), u⟩
/-- R282, R284: an access of a copy to n scratchpad bytes of a unit, or the race it completes. -/
def State.copyLocal (s : State) (acc : Acc) (k : CCmd) (wr : Bool) (tgt off n : Nat) (a : Word) : Option CauseArgs × State :=
  match s.access acc (b2n wr) false (lineSpan (spadKeyBase tgt) off n) with
  | (some (l, d), _) => (some (raceCause k.pc (a.toNat / 64 * 64 + 64 * (l - (spadKeyBase tgt + off / 64))) d), s)
  | (none, s') => (none, s')
/-- R282, R284, R288, R289: the reads of a chunk, or the race that one of them completes, which leaves every stamp as it was. -/
def State.readRaces (s : State) (u : Nat) (k : CCmd) (i : Nat) (l : List (Word × Nat)) : Option CauseArgs × State :=
  let c := s.ctx u
  let acc := k.acc u c.lid i false
  let r := l.foldl (fun (r : Option CauseArgs × State) p =>
    match r.1 with
    | some _ => r
    | none =>
      let s := r.2
      if bit p.1 63 then
        let q := placeOf u p.1
        s.copyLocal acc k false q.1 q.2 p.2 p.1
      else s.globalAll acc 0 k.pc c.asid ((pageParts p.1.toNat p.2).filterMap fun q =>
        match s.xlate u c.asid q.1 1 with
        | .ok pa w => some (q.1, q.2, pa, w)
        | _ => none)) (none, s)
  match r.1 with
  | some c => (some c, { s with free := r.2.free })
  | none => r
/-- R268, R301, R390: the bytes of a range as they stand, and whether one of them is poisoned. -/
def State.copyBytes (s : State) (u : Nat) (a : Word) (n : Nat) : List Byte × Bool :=
  if bit a 63 then
    let p := placeOf u a
    ((s.core p.1).spad.rdN p.2 n, s.spadPoison p.1 ((List.range n).map (p.2 + ·)))
  else
    let q := (pageParts a.toNat n).map fun q => (s.physOf u (s.ctx u).asid q.1, q.2)
    (q.flatMap fun q => s.mem.rdN q.1 q.2, q.any fun q => s.physPoison q.1 q.2)
/-- The bytes of ranges, one after the other. -/
def State.gather (s : State) (u : Nat) (l : List (Word × Nat)) : List Byte × Bool :=
  let r := l.map fun p => s.copyBytes u p.1 p.2
  (r.flatMap (·.1), r.any (·.2))

/-- Log 21: the cell of a destination byte: a physical address, or 2^60 + 2^21 times the unit + the scratchpad offset. -/
def cellOfSpad (u off : Nat) : Nat := 2 ^ 60 + u * 2 ^ 21 + off
/-- Log 21: whether a cell is a scratchpad byte. -/
def inSpad (cell : Nat) : Bool := decide (2 ^ 60 ≤ cell) && decide (cell < 2 ^ 61)
/-- The pieces of a destination range: address, first cell, length. -/
def State.cellsOf (s : State) (u : Nat) (a : Word) (n : Nat) : List (Word × Nat × Nat) :=
  if bit a 63 then
    let p := placeOf u a
    [(a, cellOfSpad p.1 p.2, n)]
  else (pageParts a.toNat n).map fun q => (BitVec.ofNat 64 q.1, s.physOf u (s.ctx u).asid q.1, q.2)
/-- The cells of ranges, byte by byte. -/
def State.cellList (s : State) (u : Nat) (l : List (Word × Nat)) : List Nat :=
  (l.flatMap fun p => s.cellsOf u p.1 p.2).flatMap fun p => (List.range p.2.2).map (p.2.1 + ·)
/-- The byte that the chunks in transfer of a command bring to a cell, the latest one's, and whether it is poisoned. -/
def flightByte (fl : List Flight) (cell : Nat) : Option (Byte × Bool) :=
  fl.reverse.findSome? fun f => f.pieces.reverse.findSome? fun p =>
    if p.2.1 ≤ cell ∧ cell < p.2.1 + p.2.2.length then some (p.2.2.getD (cell - p.2.1) 0, f.bad) else none
/-- R305: bytes read from `cells`, as the earlier chunks of the command leave them that are still in transfer (log 21). -/
def overFlights (fl : List Flight) (cells : List Nat) (r : List Byte × Bool) : List Byte × Bool :=
  let new := cells.map (flightByte fl)
  if new.all (·.isNone) then r
  else ((r.1.zip new).map fun p => match p.2 with | some b => b.1 | none => p.1,
        r.2 || new.any fun b => match b with | some b => b.2 | none => false)
/-- R301, R305: the bytes of ranges as a chunk of a command reads them. -/
def State.gatherFor (s : State) (u : Nat) (k : CCmd) (l : List (Word × Nat)) : List Byte × Bool :=
  if k.flights.isEmpty then s.gather u l else overFlights k.flights (s.cellList u l) (s.gather u l)
/-- Gives each piece its bytes. -/
def dealBytes : List (Word × Nat × Nat) → List Byte → List (Word × Nat × List Byte)
  | [], _ => []
  | p :: r, b => (p.1, p.2.1, b.take p.2.2) :: dealBytes r (b.drop p.2.2)

/-- What a channel makes of a turn (R121): it was not ready, or it took the turn. -/
inductive TurnRes where
  | pass (s : State)
  | took (s : State)

/-- R121, R301: a chunk whose admission is not settled: its channel was not ready, or it has started and translates. -/
def State.notYet (s : State) (u lid : Nat) (k : CCmd) (a : Adm) : TurnRes :=
  if a = .walk then .took (s.putCmd u lid { k with begun := true }) else .pass s
/-- R301: the next chunk of a data command starts: every page translates, the source is read, and the chunk is in transfer until it
commits. `judge` stamps the reads, `data` gives the bytes that go to `dsts`. -/
def State.startJudged (s : State) (u : Nat) (k : CCmd) (reads dsts : List (Word × Nat)) (judge : State → Option CauseArgs × State)
    (data : State → List Byte × Bool) : TurnRes :=
  let lid := (s.ctx u).lid
  let i := k.next
  match s.admAll u k (reads.map (fun p => (false, p.1, p.2)) ++ dsts.map fun p => (true, p.1, p.2)) with
  | (.fault c a, s') => .took (s'.copyFault u lid k i c a none)
  | (.ok, s') =>
    match judge s' with
    | (some c, s'') => .took (s''.copyFault u lid k i c.code.toNat c.addr (some c.info))
    | (none, s'') =>
      let b := data s''
      let cells := dsts.flatMap fun p => s''.cellsOf u p.1 p.2
      .took ((s''.tickFree).putCmd u lid
        { k with next := i + 1, flights := k.flights ++ [⟨some (s.now + 1 + s''.delayFor u lid .C (k.pc.toNat + i) 1), dealBytes cells b.1, b.2⟩], held := none, begun := false })
  | (x, s') => s'.notYet u lid k x
/-- R301: as startJudged, for a chunk whose reads are those that it names. -/
def State.startMove (s : State) (u : Nat) (k : CCmd) (reads dsts : List (Word × Nat)) (data : State → List Byte × Bool) : TurnRes :=
  s.startJudged u k reads dsts (fun s => s.readRaces u k k.next reads) data

/-- R277, R278: the indivisible add of n bytes to a byte barrier, `h` being the access that brought them with what happens before it;
none when it is refused. -/
def State.bbAdd (s : State) (tgt off n : Nat) (h : Map Nat) : Option State :=
  let w := leNat ((s.core tgt).spad.rdN off 8)
  let arrived := w % 2 ^ 27
  let expect := w / 2 ^ 32 % 2 ^ 27
  let rsv := w / 2 ^ 27 % 32 + w / 2 ^ 59 % 16
  if rsv ≠ 0 ∨ expect = 0 ∨ expect < arrived + n then none
  else
    let flip := decide (arrived + n = expect)
    let w' := if flip then expect * 2 ^ 32 + (1 - w / 2 ^ 63) * 2 ^ 63 else w + n
    some ((s.spadWrite tgt (atAddr off (natLe 8 w'))).bbCount tgt off h flip)
/-- R279, R281: the write of chunk i of a command with what happens before it. -/
def CCmd.chunkHist (k : CCmd) (i : Nat) : Map Nat := vcJoin k.hb.vc [(chunkComp k.id i true, 1)]
/-- R249: whether the side log of a core holds no logged store of a launch, so that a byte barrier may be added to. -/
def Core.logDry (k : Core) (lid : Nat) : Bool := !(k.slog.any fun e => e.logged && decide (e.lid = lid))
/-- R277: PH of a byte barrier. -/
def State.bbPh (s : State) (tgt off : Nat) : Bool := decide (leNat ((s.core tgt).spad.rdN off 8) / 2 ^ 63 = 1)

/-- R249, R278, R301 to R303: the next add of a command follows its chunk's commit and the adds before it, once the side log has drained
and the barrier's chunk is filled; a refused add is a copy fault. The last one completes a performed command that carries no follow-on. -/
def State.addStep (s : State) (u lid id : Nat) : State :=
  match (s.ctxOf u lid).cmd id with
  | none => s
  | some k => match k.bb with
    | none => s
    | some a =>
      let p := placeOf u a
      if ¬ k.owes ∨ k.faulted.isSome ∨ (s.core u).logDry lid = false then s
      else
        let t := s.touchBy (k.toucher u lid) p.1 [p.2]
        if t.1 = false then t.2
        else match t.2.bbAdd p.1 p.2 (k.chunkLen k.added) (k.chunkHist k.added) with
          | none => t.2.copyFault u lid k k.added 0x08 a none
          | some s' =>
            let k' := { k with added := k.added + 1 }
            if k'.done < k'.chunks ∨ k'.owes then s'.putCmd u lid k'
            else if (s'.ctxOf u lid).queues id then s'.performCopy u lid k' k'.slot.isSome
            else if k'.slot.isSome then s'.putCmd u lid k'
            else s'.completeCopy u lid k'

/-- R282, R284: the writes of a chunk, or the race that one of them completes. -/
def State.writeRaces (s : State) (u lid : Nat) (k : CCmd) (l : List (Word × Nat × List Byte)) : Option CauseArgs × State :=
  let acc := k.acc u lid k.done true
  l.foldl (fun (r : Option CauseArgs × State) p =>
    match r.1 with
    | some _ => r
    | none =>
      let n := p.2.2.length
      if inSpad p.2.1 then
        r.2.copyLocal acc k true ((p.2.1 - 2 ^ 60) / 2 ^ 21) (p.2.1 % 2 ^ 21) n p.1
      else r.2.globalRace acc 1 k.pc (s.ctxOf u lid).asid p.1.toNat p.2.1 n 0x0600000000000000) (none, s)
/-- R267, R390: the bytes of a chunk are written, with their poison. -/
def State.writePiece (s : State) (bad : Bool) (cell : Nat) (b : List Byte) : State :=
  if inSpad cell then
    let t := (cell - 2 ^ 60) / 2 ^ 21
    let o := cell % 2 ^ 21
    let s := s.spadWrite t (atAddr o b)
    if bad then
      { s with misc := { s.misc with poisonSpad := (s.misc.poisonSpad ++ (List.range b.length).map fun i => (t, (o + i) / 64)).eraseDups } }
    else s
  else
    let s := s.physWrite (atAddr cell b)
    if bad then s.physTaint ((List.range b.length).map (cell + ·)) else s
/-- R312: the table that a loaded image replaces; none where it is refused (R190). -/
def Ctx.putTable (c : Ctx) (op : COp) (b : List Byte) : Option Ctx :=
  match op with
  | .cldlct n _ => some { c with lct := vset c.lct n (BitVec.ofNat 8192 (leNat b)) }
  | .cldalg n _ =>
    let img := BitVec.ofNat 1024 (leNat b)
    if algOk img then some { c with alg := vset c.alg n img } else none
  | _ => some c
/-- R301 to R303, R312: the oldest chunk in transfer of a command commits. One that races ends with those behind it, and is tried again in
full. -/
def State.commitChunk (s : State) (u lid : Nat) (k : CCmd) (f : Flight) : State :=
  let k1 := { k with flights := k.flights.drop 1 }
  match k.op with
  | .cscl _ _ _ => s
  | .cldlct _ a | .cldalg _ a =>
    match (s.ctxOf u lid).putTable k.op (f.pieces.flatMap (·.2.2)) with
    | some c => (s.modCtxOf u lid fun _ => c).performCopy u lid { k1 with done := 1 } false
    | none => s.copyFault u lid { k1 with next := 0 } 0 0x01 a none
  | _ =>
    match s.writeRaces u lid k f.pieces with
    | (some c, _) => s.copyFault u lid (match k.op with
        | .cget _ _ _ _ _ _ => { k with redo := k.redo ++ [k.done], flights := { f with at_ := none } :: k1.flights }
        | _ => { k1 with next := k.done, flights := [] }) k.done c.code.toNat c.addr (some c.info)
    | (none, s') =>
      ((f.pieces.foldl (fun s p => s.writePiece f.bad p.2.1 p.2.2) s').finishChunk u lid { k1 with done := k.done + 1 }).addStep u lid k.id
/-- R301: whether a chunk in transfer has reached its commit. -/
def Flight.due (f : Flight) (now : Nat) : Bool := match f.at_ with | some t => decide (t ≤ now) | none => false
/-- The head command of a channel of the context that holds a launch. -/
def State.headCmd (s : State) (u lid ch : Nat) : Option CCmd := (vget (s.ctxOf u lid).chans ch ⟨[], 0⟩).cmds.head?
/-- R301: the oldest chunk in transfer of a channel's head command commits, where its cycle has come. -/
def State.commitHead (s : State) (u lid ch : Nat) : State :=
  match s.headCmd u lid ch with
  | some k => (match k.flights with
    | f :: _ => if f.due s.now then s.commitChunk u lid k f else s
    | [] => s)
  | none => s

/-- R112: whether every scale load that C issued before a command has entered all its entries. -/
def Ctx.scaleTurn (c : Ctx) (k : CCmd) : Bool := c.allCmds.all fun y => !y.isScale || decide (k.id ≤ y.id)
/-- R112, R311: SCALE_ENTRY_ENTER: the next entry of a scale load enters the queue. DESIGN CHOICE (log 85): once the bytes have come one
entry enters on each real cycle. -/
def execScaleEntryEnter (u ch : Nat) (s : State) : Res :=
  .next <| (s.core u).lids.foldl (fun s lid =>
    let c := s.ctxOf u lid
    match (vget c.chans ch ⟨[], 0⟩).cmds with
    | k :: _ => match k.op, k.flights with
      | .cscl _ cnt one, f :: _ =>
        if f.due s.now ∧ c.sq.length < 64 ∧ c.scaleTurn k ∧ k.done < cnt then
          let b := f.pieces.flatMap (·.2.2)
          let v := leNat (if one then (b.drop k.done).take 1 else (b.drop (2 * k.done)).take 2)
          let k' := { k with done := k.done + 1 }
          let s := s.modCtxOf u lid fun c => { c with sq := c.sq ++ [(BitVec.ofNat 16 v, s.now)] }
          if k'.done = cnt then s.performCopy u lid { k' with done := 1 } false else s.putCmd u lid k'
        else s
      | _, _ => s
    | [] => s) s

/-- R310: the indices of elements i to i + n of a list in the own scratchpad. -/
def State.indices (s : State) (u : Nat) (idx : Word) (i n : Nat) : List Nat :=
  (List.range n).map fun j => leNat ((s.core u).spad.rdN ((placeOf u idx).2 + 4 * (i + j)) 4)
/-- R300, R307, R310: whether n bytes at an address lie in the region that holds the base. -/
def sameRegion (u : Nat) (base a : Word) (n : Nat) : Bool :=
  if bit base 63 ≠ bit a 63 then false
  else if bit base 63 = false then decide (bits a 62 57 = 0) && decide (a.toNat + n ≤ 2 ^ 57)
  else match locOf u base, locOf u a, locOf u (a + BitVec.ofNat 64 (n - 1)) with
    | .own _, .own _, .own _ => true
    | .win j _, .win k _, .win l _ => decide (j = k) && decide (j = l)
    | _, _, _ => false

/-- R338: bytes of a version. -/
def versionSize (vfmt count : Nat) : Nat :=
  ((if vfmt = 0 then 2 * count else count + count / 32) + 255) / 256 * 256
/-- R307, R309: a shape record's move: its elements in chunk i, each as (source, destination). -/
def tensorChunk (r : BitVec 1536) (i n : Nat) : List (Word × Word) :=
  let z := tensorEsz r
  (List.range (n / z)).map fun j => tensorElem r (4096 / z * i + j)

/-- R307 to R309: the start of a tensor move: the record is read and enters the cache unless the cache gave it. -/
def State.startTensor (s : State) (u : Nat) (k : CCmd) (ra : Word) (rc : Option (BitVec 1536)) : TurnRes :=
  let lid := (s.ctx u).lid
  let run (s : State) (k : CCmd) (r : BitVec 1536) : TurnRes :=
    match (if k.next = 0 then tensorBad r else none) with
    | some c => .took (s.copyFault u lid k 0 c ra none)
    | none =>
      let n := min 4096 (tensorBytes r - 4096 * k.next)
      let l := tensorChunk r k.next n
      let z := tensorEsz r
      match l.find? fun p => !(sameRegion u (r.extractLsb' 0 64) p.1 z) || !(sameRegion u (r.extractLsb' 64 64) p.2 z) with
      | some p =>
        let a := if sameRegion u (r.extractLsb' 0 64) p.1 z then p.2 else p.1
        .took (s.copyFault u lid k k.next 0x04 a none)
      | none =>
        let reads := l.map fun p => (p.1, z)
        s.startMove u k reads (l.map fun p => (p.2, z)) (fun s => s.gatherFor u k reads)
  match rc with
  | some r => run s k r
  | none =>
    match s.admAll u k [(false, ra, 192)] with
    | (.wait, s') => .pass s'
    | (.walk, s') => s'.notYet u lid k .walk
    | (.fault c a, s') => .took (s'.copyFault u lid k 0 c a none)
    | (.ok, s') =>
      match s'.readRaces u k recordChunk [(ra, 192)] with
      | (some c, s'') => .took (s''.copyFault u lid k 0 c.code.toNat c.addr (some c.info))
      | (none, s'') =>
        let r := BitVec.ofNat 1536 (leNat (s''.copyBytes u ra 192).1)
        let k' := { k with op := .ctens ra (some r) }
        run ((s''.modCtx u fun c =>
          let l := (c.rcache.filter fun p => p.1 ≠ ra) ++ [(ra, r)]
          { c with rcache := l.drop (l.length - 16) }).putCmd u lid k') k' r

/-- R310: the start of a chunk of a gather or a scatter. -/
def State.startGather (s : State) (u : Nat) (k : CCmd) (scatter : Bool) (dst src idx : Word) (n z : Nat) : TurnRes :=
  let lid := (s.ctx u).lid
  let per := 4096 / z
  let i0 := per * k.next
  let cnt := min per (n - i0)
  match s.admAll u k [(false, idx + BitVec.ofNat 64 (4 * i0), 4 * cnt)] with
  | (.wait, s') => .pass s'
  | (.walk, s') => s'.notYet u lid k .walk
  | (.fault c a, s') => .took (s'.copyFault u lid k k.next c a none)
  | (.ok, s') =>
    let ix := s'.indices u idx i0 cnt
    let base := if scatter then dst else src
    let far (x : Nat) : Word := base + BitVec.ofNat 64 x
    let near (j : Nat) : Word := (if scatter then src else dst) + BitVec.ofNat 64 ((i0 + j) * z)
    match ix.find? fun x => x % z ≠ 0 with
    | some x => .took (s'.copyFault u lid k k.next 0x03 (far x) none)
    | none =>
      match ix.find? fun x => !(sameRegion u base (far x) z) with
      | some x => .took (s'.copyFault u lid k k.next 0x04 (far x) none)
      | none =>
        let f := ix.map fun x => (far x, z)
        let g := (List.range cnt).map fun j => (near j, z)
        let reads := if scatter then g else f
        s'.startMove u k ((idx + BitVec.ofNat 64 (4 * i0), 4 * cnt) :: reads) (if scatter then f else g) (fun s => s.gatherFor u k reads)

/-- R280, R315, R356: the start of a chunk of a versioned copy. -/
def State.startVersion (s : State) (u : Nat) (k : CCmd) (dst : Word) (st b round off : Nat) : TurnRes :=
  let lid := (s.ctx u).lid
  let k := { k with hb := { k.hb with vc := vcJoin k.hb.vc (s.pubHist k) } }
  let n := k.chunkLen k.next
  let o := off + 4096 * k.next
  let nv := bits (s.desc st b 1) 29 28
  let size := versionSize (bits (s.desc st b 1) 31 30) (bits (s.desc st b 0) 12 0)
  if nv = 0 ∨ size < o + n then .took (s.copyFault u lid k k.next 0x0C (BitVec.ofNat 64 o) none)
  else
    let va := (s.desc st b 3).toNat + round % nv * size + o
    match s.xlateList st va n with
    | .ok pa _ =>
      s.startJudged u k [] [(dst + BitVec.ofNat 64 (4096 * k.next), n)]
        (fun s => match s.access (k.acc u lid k.next false) 0 false (lineSpan 0 pa n) with
          | (some (l, d), _) => (some (raceCause k.pc (va / 64 * 64 + 64 * (l - pa / 64)) d), s)
          | (none, s') => (none, s'))
        fun s => overFlights k.flights ((List.range n).map (pa + ·)) (s.mem.rdN pa n, s.physPoison pa n)
    | .deny => .took (s.copyFault u lid k k.next 0x04 (BitVec.ofNat 64 va) none)
    | _ => .pass s

/-- R306: the bytes of visible components from `first`, and whether one of them is poisoned. -/
def Ctx.visBytes (c : Ctx) (first n : Nat) : List Byte × Bool :=
  ((List.range n).flatMap fun i => natLe 4 (bankGet c.vis (first + i)).toNat,
    c.accBad.any fun p => p.1 && decide (first ≤ p.2) && decide (p.2 < first + n))

/-- R314: the packets of a chunk of a `caw`. -/
def State.startCaw (s : State) (u : Nat) (k : CCmd) (src desc : Word) (y : BitVec 2) (round : BitVec 32) : TurnRes :=
  let lid := (s.ctx u).lid
  let n := k.chunkLen k.next
  let a := src + BitVec.ofNat 64 (4096 * k.next)
  match s.admAll u k [(false, a, n)] with
  | (.wait, s') => .pass s'
  | (.walk, s') => s'.notYet u lid k .walk
  | (.fault c b, s') => .took (s'.copyFault u lid k k.next c b none)
  | (.ok, s') =>
    match s'.readRaces u k k.next [(a, n)] with
    | (some c, s'') => .took (s''.copyFault u lid k k.next c.code.toNat c.addr (some c.info))
    | (none, s'') =>
      let b := (s''.copyBytes u a n).1
      let z := segBytes y
      let seg0 := bits desc 20 15 + 4096 / z * k.next
      let s3 := (List.range (n / z)).foldl (fun s j =>
        let d := (List.range 64).map fun i => BitVec.ofNat 32 (leNat ((b.drop (z * j + z / 64 * i)).take (z / 64)))
        let p : PktOut := ⟨awPacketOf s.uid desc (seg0 + j) round y d, bits desc 14 12, desc, false, none, false, u, lid, .C, k.pc,
          k.hb, k.id, 0⟩
        { s with packets := s.packets ++ [p], uid := s.uid + 1 }) s''
      .took (s3.putCmd u lid { k with next := k.next + 1, done := k.next + 1, held := none, begun := false })

/-- Whether chunks or adds of a remote command are still to be sent. -/
def CCmd.unsent (k : CCmd) : Bool := decide (k.next < k.chunks) || !k.redo.isEmpty || !k.adds.isEmpty
/-- R302: a remote command has sent something; with its last chunk it is performed, and awaits the answers. -/
def State.sentCopy (s : State) (u lid : Nat) (k : CCmd) : State :=
  if k.unsent then s.putCmd u lid k else s.performCopy u lid k true
/-- R303, R319: the add of chunk i, which has landed at its target, is sent again by port p; it names the target as the window did, or by
the core and the GROUP of the launch (log 80). -/
def State.sendAdd (s : State) (u : Nat) (k : CCmd) (p i : Nat) (wa : Word) (win : Option Nat) (bb : BitVec 21) : TurnRes :=
  let lid := (s.ctx u).lid
  let k' := { k with adds := k.adds.drop 1, begun := false }
  if s.portUp p = false then .took (s.copyFault u lid k i 0x13 0 none)
  else if s.pdepth p ≤ s.portOut p then .pass s
  else
    let o : RemOut := ⟨p, 0, 0, u, lid, k.ch, k.id, i, win.getD 0, 0, 0, win.isNone, false, false⟩
    let s := s.sendChunk p o 0 wa 0 0 (k.chunkLen i) (some bb) []
    .took ((match win with
      | some w => s.modCtxOf u lid (·.setOut w (· + 1))
      | none => s).sentCopy u lid k')
/-- R319, R435: the chunk of a `cput` or `cget` that is sent next, with the port it goes by. -/
def State.startRemote (s : State) (u : Nat) (k : CCmd) (get : Bool) (win : Nat) (wa wb : Word) (off : Nat) (a : Word)
    (bb : Option (BitVec 21)) : TurnRes :=
  let lid := (s.ctx u).lid
  let i := k.redo.headD k.next
  let n := k.chunkLen i
  let at_ := a + BitVec.ofNat 64 (4096 * i)
  let k' := { k with redo := k.redo.drop 1, next := if k.redo.isEmpty then k.next + 1 else k.next, begun := false }
  let addr := BitVec.ofNat 64 (winBase wb + off + 4096 * i)
  match s.portFor (bits wa 58 54) with
  | none => .took (s.copyFault u lid k i 0x13 addr none)
  | some p =>
    match k.adds, bb with
    | a :: _, some b => s.sendAdd u k p a.1 wa (some win) b
    | _, _ =>
    if s.portUp p = false then .took (s.copyFault u lid k i 0x13 addr none)
    else if s.pdepth p ≤ s.portOut p then .pass s
    else if !get ∧ bits wa 7 0 ≤ bits ((s.ctx u).win win 0) 23 16 then .pass s
    else
      let o : RemOut := ⟨p, 0, 0, u, lid, k.ch, k.id, i, win, 0, 0, get, false, false⟩
      if get then
        match s.admAll u k [(true, at_, n)] with
        | (.wait, s') => .pass s'
        | (.walk, s') => s'.notYet u lid k .walk
        | (.fault c b, s') => .took (s'.copyFault u lid k i c b none)
        | (.ok, s') => .took ((s'.sendChunk p o 1 wa wb (off + 4096 * i) n none []).putCmd u lid
            (if k.redo.isEmpty then { k' with flights := k.flights ++ [⟨none, dealBytes (s'.cellsOf u at_ n) (List.replicate n 0), false⟩] }
             else k'))
      else
        match s.admAll u k [(false, at_, n)] with
        | (.wait, s') => .pass s'
        | (.walk, s') => s'.notYet u lid k .walk
        | (.fault c b, s') => .took (s'.copyFault u lid k i c b none)
        | (.ok, s') =>
          match s'.readRaces u k i [(at_, n)] with
          | (some c, s'') => .took (s''.copyFault u lid k i c.code.toNat c.addr (some c.info))
          | (none, s'') =>
            let s3 := ((s''.sendChunk p o 0 wa wb (off + 4096 * i) n bb (s''.copyBytes u at_ n).1).modCtxOf u lid
              (·.setOut win (· + 1))).tellPeer lid (s.peer p) (if bb.isSome then k.chunkHist i else [])
            .took (s3.sentCopy u lid k')

/-- R321: a chunk of a `cbcast` is handed to the plane's queue. -/
def State.startBcast (s : State) (u : Nat) (k : CCmd) (dst src : Word) (bb : Option Word) : TurnRes :=
  let c := s.ctx u
  let i := k.redo.headD k.next
  let n := k.chunkLen i
  let a := src + BitVec.ofNat 64 (4096 * i)
  match k.adds, bb with
  | (j, p + 1) :: _, some b =>
    let g := BitVec.ofNat 64 (2 ^ 62 + c.group.toNat * 2 ^ 24 + (u % 512) * 2 ^ 45)
    s.sendAdd u k p j g none (b.setWidth 21)
  | _, _ =>
  if bits (s.reg 0x3010018) 63 62 ≠ 1 then .took (s.copyFault u c.lid k i 0x13 (dst + BitVec.ofNat 64 (4096 * i)) none)
  else match s.admAll u k [(false, a, n)] with
    | (.wait, s') => .pass s'
    | (.walk, s') => s'.notYet u c.lid k .walk
    | (.fault x b, s') => .took (s'.copyFault u c.lid k i x b none)
    | (.ok, s') =>
      match s'.readRaces u k i [(a, n)] with
      | (some x, s'') => .took (s''.copyFault u c.lid k i x.code.toNat x.addr (some x.info))
      | (none, s'') =>
        let d : BurstData := ⟨c.group, BitVec.ofNat 9 u, dst + BitVec.ofNat 64 (4096 * i), bb, BitVec.ofNat 2 k.ch,
          (s''.copyBytes u a n).1⟩
        let s3 := { s'' with plane := { s''.plane with data := s''.plane.data ++ [d], dataId := s''.plane.dataId ++ [(k.id, i)] } }
        .took (s3.putCmd u c.lid { k with redo := k.redo.drop 1, next := if k.redo.isEmpty then i + 1 else k.next, begun := false })

/-- R303, R322, R433: a `csend.t` claims the slots for the chunks that have not departed. -/
def State.startSend (s : State) (u : Nat) (k : CCmd) (p off len : Nat) (gt : Word) : State :=
  let lid := (s.ctx u).lid
  let gone := 4096 * k.done
  let miss := s.copyFault u lid k k.done 0x15 (BitVec.ofNat 64 (off + gone)) none
  if gt.toNat ≤ s.datumNs.toNat then miss
  else match s.claimSlots p gt.toNat (len - gone) with
    | none => miss
    | some l =>
      let x := s.port p
      let cap := slotCap (s.txLevel p)
      let cs := l.zipIdx.map fun t => (⟨t.1, k.id, gone + cap * t.2, min cap (len - gone - cap * t.2), false, 0⟩ : Claim)
      (s.setPort p { x with claims := x.claims ++ cs }).putCmd u lid { k with next := k.chunks }

/-- R257, R301, R317: one turn of a command that writes back: the next chunk of its slots that holds dirty bytes, and what is done when
none is left. -/
def State.wbTurn (s : State) (u : Nat) (k : CCmd) (slots : List Nat) (rest : State → CCmd → TurnRes) :
    TurnRes :=
  let lid := (s.ctx u).lid
  match slots.findSome? fun j => ((s.dirtyChunks u j).head?).map fun ch => (j, ch) with
  | none => rest s k
  | some (j, ch) =>
    match s.writeBackChunk u j ch .C lid k.pc with
    | (.wait, s') => s'.notYet u lid k .walk
    | (.fault f, s') => .took (s'.copyFault u lid k k.done f.code.toNat f.addr (if f.code = 0x05 then some f.info else none))
    | (.done, s') =>
      let k := { k with next := k.done + 1, done := k.done + 1, held := none, begun := false }
      if slots.any fun i => !(s'.dirtyChunks u i).isEmpty then .took (s'.putCmd u lid k)
      else match rest (s'.putCmd u lid k) k with
        | .took s'' => .took s''
        | .pass s'' => .took s''
/-- R288, R316: the performance of a region map; what its slot holds is written back before it is bound again. -/
def State.startMap (s : State) (u : Nat) (k : CCmd) (wb : Bool) (slot off : Nat) (va : Word) (n : Nat) : TurnRes :=
  let c := s.ctx u
  let old := (s.core u).regions.find? fun r => r.1 = slot
  if (match old with | some r => decide (r.2.filling ≠ []) | none => false) then .pass s
  else s.wbTurn u k [slot] fun s' k =>
    match s'.claimed (k.acc u c.lid 0 wb) c.asid va.toNat (4096 * n) wb with
    | some o =>
      .took (s'.copyFault u c.lid k 0 0x05 (BitVec.ofNat 64 (o.2 / 64 * 64))
        (some (claimDetail (bits c.members 36 32) o.1 u 3 k.hb.phase)))
    | none =>
      let r : Region := ⟨wb, va, off, n, c.asid, [], [], []⟩
      .took ((s'.modCore u fun x => { x with regions := mput x.regions slot r }).performCopy u c.lid k false)

/-- R257, R317: the performance of a write-back. -/
def State.startWb (s : State) (u : Nat) (k : CCmd) (mask : BitVec 16) : TurnRes :=
  s.wbTurn u k ((List.range 16).filter fun j => mask.getLsbD j) fun s' k => .took (s'.performCopy u (s.ctx u).lid k false)

/-- R323: word 0 of a collective tile table entry. -/
def State.ctt0 (s : State) (cl e : Nat) : Word := mget 0 s.ctt (cl * 4096 + 4 * e)
/-- Replaces word 0 of an entry, as the hardware does. -/
def State.setCtt0 (s : State) (cl e : Nat) (v : Word) : State := { s with ctt := mput s.ctt (cl * 4096 + 4 * e) v }

/-- R324: the `tready` commands that have joined the collection of an entry, as unit, launch and command. -/
def State.joined (s : State) (cl e : Nat) : List (Nat × Nat × CCmd) :=
  ((List.range 16).map (coreAt cl)).flatMap fun u =>
    (s.core u).lids.flatMap fun lid => ((s.ctxOf u lid).await.filter fun k =>
      decide (k.op = .tready e) && decide (k.sent = 0)).map fun k => (u, lid, k)
/-- R324: the FP32 sum of tiles, word by word in ascending cluster index; it starts with the first tile's values as they are (log 88). -/
def sumTiles (n : Nat) (ts : List (List Byte)) : List Byte :=
  (List.range (n / 4)).flatMap fun i =>
    let w := ts.map fun t => leNat ((t.drop (4 * i)).take 4)
    natLe 4 (match w with
      | [] => 0
      | x :: r => r.foldl (fun acc v => roundF (exactSum [decodeF .fp32 acc, decodeF .fp32 v]) .fp32 .rne 0) x)
/-- R121, R324: bytes in chunks of 4 KiB with their offsets. -/
def chunkList (off : Nat) (b : List Byte) : List (Nat × List Byte) :=
  (List.range ((b.length + 4095) / 4096)).map fun i => (off + 4096 * i, (b.drop (4096 * i)).take 4096)
/-- R324: a firing ends with a fault: the entry is in error and every joined core has the fault. -/
def State.fireFault (s : State) (cl e code : Nat) (addr : Word) (info : Option Word) (js : List (Nat × Nat × CCmd)) : State :=
  js.foldl (fun s j => s.copyFault j.1 j.2.1 j.2.2 0 code addr info) (s.setCtt0 cl e (setBits (s.ctt0 cl e) 21 20 3))
/-- R320, R435: a command waits for the answer to a chunk no longer; the chunk stays outstanding until that answer comes. -/
def State.giveUp (s : State) (r : RemOut) : State :=
  { s with remote := s.remote.map fun x => if x.port = r.port ∧ x.seq = r.seq then { x with late := true } else x }
/-- R319: the answer to a remote chunk has come: it is outstanding no more, and OUT falls by what it counted. -/
def State.dropRemote (s : State) (r : RemOut) : State :=
  let s : State := { s with remote := s.remote.filter fun x => ¬ (x.port = r.port ∧ x.seq = r.seq) }
  if r.get then s else s.modCtxOf r.u r.lid fun c => c.setOut r.win fun n => n - 1
/-- R324: the `tready` commands that a firing joins. -/
def State.firing (s : State) (f : Firing) : List (Nat × Nat × CCmd) :=
  f.joined.filterMap fun j => ((s.ctxOf j.1 f.lid).await.find? fun k => k.id = j.2).map fun k => (j.1, f.lid, k)
/-- R303, R319, R324: a firing under way ends with a fault, and waits for none of its chunks any more. -/
def State.fireStop (s : State) (f : Firing) (code : Nat) (addr : Word) (info : Option Word) : State :=
  let js := s.firing f
  let s := { s with fires := s.fires.filter fun g => g.id ≠ f.id }
  let s := (s.awaited.filter fun r => decide (r.ch = 4) && decide (r.id = f.id)).foldl State.giveUp s
  s.fireFault f.cl f.e code addr info js
/-- R255, R256: offsets one of which lies in every chunk of a region that the n bytes from offset a meet. -/
def touchPts (a n : Nat) : List Nat := if n = 0 then [] else (List.range ((n + 4095) / 4096)).map (fun i => a + 4096 * i) ++ [a + n - 1]
/-- R324: words 1 to 3 of an entry. -/
def State.cttWord1 (s : State) (cl e w : Nat) : Word := mget 0 s.ctt (cl * 4096 + 4 * e + w)
/-- R256, R282, R324: the tiles of a firing are read, once every chunk they touch is filled; their owners' accesses are judged. -/
def State.fireRead (s : State) (f : Firing) : State :=
  let op := bits (s.ctt0 f.cl f.e) 31 30
  let n := bits (s.cttWord1 f.cl f.e 1) 52 32
  let loc := bits (s.cttWord1 f.cl f.e 1) 20 0
  let roff := (s.cttWord1 f.cl f.e 2).toNat
  let js := s.firing f
  let ready := js.foldl (fun (p : Bool × State) j =>
    let q := p.2.touchBy (j.2.2.toucher j.1 j.2.1) j.1 (touchPts loc n)
    (p.1 && q.1, q.2)) (true, s)
  if ready.1 = false then ready.2
  else
    let r := js.foldl (fun (r : Option CauseArgs × State) j =>
      match r.1 with
      | some _ => r
      | none => if n = 0 then r else
        r.2.copyLocal (j.2.2.acc j.1 j.2.1 0 false) j.2.2 false j.1 loc n (BitVec.ofNat 64 (2 ^ 63 + loc))) (none, s)
    match r with
    | (some c, _) => s.fireStop f c.code.toNat c.addr (some c.info)
    | (none, s) =>
      let ts := js.map fun j => (s.core j.1).spad.rdN loc n
      let cs := if op = 0 then (ts.zipIdx.flatMap fun t => chunkList (roff + t.2 * n) t.1) else chunkList roff (sumTiles n ts)
      { s with fires := s.fires.map fun g => if g.id = f.id then { g with chunks := cs, read := true } else g }
/-- R324: an entry whose flags are complete fires, at the end of the cycle that set the last of them: READY clears and STATE is 2; the
transfer is checked as a `cput` is (R319). -/
def State.fireTile (s : State) (cl e : Nat) : State :=
  let w := s.ctt0 cl e
  let peers := bits w 63 48
  if bits w 47 32 ≠ peers ∨ peers = 0 then s
  else
    let n := bits (s.cttWord1 cl e 1) 52 32
    let loc := bits (s.cttWord1 cl e 1) 20 0
    let roff := (s.cttWord1 cl e 2).toNat
    let bb := if bit w 29 then some ((s.cttWord1 cl e 3).setWidth 21) else none
    let js := s.joined cl e
    let owner := coreAt cl (bits w 28 25)
    let lid := match js with | j :: _ => j.2.1 | [] => 0
    let oc := s.ctxOf owner lid
    let win := bits w 24 22
    let wa := oc.win win 0
    let total := if bits w 31 30 = 0 then n * js.length else n
    let s := s.setCtt0 cl e (setBits (setBits w 47 32 0) 21 20 2)
    if bits w 31 30 > 1 then s.fireFault cl e 0x0B 0 none js
    else if roff % 64 ≠ 0 ∨ n % 64 ≠ 0 then s.fireFault cl e 0x03 (BitVec.ofNat 64 roff) none js
    else if !(bit wa 63) ∨ bits wa 7 0 = 0 ∨ bits (oc.win win 2) 39 0 < roff + total ∨ (bit wa 62 ∧ bit w 29) ∨
       (js.any fun j => decide (n ≠ 0) && !(owns j.1 (s.ctxOf j.1 j.2.1) loc && owns j.1 (s.ctxOf j.1 j.2.1) (loc + n - 1))) then
      s.fireFault cl e 0x04 (BitVec.ofNat 64 roff) none js
    else
      let f : Firing := ⟨s.uid, cl, e, owner, lid, win, wa, oc.win win 1, bb, [], 0, js.map fun j => (j.1, j.2.2.id),
        s.histOf oc owner .C, false⟩
      let s := { s with fires := s.fires ++ [f], uid := s.uid + 1 }
      js.foldl (fun s j => s.modCtxOf j.1 j.2.1 fun c =>
        { c with await := c.await.map fun k => if k.id = j.2.2.id then { k with sent := f.id } else k }) s
/-- R324: a firing whose chunks have all been acknowledged: STATE is 0 and FIRES rises. -/
def State.fireDone (s : State) (f : Firing) : State :=
  if f.read = false ∨ f.next < f.chunks.length ∨ (s.awaited.any fun r => decide (r.ch = 4) && decide (r.id = f.id)) then s
  else
    let w := s.ctt0 f.cl f.e
    { s with fires := s.fires.filter fun g => g.id ≠ f.id }.setCtt0 f.cl f.e (setBits (setBits w 21 20 0) 19 0 (bits w 19 0 + 1))
/-- R249, R319, R320, R324: a firing of unit u's windows goes on: its tiles are read, and its next chunk leaves where the allowance lets it,
one that is counted at a barrier once the side logs of the joined cores are dry; with no port up to the target it is a copy fault 0x13. -/
def State.sendFiring (s : State) (u : Nat) : State :=
  match s.fires.find? fun f => decide (f.owner = u) && (!f.read || decide (f.next < f.chunks.length)) with
  | none => s
  | some f =>
    if f.read = false then
      let s := s.fireRead f
      match s.fires.find? fun g => g.id = f.id with
      | some g => s.fireDone g
      | none => s
    else if f.bbOff.isSome && !(f.joined.all fun j => (s.core j.1).logDry f.lid) then s
    else
    let c := f.chunks.getD f.next (0, [])
    let addr := BitVec.ofNat 64 (winBase f.wb + c.1)
    match s.portFor (bits f.wa 58 54) with
    | none => s.fireStop f 0x13 addr none
    | some p =>
      if s.portUp p = false then s.fireStop f 0x13 addr none
      else if s.pdepth p ≤ s.portOut p ∨ bits f.wa 7 0 ≤ bits ((s.ctxOf u f.lid).win f.win 0) 23 16 then s
      else
        let o : RemOut := ⟨p, 0, 0, u, f.lid, 4, f.id, f.next, f.win, 0, 0, false, false, false⟩
        let h := if f.bbOff.isSome then (s.firing f).foldl (fun m j => vcJoin m (j.2.2.chunkHist 0)) [] else []
        let s := ((s.sendChunk p o 0 f.wa f.wb c.1 c.2.length f.bbOff c.2).modCtxOf u f.lid (·.setOut f.win (· + 1))).tellPeer f.lid (s.peer p) h
        { s with fires := s.fires.map fun g => if g.id = f.id then { g with next := f.next + 1 } else g }

/-- R324: the performance of a `tready`: the core's flag is set and STATE is 1. -/
def State.startTready (s : State) (u : Nat) (k : CCmd) (e : Nat) : State :=
  let lid := (s.ctx u).lid
  let cl := clusterOf u
  let w := s.ctt0 cl e
  let me := clusterIdx u
  if bit w (48 + me) = false ∨ bits w 21 20 = 3 then s.copyFault u lid k 0 0x04 0 none
  else if bit w (32 + me) then s.copyFault u lid k 0 0x08 0 none
  else
    (s.setCtt0 cl e (setBits (setBits w (32 + me) (32 + me) 1) 21 20 1)).performCopy u lid k true

/-- R279: a wait of C has observed a flip: what it acquires is before every command that C issued after it. -/
def State.bbWaited (s : State) (u lid : Nat) (k : CCmd) (tgt off : Nat) : State :=
  let h := s.bbHist tgt off
  (s.bbAcquire lid u .C tgt off).modCtxOf u lid fun c => { c with chans := c.chans.map fun ch => { ch with cmds := ch.cmds.map fun y =>
    if k.id < y.id then { y with hb := { y.hb with vc := vcJoin y.hb.vc h } } else y } }
/-- R121, R326, R327: a command on a byte barrier takes its turn; what it does to the barrier, or sees of it, comes behind the cycle's
other accesses. -/
def State.startBb (s : State) (u : Nat) (k : CCmd) (a : Word) : TurnRes :=
  let p := placeOf u a
  let t := s.touch p.1 [p.2]
  if t.1 then .took (t.2.putCmd u (s.ctx u).lid { k with next := 1 }) else .pass t.2
/-- R119, R278, R326: `cbbarm` and `cbbadd` are performed by the engine port. -/
def State.bbUpdate (s : State) (u lid : Nat) (k : CCmd) : State :=
  let fault (a : Word) : State := s.copyFault u lid { k with next := 0 } 0 0x08 a none
  if k.next = 0 ∨ k.faulted.isSome then s
  else match k.op with
    | .cbbarm a v =>
      let p := placeOf u a
      let w := leNat ((s.core p.1).spad.rdN p.2 8)
      if w % 2 ^ 27 ≠ 0 then fault a
      else ((s.spadWrite p.1 (atAddr p.2 (natLe 8 (w / 2 ^ 59 * 2 ^ 59 + v * 2 ^ 32 + w / 2 ^ 27 % 32 * 2 ^ 27)))).bbCount p.1 p.2 []
        false).performCopy u lid k false
    | .cbbadd a n =>
      let p := placeOf u a
      (match s.bbAdd p.1 p.2 n (k.chunkHist 0) with
       | some s' => s'.performCopy u lid k false
       | none => fault a)
    | _ => s
/-- R303, R321: the add of a chunk of a `cbcast` in the own package is tried again. -/
def State.bcastAdd (s : State) (u lid : Nat) (k : CCmd) : State :=
  match k.op, k.adds with
  | .cbcast _ _ _ (some b), (j, 0) :: r =>
    let q := placeOf u b
    let t := s.touchBy (k.toucher u lid) q.1 [q.2]
    if k.faulted.isSome ∨ (s.core u).logDry lid = false then s
    else if t.1 = false then t.2
    else (match t.2.bbAdd q.1 q.2 (k.chunkLen j) (k.chunkHist j) with
      | some s' => s'.sentCopy u lid { k with adds := r }
      | none => t.2.copyFault u lid k j 0x08 b none)
  | _, _ => s
/-- R119, R278, R303, R324, R326: what follows the commits of a channel: a command on a byte barrier that took its turn is performed, adds
that are still to come are tried, and an entry whose last flag was set on this cycle fires. -/
def State.afterCommits (s : State) (u lid ch : Nat) : State :=
  let s := match s.headCmd u lid ch with | some k => (s.bbUpdate u lid k).bcastAdd u lid k | none => s
  let mine := ((s.ctxOf u lid).allCmds ++ (s.ctxOf u lid).await).filter fun k => k.ch = ch
  mine.foldl (fun s k => match k.op with
    | .tready e => if k.sent = 0 then s.fireTile (clusterOf u) e else s
    | _ => s.addStep u lid k.id) s
/-- R119, R301: CHUNK_COMMIT of a channel, in whichever context it stands: the chunks in transfer of its head command that are due commit in
their order, then what follows them. -/
def execChunkCommit (u ch : Nat) (s : State) : Res :=
  .next <| (s.core u).lids.foldl (fun s lid =>
    let n := match s.headCmd u lid ch with | some k => k.flights.length | none => 0
    ((List.range n).foldl (fun s _ => s.commitHead u lid ch) s).afterCommits u lid ch) s

/-- R241, R304: whether a write-back of a command waits for a page. -/
def State.wbWait (s : State) (u lid : Nat) (k : CCmd) : Bool :=
  s.outs.any fun o => decide (o.u = u) && decide (o.lid = lid) && decide (o.q = .C) && decide (o.pc = k.pc) &&
    (match o.op with | .xlat 5 _ => true | _ => false)
/-- R249: whether a command's byte-barrier arrival comes with its chunk, so that the chunk waits for the side log to drain. -/
def CCmd.arrives (k : CCmd) : Bool :=
  match k.op with
  | .cbbadd _ _ => true
  | .cput _ _ _ _ _ _ b => b.isSome
  | .cbcast _ _ _ b => b.isSome
  | _ => false
/-- R121, R301: whether a command has a chunk that has not started. -/
def CCmd.toStart (k : CCmd) : Bool :=
  match k.op with
  | .cput _ _ _ _ _ _ _ | .cget _ _ _ _ _ _ => k.unsent
  | .cbcast _ _ _ _ => (match k.adds with | (_, 0) :: _ => false | _ => k.unsent)
  | .cpy _ _ _ | .cpya _ _ _ | .cgath _ _ _ _ _ _ | .caw _ _ _ _ _ | .cver _ _ _ _ _ _ => decide (k.next < k.chunks)
  | .ctens _ r => r.isNone || decide (k.next < k.chunks)
  | .cscl _ _ _ | .cldlct _ _ | .cldalg _ _ | .cbbarm _ _ | .cbbadd _ _ | .cbbwait _ _ | .csendt _ _ _ _ _ _ _ => decide (k.next = 0)
  | .cmap _ _ _ _ _ | .cwb _ | .tready _ => true
/-- R121, R249, R299, R301, R326, R327: whether a head command has a chunk ready, or a turn to take. -/
def State.chunkReady (s : State) (u : Nat) (k : CCmd) : Bool :=
  let c := s.ctx u
  decide (k.faulted = none) && decide (k.held = none) && !(s.xlatWait u c.lid 6 k.ch) && !(s.wbWait u c.lid k) &&
  (!k.arrives || (s.core u).logDry c.lid) && (c.allCmds.all fun y => !y.isBbWait || decide (k.id ≤ y.id)) && k.toStart &&
  (match k.op with
    | .cscl _ _ _ => c.scaleTurn k && decide (c.sq.length < 64)
    | .cbbadd _ _ | .tready _ => c.copies.all fun i => decide (k.id ≤ i)
    | _ => true)

/-- R299, R301, R303: the next chunk of a head command starts, or a command that moves no data is performed. -/
def State.startHead (s : State) (u : Nat) (k : CCmd) : TurnRes :=
  let lid := (s.ctx u).lid
  let n := k.chunkLen k.next
  let o := BitVec.ofNat 64 (4096 * k.next)
  match k.op with
    | .cpy dst src _ => s.startMove u k [(src + o, n)] [(dst + o, n)] fun s => s.gatherFor u k [(src + o, n)]
    | .cpya dst first _ => s.startMove u k [] [(dst + o, n)] fun s => (s.ctx u).visBytes (first + 1024 * k.next) (n / 4)
    | .ctens ra rc => s.startTensor u k ra rc
    | .cgath sc dst src idx cnt z => s.startGather u k sc dst src idx cnt z
    | .cscl src _ _ | .cldlct _ src | .cldalg _ src =>
      (match s.admAll u k [(false, src, k.bytes)] with
       | (.wait, s') => .pass s'
       | (.walk, s') => s'.notYet u lid k .walk
       | (.fault c a, s') => .took (s'.copyFault u lid k 0 c a none)
       | (.ok, s') => match s'.readRaces u k 0 [(src, k.bytes)] with
         | (some c, s'') => .took (s''.copyFault u lid k 0 c.code.toNat c.addr (some c.info))
         | (none, s'') => .took ((s''.tickFree).putCmd u lid
             { k with next := 1, held := none, begun := false, flights := [⟨some (s''.now + 1 + s''.delayFor u lid .C k.pc.toNat 1), [(src, 0, (s''.copyBytes u src k.bytes).1)], false⟩] }))
    | .caw src desc _ y round => s.startCaw u k src desc y round
    | .cver dst st b round off _ => s.startVersion u k dst st.toNat b.toNat round.toNat off
    | .cmap wb slot off va cnt => s.startMap u k wb slot off va cnt
    | .cwb mask => s.startWb u k mask
    | .cput win wa wb off src _ bb => s.startRemote u k false win wa wb off src bb
    | .cget win wa wb off dst _ => s.startRemote u k true win wa wb off dst none
    | .cbcast dst src _ bb => s.startBcast u k dst src bb
    | .csendt p _ _ off _ len gt => .took (s.startSend u k p.toNat off len gt)
    | .tready e => .took (s.startTready u k e)
    | .cbbarm a _ | .cbbadd a _ | .cbbwait a _ => s.startBb u k a

/-- R121: the channels in the order of their turns. -/
def turnOrder (last : Nat) : List Nat := (List.range 4).map fun i => (last + 1 + i) % 4
/-- R121, R301: the head command of a channel goes on where it is ready; `turn` asks for one that takes a turn, not for one that has started
its chunk and has waited for a page. -/
def State.channelStep (s : State) (u ch : Nat) (turn : Bool) : Option TurnRes :=
  match (vget (s.ctx u).chans ch ⟨[], 0⟩).cmds with
  | [] => none
  | k :: _ => if s.chunkReady u k ∧ k.begun = !turn then some (s.startHead u k) else none
/-- R121: CHUNK_START: chunks that have started and whose pages have come go on; then the first channel with a chunk ready starts it;
where none is ready a firing of the core's windows may send one. Only the running context starts chunks (R371). A chunk starts only where
the path has room, which it has again at a free time after a start (log 79). -/
def execChunkStart (u : Nat) (s : State) : Res :=
  .next <|
    let k := s.core u
    if k.swap.isSome ∨ k.ctx.handler ∨ isStack u then s
    else
      let turn := s.turn
      let s := { s with turn := ⟨u, .C⟩ }
      let lid := (s.ctx u).lid
      let s := (List.range 4).foldl (fun s ch => match s.channelStep u ch false with
        | some (.pass s') => s' | some (.took s') => s' | none => s) s
      let r := (turnOrder k.ctx.rrCh).foldl (fun (a : Bool × State) ch =>
        if a.1 ∨ s.now < k.ctx.roomAt then a
        else match a.2.channelStep u ch true with
          | some (.pass s') => (false, s')
          | some (.took s') => (true, s'.tickFree.modCtxOf u lid fun c => { c with rrCh := ch, roomAt := s'.now + 1 + s'.delayFor u lid .C ch 2 })
          | none => a) (false, s)
      let s' := if r.1 then r.2 else r.2.sendFiring u
      { s' with turn := turn }

/-- R219, R313: a performed command whose follow-on C issues on this cycle. -/
def State.carry (s : State) (u lid : Nat) (k : CCmd) : State :=
  match k.slot with
  | some l =>
    if k.sent = 0 ∧ k.t0 ≤ (s.ctxOf u lid).clk then
      let r := s.followOn u lid l
      r.2.modCtxOf u lid fun c => { c with await := c.await.map fun x => if x.id = k.id then { x with sent := r.1 } else x }
    else s
  | none => s
/-- R302, R327: COPY_COMMAND_COMPLETE: a performed command whose completion has come, or a wait whose flip it observes. -/
def execCopyCommandComplete (u id : Nat) (s : State) : Res :=
  .next <| (s.core u).lids.foldl (fun s lid =>
    let c := s.ctxOf u lid
    match c.await.find? fun k => k.id = id with
    | some k =>
      let busy := k.owes || match k.op with
        | .caw _ _ _ _ _ => s.packets.any fun p => decide (p.cmd = id)
        | .cput _ _ _ _ _ _ _ => s.awaited.any fun r => decide (r.id = id) && decide (r.ch = k.ch)
        | .cbcast _ _ _ _ => (s.plane.dataId.any fun d => decide (d.1 = id)) || (s.awaited.any fun r => decide (r.id = id) && decide (r.ch = k.ch)) ||
          s.plane.flown.any fun f => decide (f.cmd.id = id) && decide (f.port = 0) && !f.here
        | .tready _ => decide (k.sent = 0) || s.fires.any fun f => decide (f.id = k.sent)
        | _ => (k.slot.isSome && decide (k.sent = 0)) || c.cmds.any fun m => decide (m.id = k.sent)
      if busy then s.carry u lid k else s.completeCopy u lid k
    | none =>
      match c.allCmds.find? fun k => decide (k.id = id) && decide (k.next = 1) && decide (k.faulted = none) with
      | some k =>
        (match k.op with
         | .cbbwait a ph =>
           let p := placeOf u a
           if s.bbPh p.1 p.2 = ph then (s.bbWaited u lid k p.1 p.2).performCopy u lid k false else s
         | _ => s)
      | none => s) s

end Sys2Proof.Machine
end

