-- ==== Sys2Proof/Machine/Stack.lean ====
section
/-! DEFINITION. Reduction and update in the stacks (R331 to R358): packets and their answers, the three orders, staging and the
check path, opening and closing, the stack-only instructions, and the publication of rounds. -/
namespace Sys2Proof.Machine

/-- R338: fields of a bucket descriptor: ORD, TY, SAT, CHK, COUNT. -/
def State.bOrd (s : State) (st b : Nat) : Nat := bits (s.desc st b 0) 23 22
/-- R338: TY is INT32. -/
def State.bInt (s : State) (st b : Nat) : Bool := bit (s.desc st b 0) 21
/-- R338: SAT. -/
def State.bSat (s : State) (st b : Nat) : Bool := bit (s.desc st b 0) 20
/-- R338: CHK. -/
def State.bChk (s : State) (st b : Nat) : Nat := bits (s.desc st b 0) 19 15
/-- R338: COUNT. -/
def State.bCount (s : State) (st b : Nat) : Nat := bits (s.desc st b 0) 12 0
/-- R338: E. -/
def State.bE (s : State) (st b : Nat) : Nat := bits (s.desc st b 1) 60 48
/-- R338: NV. -/
def State.bNv (s : State) (st b : Nat) : Nat := bits (s.desc st b 1) 29 28
/-- R338: segments of a bucket. -/
def State.bSegs (s : State) (st b : Nat) : Nat := (s.bCount st b + 63) / 64
/-- Elements of segment g. -/
def State.segLen (s : State) (st b g : Nat) : Nat := min 64 (s.bCount st b - 64 * g)
/-- Sets STATE of a bucket. -/
def State.setBState (s : State) (st b v : Nat) : State := s.setDesc st b 1 (setBits (s.desc st b 1) 63 61 v)
/-- The reduction state of a bucket. -/
def State.bucket (s : State) (st b : Nat) : Bucket := mget Bucket.fresh (s.die st).buckets b
/-- Changes the reduction state of a bucket. -/
def State.modBucket (s : State) (st b : Nat) (f : Bucket → Bucket) : State :=
  s.setDie st { s.die st with buckets := mput (s.die st).buckets b (f (s.bucket st b)) }

/-- ceil(log2 n). -/
def clog2 (n : Nat) : Nat := if n ≤ 1 then 0 else Nat.log2 (n - 1) + 1
/-- R347: whether segment g of bucket b in round n is sampled. -/
def State.sampled (s : State) (st b g n : Nat) : Bool := decide ((b * 64 + g + n) % 2 ^ s.bChk st b = 0)
/-- R345: slots that a tree bucket reserves. -/
def State.resvFor (s : State) (st b : Nat) : Nat :=
  if s.bOrd st b = 1 then s.bSegs st b * (clog2 (s.bE st b) + 1) else 0
/-- R347: slots that the check path of a bucket reserves. -/
def State.resvChkFor (s : State) (st b : Nat) : Nat :=
  (s.bSegs st b + 2 ^ s.bChk st b - 1) / 2 ^ s.bChk st b * (if s.bOrd st b = 1 then clog2 (s.bE st b) + 1 else 1)
/-- R345, R347: pool slots that a bucket uses beside its reservations: those of every staged packet and partial sum, with its check copy,
but what came of a lowest contributor, which is never refused, draws on the reservations. -/
def State.poolUse (s : State) (st b : Nat) (x : Bucket) : Nat :=
  let n := s.bRound st b
  let dup (n : Nat) (l : List Packet) : Nat := (l.filter fun p => s.sampled st b p.seg.toNat n).length
  let parts := x.parts.filter fun p => !p.res
  x.wait.length + dup n x.wait + parts.length + (parts.filter fun p => s.sampled st b p.seg n).length +
    x.heldPk.length + dup n x.heldPk + x.next.length + dup (n + 1) x.next
/-- R345: free slots of a stack's pool. -/
def State.poolFree (s : State) (st : Nat) : Nat :=
  Config.poolSlots - ((s.die st).buckets.map fun p =>
    if s.bState st p.1 = 0 then 0 else p.2.resv + p.2.resvChk + s.poolUse st p.1 p.2).sum

/-- R342, R343: the elements of a packet as the adder takes them: BF16 widened to FP32. -/
def packetVals (p : Packet) : List (BitVec 32) := p.data.map fun (v : BitVec 32) => if p.ty = 0 then v <<< 16 else v
/-- R343: one addition. -/
def redAdd (int sat : Bool) (x y : BitVec 32) : BitVec 32 :=
  BitVec.ofNat 32 <|
    if int then (if sat then satS (sext x.toNat 32 + sext y.toNat 32) 32 else (x + y).toNat)
    else roundF (exactSum [decodeF .fp32 x.toNat, decodeF .fp32 y.toNat]) .fp32 .rne 0
/-- Element-wise addition. -/
def redAddL (int sat : Bool) (x y : List (BitVec 32)) : List (BitVec 32) := (x.zip y).map fun p => redAdd int sat p.1 p.2

/-- R336, R345: physical address of segment g of a bucket's accumulator; none while its page-list entry cannot be used. -/
def State.segPa (s : State) (st b g : Nat) : Option Nat :=
  match s.xlateList st ((s.desc st b 2).toNat + 256 * g) (4 * s.segLen st b g) with
  | .ok pa _ => some pa
  | _ => none
/-- R346: whether a packet for segment g must be staged: its row is held, or its entry is shot down. -/
def State.segHeld (s : State) (st b g : Nat) : Bool :=
  (s.segPa st b g).isNone ||
  (s.cores.any fun p => isStack p.1 && decide (stackOf p.1 = st) &&
    decide (((s.desc st b 2).toNat + 256 * g) / 2048 ∈ p.2.rows))
/-- The accumulator elements of a segment; zeros where an opening has cleared it and its page could not be written yet. -/
def State.accRead (s : State) (st b g : Nat) : List (BitVec 32) :=
  let pa := (s.segPa st b g).getD 0
  if g ∈ (s.bucket st b).zero then List.replicate (s.segLen st b g) 0
  else (List.range (s.segLen st b g)).map fun i => BitVec.ofNat 32 (leNat (s.mem.rdN (pa + 4 * i) 4))
/-- Writes the accumulator elements of a segment. -/
def State.accWrite (s : State) (st b g : Nat) (l : List (BitVec 32)) : State :=
  match s.segPa st b g with
  | some pa =>
    let s := if g ∈ (s.bucket st b).zero then s.modBucket st b fun x => { x with zero := x.zero.filter (· ≠ g) } else s
    s.physWrite (atAddr pa ((l.take (s.segLen st b g)).flatMap fun v => natLe 4 v.toNat))
  | none => s
/-- R336, R339: the segments of an open bucket that wait to be cleared are, once their page can be written. -/
def State.clearWaiting (s : State) (st b : Nat) : State :=
  (s.bucket st b).zero.foldl (fun s g => s.accWrite st b g (List.replicate 64 0)) s

/-- R339, R347, R366, R392: a bucket is poisoned, and a record of cause 0x0D is posted with the bucket, and in INFO the round with a
detail, the segment of a mismatch, above it (log 76). -/
def State.poisonBucket (s : State) (st b : Nat) (detail : Word) : State :=
  let n := s.bRound st b
  let s := s.setBState st b 4
  (s.setDie st { s.die st with cq := (s.die st).cq.filter fun c => c.2 ≠ b }).post (4 + st)
    [evWord0 5 0x0D 5 0x3FFF, BitVec.ofNat 64 b, BitVec.ofNat 64 b, BitVec.ofNat 64 (n + 2 ^ 32 * (detail.toNat % 2 ^ 32))]
/-- R390, R424: whether a segment of an accumulator, or what is staged for it, reads as poison. -/
def State.segBad (s : State) (st b g : Nat) : Bool :=
  s.misc.keysErased || (match s.segPa st b g with | some pa => s.physPoison pa (4 * s.segLen st b g) | none => false)
/-- R343, R348, R390: one contribution is added to a segment, by the reduction unit and by the check adder (R347); where the segment reads
as poison the bucket is poisoned. -/
def State.addSeg (s : State) (st b g : Nat) (v : List (BitVec 32)) : State :=
  if s.segBad st b g then
    if s.bState st b = 4 then s else s.poisonBucket st b (BitVec.ofNat 64 g)
  else
    let add := redAddL (s.bInt st b) (s.bSat st b)
    let s' := s.accWrite st b g (add (s.accRead st b g) v)
    if s.sampled st b g (s.bRound st b) then
      s'.modBucket st b fun x => { x with chk := mput x.chk g (add (mget (List.replicate 64 0) x.chk g) v) }
    else s'
/-- R350: a bucket joins the completion queue; those of one cycle stand in ascending number. -/
def cqInsert (now b : Nat) : List (Nat × Nat) → List (Nat × Nat)
  | [] => [(now, b)]
  | c :: r => if c.1 = now ∧ b < c.2 ∧ now ≠ 0 then (now, b) :: c :: r else c :: cqInsert now b r
/-- R347: after the last contribution of a sampled segment the two sums are compared. -/
def State.checkSeg (s : State) (st b g : Nat) : State :=
  let x := s.bucket st b
  let e := s.bE st b
  let acc := (x.got.filter fun p => p.2 = g).length
  let left (l : List Packet) : Bool := l.any fun p => decide (p.seg.toNat = g)
  if acc < e ∨ left x.wait ∨ left x.heldPk ∨ (x.parts.any fun p => decide (p.seg = g)) ∨
     s.sampled st b g (s.bRound st b) = false then s
  else if (mget (List.replicate 64 0) x.chk g).take (s.segLen st b g) = s.accRead st b g then s
  else s.poisonBucket st b (BitVec.ofNat 64 g)
/-- R339: a bucket whose contributions are all added and checked is COMPLETE. -/
def State.completeBucket (s : State) (st b : Nat) : State :=
  let x := s.bucket st b
  if s.bState st b = 1 ∧ x.got.length = s.bE st b * s.bSegs st b ∧ x.wait = [] ∧ x.heldPk = [] ∧ x.parts = [] then
    let s := s.setBState st b 2
    s.setDie st { s.die st with cq := cqInsert s.now b (s.die st).cq }
  else s

/-- R345: the staged contributions of a fold whose turn has come are added, in ascending contributor. -/
def State.drainFold (s : State) (st b g : Nat) : Nat → State
  | 0 => s
  | fuel + 1 =>
    let x := s.bucket st b
    let c := mget 0 x.upto g
    match x.wait.find? fun p => decide (p.seg.toNat = g) && decide (p.contrib.toNat = c) with
    | none => s
    | some p =>
      ((s.addSeg st b g (packetVals p)).modBucket st b fun x =>
        { x with wait := x.wait.filter (fun q => ¬ (q.seg.toNat = g ∧ q.contrib.toNat = c)), upto := mput x.upto g (c + 1) }).drainFold
        st b g fuel
/-- R343: the node of the tree over [lo, hi) that has [a, b) as a child, as its middle and its bounds. -/
def treeParent (a b : Nat) : Nat → Nat → Nat → Option (Nat × Nat × Nat)
  | 0, _, _ => none
  | fuel + 1, lo, hi =>
    if hi - lo ≤ 1 then none
    else
      let mid := lo + 2 ^ (clog2 (hi - lo) - 1)
      if (a = lo ∧ b = mid) ∨ (a = mid ∧ b = hi) then some (lo, mid, hi)
      else if b ≤ mid then treeParent a b fuel lo mid else treeParent a b fuel mid hi
/-- R345: a node of the tree is formed with its sibling as soon as both are present, and takes over its slot; the root is added to zero. A
partial sum that waits holds a slot of the reservation, where `res`, or of the pool. -/
def State.addTree (s : State) (st b g : Nat) : Nat → Nat → Nat → Bool → List (BitVec 32) → State
  | 0, _, _, _, _ => s
  | fuel + 1, lo, hi, res, v =>
    let e := s.bE st b
    if lo = 0 ∧ hi = e then s.addSeg st b g v
    else
      let x := s.bucket st b
      match treeParent lo hi 14 0 e with
      | none => s
      | some (l, m, h) =>
        let sib := if lo = l then (m, h) else (l, m)
        match x.parts.find? fun p => decide (p.seg = g) && decide (p.lo = sib.1) && decide (p.hi = sib.2) with
        | some p =>
          let add := redAddL (s.bInt st b) (s.bSat st b)
          let v' := if lo = l then add v p.val else add p.val v
          (s.modBucket st b fun x => { x with parts := x.parts.filter fun q => decide (q ≠ p) }).addTree st b g fuel l h p.res v'
        | none => s.modBucket st b fun x => { x with parts := x.parts ++ [⟨g, lo, hi, v, res⟩] }
/-- R345: whether a contributor is the lowest whose contribution to the segment has not come. -/
def Bucket.lowest (x : Bucket) (c g : Nat) : Bool := (List.range c).all fun i => decide ((i, g) ∈ x.got)
/-- R343, R345, R394: a packet of the current round whose accumulator can be reached is applied. -/
def State.applyPacket (s : State) (st b : Nat) (p : Packet) : State :=
  let g := p.seg.toNat
  let c := p.contrib.toNat
  let s' := match s.bOrd st b with
    | 0 => (s.modBucket st b fun x => { x with wait := x.wait ++ [p] }).drainFold st b g ((s.bucket st b).wait.length + 1)
    | 1 => s.addTree st b g 14 c (c + 1) ((s.bucket st b).lowest c g) (packetVals p)
    | _ => (s.addSeg st b g (packetVals p)).logInput 8 (384 + 8 * st) .S [BitVec.ofNat 64 c, BitVec.ofNat 64 g]
  (s'.checkSeg st b g).completeBucket st b
/-- R396: whether the applications of packets to an arrival-mode bucket of a stack come from the log. -/
def State.orderLogged (s : State) (st b : Nat) : Bool := decide (2 ≤ s.bOrd st b) && s.isReplay (384 + 8 * st)
/-- R396: whether the log has the application of a packet next. -/
def State.packetTurn (s : State) (st : Nat) (p : Packet) : Option Nat :=
  match s.nextRec (384 + 8 * st) .S with
  | some (8, _, at_, pos) =>
    if s.memWord (at_ + 16) = p.contrib.setWidth 64 ∧ s.memWord (at_ + 24) = p.seg.setWidth 64 then some pos else none
  | _ => none
/-- R346: an accepted packet of the current round is applied, or staged while its accumulator cannot be reached, or until its turn comes in
a replay (R396). -/
def State.takePacket (s : State) (st b : Nat) (p : Packet) : State :=
  let s := s.modBucket st b fun x => { x with got := x.got ++ [(p.contrib.toNat, p.seg.toNat)] }
  if s.segHeld st b p.seg.toNat || s.orderLogged st b then s.modBucket st b fun x => { x with heldPk := x.heldPk ++ [p] }
  else s.applyPacket st b p

/-- R345, R347: slots that a packet of the current round needs in staging. -/
def State.stageNeed (s : State) (st b : Nat) (p : Packet) : Nat :=
  let x := s.bucket st b
  let g := p.seg.toNat
  let c := p.contrib.toNat
  let two (n : Nat) : Nat := if s.sampled st b g (s.bRound st b) then 2 * n else n
  match s.bOrd st b with
  | 0 => if c = mget 0 x.upto g then 0 else two 1
  | 1 =>
    (match treeParent c (c + 1) 14 0 (s.bE st b) with
     | none => 0
     | some (l, m, h) =>
       let sib := if c = l then (m, h) else (l, m)
       if x.parts.any fun q => decide (q.seg = g) && decide (q.lo = sib.1) && decide (q.hi = sib.2) then 0 else two 1)
  | _ => 0
/-- R345 to R347: whether the pool has the slots that an acceptable packet needs. -/
def State.roomFor (s : State) (st b : Nat) (p : Packet) : Bool :=
  let x := s.bucket st b
  let n := s.bRound st b
  let g := p.seg.toNat
  let free := s.poolFree st
  let one (n : Nat) : Nat := if s.sampled st b g n then 2 else 1
  if p.round.toNat = n + 1 then decide (one (n + 1) ≤ free)
  else if s.segHeld st b g then decide (one n ≤ free)
  else if x.lowest p.contrib.toNat g then true
  else decide (s.stageNeed st b p ≤ free)

/-- R341: the answer to a packet of stack st. -/
def State.awAnswer (s : State) (st : Nat) (p : Packet) : AwAnswer :=
  let b := p.bucket.toNat
  let x := s.bucket st b
  let state := s.bState st b
  let n := s.bRound st b
  let r := p.round.toNat
  let key := (p.contrib.toNat, p.seg.toNat)
  if state = 0 ∨ p.job.toNat ≠ s.bJob st b ∨ (decide (p.ty = 2) ≠ s.bInt st b) ∨ s.bE st b ≤ p.contrib.toNat ∨
     s.bSegs st b ≤ p.seg.toNat ∨ state = 4 ∨ n + 1 < r then .config
  else if r < n ∨ (r = n ∧ state = 3) then .late
  else if (r = n ∧ key ∈ x.got) ∨ (r = n + 1 ∧ (x.next.any fun q => decide (key = (q.contrib.toNat, q.seg.toNat)))) then .duplicate
  else if s.roomFor st b p then .accepted
  else .refused
/-- R341, R346: a packet is answered and, where it is accepted, staged or applied. -/
def State.awApply (s : State) (st : Nat) (p : Packet) : AwAnswer × State :=
  let b := p.bucket.toNat
  match s.awAnswer st p with
  | .accepted =>
    if p.round.toNat = s.bRound st b + 1 then (.accepted, s.modBucket st b fun x => { x with next := x.next ++ [p] })
    else (.accepted, s.takePacket st b p)
  | a => (a, s)
/-- R339, R346, R396: staged packets whose accumulator can be reached again are applied, in a replay in the order of the log. -/
def State.flushHeld (s : State) (st : Nat) : State :=
  if s.unitWaits (4 + st) 5 then s else
  (s.die st).buckets.foldl (fun s p =>
    let s := s.clearWaiting st p.1
    p.2.heldPk.foldl (fun s k =>
      if s.bState st p.1 ≠ 1 ∨ s.segHeld st p.1 k.seg.toNat then s
      else
        let take (s : State) : State := (s.modBucket st p.1 fun x => { x with heldPk := x.heldPk.erase k }).applyPacket st p.1 k
        if s.orderLogged st p.1 = false then take s
        else match s.packetTurn st k with
          | some pos => take (s.logMove (384 + 8 * st) .S pos)
          | none => s) s) s

/-- R302: a `caw` is performed when its last packet has been sent. -/
def State.cawSent (s : State) (u lid cmd : Nat) : State :=
  match (s.ctxOf u lid).allCmds.find? fun k => k.id = cmd with
  | some k =>
    if k.chunks ≤ k.next ∧ ¬ (s.packets.any fun p => decide (p.cmd = cmd) && !p.sent && !p.back) then s.performCopy u lid k true
    else s
  | none => s
/-- R178, R314: a packet of this package has been sent; `ans` is the answer of a stack of its own. -/
def State.packetSent (s : State) (id : Nat) (ans : Option AwAnswer) : State :=
  match s.packets.find? fun k => k.p.id = id with
  | none => s
  | some k =>
    let s := { s with packets := s.packets.map fun x =>
      if x.p.id = id then { x with sent := true, ans := ans, since := s.now } else x }
    if k.cmd = 0 then s else s.cawSent k.u k.lid k.cmd

/-- R314, R341: a packet is answered; one of this package keeps its answer until it is back in its core, one of another package is answered
through its port. -/
def State.awArrive (s : State) (st : Nat) (p : Packet) : State :=
  let r := s.awApply st p
  if p.port ≠ 0 then r.2.sendMsg (p.port - 1) 2 1 (.answer (.packet p.id r.1))
  else r.2.packetSent p.id (some r.1)
/-- R314, R341, R418: AW_PACKET: a packet reaches a stack and is answered, once its reduction unit does not wait for its event queue. -/
def execAwPacket (stack : BitVec 3) (p : Packet) (s : State) : Res :=
  .next <|
    let st := stack.toNat
    if s.unitWaits (4 + st) 5 then
      (if p.port = 0 then s else s.setDie st { s.die st with late := (s.die st).late ++ [p] })
    else s.awArrive st p
/-- R418: the packets that came while the reduction unit waited are answered when it goes on. -/
def State.takeLate (s : State) (st : Nat) : State :=
  if (s.die st).late = [] ∨ s.unitWaits (4 + st) 5 then s
  else (s.die st).late.foldl (fun s p => s.awArrive st p) (s.setDie st { s.die st with late := [] })

/-- R339: entering OPEN: the bitmap is clear and every accumulator element is zero; where the page-list entry is shot down (R336) the
segment counts as zero and its memory follows. A row that a stack core holds is cleared at once: the clearing belongs to the state change and is no
write of the reduction unit (log 76). -/
def State.openBucket (s : State) (st b : Nat) : State :=
  let s := (s.setBState st b 1).modBucket st b fun x =>
    { x with got := [], wait := [], heldPk := [], parts := [], upto := [], chk := [], zero := List.range (s.bSegs st b) }
  (List.range (s.bSegs st b)).foldl (fun s g => s.accWrite st b g (List.replicate 64 0)) s
/-- R340: the first opening check that fails. -/
def State.openCheck (s : State) (st b : Nat) : Option Nat :=
  let w0 := s.desc st b 0
  let w1 := s.desc st b 1
  let count := s.bCount st b
  let nv := s.bNv st b
  let acc := (s.desc st b 2).toNat
  let vb := (s.desc st b 3).toNat
  let size := nv * versionSize (bits w1 31 30) count
  let state := s.bState st b
  let job := s.job st (s.bJob st b) 0
  let inOne (va n : Nat) : Bool := match s.xlateList st va n with | .ok _ _ => true | _ => false
  if state ≠ 0 ∧ state ≠ 4 then some 0x01
  else if bits w0 14 13 ≠ 0 ∨ bits w1 27 0 ≠ 0 ∨ s.bOrd st b = 3 ∨ bits w1 31 30 = 3 ∨ 16 < s.bChk st b ∨ nv = 1 then some 0x02
  else if count < 8 ∨ 4096 < count ∨ count % 8 ≠ 0 ∨ s.bE st b = 0 ∨ 4096 < s.bE st b then some 0x03
  else if s.bSat st b ∧ (s.bInt st b = false ∨ s.bOrd st b = 2) then some 0x04
  else if nv = 0 ∧ s.bInt st b = false then some 0x05
  else if bit job 63 = false ∨ s.bRound st b ≠ bits job 31 0 then some 0x06
  else if acc % 256 ≠ 0 ∨ inOne acc (4 * count) = false then some 0x07
  else if nv ≠ 0 ∧ (vb % 256 ≠ 0 ∨ inOne vb size = false) then some 0x08
  else if (s.liveBuckets st).any fun o =>
      decide (o ≠ b) && (match s.xlateList st acc (4 * count), s.xlateList st (s.desc st o 2).toNat (4 * s.bCount st o) with
        | .ok p _, .ok q _ => meets p (4 * count) q (4 * s.bCount st o)
        | _, _ => meets acc (4 * count) (s.desc st o 2).toNat (4 * s.bCount st o)) then some 0x09
  else if state = 0 ∧ s.poolFree st < s.resvFor st b + s.resvChkFor st b then some 0x0A
  else none

/-- R333, R349: a stack-only S instruction with the operand a; a compute core raises 0x01. -/
def guardStack (s : State) (k : State → Res) : Res := if isStack s.turn.u then k s else .next (raiseIllegal s)
/-- R340, R351: 0x0C with the bucket and a detail. -/
def raiseBucket (b detail : Nat) (s : State) : State := raiseAt 0x0C (BitVec.ofNat 64 b) 0 (BitVec.ofNat 16 detail) s
/-- BKCUR.BUCKET. -/
def Core.curBucket (c : Core) : Nat := bits c.bkcur 43 32

/-- R357, R455: a round that a bucket is opened for is not published by it; what an earlier attempt at that round left is discarded. -/
def State.unpublish (s : State) (st b : Nat) : State :=
  s.setDie st { s.die st with pubd := (s.die st).pubd.filter fun p => decide (p.2.2.1 ≠ b) || decide (p.2.1 < s.bRound st b) }
/-- R340, R351: `bkopen`. -/
def execBkopen (a : BitVec 6) (s : State) : Res :=
  guardStack s fun s => guardS0 [a] s fun s =>
    let v := s.rdS a
    let st := stackOf s.turn.u
    let b := v.toNat % 4096
    if 4096 ≤ v.toNat then raiseAt 0x0C v 0 0 s
    else match s.openCheck st b with
      | some d => raiseBucket b d s
      | none =>
        let s := if s.bState st b = 0 then s.modBucket st b fun x => { x with resv := s.resvFor st b, resvChk := s.resvChkFor st b } else s
        advance ((s.unpublish st b).openBucket st b)
/-- R339, R351: `bkclose`. -/
def execBkclose (a : BitVec 6) (s : State) : Res :=
  guardStack s fun s => guardS0 [a] s fun s =>
    let v := s.rdS a
    let st := stackOf s.turn.u
    let b := v.toNat % 4096
    if 4096 ≤ v.toNat then raiseAt 0x0C v 0 0 s
    else if s.bState st b = 3 then raiseBucket b 0x01 s
    else
      let s := (s.setBState st b 0).modBucket st b fun x => { Bucket.fresh with vers := x.vers }
      advance (s.setDie st { s.die st with cq := (s.die st).cq.filter fun c => c.2 ≠ b })

/-- R350, R356: whether an issued `cver` of a version is incomplete. -/
def State.verRead (s : State) (st b round : Nat) : Bool :=
  s.cores.any fun p => (p.2.ctx :: p.2.bank :: p.2.saved).any fun c => c.allCmds.any fun k =>
    match k.op with
    | .cver _ t x r _ _ => decide (t.toNat = st) && decide (x.toNat = b) && decide (r.toNat = round)
    | _ => false
/-- R350, R386: `bkwait`. -/
def execBkwait (d : BitVec 6) (s : State) : Res :=
  guardStack s fun s => guardS 0 d [] s fun s =>
    let u := s.turn.u
    let st := stackOf u
    let wait (s : State) : State := stall frzNone (s.modMe Ctx.beaconed)
    if bit (s.core u).bkcur 63 then raiseBucket (s.core u).curBucket 0 s
    else match (s.die st).cq with
      | [] => wait s
      | (_, b) :: rest =>
        let n := s.bRound st b
        let nv := s.bNv st b
        if nv ≠ 0 ∧ nv ≤ n + 1 ∧ s.verRead st b (n + 1 - nv) then wait s
        else
          let cur := BitVec.ofNat 64 (2 ^ 63 + s.bJob st b * 2 ^ 44 + b * 2 ^ 32 + n)
          let take (s : State) : State :=
            let s := s.modBucket st b fun x => { x with vers := if nv = 0 then x.vers else x.vers.filter (· ≠ n + 1 - nv) }
            let s := s.setBState st b 3
            let s := s.setDie st { s.die st with cq := rest, chain := mdel (s.die st).chain b }
            (s.modCore u fun k => { k with bkcur := cur }).landS 0 d cur 2
          jumpWith ((s.core u).spbase + BitVec.ofNat 64 (4 * bits (s.desc st b 1) 47 32)) take s

/-- R352: `hold`. -/
def execHold (a : BitVec 6) (s : State) : Res :=
  guardStack s fun s => guardS0 [a] s fun s =>
    let u := s.turn.u
    let v := s.rdS a
    let row := v.toNat / 2048
    match s.xlateList (stackOf u) v.toNat 1 with
    | .deny => raiseProt v s
    | .ok _ _ =>
      if row ∈ (s.core u).rows then advance s
      else if (s.core u).rows.length ≥ 4 then raiseProt v s
      else if s.rowHeld u v.toNat 1 then stall frzNone s
      else advance (s.modCore u fun k => { k with rows := k.rows ++ [row] })
    | _ => stall frzNone s
/-- R346, R352: `release`. -/
def execRelease (a : BitVec 6) (s : State) : Res :=
  guardStack s fun s => guardS0 [a] s fun s =>
    let u := s.turn.u
    let v := s.rdS a
    match s.xlateList (stackOf u) v.toNat 1 with
    | .deny => raiseProt v s
    | .ok _ _ =>
      advance ((s.modCore u fun k => { k with rows := k.rows.filter (· ≠ v.toNat / 2048) }).flushHeld (stackOf u))
    | _ => stall frzNone s

/-- R355: whether every access that S or V of a stack core issued before this cycle has been performed. -/
def State.stackQuiet (s : State) (u : Nat) : Bool :=
  !(s.outs.any fun o => decide (o.u = u) && decide (o.lid = (s.ctx u).lid) && decide (o.id < (s.ctx u).uid0) && (o.op.isStore || o.op.isLoad))
/-- R339, R346, R355: the update of bucket b ends: the next round opens, and its staged packets are applied. -/
def State.publishBucket (s : State) (st b n : Nat) : State :=
  let s := s.setDie st { s.die st with pubd := (s.die st).pubd ++ [(s.bJob st b, n, b, mget 0 (s.die st).chain b)] }
  let pk := (s.bucket st b).next
  let s := s.modBucket st b fun x => { x with next := [], vers := if s.bNv st b = 0 then x.vers else x.vers ++ [n + 1] }
  let s := (s.setDesc st b 0 (setBits (s.desc st b 0) 63 32 (n + 1))).openBucket st b
  pk.foldl (fun s p => s.takePacket st b p) s
/-- R280, R355: `pub`. -/
def execPub (s : State) : Res :=
  guardStack s fun s => .next <|
    let u := s.turn.u
    let c := s.core u
    if bit c.bkcur 63 = false then raiseAt 0x0C 0 0 0 s
    else if s.stackQuiet u = false then stall frzNone s
    else
      let s := s.publishHb c.ctx.lid u (stackOf u) c.curBucket (bits c.bkcur 31 0 + 1)
      let s := s.publishBucket (stackOf u) c.curBucket (bits c.bkcur 31 0)
      advance (s.modCore u fun k => { k with bkcur := setBits k.bkcur 63 63 0 })

/-- R355: whether S of the current stack core issues a `pub` on this cycle. Where a cause that has reached S is raised at the `pub` on this cycle,
so that the `pub` does not issue, a `chadd` of V still meets it (log 88). -/
def State.pubNow (s : State) (u : Nat) : Bool :=
  let c := s.ctx u
  c.s.run && decide (c.s.nextAt ≤ c.clk) && s.stackQuiet u && decide (s.fetch u c.s.pc = .word 0xCA000000)
/-- R353: `vsrnd`. -/
def execVsrnd (t : BitVec 1) (d a : BitVec 6) (g : BitVec 4) (p : BitVec 2) (x : BitVec 5) (s : State) : Res :=
  let bf := decide (g = 9)
  let legal := isStack s.turn.u && (if bf then decide (p.toNat ≤ 1) else (decide (g = 0xC) || decide (g = 0xD)) && decide (p = 0))
  guardV (legal && dstOk t d && vSrcOk [a]) [d, a] s fun s =>
    let c := s.me
    let k := s.core s.turn.u
    let e0 := (xLag c x.toNat).toNat
    let st := stackOf s.turn.u
    if bit k.bkcur 63 = false ∨ 4095 < e0 + 63 then raiseBucket k.curBucket 0 s
    else
      let seed := s.job st (bits k.bkcur 51 44) 1
      let rb (i : Nat) : BitVec 64 := srDraw seed (srCtrStack (BitVec.ofNat 32 (bits k.bkcur 31 0)) (BitVec.ofNat 3 st)
        (BitVec.ofNat 12 k.curBucket) (BitVec.ofNat 12 (e0 + i)))
      let av := vVal c a 32 0
      let el (i : Nat) : Ex := decodeF .fp32 (lane av 32 i)
      let y :=
        if bf then
          let dv := vDst c d
          ofLanes 16 ((List.range 128).map fun i =>
            if i / 64 = p.toNat then roundF (el (i % 64)) .bf16 .sr (rb (i % 64)) else lane dv 16 i)
        else
          let f := if g = 0xC then FFmt.e4m3 else .e5m2
          let pk (j : Nat) : Nat × List Nat := mxPack ((List.range 32).map fun i => el (32 * j + i)) f .sr (fun i => rb (32 * j + i))
          ofLanes 8 ((pk 0).2 ++ (pk 1).2 ++ [(pk 0).1, (pk 1).1])
      advance (s.landV t d y 6)
/-- R354, R355: `chadd`. -/
def execChadd (a : BitVec 6) (s : State) : Res :=
  guardV (isStack s.turn.u && vSrcOk [a]) [a] s fun s =>
    let c := s.me
    let u := s.turn.u
    let st := stackOf u
    if bit (s.core u).bkcur 63 = false ∨ s.pubNow u then raiseBucket (s.core u).curBucket 0 s
    else
      let b := (s.core u).curBucket
      let v := redAdd false false (mget 0 (s.die st).chain b) (BitVec.ofNat 32 (lane (vVal c a 32 0) 32 0))
      advance (s.setDie st { s.die st with chain := mput (s.die st).chain b v })

/-- R357: whether a stack is done with round n of a job: each of its buckets has published it (a bucket stands once in `pubd`, R455). -/
def State.stackDone (s : State) (st j n : Nat) : Bool :=
  decide (((s.die st).pubd.filter fun p => p.1 = j ∧ p.2.1 = n).length = bits (s.job st j 0) 44 32)
/-- R357: S_s: the chain slots of a job's buckets, in ascending bucket number. -/
def State.chainSum (s : State) (st j n : Nat) : BitVec 32 :=
  (List.range 4096).foldl (fun acc b =>
    match (s.die st).pubd.find? fun p => decide (p.1 = j) && decide (p.2.1 = n) && decide (p.2.2.1 = b) with
    | some p => redAdd false false acc p.2.2.2
    | none => acc) 0
/-- R357: the stacks of a job. -/
def State.jobStacks (s : State) (st j : Nat) : List Nat := (List.range 8).filter fun k => bit (s.job st j 0) (48 + k)
/-- R357: ROUND_PUBLISH: once every stack of a job is done with the round, the chain sums the norms and the round is
published in every member stack on one cycle. -/
def execRoundPublish (job : BitVec 8) (stack : BitVec 3) (s : State) : Res :=
  .next <|
    let j := job.toNat
    let n := bits (s.job stack.toNat j 0) 31 0
    let l := s.jobStacks stack.toNat j
    if bit (s.job stack.toNat j 0) 63 = false ∨ l = [] ∨ !(l.all fun k => s.stackDone k j n) then s
    else
      let norm := l.foldl (fun acc k => redAdd false false acc (s.chainSum k j n)) 0
      l.foldl (fun s k =>
        let s := s.setJob k j 2 (BitVec.ofNat 64 (n * 2 ^ 32 + norm.toNat))
        let s := s.setJob k j 0 (setBits (s.job k j 0) 31 0 (n + 1))
        s.setDie k { s.die k with pubd := (s.die k).pubd.filter fun p => ¬ (p.1 = j ∧ p.2.1 = n) }) s

/-- R338: BUCKET_DESCRIPTOR_WRITE. -/
def execBucketDescriptorWrite (stack : BitVec 3) (bucket : BitVec 12) (word : BitVec 2) (v : BitVec 64) (s : State) : Res :=
  .next (s.descWrite stack.toNat bucket.toNat word.toNat v)
/-- R337: JOB_RECORD_WRITE. -/
def execJobRecordWrite (stack : BitVec 3) (job : BitVec 8) (word : BitVec 2) (v : BitVec 64) (s : State) : Res :=
  .next (s.jobWrite stack.toNat job.toNat word.toNat v)
/-- R336: the entry of a page list. -/
def listOff (st e : Nat) : Nat := stackBlock st + 0x30000 + 8 * e
/-- R336, R420: LREFRESH clears SD of an entry; stalled accesses retry and staged packets are applied. -/
def State.listRefresh (s : State) (st : Nat) (v : Word) : State :=
  let e := v.toNat % 4096
  (s.setReg (listOff st e) (setBits (s.reg (listOff st e)) 62 62 0)).flushHeld st
/-- R336: LREFRESH. -/
def execLrefresh (stack : BitVec 3) (v : BitVec 64) (s : State) : Res := .next (s.listRefresh stack.toNat v)

end Sys2Proof.Machine
end

