-- ==== Sys2Proof/Machine/Land.lean ====
section
/-! DEFINITION. Events of a core's timetable: results land (R17 to R22, R158, R367, R390), data and causes reach the core
(R22, R217, R236, R242, R285), sends, window accesses and multicast writes arrive (R131 to R135), array commands start and
end (R215 to R221), stalls end (R100). -/
namespace Sys2Proof.Machine

/-- Whether the running context of a unit goes on with its timetable: no swap has been in progress before this cycle and no port
freezes it. The cycle on which a swap is decided ends in the ordinary way (R363). -/
def State.runs (s : State) (u : Nat) : Bool :=
  (match (s.core u).swap with | some w => decide (w.until_ = 0) || decide (w.until_ = s.now + 65) | none => true) &&
  !(s.core u).frozen

/-- R390: sequencer q consumes poison that came from an address: the trap domain swaps out at the next boundary and event
type 3 is posted; a handler context halts instead. -/
def State.consumePoison (s : State) (u : Nat) (q : SeqId) (a : Word) : State :=
  let pc := ((s.ctx u).seq q).pc
  let s := if (s.ctx u).handler then s.modSeq u q fun x => { x with run := false } else s.swapOut u
  s.post (evQueueOf u) [evWord0 3 0 (seqCode q) u, pc, a, 0]

/-- R390: register r of sequencer q takes a sound value. -/
def Ctx.heal (c : Ctx) (q : SeqId) (r : Nat) : Ctx :=
  if c.poison.isEmpty then c else { c with poison := c.poison.filter (· ≠ (q, r)) }
/-- R19, R20, R390: the places lo to hi of a queue of q move on by one: poison moves with them. -/
def Ctx.shiftPoison (c : Ctx) (q : SeqId) (lo hi : Nat) : Ctx :=
  if c.poison.isEmpty then c
  else { c with poison := c.poison.filterMap fun p =>
    if p.1 = q ∧ lo ≤ p.2 ∧ p.2 ≤ hi then (if p.2 = hi then none else some (p.1, p.2 + 1)) else some p }
/-- R390: what a landing register result does to the poison of S and V: its destination is sound, and the queue it enters moves on. -/
def Ctx.landPoison (c : Ctx) (q : SeqId) (l : Land) : Ctx :=
  if l.t then (if q = .S ∨ q = .V then c.shiftPoison q 56 58 else c)
  else
    let c := c.heal q l.dst.toNat
    if q = .S ∨ q = .V then c.shiftPoison q 40 55 else c
/-- R18 to R20: a register result lands. -/
def Ctx.landReg (c : Ctx) (q : SeqId) (l : Land) : Ctx :=
  let d := l.dst.toNat
  let c := c.landPoison q l
  let v := l.val.setWidth 64
  match q with
  | .S =>
    if l.t then { c with xb := vpush c.xb v }
    else
      let c := { c with xq := vpush c.xq v }
      if d < 32 then { c with x := vset c.x d v } else if d < 40 then { c with xo := vset c.xo (d - 32) v } else c
  | .V =>
    if l.t then { c with vb := vpush c.vb l.val }
    else
      let c := { c with vq := vpush c.vq l.val }
      if d < 32 then { c with vr := vset c.vr d l.val } else if d < 40 then { c with vo := vset c.vo (d - 32) l.val } else c
  | .M => { c with a := vset c.a d v }
  | .C => { c with g := vset c.g d v }

/-- R17, R116, R158, R367, R390: a ring entry of sequencer q lands; a poisoned value is consumed and does not land. -/
def State.landEnt (s : State) (u : Nat) (q : SeqId) (l : Land) : State :=
  if l.v = false then s
  else match l.poison with
    | some a => s.consumePoison u q a
    | none =>
      let d := l.dst.toNat
      match l.kind with
      | .reg => s.modCtx u fun c => c.landReg q l
      | .mask => s.modCtx u fun c => { c.heal q (64 + d) with mkr := vset c.mkr d (l.val.setWidth 256) }
      | .flag => s.modCtx u fun c => { c with vflag := vset c.vflag d (flagWord (vget c.vflag d 0) l.val) }
      | .csrw => s.csrWrite u (8 * l.index.toNat) (l.val.setWidth 64)
      | .reserved _ => s

/-- Whether a ring entry is due on this cycle of its context's clock. -/
def Land.isDue (l : Land) (clk : Nat) : Bool := decide (l.due ≤ clk)
/-- R22: whether a ring entry is due and its data has not arrived. -/
def Land.late (l : Land) (clk : Nat) : Bool := l.v && l.wait && decide (l.due ≤ clk)
/-- R22: whether a sequencer has a result due whose data has not arrived. -/
def Ctx.late (c : Ctx) (q : SeqId) : Bool := (c.seq q).ring.any fun l => l.late c.clk
/-- R22, R101: whether late data of any core of a timed domain freezes it, so that nothing lands. -/
def State.lateFreeze (s : State) (u : Nat) : Bool :=
  decide ((s.ctx u).mode = .timed) && (s.domain u).any fun j =>
    [SeqId.S, .V, .M, .C].any fun q => (s.ctx j).late q

/-- R17 to R19, R22: the results of sequencer q that are due land, in issue order. -/
def State.landDue (s : State) (u : Nat) (q : SeqId) : State :=
  let c := s.ctx u
  let r := (c.seq q).ring
  let go (l : Land) : Bool := l.isDue c.clk && !l.late c.clk
  let s := s.modSeq u q fun x => { x with ring := r.filter fun l => !go l }
  (r.filter go).foldl (fun s l => s.landEnt u q l) s
/-- RESULT_LANDING. -/
def execResultLanding (u : Nat) (q : SeqId) (s : State) : Res :=
  .next (if s.runs u ∧ ¬ s.lateFreeze u then s.landDue u q else s)

/-- STALL_RELEASE, R100, R126: the instructions of a domain that could not issue are tried together again. -/
def execStallRelease (u : Nat) (s : State) : Res :=
  .next <| (s.domain u).foldl (fun s j => s.modCtx j fun c =>
    { c with s := { c.s with stalled := false }, v := { c.v with stalled := false },
             m := { c.m with stalled := false }, c := { c.c with stalled := false } }) s

/-- Changes every ring entry of a context. -/
def Ctx.mapRings (c : Ctx) (f : Land → Land) : Ctx :=
  { c with s := { c.s with ring := c.s.ring.map f }, v := { c.v with ring := c.v.ring.map f },
           m := { c.m with ring := c.m.ring.map f }, c := { c.c with ring := c.c.ring.map f } }
/-- R369: changes the ring entry that waits for an access, wherever its context is. -/
def State.modLand (s : State) (u acc : Nat) (f : Land → Land) : State :=
  let g (l : Land) : Land := if l.acc = acc ∧ acc ≠ 0 then f l else l
  s.modCore u fun k => { k with ctx := k.ctx.mapRings g, bank := k.bank.mapRings g, saved := k.saved.map (·.mapRings g) }
/-- R22, R369: data reaches the ring entry that waits for it. -/
def State.giveData (s : State) (u acc : Nat) (v : Wide) (bad : Option Word) : State :=
  s.modLand u acc fun l => { l with wait := false, val := v, poison := bad, acc := 0 }
/-- R242, R284: the result that waits for an access does not land. -/
def State.dropLand (s : State) (u acc : Nat) : State := s.modLand u acc fun l => { l with wait := false, v := false, acc := 0 }

/-- An outstanding access by its identity. -/
def State.out (s : State) (id : Nat) : Option Out := s.outs.find? fun o => o.id = id
/-- Replaces an outstanding access. -/
def State.setOut (s : State) (o : Out) : State := { s with outs := s.outs.map fun p => if p.id = o.id then o else p }
/-- Removes an outstanding access. -/
def State.dropOut (s : State) (id : Nat) : State := { s with outs := s.outs.filter fun o => o.id ≠ id }

/-- Changes an array command wherever its context is. -/
def State.modCmd (s : State) (u lid id : Nat) (f : MCmd → MCmd) : State :=
  s.modCtxOf u lid fun c => { c with cmds := c.cmds.map fun k => if k.id = id then f k else k }
/-- R217: a command ends unstarted and counts as quiescent, for an `mswap` too (R199); its other lines are no longer waited for. -/
def State.dropCmd (s : State) (u lid id : Nat) : State :=
  let s : State := { s with outs := s.outs.filter fun o => decide (o.op ≠ OutOp.operand id) }
  s.modCtxOf u lid fun c =>
    { c with cmds := c.cmds.filter (fun k => k.id ≠ id), mswap := c.mswap.map fun l => l.filter (· ≠ id) }

/-- LOAD_DATA_ARRIVAL, R22, R217, R236, R369: the data of a load or atomic goes to its ring entry, that of an operand fetch
to its command. -/
def execLoadDataArrival (id : Nat) (s : State) : Res :=
  .next <| match s.out id with
    | none => s
    | some o =>
      if o.st ≠ .answered ∨ s.now < o.ready ∨ o.deny.isSome then s
      else
        let bad := if o.bad then some o.va else none
        match o.op with
        | .load z sg => (s.dropOut id).giveData o.u id (wide (extend z sg (leNat o.data))) bad
        | .amo _ z _ _ _ => (s.dropOut id).giveData o.u id (wide (extend z false (leNat o.data))) bad
        | .vload => (s.dropOut id).giveData o.u id (BitVec.ofNat 2048 (leNat o.data)) bad
        | .operand c =>
          (s.dropOut id).modCmd o.u o.lid c fun k =>
            { k with need := k.need.filter (· ≠ o.va.toNat / 64), got := k.got.wrL (atAddr o.va.toNat o.data),
                     bad := k.bad || o.bad }
        | _ => s

/-- What a cause that comes in place of an access's data undoes: the result does not land, the command ends unstarted, the
chunk is not filled. A refused store stays in the side log. -/
def State.undoOut (s : State) (o : Out) : State :=
  match o.op with
  | .load _ _ => (s.dropOut o.id).dropLand o.u o.id
  | .amo _ _ _ _ _ => (s.dropOut o.id).dropLand o.u o.id
  | .vload => (s.dropOut o.id).dropLand o.u o.id
  | .operand c => s.dropCmd o.u o.lid c
  | .fill r j ch =>
    (s.dropOut o.id).modCore r fun k => { k with regions := k.regions.map fun p =>
      if p.1 = j then (p.1, { p.2 with filling := mdel p.2.filling ch }) else p }
  | .store _ => s.setOut { o with deny := none }
  | .xlat _ _ => s.dropOut o.id
/-- R217, R266: the sequencer that a cause reaches: a denied operand is M's, whoever issued the command to the array. -/
def Out.raiser (o : Out) (c : CauseArgs) : SeqId :=
  match o.op with | .operand _ => if c.code = 0x04 then .M else o.q | _ => o.q
/-- DENIAL_ARRIVAL, R217, R242, R250, R285: a cause that an access met reaches the core and is raised on the first
instruction of its sequencer to reach issue. -/
def execDenialArrival (u : Nat) (q : SeqId) (c : CauseArgs) (s : State) : Res :=
  .next <| match s.outs.find? fun o => decide (o.u = u) && decide (o.q = q) && decide (o.deny = some c) with
    | some o => if s.now < o.ready then s else (s.undoOut o).deliverTo u o.lid (o.raiser c) c
    | none => s.deliverTo u (s.ctx u).lid q c

/-- Runs part of an event as the sequencer that it is charged to. -/
def State.asSeq (s : State) (u : Nat) (q : SeqId) (f : State → State) : State :=
  { f { s with turn := ⟨u, q⟩ } with turn := s.turn }

/-- R132: 0x06 reaches V, ahead of every other cause, to be raised on this very cycle. -/
def State.timingFault (s : State) (u : Nat) (c : CauseArgs) : State :=
  if (s.ctx u).v.run then s.modSeq u .V fun x => { x with deliver := c :: x.deliver } else s.deliverTo u (s.ctx u).lid .V c
/-- VSEND_ARRIVAL, R131, R132: the data that arrives on this domain cycle stays for a `vrecv` that V has due, when it is one
arrival alone; otherwise it is discarded and 0x06 is raised in V. Where V's fetch is not served yet the cycle is frozen (R126) and the
data stays. -/
def execVsendArrival (u : Nat) (s : State) : Res :=
  .next <|
    let c := s.ctx u
    let now := c.arrive.filter fun p => decide (p.1 = c.clk)
    let w := if c.v.run ∧ c.v.nextAt ≤ c.clk then s.fetch u c.v.pc else .deny
    if ¬ s.runs u ∨ now.isEmpty ∨ w = .wait then s
    else
      let due := match w with | .word w => decide (w.toNat / 2 ^ 25 = 0x61) | _ => false
      if due && decide (now.length = 1) then s
      else (s.modCtx u fun c => { c with arrive := c.arrive.filter fun p => decide (p.1 ≠ c.clk) }).timingFault u
        ⟨0x06, 0, c.v.pc, 0, BitVec.ofNat 64 c.clk⟩

/-- The cluster-window address of an offset in the scratchpad of a core (R119). -/
def winAddr (tgt off : Nat) : Nat := 2 ^ 63 + 0x1000000 + 0x200000 * clusterIdx tgt + off
/-- R282 to R285: a race that an access met after issue: its result does not land and the cause reaches its sequencer. -/
def State.lateRace (s : State) (u lid : Nat) (q : SeqId) (acc : Nat) (pc : Word) (line : Nat) (det : Word) : State :=
  ((s.dropLand u acc).raceDone u lid q (raceCause pc line det)).deliverTo u lid q (raceCause pc line det)
/-- The access identity of an access in flight of a unit. -/
def State.accAt (s : State) (u : Nat) (q : SeqId) (hb : Hist) : Acc := { s.accOf u q with hb := hb.vc, phase := hb.phase }

/-- R266: the party of a window access in flight. -/
def WinAcc.toucher (w : WinAcc) (u lid : Nat) : Toucher := ⟨u, w.q, lid, w.pc, w.hb⟩
/-- R266: the party of a multicast store in flight. -/
def McWrite.toucher (w : McWrite) (u lid : Nat) : Toucher := ⟨u, w.q, lid, w.pc, w.hb⟩
/-- R133, R282: a window load, store or atomic of unit u is performed at its target; one that meets an unfilled chunk waits
(R256). -/
def State.winPerform (s : State) (u : Nat) (w : WinAcc) : State :=
  let lid := (s.ctx u).lid
  let drop (s : State) : State := s.modCtx u fun c => { c with wins := c.wins.erase w }
  let offs := match w.rd with | some e => e.offs | none => w.wr.map (·.1)
  let r := s.touchBy (w.toucher u lid) w.target offs
  if r.1 = false then r.2
  else
    let keys := lineKeys (spadKeyBase w.target) offs
    let a := s.accAt u w.q w.hb
    match w.rd, w.amo with
    | some e, none =>
      match s.access a 0 (s.timed u) keys with
      | (some (l, det), s') => drop (s'.lateRace u lid w.q w.acc w.pc (winAddr w.target (keyOff l)) det)
      | (none, s') =>
        let v := s'.bbLoad u w.q w.target offs (e.read ((s.core w.target).spad.wrL w.wr))
        drop (v.2.giveData u w.acc v.1 (s.spadBad w.target offs))
    | some e, some (op, b, cmp, sc) =>
      let s := s.scFirst lid u w.q sc
      let a := { a with hb := s.vc (compOf lid u w.q) }
      match s.access a (2 + sc) (s.timed u) keys with
      | (some (l, det), s') => drop (s'.lateRace u lid w.q w.acc w.pc (winAddr w.target (keyOff l)) det)
      | (none, s') =>
        let off := offs.headD 0
        let old := leNat (((s.core w.target).spad.wrL w.wr).rdN off e.z)
        let new := (atAddr off (natLe e.z (amoNew op e.z old b cmp))).filter fun x => !(w.wr.any fun y => y.1 = x.1)
        let s' := (s'.spadWrite w.target new).scLast lid u w.q sc
        drop (s'.giveData u w.acc (wide (BitVec.ofNat 64 old)) (s.spadBad w.target offs))
    | none, _ =>
      match s.access a 1 (s.timed u) keys with
      | (some (l, det), s') => drop (s'.lateRace u lid w.q 0 w.pc (winAddr w.target (keyOff l)) det)
      | (none, s') => drop (s'.spadWrite w.target w.wr)
/-- WINDOW_ACCESS, R133, R134: the loads that are due are performed on the bytes of the cycle before, and when none is left the
stores and atomics. -/
def execWindowAccess (u : Nat) (s : State) : Res :=
  .next <|
    let c := s.ctx u
    if ¬ s.runs u then s
    else
      let due := c.wins.filter fun w => decide (w.due ≤ c.clk)
      let loads := due.filter fun w => w.rd.isSome && w.amo.isNone
      let todo := if loads.isEmpty then due else loads
      todo.foldl (fun s w => s.asSeq u w.q fun s => s.winPerform u w) s

/-- R135: the targets of a multicast write. -/
def McWrite.targets (w : McWrite) (u : Nat) : List Nat :=
  ((List.range 16).filter fun k => w.mask.getLsbD k).map (coreAt (clusterOf u))
/-- R135, R284: a multicast write is performed at every target, or at none when a race is met at one. -/
def State.mcPerform (s : State) (u : Nat) (w : McWrite) : State :=
  let offs := w.wr.map (·.1)
  let tg := w.targets u
  let r := tg.foldl (fun (p : Bool × State) j => let q := p.2.touchBy (w.toucher u (s.ctx u).lid) j offs; (p.1 && q.1, q.2)) (true, s)
  if r.1 = false then r.2
  else
    let s := s.modCtx u fun c => { c with mcast := c.mcast.erase w }
    match s.access (s.accAt u w.q w.hb) 1 (s.timed u) (tg.flatMap fun j => lineKeys (spadKeyBase j) offs) with
    | (some (l, det), s') => s'.lateRace u (s.ctx u).lid w.q 0 w.pc (2 ^ 63 + 0x4000000 + keyOff l) det
    | (none, s') => tg.foldl (fun s j => s.spadWrite j w.wr) s'
/-- MULTICAST_WRITE, R134, R135. -/
def execMulticastWrite (u : Nat) (s : State) : Res :=
  .next <|
    let c := s.ctx u
    if ¬ s.runs u then s
    else (c.mcast.filter fun w => decide (w.due ≤ c.clk)).foldl (fun s w => s.asSeq u w.q fun s => s.mcPerform u w) s

/-- R215: the last occupancy cycle of a command of M that has started, plus one. -/
def MCmd.until_ (k : MCmd) : Nat := match k.started with | some t => t + k.occ | none => 0
/-- R215: whether a command of M may start now as far as the queue goes: it is the first that has not, and the array is
free. -/
def Ctx.arrayFree (c : Ctx) (k : MCmd) : Bool :=
  decide ((c.cmds.find? fun x => !x.follow && x.started.isNone).map (·.id) = some k.id) &&
  !(c.cmds.any fun x => !x.follow && x.started.isSome && decide (c.clk < x.until_))
/-- R219: whether this cycle of the array is spare: no command of M occupies it or is ready to start. -/
def Ctx.spare (c : Ctx) (u : Nat) : Bool :=
  !(c.cmds.any fun x => !x.follow &&
    (match x.started with
     | some t => decide (t ≤ c.clk) && decide (c.clk < x.until_)
     | none => c.arrayFree x && decide (x.earliest u c ≤ c.clk) && x.need.isEmpty))
/-- R219: whether a follow-on may start now: those before it have done their cycles, this one is spare, and no command of M
issued before it on its region is unfinished. -/
def Ctx.followFree (c : Ctx) (u : Nat) (k : MCmd) : Bool :=
  decide ((c.cmds.find? fun x => x.follow && x.started.isNone).map (·.id) = some k.id) &&
  !(c.cmds.any fun x => x.follow && x.started.isSome && decide (x.left ≠ 0)) && c.spare u &&
  !((c.cmds.takeWhile fun x => decide (x.id ≠ k.id)).any fun x => !x.follow && x.overlaps k)
/-- R215, R219: whether a command is due to start on this cycle, as far as the timetable goes. -/
def Ctx.startDue (c : Ctx) (u : Nat) (k : MCmd) : Bool :=
  k.started.isNone && decide (k.earliest u c ≤ c.clk) && (if k.follow then c.followFree u k else c.arrayFree k)

/-- R210, R216: where the bytes of an operand stand: the unit and the offset of its base, for an operand in a scratchpad. -/
def Geo.home (g : Geo) (u : Nat) : Option (Nat × Nat) :=
  if g.mode = 1 then none
  else match locOf u g.base with
    | .own o => some (u, o)
    | .win k o => some (coreAt (clusterOf u) k, o)
    | _ => none
/-- The scratchpad bytes that a command reads: unit and offsets of each operand. -/
def MCmd.spadReads (k : MCmd) (u : Nat) : List (Nat × List Nat) :=
  if k.zero.isSome then []
  else [k.geoA, k.geoB].filterMap fun g => (g.home u).map fun h => (h.1, g.reads.map (h.2 + ·))
/-- R212, R216: the decoded rows of an operand as its bytes stand now. -/
def State.readOperand (s : State) (u : Nat) (k : MCmd) (g : Geo) (scales : List (BitVec 16)) : List (List Ex) :=
  match g.home u with
  | some h => let m := (s.core h.1).spad; g.decoded k.lct scales fun o => m.rd (h.2 + o)
  | none => g.decoded k.lct scales fun o => k.got.rd (g.base.toNat + o)
/-- R215, R216, R256, R282: a command that is due starts and reads its operands; it waits for bytes that have not come, and
a race ends it unstarted. -/
def State.startCmd (s : State) (u : Nat) (k : MCmd) : State :=
  let c := s.ctx u
  let rs := k.spadReads u
  let w : Toucher := ⟨u, k.party, c.lid, k.pc, k.hb⟩
  let t := rs.foldl (fun (p : Bool × State) r => let q := p.2.touchBy w r.1 r.2; (p.1 && q.1, q.2)) (true, s)
  if t.1 = false ∨ k.need ≠ [] then t.2
  else
    let far := rs.flatMap fun r => lineKeys (spadKeyBase r.1) r.2
    match s.access (s.accAt u k.party k.hb) 0 (s.timed u) far with
    | (some (l, det), s') =>
      let a := if keyUnit l = u then 2 ^ 63 + keyOff l else winAddr (keyUnit l) (keyOff l)
      ((s'.dropCmd u c.lid k.id).raceDone u c.lid k.party (raceCause k.pc a det)).deliverTo u c.lid k.party (raceCause k.pc a det)
    | (none, s') =>
      let bad := k.bad || rs.any fun r => s.spadPoison r.1 r.2
      let k' : MCmd := if k.zero.isSome then k else
        { k with opA := s.readOperand u k k.geoA (k.scales.take k.geoA.blocks),
                 opB := s.readOperand u k k.geoB (k.scales.drop k.geoA.blocks), bad := bad }
      s'.modCmd u c.lid k.id fun _ =>
        { k' with started := some c.clk, left := if k.follow then k.occ else 0,
                  quies := if k.follow then 0 else c.clk + k.occ + 13 }
/-- MATRIX_COMMAND_START. -/
def execMatrixCommandStart (u : Nat) (id : Nat) (s : State) : Res :=
  .next <|
    let c := s.ctx u
    match c.cmds.find? fun k => k.id = id with
    | some k => if s.runs u ∧ c.startDue u k then s.asSeq u k.party fun s => s.startCmd u k else s
    | none => s

/-- R215, R219: whether a command becomes quiescent at the end of this cycle. -/
def MCmd.ends (k : MCmd) (clk : Nat) : Bool := k.started.isSome && decide (k.left = 0) && decide (k.quies ≤ clk)
/-- R199: the exchange that an `mswap` waits for, once every command before it is quiescent; M issues on the next cycle. -/
def Ctx.swapBanks (c : Ctx) : Ctx :=
  if c.mswap = some [] then { c.exchange with m := { c.m with nextAt := c.clk + 1 } } else c
/-- QUIESCENCE, R198, R215: the updates of a command are all in the working bank; an `mswap` that waited for it no longer
does. The banks are exchanged at the end of the first cycle that finds every command it waits for quiescent (R199). A follow-on that C
issued after the `mswap` writes the new working bank, so it waits for the exchange (R221). A copy that carried the follow-on completes
(R219). -/
def execQuiescence (u : Nat) (id : Nat) (s : State) : Res :=
  .next <|
    let c := s.ctx u
    match c.cmds.find? fun k => k.id = id with
    | some k =>
      let behind := match c.mswap with | some l => decide (id ∉ l) | none => false
      if !(s.runs u) || !(k.ends c.clk) || (behind && decide (c.mswap ≠ some [])) then s
      else
        let s := s.modCtx u fun c =>
          let c := if behind then c.swapBanks else c
          { c.applyCmd k with cmds := c.cmds.filter (fun x => x.id ≠ id), mswap := c.mswap.map fun l => l.filter (· ≠ id) }
        match c.await.find? fun x => decide (x.sent = id) && x.slot.isSome with
        | some x => s.completeCopy u c.lid x
        | none => s
    | none => s

end Sys2Proof.Machine
end

