-- ==== Sys2Proof/Machine/Service.lean ====
section
/-! DEFINITION. The service of global accesses: their performance at the home slice (R242 to R249, R267, R284), the side log
(R246 to R251), region fills (R255, R256), walks (R237 to R241), shootdown and resolve (R243, R245, R419), and the movement
of pages between tiers (R260 to R263). -/
namespace Sys2Proof.Machine

/-- The pieces of an access that lie in one page of the smallest size each. -/
def spans (u va n : Nat) : List (Nat × Nat) :=
  let k := 65536 - va % 65536
  if isStack u ∨ n ≤ k then [(va, n)] else [(va, k), (va + k, n - k)]
/-- What the translation of all pieces of an access comes to: the pieces with their physical addresses and responses, or the
first outcome that is no mapping, with its address. -/
inductive TrAll where
  | ok (l : List (Nat × Nat × Nat × Word))
  | other (va : Nat) (t : Tr)
  deriving DecidableEq, Repr
/-- R232, R237: translates every piece. -/
def State.xlateAll (s : State) (u : Nat) (asid : BitVec 16) (l : List (Nat × Nat)) : TrAll :=
  l.foldl (fun r p =>
    match r with
    | .other _ _ => r
    | .ok acc => match s.xlate u asid p.1 p.2 with
      | .ok pa w => .ok (acc ++ [(p.1, p.2, pa, w)])
      | t => .other p.1 t) (.ok [])

/-- R242, R285: a cause takes the place of an access's data and is on its way to the core. -/
def State.denyOut (s : State) (o : Out) (c : CauseArgs) : State :=
  s.tickFree.setOut { o with st := .answered, deny := some c, ready := s.now + 1 + s.delayFor o.u o.lid o.q o.va.toNat 3 }
/-- R242: the access is denied. A denied operand names the base of the operand that the line belongs to (R217), A's where it is a line of
both. -/
def State.denyVa (s : State) (o : Out) (va : Nat) : State :=
  let a := match o.op with
    | .operand c => match (s.ctxOf o.u o.lid).cmds.find? fun k => k.id = c with
      | some k => if o.va.toNat / 64 ∈ k.geoA.lines then k.geoA.base else k.geoB.base
      | none => BitVec.ofNat 64 va
    | _ => BitVec.ofNat 64 va
  s.denyOut o ⟨0x04, 0, o.pc, a, 0⟩

/-- Changes the side-log entry of a store. -/
def State.modLog (s : State) (u id : Nat) (f : LogEnt → LogEnt) : State :=
  s.modCore u fun k => { k with slog := k.slog.map fun e => if e.id = id then f e else e }
/-- Removes the side-log entry of a store with its access. -/
def State.dropLog (s : State) (u id : Nat) : State :=
  (s.modCore u fun k => { k with slog := k.slog.filter fun e => e.id ≠ id }).dropOut id
/-- R247: a store stays in its entry as a logged store. -/
def State.logStore (s : State) (o : Out) (waits denied : Bool) : State :=
  (s.modLog o.u o.id fun e => { e with logged := true, waits := waits, denied := denied, resume := e.resume || denied }).setOut
    { o with st := .held }
/-- R250: the replay of a store is refused: it stays at the head, and 0x04 goes to its sequencer. -/
def State.refuseStore (s : State) (o : Out) (va : Nat) : State :=
  let s := s.logStore o true true
  s.tickFree.setOut { o with st := .held, deny := some ⟨0x04, 0, o.pc, BitVec.ofNat 64 va, 0⟩, ready := s.now + 1 + s.delayFor o.u o.lid o.q o.va.toNat 3 }

/-- R245, R418: the die whose page-fault queue takes a record of unit u; the mapper's own accesses go to CD0. -/
def faultDie (u : Nat) : Nat := if u < 384 then dieOf u else 0
/-- R243, R253: every translation cache drops the entries of a page. -/
def State.dropPage (s : State) (asid va size : Nat) : State :=
  let lo := va / pageBytes size * pageBytes size
  let keep (e : TlbEnt) : Bool := !(decide (e.asid.toNat = asid) && meets e.va (pageBytes (respSize e.resp)) lo (pageBytes size))
  { s with tlb := s.tlb.filter keep, seen := s.seen.filter keep }

/-- R336: whether a register is a page-list entry that is valid. -/
def validList (r : Nat × Word) : Bool :=
  let o := (r.1 - 0x2000000) % 0x100000
  decide (0x2000000 ≤ r.1) && decide (r.1 < 0x2800000) && decide (0x30000 ≤ o) && decide (o < 0x38000) && bit r.2 63
/-- R336: the page-list entries that are valid and chosen are shot down. -/
def State.shootWhere (s : State) (p : Nat × Word → Bool) : State :=
  { s with regs := s.regs.map fun r => if validList r && p r then (r.1, setBits (setBits r.2 63 63 0) 62 62 1) else r }
/-- R336: the page-list entries that hold a physical page of a dropped translation are shot down. -/
def State.shootLists (s : State) (pa n : Nat) : State :=
  s.shootWhere fun r => decide (bits r.2 61 60 ≠ 3) && meets (bits r.2 51 16 * 65536) (pageBytes (bits r.2 61 60)) pa n
/-- R243, R336: every copy of a page's translation is dropped, those of the stack page lists too. Log 28: which entries hold a page of
which no response has been seen is free; `old` is the physical page where the engine that asks knows it. -/
def State.shootPage (s : State) (asid va size : Nat) (old : Option Nat) : State :=
  let lo := va / pageBytes size * pageBytes size
  let hit := (((s.tlb ++ s.seen).filter fun e =>
    decide (e.asid.toNat = asid) && meets e.va (pageBytes (respSize e.resp)) lo (pageBytes size)).map fun e =>
      (respPa e.resp, pageBytes (respSize e.resp))) ++ (match old with | some pa => [(pa, pageBytes size)] | none => [])
  let s := if hit.isEmpty then { s with free := s.free + 1 }.shootWhere fun r => Config.listHolds s.free r.1
    else hit.foldl (fun s e => s.shootLists e.1 e.2) s
  s.dropPage asid va size

/-- R253: a store met a read-duplicated page: it is logged, a record of kind collapse is posted and every translation of the
page is dropped. -/
def State.collapse (s : State) (o : Out) (va : Nat) (r : Word) : State :=
  let s := s.logStore o true false
  (s.pageFault (faultDie o.u) o.u o.q o.asid va 8 (respSize r)).shootPage o.asid.toNat va (respSize r) (some (respPa r))

/-- The pieces of a store's bytes at their physical addresses. -/
def storeBytes (wr : List (Nat × Byte)) (va pa : Nat) : List (Nat × Byte) := wr.map fun w => (pa + (w.1 - va), w.2)

/-- How the package register space answers a read and takes a write, by offset (R399). -/
structure RegPort where
  rd : State → Nat → Word × State
  wr : State → Nat → Word → State
/-- R399: the register offset that an access of these physical pieces reaches: an aligned one of 8 bytes. -/
def regOff (l : List (Nat × Nat × Nat × Word)) : Option Nat :=
  match l with
  | [q] => if Config.regBase ≤ q.2.2.1 ∧ q.2.1 = 8 ∧ q.2.2.1 % 8 = 0 then some (q.2.2.1 - Config.regBase) else none
  | _ => none
/-- R242, R267, R268, R271 to R274, R284: an access whose pieces translate is performed at its home slice, an atomic with its
place in T; an aligned access of 8 bytes to the
register space reaches a register (R399), and a core's load of DATUM is a logged input (R451). -/
def State.performAt (s : State) (rp : RegPort) (o : Out) (l : List (Nat × Nat × Nat × Word)) : State :=
  let kind := match o.op with | .store _ => 1 | .amo _ _ _ _ sc => 2 + sc.toNat | _ => 0
  let s := match o.op with | .amo _ _ _ _ sc => s.scFirst o.lid o.u o.q sc.toNat | _ => s
  let a := match o.op with | .amo _ _ _ _ _ => { o.acc with hb := s.vc (compOf o.lid o.u o.q) } | _ => o.acc
  let t := s.globalAll a kind o.pc o.asid (l.map fun q => (q.1, q.2.1, q.2.2.1, q.2.2.2))
  let bytes := l.flatMap fun q => s.mem.rdN q.2.2.1 q.2.1
  let bad := l.any fun q => s.physPoison q.2.2.1 q.2.1
  match t.1 with
  | some c =>
    let t := (t.1, t.2.raceDone o.u o.lid o.q c)
    match o.op with
    | .store _ =>
      let s := t.2.logStore o false false
      let s := s.modCore o.u fun k => { k with slog := (k.slog.filter fun e => e.id ≠ o.id).map fun e =>
        if e.q = o.q ∧ e.lid = o.lid ∧ e.logged then { e with resume := true } else e }
      (s.dropOut o.id).deliverTo o.u o.lid o.q c
    | _ => (s.raceDone o.u o.lid o.q c).denyOut o c
  | none =>
    let s := t.2
    match o.op with
    | .store wr =>
      let pa := match l.head? with | some q => q.2.2.1 | none => 0
      (match regOff l with
       | some off => rp.wr s off (BitVec.ofNat 64 (leNat (wr.map fun (p : Nat × Byte) => p.2)))
       | none => s.physWrite (storeBytes wr o.va.toNat pa)).dropLog o.u o.id
    | .amo op z b cmp sc =>
      let pa := match l.head? with | some q => q.2.2.1 | none => 0
      let s := (s.physWrite (atAddr pa (natLe z (amoNew op.toNat z (leNat bytes) b.toNat cmp.toNat)))).scLast o.lid o.u o.q sc.toNat
      s.tickFree.setOut { o with st := .answered, data := bytes, bad := bad, ready := s.now + 1 + s.delayFor o.u o.lid o.q o.va.toNat 3 }
    | .load _ _ =>
      let r : List Byte × State := match regOff l with
        | some off =>
          let x := rp.rd s off
          if off = 0x3020000 ∧ o.u < Config.nUnits then
            (natLe 8 (x.2.inputVal 1 o.u o.q x.1).toNat, x.2.inputDone 1 o.u o.q x.1)
          else (natLe 8 x.1.toNat, x.2)
        | none => (bytes, s)
      r.2.tickFree.setOut { o with st := .answered, data := r.1, bad := bad, ready := s.now + 1 + s.delayFor o.u o.lid o.q o.va.toNat 3 }
    | _ => s.tickFree.setOut { o with st := .answered, data := bytes, bad := bad, ready := s.now + 1 + s.delayFor o.u o.lid o.q o.va.toNat 3 }

/-- R274, R446: whether an atomic that the plane carried has others before it in T that are still to be performed. -/
def State.outOfTurn (s : State) (o : Out) : Bool :=
  match o.op with
  | .amo _ _ _ _ sc => s.carriedOp o.lid o.u sc.toNat && !(s.amoFirst o.u o.lid)
  | _ => false
/-- R241, R242, R247, R253: an access is translated and performed, logged, denied, or begins a walk. -/
def State.tryOut (s : State) (rp : RegPort) (o : Out) : State :=
  match s.xlateAll o.u o.asid (spans o.u o.va.toNat o.op.size) with
  | .ok l =>
    match l.find? fun q => !(o.op.allowed q.2.2.2) with
    | some q =>
      if o.op.isStore then (if respDup q.2.2.2 then s.collapse o q.1 q.2.2.2 else s.refuseStore o q.1) else s.denyVa o q.1
    | none => if s.outOfTurn o then s else s.performAt rp o l
  | .other _ .stall => s
  | .other va .miss =>
    let s' := s.startWalk o.u o.q o.asid va o.op.kind
    if s'.walking (dieOf o.u) o.asid va ∧ o.st = .queued then s'.setOut { o with st := .walking } else s'
  | .other va _ => if o.op.isStore then s.refuseStore o va else s.denyVa o va

/-- The earlier stores of a store's sequencer that the side log still holds. -/
def State.earlier (s : State) (o : Out) : List LogEnt :=
  (s.core o.u).slog.filter fun e => decide (e.q = o.q) && decide (e.lid = o.lid) && decide (e.id < o.id)
/-- R247: whether every earlier store of the same sequencer has been performed or logged, and one is still logged. -/
def State.behindLog (s : State) (o : Out) : Bool := !(s.earlier o).isEmpty && (s.earlier o).all (·.logged)
/-- R83, R247: whether an earlier load of the same bytes still holds a store. -/
def State.loadsBefore (s : State) (o : Out) : Bool :=
  s.outs.any fun p => decide (p.u = o.u) && decide (p.lid = o.lid) && decide (p.q = o.q) && decide (p.id < o.id) &&
    p.op.isLoad && decide (p.st ≠ .answered) && decide (p.asid = o.asid) && meets p.va.toNat p.op.size o.va.toNat o.op.size

/-- R250, R290: whether a sequencer has resumed after the causes that reached it. -/
def State.resumed (s : State) (u lid : Nat) (q : SeqId) : Bool :=
  let k := s.core u
  decide (k.ctx.lid = lid) && k.swap.isNone && (k.ctx.seq q).deliver.isEmpty && !(s.outs.any fun o =>
    decide (o.u = u) && decide (o.lid = lid) && decide (o.q = q) && o.deny.isSome)
/-- R248: the logged store at the head of a sequencer's log. -/
def Core.logHead (k : Core) (q : SeqId) : Option LogEnt := k.slog.find? fun e => e.logged && decide (e.q = q)
/-- R248, R250, R290: whether a logged store at the head may be replayed, its page apart. -/
def State.replayReady (s : State) (u : Nat) (e : LogEnt) : Bool := !e.waits && (!e.resume || s.resumed u e.lid e.q)
/-- REGION_FILL_END, R255, R256, R390: the last byte of a chunk has landed and the chunk is FILLED. -/
def execRegionFillEnd (u : Nat) (slot chunk : Nat) (s : State) : Res :=
  .next <| match s.outs.find? fun o => decide (o.op = OutOp.fill u slot chunk) && decide (o.st = .answered) &&
      o.deny.isNone && decide (o.ready ≤ s.now) with
    | none => s
    | some o =>
      match (s.core u).regions.find? fun r => r.1 = slot with
      | none => s.dropOut o.id
      | some (_, r) =>
        let off := r.off + 4096 * chunk
        let lines := (List.range 64).map fun i => (u, off / 64 + i)
        let s := { s.dropOut o.id with
          misc := { s.misc with poisonSpad :=
            s.misc.poisonSpad.filter (fun p => p ∉ lines) ++ (if o.bad then lines else []) } }
        s.modCore u fun k =>
          { k with
            spad := k.spad.wrL (atAddr off o.data)
            regions := k.regions.map fun p => if p.1 = slot then
              (p.1, { p.2 with filled := chunk :: p.2.filled, filling := mdel p.2.filling chunk }) else p }

/-- Whether a walk answers an access (R237): the die, the ASID and the page, and a piece of it that translates to nothing. -/
def Walk.answers (w : Walk) (o : Out) : Bool :=
  decide (faultDie o.u = w.die) && decide (o.asid = w.asid) && decide (o.st = .walking) &&
  (spans o.u o.va.toNat o.op.size).any fun p => decide (p.1 / 65536 = w.va / 65536)
/-- Logged stores at a head of their core that a walk answers. -/
def State.walkStores (s : State) (w : Walk) : List (Nat × LogEnt) :=
  s.cores.flatMap fun p =>
    if isStack p.1 ∨ dieOf p.1 ≠ w.die then []
    else [SeqId.S, .V, .M, .C].filterMap fun q => match p.2.logHead q with
      | some e => if e.asid = w.asid ∧ ¬ e.waits ∧ (e.wr.any fun x => x.1 / 65536 = w.va / 65536) then some (p.1, e) else none
      | none => none

/-- Whether a command writes a region back (R316, R317). -/
def CCmd.isWb (k : CCmd) : Bool := match k.op with | .cwb _ => true | .cmap _ _ _ _ _ => true | _ => false
/-- R241, R304: the head command of a copy channel whose chunk an access translates for: a read or write of a copy by its channel, a
write-back of a command by the instruction that issued it. -/
def State.copyOf (s : State) (o : Out) : Option CCmd :=
  if 448 ≤ o.u then none else
  let c := s.ctxOf o.u o.lid
  match o.op with
  | .xlat 6 ch => (vget c.chans ch ⟨[], 0⟩).cmds.head?
  | .xlat 5 j => if j < 16 ∧ o.q = .C then c.chans.toList.findSome? fun x => match x.cmds with
      | k :: _ => if k.isWb ∧ k.pc = o.pc then some k else none
      | [] => none
    else none
  | _ => none
/-- R304: the head chunk of the copy channel that waits for a page is held for it; it starts anew when the page is resolved. -/
def State.holdCopy (s : State) (o : Out) (va : Option Word) : State :=
  match s.copyOf o with
  | some k => s.putCmd o.u o.lid { k with held := va, begun := false }
  | none => s
/-- R241: an access of an absent page is held, or logged, and a record is posted (R245). -/
def State.holdOut (s : State) (o : Out) (va size : Nat) : State :=
  let s := (if o.op.isStore then s.logStore o true false else s.setOut { o with st := .held }).holdCopy o (some o.va)
  s.pageFault (faultDie o.u) o.u o.q o.asid va o.op.kind size
/-- R241: a translation that an engine waits for is refused: a cause of the instruction fetch or of the write-back's
sequencer, the fault of a copy (R303). -/
def State.refuseXlat (s : State) (o : Out) : State :=
  let c : CauseArgs := ⟨0x04, 0, o.pc, o.va, 0⟩
  let s := s.dropOut o.id
  if 448 ≤ o.u then { s with outs := s.outs ++ [{ o with deny := some c, st := .answered }] }
  else match s.copyOf o, o.op with
  | some k, _ => s.copyFault o.u o.lid k (if k.isWb then k.done else k.next) 0x04 o.va none
  | none, .xlat 6 _ => s
  | none, .xlat 5 j => if j < 16 then s.deliverTo o.u o.lid o.q c else { s with outs := s.outs ++ [{ o with deny := some c, st := .answered }] }
  | none, .xlat 1 _ => s.deliverTo o.u o.lid o.q c
  | _, _ => { s with outs := s.outs ++ [{ o with deny := some c, st := .answered }] }

/-- The compute unit through whose caches and walker a unit's translations go (R237); the package's own engines use CD0. -/
def walkUnit (u : Nat) : Nat := if u < 384 then u else 0
/-- R237: an access that waits for a walk which the limit of 512 has kept back starts it once one has finished. -/
def State.rewalk (s : State) : State :=
  (s.outs.filter fun o => decide (o.st = .walking)).foldl (fun s o =>
    if s.walks.any fun w => w.answers o then s
    else match (spans o.u o.va.toNat o.op.size).find? fun p => s.xlate (walkUnit o.u) o.asid p.1 1 = .miss with
      | some p => s.startWalk (walkUnit o.u) o.q o.asid p.1 o.op.kind
      | none => { s with outs := s.outs.filterMap fun p =>
          if p.id = o.id then (match o.op with | .xlat _ _ => none | _ => some { o with st := .queued }) else some p }) s
/-- R252, R253, R286: a page that is no read-duplicated one is one copy again: what was stamped on its copies holds for it. -/
def State.joinCopies (s : State) (asid : BitVec 16) (base : Nat) (r : Word) : State :=
  if respDup r ∧ ¬ respW r then s
  else s.moveStamps (dupKeyBase asid + base / 64) (respPa r / 64) (pageBytes (respSize r) / 64)
/-- R237, R240, R241: a response word reaches every access that its walk answers; a mapping enters the caches. -/
def State.answerWalk (s : State) (w : Walk) (r : Word) : State :=
  let s := { s with walks := s.walks.filter fun x => x.id ≠ w.id }
  let mine := s.outs.filter w.answers
  let logs := s.walkStores w
  if respMaps r then
    let base := w.va / pageBytes (respSize r) * pageBytes (respSize r)
    let cls := ((w.u :: (mine.map (·.u) ++ logs.map (·.1))).map fun u => if u < 384 then clusterOf u else 0).eraseDups
    let ents := ⟨true, w.die, w.asid, base, r⟩ :: cls.map fun c => (⟨false, c, w.asid, base, r⟩ : TlbEnt)
    let s : State := { s with
      tlb := ents.foldl tlbAdd s.tlb
      seen := if s.seen.any fun e => decide (e.asid = w.asid) && decide (e.va = base) && decide (e.resp = r) then s.seen
        else s.seen ++ [⟨true, w.die, w.asid, base, r⟩]
      outs := s.outs.filterMap fun o =>
        if w.answers o then (match o.op with | .xlat _ _ => none | _ => some { o with st := .queued }) else some o }
    s.joinCopies w.asid base r
  else if respAbsent r then
    let s := mine.foldl (fun s o => s.holdOut o w.va (respSize r)) s
    logs.foldl (fun s p => (s.modLog p.1 p.2.id fun e => { e with waits := true }).pageFault w.die p.1 p.2.q w.asid w.va 2
      (respSize r)) s
  else
    let s := mine.foldl (fun s o =>
      if o.op.isStore then s.refuseStore o o.va.toNat
      else match o.op with
        | .xlat _ _ => s.refuseXlat o
        | _ => s.denyVa o o.va.toNat) s
    logs.foldl (fun s p => match s.out p.2.id with
      | some o => s.refuseStore o o.va.toNat
      | none => s) s
/-- A walk by its identity. -/
def State.walk (s : State) (id : Nat) : Option Walk := s.walks.find? fun w => w.id = id
/-- R241, R418: a walk ends with a response word, which waits with the walk while a page-fault record of the die is held. -/
def State.endWalk (s : State) (w : Walk) (r : Word) : State :=
  if respAbsent r && s.misc.evHeld.any fun e => decide (e.1 = 100 + w.die) then
    { s with walks := s.walks.map fun x => if x.id = w.id then { x with ans := some r } else x }
  else s.answerWalk w r
/-- WALK_RESPONSE, R238, R239: the first write of a walk's response word ends it; a walk that needed no routine is answered as
a denial whatever is written. -/
def execWalkResponse (id : Nat) (resp : BitVec 64) (s : State) : Res :=
  .next <| match s.walk id with
    | none => s
    | some w => (s.endWalk w (match w.ans with | some r => r | none => resp)).rewalk
/-- R238: a walk that its routine does not answer is answered as a denial and counted. -/
def State.failWalk (s : State) (id : Nat) : State :=
  match s.walk id with
  | none => s
  | some w => (match w.ans with | some r => s.endWalk w r | none => (s.walkErr w.die).answerWalk w respDeny).rewalk
/-- WALK_TIMEOUT, R238. -/
def execWalkTimeout (id : Nat) (s : State) : Res := .next (s.failWalk id)
/-- WALKER_TRAP, R238. -/
def execWalkerTrap (id : Nat) (s : State) : Res := .next (s.failWalk id)

/-- R8, R419: what a write of SHOOTCTL or RESOLCTL does to the register; none where a GO is ignored. GO stays set until DONE is. -/
def ctlWrite (old v : Word) : Option Word :=
  if bit v 63 ∧ (¬ bit old 62 ∨ bits v 17 16 = 3) then none
  else some (BitVec.ofNat 64 (bits v 17 0 + (if bit v 63 then 2 ^ 63 else bits old 63 62 * 2 ^ 62)))
/-- R8, R419: the operation of SHOOTCTL or RESOLCTL is complete: DONE := 1, and GO has acted. -/
def ctlDone (w : Word) : Word := setBits w 63 62 1
/-- R243, R419: a write of SHOOTCTL. -/
def State.shootdown (s : State) (die : Nat) (v : Word) : State :=
    let o := dieBlock die + 0x10018
    match ctlWrite (s.reg o) v with
    | none => s
    | some w =>
      let s := s.setReg o w
      if bit v 63 then
        let va := (s.reg (o - 8)).toNat
        let s := s.shootPage (bits v 15 0) va (bits v 17 16) none
        { s with shoot := s.shoot ++ [(die, bits v 15 0, va, bits v 17 16)] }
      else s
/-- SHOOTDOWN. -/
def execShootdown (die : BitVec 2) (v : BitVec 64) (s : State) : Res := .next (s.shootdown die.toNat v)
/-- R243: whether an access translated through a page is still being performed: a chunk in transfer. -/
def State.pageBusy (s : State) (asid va size : Nat) : Bool :=
  s.cores.any fun p => (p.2.ctx :: p.2.bank :: p.2.saved).any fun c =>
    decide (c.asid.toNat = asid) && c.chans.toList.any fun x => x.cmds.any fun k =>
      k.flights.any fun f => f.pieces.any fun q => decide (q.1.toNat / pageBytes size = va / pageBytes size)
/-- SHOOTDOWN_COMPLETE, R243: every access translated through the page is performed, and DONE is set. -/
def execShootdownComplete (die : BitVec 2) (s : State) : Res :=
  .next <| match s.shoot.find? fun x => x.1 = die.toNat with
    | none => s
    | some x =>
      if s.pageBusy x.2.1 x.2.2.1 x.2.2.2 then s
      else
        let o := dieBlock die.toNat + 0x10018
        { s.setReg o (ctlDone (s.reg o)) with shoot := s.shoot.filter fun y => y.1 ≠ die.toNat }

/-- R245: whether an address of an ASID lies in a named page. -/
def inPage (asid : BitVec 16) (va : Nat) (a page size : Nat) : Bool :=
  decide (asid.toNat = a) && decide (va / pageBytes size = page / pageBytes size)
/-- R245, R304, R383: every held access and logged store of a page is translated again; a spill that its page paused goes
on. Accesses of a replayed launch wait for the point that the log names (R396). -/
def State.resolvePage (s : State) (asid va size : Nat) : State :=
  let hit (o : Out) : Bool := decide (o.st = .held) && (spans o.u o.va.toNat o.op.size).any fun p => inPage o.asid p.1 asid va size
  let late (o : Out) : Bool := s.replays o.lid
  let held := s.outs.filter hit
  let s := held.foldl (fun s o => (s.holdCopy o none).logInput 6 o.u o.q [o.va, BitVec.ofNat 64 va]) s
  { s with
    absent := s.absent.filter fun a => !(decide (a.2.1 = asid) &&
      (decide (a.2.2.1 / pageBytes size = va / pageBytes size) ||
        meets a.2.2.1 (pageBytes a.2.2.2) (va / pageBytes size * pageBytes size) (pageBytes size)))
    misc := { s.misc with proceed := (s.misc.proceed ++ (held.filter late).map (·.id)).eraseDups }
    outs := s.outs.filterMap fun o =>
      if hit o && !late o then (match o.op with | .xlat _ _ => none | .store _ => some o | _ => some { o with st := .queued }) else some o
    cores := s.cores.map fun p => (p.1, { p.2 with
      slog := p.2.slog.map fun e =>
        if (e.wr.any fun x => inPage e.asid x.1 asid va size) && !(held.any fun o => decide (o.id = e.id) && late o) then { e with waits := false } else e
      spillst := if p.2.spillst = 2 ∧ inPage p.2.bank.asid (p.2.savebase.toNat + p.2.spillpos.toNat) asid va size then 1
                 else p.2.spillst }) }
/-- R396: the held accesses of replayed launches whose page is resolved proceed where the log says so, or freely behind its end. -/
def State.proceedLogged (s : State) : State :=
  s.misc.proceed.foldl (fun s id =>
    let done (s : State) : State := { s with misc := { s.misc with proceed := s.misc.proceed.filter (· ≠ id) } }
    match s.out id with
    | none => done s
    | some o =>
      let go (s : State) : State := done { s.modLog o.u id (fun e => { e with waits := false }) with outs := s.outs.filterMap fun x =>
        if x.id = id then (match x.op with | .xlat _ _ => none | .store _ => some x | _ => some { x with st := .queued }) else some x }
      match s.nextRec o.u o.q with
      | none => go s
      | some (ty, cyc, at_, pos) =>
        if ty = 6 ∧ cyc ≤ (s.ctx o.u).clk ∧ s.memWord (at_ + 16) = o.va then go (s.logMove o.u o.q pos) else s) s
/-- R245, R419: a write of RESOLCTL. -/
def State.resolve (s : State) (die : Nat) (v : Word) : State :=
    let o := dieBlock die + 0x10028
    match ctlWrite (s.reg o) v with
    | none => s
    | some w =>
      let s := s.setReg o w
      if bit v 63 then
        (s.resolvePage (bits v 15 0) (s.reg (o - 8)).toNat (bits v 17 16)).setReg o (ctlDone w)
      else s
/-- RESOLVE. -/
def execResolve (die : BitVec 2) (v : BitVec 64) (s : State) : Res := .next (s.resolve die.toNat v)

/-- Where the bytes of a page in storage stand: storage has no physical address (R234). -/
def storageAt (asid : BitVec 16) (va : Nat) : Nat := 2 ^ 84 + asid.toNat * 2 ^ 57 + va
/-- R261: the bytes of a page move as one unit. -/
def Mem.move (m : Mem) (old new n : Nat) : Mem :=
  let cells := m.filter fun c => decide (old ≤ c.1) && decide (c.1 < old + n)
  let rest := m.filter fun c => !(decide (old ≤ c.1) && decide (c.1 < old + n)) &&
    !(decide (new ≤ c.1) && decide (c.1 < new + n))
  Mem.wrL rest (cells.map fun c => (new + (c.1 - old), c.2))
/-- R243, R261: what the chunks in transfer still write to the page that moves goes with it: they were translated before. -/
def Ctx.relocate (c : Ctx) (old new n : Nat) : Ctx :=
  { c with chans := c.chans.map fun x => { x with cmds := x.cmds.map fun k =>
      { k with flights := k.flights.map fun f => { f with pieces := f.pieces.map fun p =>
          if old ≤ p.2.1 ∧ p.2.1 < old + n then (p.1, new + (p.2.1 - old), p.2.2) else p } } } }
/-- R261, R286, R390: a page moves with its stamps and its poison: its translation is removed, it is copied, and it is resolved. -/
def State.movePage (s : State) (asid : BitVec 16) (va size old new : Nat) (res : Bool) : State :=
  let n := pageBytes size
  let base := va / n * n
  let s := s.shootPage asid.toNat base size (some old)
  let s : State := { s with
    mem := s.mem.move old new n
    misc := { s.misc with poisonMem := (s.misc.poisonMem.filter fun l => !(decide (new / 64 ≤ l) && decide (l < (new + n) / 64))).map fun l =>
      if old / 64 ≤ l ∧ l < (old + n) / 64 then new / 64 + (l - old / 64) else l }
    cores := s.cores.map fun p => (p.1, { p.2 with
      ctx := p.2.ctx.relocate old new n, bank := p.2.bank.relocate old new n, saved := p.2.saved.map (·.relocate old new n) }) }
  let s := s.moveStamps (old / 64) (new / 64) (n / 64)
  if res then s.resolvePage asid.toNat base size else s
/-- R263, R265: a launch with variants is asked to switch: REQ names the lowest variant whose budget is below its HBM use. -/
def State.requestVariant (s : State) (l : Launch) : State :=
  let use := Config.hbmUse s.free
  let req := ((List.range l.nvar).find? fun v => decide (l.budget v < use)).getD 15
  let f (c : Ctx) : Ctx := if c.lid = l.id then { c with variant := setBits c.variant 11 8 req }.overBudget l use else c
  { s.tickFree with cores := s.cores.map fun p =>
      (p.1, { p.2 with ctx := f p.2.ctx, bank := f p.2.bank, saved := p.2.saved.map f }) }
/-- R260: whether a response that has been seen marks a page as never demoted. -/
def State.pinned (s : State) (asid : BitVec 16) (va size : Nat) : Bool :=
  (s.tlb ++ s.seen).any fun e => decide (e.asid = asid) && meets e.va (pageBytes (respSize e.resp)) va (pageBytes size) && bit e.resp 56
/-- R260: offset of the register of a tier. -/
def tierOff (t : Nat) : Nat := 0x3030000 + 8 * t
/-- R234, R260: the tier of a physical address: HBM, CXL or host memory. -/
def tierOf (pa : Nat) : Nat := if pa < 0x1000000000000 then 0 else if pa < 0x2000000000000 then 1 else 2
/-- R260: the engine of a tier sees its free count: it demotes from below LOW until HIGH is reached. -/
def State.engineSees (s : State) (tier free : Nat) : State :=
  let w := s.reg (tierOff tier)
  let on := decide (free < bits w 15 0) || (decide (tier ∈ s.misc.tiers) && decide (free < bits w 31 16))
  { s with misc := { s.misc with tiers := (if on then [tier] else []) ++ s.misc.tiers.filter (· ≠ tier) } }
/-- TIER_DEMOTION, R260, R261, R263: the engine of a tier meets a page with the tier's free count. Once the count has fallen below LOW the
page moves one tier down; a page with PIN stays, and so does one of a launch with variants, which below LOW of the HBM tier is asked to
switch. Of two launches with variants in one address space the first in the list is charged (log 30). -/
def execTierDemotion (tier : BitVec 2) (asid : BitVec 16) (va : BitVec 64) (size : BitVec 2) (oldPa : BitVec 64)
    (look : DemotionLook) (s : State) : Res :=
  .next <|
    if tier = 3 ∨ size = 3 then s
    else
      let t := tier.toNat
      let s := s.engineSees t look.free.toNat
      if t ∉ s.misc.tiers then s
      else match s.launches.find? fun l => decide (l.asid = asid) && decide (l.nvar ≠ 0) with
        | some l => if t = 0 ∧ look.free.toNat < bits (s.reg (tierOff 0)) 15 0 then s.requestVariant l else s
        | none =>
          if look.pin ∨ s.pinned asid va.toNat size.toNat ∨ tierOf oldPa.toNat ≠ t ∨ (t < 2 ∧ tierOf look.newPa.toNat ≠ t + 1) then s
          else s.movePage asid va.toNat size.toNat oldPa.toNat
            (if t = 2 then storageAt asid (va.toNat / pageBytes size.toNat * pageBytes size.toNat) else look.newPa.toNat) true
/-- R262: the highest tier with free space at or above LOW, `free` holding the free counts of the three tiers; none where there is no
such tier. -/
def State.roomyTier (s : State) (free : Nat) : Option Nat :=
  (List.range 3).find? fun t => decide (bits (s.reg (tierOff t)) 15 0 ≤ free / 2 ^ (16 * t) % 65536)
/-- PROMOTION, R260 to R262: a page whose accesses within one period of the engine reach PROMO moves one tier up; a page that comes from
storage goes to the highest tier with space and is resolved by system software. -/
def execPromotion (asid : BitVec 16) (va : BitVec 64) (size : BitVec 2) (oldPa : Option (BitVec 64))
    (look : PromotionLook) (s : State) : Res :=
  .next <|
    let t := tierOf look.newPa.toNat
    if size = 3 then s
    else match oldPa with
      | some o =>
        let promo := bits (s.reg (tierOff t)) 41 32
        if tierOf o.toNat ≠ t + 1 ∨ promo = 0 ∨ look.hits.toNat < promo then s
        else s.movePage asid va.toNat size.toNat o.toNat look.newPa.toNat true
      | none =>
        if s.roomyTier look.free.toNat ≠ some t then s
        else s.movePage asid va.toNat size.toNat
          (storageAt asid (va.toNat / pageBytes size.toNat * pageBytes size.toNat)) look.newPa.toNat false
/-- R260: a write of a tier register; HIGH below LOW leaves both unchanged. -/
def State.tierWrite (s : State) (t : Nat) (v : Word) : State :=
  if t ≥ 3 then s
  else if bits v 31 16 < bits v 15 0 then s.setReg (tierOff t) (setBits (s.reg (tierOff t)) 41 32 (bits v 41 32))
  else s.setReg (tierOff t) (v &&& 0x3FFFFFFFFFF)
/-- TIER_REGISTER_WRITE. -/
def execTierRegisterWrite (tier : BitVec 2) (v : BitVec 64) (s : State) : Res := .next (s.tierWrite tier.toNat v)

end Sys2Proof.Machine
end

