-- ==== Sys2Proof/Machine/Swap.lean ====
section
/-! DEFINITION. The end of a swap (R371, R372, R375), spills and the loading of handler contexts (R379, R382 to R384, R412), the
watchdog (R386 to R388) and soft errors (R348, R389, R390). -/
namespace Sys2Proof.Machine

/-- R144, R408: the clusters of a launch's stake, row by row from its origin. -/
def Launch.stake (l : Launch) : List Nat :=
  let w5 := hdrWord l.hdr 5
  (List.range (bits w5 3 2 + 1)).flatMap fun y => (List.range (bits w5 6 4 + 1)).map fun x =>
    (bits w5 8 7 + y) * 6 + bits w5 11 9 + x
/-- R408: MODE of a launch header. -/
def Launch.mode (l : Launch) : Nat := bits (hdrWord l.hdr 0) 39 38
/-- R411, R412: the units that a launch runs on. -/
def Launch.units (l : Launch) : List Nat :=
  if l.mode = 2 then (List.range 8).map fun i => 384 + 8 * bits (hdrWord l.hdr 5) 11 9 + i
  else l.stake.flatMap fun cl => (List.range 16).map (coreAt cl)
/-- R412: the place k of a unit in its launch's stake. -/
def Launch.placeOf (l : Launch) (u : Nat) : Nat :=
  if isStack u then (u - 384) % 8 else 16 * (l.stake.idxOf (clusterOf u)) + clusterIdx u
/-- R412: SAVEBASE and SAVELEN of a core of a launch at its start. -/
def Launch.saveArea (l : Launch) (u : Nat) : Word × BitVec 16 :=
  (hdrWord l.hdr 8 + BitVec.ofNat 64 (0x200000 * l.placeOf u), 32)

/-- The outcome of a translation that an engine of the package makes. -/
inductive Svc where
  | ok (pa : Nat)
  | wait
  | deny
  deriving DecidableEq, Repr
/-- R237: translation for an engine: of a compute core through its cluster's caches, of a stack or the package through those
of CD0. -/
def State.svcXlate (s : State) (u : Nat) (asid : BitVec 16) (va : Nat) : Tr :=
  if u < 384 then s.xlate u asid va 1
  else if va ≥ 2 ^ 57 then .deny
  else match s.tlbFind 0 asid va with
    | some r => .ok (respPa r + va % pageBytes (respSize r)) r
    | none => .miss
/-- R241, R245: one page for an engine; a tag from 2,048 on marks one that it writes. While a walk or a held page is outstanding the engine waits. -/
def State.svcPage (s : State) (u lid : Nat) (asid : BitVec 16) (va kind tag : Nat) : Svc × State :=
  match s.outs.find? fun o => decide (o.u = u) && decide (o.lid = lid) && decide (o.op = OutOp.xlat kind tag) with
  | some o => if o.deny.isSome then (.deny, s.dropOut o.id) else (.wait, s)
  | none => match s.svcXlate u asid va with
    | .ok pa r => if kindAllowed (if 2048 ≤ tag then 5 else kind) r then (.ok pa, s) else (.deny, s)
    | .deny => (.deny, s)
    | .stall => (.wait, s)
    | .miss =>
      let o : Out := ⟨s.uid, u, .S, lid, 0, asid, BitVec.ofNat 64 va, .xlat kind tag, .walking, s.now, [], false, none, ⟨[], 0⟩⟩
      (.wait, { s with outs := s.outs ++ [o], uid := s.uid + 1 }.startWalk (walkUnit u) .S asid va kind)
/-- A range of n bytes in pieces that lie in one 64 KiB page each. -/
def pageSpans : Nat → Nat → Nat → List (Nat × Nat)
  | 0, _, _ => []
  | f + 1, va, n =>
    if n = 0 then []
    else
      let k := min n (65536 - va % 65536)
      (va, k) :: pageSpans f (va + k) (n - k)
/-- What an engine's reading of a range comes to. -/
inductive SvcBytes where
  | ok (l : List (Nat × Nat))
  | wait
  | deny
  deriving DecidableEq, Repr
/-- The physical pieces of a range that an engine reads. -/
def State.svcRange (s : State) (u lid : Nat) (asid : BitVec 16) (va n kind tag : Nat) : SvcBytes × State :=
  (pageSpans (n / 65536 + 2) va n).foldl (fun (r : SvcBytes × State) p =>
    match r.1 with
    | .ok l => match r.2.svcPage u lid asid p.1 kind tag with
      | (.ok pa, s) => (.ok (l ++ [(pa, p.2)]), s)
      | (.wait, s) => (.wait, s)
      | (.deny, s) => (.deny, s)
    | _ => r) (.ok [], s)
/-- The words of physical pieces, with their offsets. -/
def piecesWords (m : Mem) (l : List (Nat × Nat)) : List (Nat × Word) :=
  (l.foldl (fun (r : Nat × List (Nat × Word)) p =>
    (r.1 + p.2, r.2 ++ (List.range (p.2 / 8)).map fun i =>
      (r.1 + 8 * i, BitVec.ofNat 64 (leNat (m.rdN (p.1 + 8 * i) 8))))) (0, [])).2

/-- R382, R412: the handler image of a launch is loaded into the shadow bank of a core; answers whether that is done. A launch
without an image leaves the bank empty. -/
def State.loadHandler (s : State) (u lid : Nat) : Bool × State :=
  match s.launch lid with
  | none => (true, s)
  | some l =>
    let himg := (hdrWord l.hdr 7).toNat
    if himg = 0 then (true, s.modCore u fun k => { k with bank := Ctx.zero, bankKind := .empty })
    else match s.svcRange u lid l.asid himg 0x30000 0 17 with
      | (.ok ps, s) =>
        let h := { handlerCtx (piecesWords s.mem ps) lid l.asid with poisoned := ps.any fun p => s.physPoison p.1 p.2 }
        (true, s.modCore u fun k => { k with bank := h, bankKind := .handler, hpc := h.s.pc })
      | (.wait, s) => (false, s)
      | (.deny, s) => (true, s.modCore u fun k => { k with bank := Ctx.zero, bankKind := .empty })

/-- R371, R384: the swap of a domain that waits for its shadow banks begins once all are ready. -/
def State.releaseSwaps (s : State) (u : Nat) : State :=
  match (s.core u).swap with
  | some w =>
    let dom := s.domain u
    if w.until_ = 0 ∧ (dom.all fun j => (s.core j).bankReady w.spill) then
      dom.foldl (fun s j => s.modCore j fun k => { k with swap := k.swap.map fun w => { w with until_ := s.swapUntil dom } }) s
    else s
  | none => s

/-- R93, R367, R398: a context that enters a core tries its instructions afresh, S reads V's loop registers as they stand, and the results of
an elastic one wait with it for its first issue. -/
def Ctx.afresh (c : Ctx) : Ctx :=
  { c with barTry := none, vl0 := c.v.lp0, vl1 := c.v.lp1
           fresh := if c.mode = .timed then [] else [c.s.nextAt, c.v.nextAt, c.m.nextAt, c.c.nextAt]
           s := { c.s with stalled := false }, v := { c.v with stalled := false }, m := { c.m with stalled := false },
           c := { c.c with stalled := false } }
/-- The handler image address, the save area and the region slots of a core are those of the context that runs. -/
def State.adopt (s : State) (u lid : Nat) : State :=
  match s.launch lid with
  | none => s
  | some l =>
    s.modCore u fun k =>
      let r := mget ([], (l.saveArea u).1, (l.saveArea u).2) k.savedRg lid
      { k with himg := hdrWord l.hdr 7, regions := r.1, savebase := r.2.1, savelen := r.2.2 }
/-- R352, R371, R372, R375, R382, R385, R388: a core has exchanged its running context and its shadow bank; a trap that a watchdog cut off waits
for its handler again. -/
def State.exchangeCore (s : State) (u : Nat) (w : Swap) : State :=
  let k := { s.core u with frzNs := 0, fillWant := [], rows := [] }
  if w.toHandler then
    s.setCore u { k with ctx := k.bank.afresh, bank := k.ctx.afresh, bankKind := .trapped, swap := none, hdone := none }
  else if w.spill then
    let inc := if k.bankKind = .queued then k.bank.afresh else Ctx.zero
    let out := k.ctx.afresh
    let k1 := { k with
      ctx := { inc with trap := none }, swap := inc.trap.map fun _ => ⟨0, true, false⟩, hdone := none
      hevent := (inc.trap.getD (0, 0)).1, hseq := (inc.trap.getD (0, 0)).2, active := decide (inc.lid ≠ 0),
      saved := k.saved.filter (fun c => c.lid ≠ inc.lid), saved0 := k.saved0.filter (fun c => c.lid ≠ inc.lid), regions := [] }
    if out.lid = 0 then (s.setCore u { k1 with bank := Ctx.zero, bankKind := .empty }).adopt u inc.lid
    else
      s.setCore u { k1 with
        bank := out, bankKind := .spilling, spillst := 1, spillpos := 0, spillgo := false,
        savedRg := mput k.savedRg out.lid (k.regions, k.savebase, k.savelen),
        himg := match s.launch inc.lid with | some l => hdrWord l.hdr 7 | none => 0,
        regions := (mget ([], 0, 0) k.savedRg inc.lid).1 }
  else
    let h := k.ctx
    s.setCore u { k with
      ctx := k.bank.afresh.resumeCopies, bankKind := .handler, swap := none, hdone := none, hevent := 0, hseq := 0,
      bank := { h with s := { h.s with pc := k.hpc, run := true, nextAt := h.clk, deliver := [], fault := .zero, stalled := false } } }
/-- SWAP_END, R371: the 64 cycles have passed, and the incoming context issues on this cycle. -/
def execSwapEnd (u : Nat) (s : State) : Res :=
  .next <| match (s.core u).swap with
    | some w => if w.until_ = 0 ∨ s.now < w.until_ then s else s.exchangeCore u w
    | none => s

/-- R380, R382: the bytes of a page of a context image from offset o. A granule that the context has not touched since its start is all
zero. -/
def Core.imagePage (k : Core) (c : Ctx) (free o : Nat) : List Byte :=
  if o ≥ 0x30000 ∧ ((o - 0x30000) / Config.granule, false) ∈ c.toFill then List.replicate 65536 0
  else (List.range 8192).flatMap fun i => natLe 8 (k.imageWord c free (o + 8 * i)).toNat
/-- R390: a poisoned element of a context poisons the context. -/
def Ctx.poisonWhole (c : Ctx) : Ctx :=
  let bad := !c.poison.isEmpty || !c.accBad.isEmpty ||
    [SeqId.S, .V, .M, .C].any fun q => (c.seq q).ring.any fun l => l.v && l.poison.isSome
  { c with poisoned := c.poisoned || bad }
/-- R382, R383: the spill has ended: the bank is free, and the context is found again at the save area that took it. -/
def State.spillDone (s : State) (u : Nat) : State :=
  let k := s.core u
  let c := k.bank.poisonWhole
  let s := s.setCore u { k with
    saved := c :: k.saved.filter (fun c => c.lid ≠ k.bank.lid), saved0 := c :: k.saved0.filter (fun c => c.lid ≠ k.bank.lid)
    savedRg := mput k.savedRg c.lid ((mget ([], 0, 0) k.savedRg c.lid).1, k.savebase, k.savelen)
    bank := Ctx.zero, bankKind := .empty, spillst := 0, spillgo := false }
  match s.launch (s.ctx u).lid with
  | some l => s.modCore u fun k =>
      let r := mget ([], (l.saveArea u).1, (l.saveArea u).2) k.savedRg l.id
      { k with savebase := r.2.1, savelen := r.2.2 }
  | none => s
/-- R383: the spill is pinned, and an event of type 4 names the cause and the address. -/
def State.pinSpill (s : State) (u state cause : Nat) (addr info : Word) : State :=
  (s.modCore u fun k => { k with spillst := BitVec.ofNat 3 state, bankKind := .pinned, spillgo := false }).post (evQueueOf u)
    [evWord0 4 cause 4 u, 0, addr, info]
/-- R390: the poisoned lines of granule g of a unit's scratchpad. -/
def State.badLines (s : State) (u g : Nat) : List Nat :=
  (s.misc.poisonSpad.filter fun p => decide (p.1 = u) && decide (p.2 / 1024 = g)).map fun p => p.2 % 1024
/-- R382, R390: a page of the image is written, the poison of a granule's lines with it; a granule that has not been filled from the image
stands there already. -/
def State.spillPage (s : State) (u pa pos : Nat) : State :=
  let k := s.core u
  if pos ≥ 0x30000 ∧ ((pos - 0x30000) / Config.granule, true) ∈ k.bank.toFill then s
  else
    let s := s.tickFree.physWrite (atAddr pa (k.imagePage k.bank s.free pos))
    if pos < 0x30000 then s
    else match s.badLines u ((pos - 0x30000) / Config.granule) with
      | [] => s
      | ls => s.physTaint (ls.map fun l => pa + 64 * l)
/-- R382, R383: the pages of the image are written in ascending order from POS, as far as they can be. -/
def State.spillPages (u : Nat) : Nat → State → State
  | 0, s => s
  | f + 1, s =>
    let k := s.core u
    let pos := k.spillpos.toNat
    if k.bank.imageSize ≤ pos then s.spillDone u
    else
      let va := k.savebase + BitVec.ofNat 64 pos
      let tag := 16
      match s.svcPage u k.bank.lid k.bank.asid va.toNat 5 tag with
      | (.ok pa, s) => State.spillPages u f ((s.spillPage u pa pos).modCore u fun k => { k with spillpos := BitVec.ofNat 21 (pos + 65536) })
      | (.wait, s) =>
        if s.outs.any fun o => decide (o.u = u) && decide (o.op = OutOp.xlat 5 tag) && decide (o.st = .held) then
          s.modCore u fun k => { k with spillst := 2, spillgo := false }
        else s
      | (.deny, s) => s.pinSpill u 4 0x12 va 0
/-- R382, R390: granule g of a scratchpad takes its bytes from the page of the image at a physical address, poison with them. -/
def State.fillFrom (s : State) (u g pa : Nat) : State :=
  let bytes := (s.mem.filter fun c => decide (pa ≤ c.1) && decide (c.1 < pa + 65536)).map fun c => (g * Config.granule + (c.1 - pa), c.2)
  let bad := (List.range 1024).filter fun i => s.physPoison (pa + 64 * i) 64
  let s := s.putGranule u g bytes
  if bad.isEmpty then s
  else { s with misc := { s.misc with poisonSpad := s.misc.poisonSpad ++ bad.map fun i => (u, g * 1024 + i) } }
/-- R242, R382: the fill of the first granule that is wanted; where its page of the image is refused, 0x04 reaches the sequencer that
touched it (log 81). -/
def State.fillWanted (s : State) (u : Nat) : State :=
  let k := s.core u
  match k.fillWant with
  | [] => s
  | (g, u', q) :: r =>
    let c := k.padOwner
    if !(c.toFill.any fun f => f.1 = g) then s.modCore u fun k => { k with fillWant := r }
    else
    let l := mget ([], k.savebase, k.savelen) k.savedRg c.lid
    match s.svcPage u c.lid c.asid (l.2.1.toNat + 0x30000 + g * Config.granule) 0 20 with
    | (.ok pa, s) => s.fillFrom u g pa
    | (.wait, s) => s
    | (.deny, s) => (s.modCore u fun k => { k with fillWant := r }).deliverTo u' (s.ctx u').lid q
        ⟨0x04, 0, ((s.ctx u').seq q).pc, BitVec.ofNat 64 (2 ^ 63 + g * Config.granule), 0⟩
/-- SPILL_END, R371, R382 to R384: once the chunks in transfer have landed the spill goes on to its end, or to the page that stops it; a free bank takes the handler context
of the launch that runs, and a queued context that a trap finds there is dropped. Granules that have been touched are filled. -/
def execSpillEnd (u : Nat) (s : State) : Res :=
  .next <|
    let s := s.fillWanted u
    let k := s.core u
    match k.bankKind with
    | .spilling =>
      if k.spillst ≠ 1 ∨ k.bank.moving then s
      else if k.savelen.toNat * 65536 < k.bank.imageSize then s.pinSpill u 3 0x11 k.savebase (BitVec.ofNat 64 k.bank.imageSize)
      else (State.spillPages u 32 s).releaseSwaps u
    | .empty =>
      if k.ctx.lid = 0 ∨ k.ctx.handler ∨ k.himg = 0 then s.releaseSwaps u
      else (s.loadHandler u k.ctx.lid).2.releaseSwaps u
    | .queued =>
      match k.swap with
      | some w =>
        if w.toHandler then
          let s := s.modLaunch k.bank.lid fun l => if l.st = .running then { l with st := .waiting } else l
          (s.modCore u fun k => { k with bank := Ctx.zero, bankKind := .empty })
        else s
      | none => s
    | _ => s
/-- SPILL_GO, R383, R385: system software writes SPILLST.GO, or repairs SAVEBASE or SAVELEN, or writes FRZLIM (log 87). -/
def execSpillGo (w : SystemWrite) (s : State) : Res := .next <| s.modCore w.u fun k =>
  match w.what with
  | .go => k.spillGo
  | .savebase v => k.handlerPut 0xC08 v
  | .savelen v => k.handlerPut 0xC10 (v.setWidth 64)
  | .frzlim v => k.handlerPut 0xC28 (v.setWidth 64)

/-- R388: the watchdog of unit u's trap domain fires. -/
def State.fireWatchdog (s : State) (u : Nat) : State :=
  (s.swapOut u).post (evQueueOf u) [evWord0 2 0x10 0 u, (s.ctx u).s.pc, 0, 0]
/-- Whether a launch's own context runs on a unit and no swap is in progress. -/
def State.plainRun (s : State) (u : Nat) : Bool :=
  decide ((s.ctx u).lid ≠ 0) && !(s.ctx u).handler && (s.core u).swap.isNone
/-- WATCHDOG_FIRE, R386, R388: LEFT has reached 0. -/
def execWatchdogFire (u : Nat) (s : State) : Res :=
  .next (if s.plainRun u ∧ (s.ctx u).wdogPer ≠ 0 ∧ (s.ctx u).wdogLeft = 0 then s.fireWatchdog u else s)
/-- R388: whether the continuous freeze of a core has just come to last longer than FRZLIM allows; a cycle is 20/21 ns. The 64 cycles of a
swap are themselves such a boundary as the watchdog waits for. -/
def Core.overLimit (k : Core) : Bool :=
  decide (k.ctx.mode = .timed) && decide (k.frzlim ≠ 0) && decide (21 * k.frzlim.toNat < k.frzNs) &&
  decide (k.frzNs ≤ 21 * k.frzlim.toNat + 20) && (match k.swap with | some w => decide (w.until_ = 0) | none => true)
/-- FREEZE_LIMIT, R384, R388: one continuous freeze of a timed domain has lasted longer than LIMIT. -/
def execFreezeLimit (u : Nat) (s : State) : Res :=
  .next (if (s.ctx u).lid ≠ 0 ∧ (s.core u).overLimit then s.fireWatchdog u else s)

/-- R388: the units of the trap domain of a context that was swapped out of unit u. -/
def domainOfCtx (c : Ctx) (u : Nat) : List Nat :=
  if c.mode = .timed then (List.range 16).map (coreAt (clusterOf u)) else [u]
/-- R388: the context of a unit that the watchdog swapped out: spilled, being spilled, or still to be swapped. -/
def State.hungCtx (s : State) (u : Nat) : Option Ctx :=
  let k := s.core u
  if (match k.swap with | some w => w.spill | none => false) = true then some k.ctx
  else if k.bankKind = .spilling ∨ k.bankKind = .pinned then some k.bank
  else k.saved.find? fun c => !c.moving || decide (c.copies ≠ [])
/-- DOMAIN_RESUME, R388: the host resumes a domain that was swapped out: LEFT := PERIOD, and the mapper may swap it in. -/
def execDomainResume (u : Nat) (s : State) : Res :=
  .next <| match s.hungCtx u with
    | none => s
    | some c =>
      if u ∈ s.misc.hung then
        let dom := domainOfCtx c u
        let s := { s with misc := { s.misc with hung := s.misc.hung.filter fun j => j ∉ dom } }
        dom.foldl (fun s j => s.modCtxOf j c.lid fun c => { c with wdogLeft := c.wdogPer }) s
      else s
/-- HANDLER_RELOAD, R377, R379: system software reloads the handler context of a core whose handler has faulted, and the hardware that of
a core whose launch was killed; while a page of the image does not translate the reload is tried again. -/
def execHandlerReload (u : Nat) (s : State) : Res :=
  .next <|
    let k := s.core u
    let done (s : State) : State := { s with misc := { s.misc with reload := s.misc.reload.filter (· ≠ u) } }
    let again (s : State) : State := { s with misc := { s.misc with reload := (u :: s.misc.reload).eraseDups } }
    if k.ctx.handler ∧ k.ctx.s.run = false ∧ k.hdone.isNone ∧ k.swap.isNone then
      match s.launch k.ctx.launch with
      | none => done s
      | some l => match s.svcRange u l.id l.asid (hdrWord l.hdr 7).toNat 0x30000 0 17 with
        | (.ok ps, s) => (done s).setCtx u { handlerCtx (piecesWords s.mem ps) l.id l.asid with poisoned := ps.any fun p => s.physPoison p.1 p.2 }
        | (_, s) => again s
    else if k.ctx.lid = 0 ∧ k.bankKind = .empty then
      match s.launches.find? fun l => decide (l.st = .ending) && decide (u ∈ l.units) with
      | none => done s
      | some l => match s.loadHandler u l.id with
        | (true, s) => done s
        | (false, s) => again s
    else done s

/-- CORRECTABLE_ERROR, R389. -/
def execCorrectableError (u : Nat) (s : State) : Res :=
  .next (s.modCore u fun k => { k with ecccnt := setBits k.ecccnt 31 0 (bits k.ecccnt 31 0 + 1) })
/-- R389: an uncorrectable error of a core is counted. -/
def State.countUncor (s : State) (u : Nat) : State :=
  s.modCore u fun k => { k with ecccnt := setBits k.ecccnt 63 32 (bits k.ecccnt 63 32 + 1) }
/-- R339, R348: a soft error poisons a bucket in OPEN or COMPLETE; in its other states the error has no effect on the bucket. -/
def State.hitBucket (s : State) (st b : Nat) (d : Word) : State :=
  if s.bState st b = 1 ∨ s.bState st b = 2 then s.poisonBucket st b d else s
/-- R348: the buckets of a stack whose accumulator lines hold a physical address. -/
def State.bucketsAt (s : State) (st pa : Nat) : List Nat :=
  if 8 ≤ st then []
  else (s.liveBuckets st).filter fun b => match s.listPa st (s.desc st b 2).toNat with
    | some a => decide (a / 64 ≤ pa / 64) && decide (pa / 64 ≤ (a + 4 * s.bCount st b - 1) / 64)
    | none => false
/-- UNCORRECTABLE_ERROR, R348, R390: the unit that holds it is poisoned. -/
def execUncorrectableError (what : PoisonUnit) (s : State) : Res :=
  .next <| match what with
    | .physLine pa =>
      let st := pa / Config.stackBytes
      (s.bucketsAt st pa).foldl (fun s b => s.hitBucket st b (BitVec.ofNat 64 pa)) (s.physTaint [pa])
    | .spadLine u off =>
      let s := s.countUncor u
      { s with misc := { s.misc with poisonSpad := (s.misc.poisonSpad ++ [(u, off / 64)]).eraseDups } }
    | .ringEntry u q i => (s.countUncor u).modSeq u q fun x =>
        { x with ring := x.ring.zipIdx.map fun p => if p.2 = i then { p.1 with poison := some 0 } else p.1 }
    | .mainReg u q r => (s.countUncor u).modCtx u fun c => { c with poison := (c.poison ++ [(q, r)]).eraseDups }
    | .accComponent u vis i => (s.countUncor u).modCtx u fun c => { c with accBad := (c.accBad ++ [(vis, i)]).eraseDups }
    | .context u => (s.countUncor u).modCtx u fun c => { c with poisoned := true }
    | .bucket st b d => s.hitBucket st.toNat b.toNat d

end Sys2Proof.Machine
end

