-- ==== Sys2Proof/Machine/Launch.lean ====
section
/-! DEFINITION. Host queues (R402 to R405), the mapper (R406, R407), launch headers and their checks (R144 to R146, R408 to
R413), partitions and power (R414 to R417). -/
namespace Sys2Proof.Machine

/-- R402: offset of word w of queue descriptor q. -/
def queueOff (q w : Nat) : Nat := 0x20000 + 32 * q + 8 * w
/-- R402: word w of queue descriptor q. -/
def State.queue (s : State) (q w : Nat) : Word := s.reg (queueOff q w)
/-- R414: offset of register w of partition p: PARTA, PARTB, PPOWER, PENERGY. -/
def partOff (p w : Nat) : Nat := 0x10000 + 64 * p + 8 * w
/-- R414: register w of partition p. -/
def State.part (s : State) (p w : Nat) : Word := s.reg (partOff p w)
/-- R414: PARTA.EN. -/
def State.partEn (s : State) (p : Nat) : Bool := bit (s.part p 0) 63
/-- R414: PARTA.ASID. -/
def State.partAsid (s : State) (p : Nat) : BitVec 16 := BitVec.ofNat 16 (bits (s.part p 0) 47 32)

/-- R402: entries of a ring; values 13 to 15 of LOGSZ act as 12. -/
def ringSize (w1 : Word) : Nat := 2 ^ (min (bits w1 47 44) 12 + 4)
/-- R402, R403: HEAD. -/
def State.qHead (s : State) (q : Nat) : Nat := bits (s.queue q 1) 31 16
/-- R403: whether an entry is pending. -/
def State.pending (s : State) (q : Nat) : Bool :=
  decide (s.qHead q % ringSize (s.queue q 1) ≠ bits (s.queue q 1) 15 0 % ringSize (s.queue q 1))
/-- R402: whether the ring lies in HBM or host memory. -/
def ringPlaced (base : Nat) : Bool :=
  decide (base < 8 * Config.stackBytes) || (decide (0x2000000000000 ≤ base) && decide (base < 0x3000000000000))
/-- The queues whose descriptors have been written. -/
def State.queues (s : State) : List Nat :=
  s.regs.filterMap fun r =>
    if 0x20000 ≤ r.1 ∧ r.1 < 0x28000 ∧ r.1 % 32 = 8 then some ((r.1 - 0x20000) / 32) else none
/-- R406: whether a queue is eligible. -/
def State.eligible (s : State) (q : Nat) : Bool := bit (s.queue q 1) 63 && s.pending q
/-- R402: BOUND. -/
def State.bound (s : State) (q : Nat) : Bool := bit (s.queue q 3) 63
/-- R402: SLOT. -/
def State.slotOf (s : State) (q : Nat) : Nat := bits (s.queue q 3) 39 32
/-- The launch that a queue has taken and not completed. -/
def State.launchOf (s : State) (q : Nat) : Option Launch := s.launches.find? fun l => l.queue = q

/-- R387: a write of a notify register ends every `beacon.w` that idles in a launch of the queue. -/
def State.wakeQueue (s : State) (q : Nat) : State :=
  let f (c : Ctx) : Ctx :=
    let g (x : Seq) : Seq := { x with woken := x.woken || x.idle }
    if (s.launches.any fun l => decide (l.id = c.launch) && decide (l.queue = q)) then
      { c with s := g c.s, v := g c.v, m := g c.m, c := g c.c }
    else c
  { s with cores := s.cores.map fun p => (p.1, { p.2 with ctx := f p.2.ctx, bank := f p.2.bank, saved := p.2.saved.map f }) }
/-- R406: frees every slot whose queue has no pending entry to take and no launch. -/
def State.freeSlots (s : State) : State :=
  s.misc.slots.foldl (fun s p =>
    if (s.eligible p.2 ∨ (s.launchOf p.2).isSome) then s
    else
      { s.setReg (queueOff p.2 3) 0 with misc := { s.misc with slots := mdel s.misc.slots p.1 } }) s
/-- R387, R403, R406: a write of a notify register; a slot whose queue it leaves empty is freed. -/
def State.notify (s : State) (q : Nat) (v : Word) : State :=
  let w := s.queue q 1
  let s := if bits v 15 0 < ringSize w then (s.setReg (queueOff q 1) (setBits w 15 0 (bits v 15 0))).freeSlots else s
  s.wakeQueue q
/-- NOTIFY, R387, R403, R406. -/
def execNotify (queue : BitVec 10) (v : BitVec 64) (s : State) : Res := .next (s.notify queue.toNat v)

/-- R400, R402: a write of a descriptor word; while EN = 1 only EN changes; no queue is enabled before a correctly signed image is
loaded. -/
def State.queueWrite (s : State) (q word : Nat) (v : Word) : State :=
  let w := s.queue q 1
  let en := bit v 63 && bit (s.reg 8) 63
  match word with
  | 0 => if bit w 63 then s else s.setReg (queueOff q 0) (v &&& 0x000FFFFFFFFFFFC0)
  | 1 =>
    if bit w 63 then (s.setReg (queueOff q 1) (setBits w 63 63 (b2n (bit v 63)))).freeSlots
    else s.setReg (queueOff q 1) ((v &&& 0x07E0F00000000000) ||| (w &&& 0xFFFFFFFF) ||| BitVec.ofNat 64 (b2n en * 2 ^ 63))
  | _ => s
/-- QUEUE_DESCRIPTOR_WRITE, R400, R402. -/
def execQueueDescriptorWrite (queue : BitVec 10) (word : BitVec 2) (v : BitVec 64) (s : State) : Res :=
  .next (s.queueWrite queue.toNat word.toNat v)

/-- R406: how many ageing steps a waiting queue has gained. -/
def State.ageSteps (s : State) (q : Nat) : Nat := mget 0 s.misc.waits (2 * q + 1)
/-- R406: the effective priority of a queue. -/
def State.effPrio (s : State) (q : Nat) : Nat := min 7 (bits (s.queue q 1) 58 56 + s.ageSteps q)
/-- PRIORITY_AGEING, R406: each AGE microseconds of datum time that a queue waits eligible and unbound raise its effective
priority by one. -/
def execPriorityAgeing (s : State) : Res :=
  .next <|
    let age := 1000 * bits (s.reg 0x18) 15 0
    let w := s.queues.foldl (fun (w : Map Nat) q =>
      if s.eligible q ∧ ¬ s.bound q then
        match w.find? fun p => p.1 = 2 * q with
        | none => mput w (2 * q) s.datumNs.toNat
        | some p => mput w (2 * q + 1) (if age = 0 then 0 else (s.datumNs.toNat - p.2) / age)
      else mdel (mdel w (2 * q)) (2 * q + 1)) s.misc.waits
    { s with misc := { s.misc with waits := w } }

/-- The element of a list with the highest key, and among equals the first in round-robin order after `last`. -/
def pickBest (l : List Nat) (key : Nat → Nat) (last n : Nat) : Option Nat :=
  l.foldl (fun b x =>
    match b with
    | none => some x
    | some y =>
      let d (z : Nat) : Nat := (z + n - 1 - last % n) % n
      if key y < key x ∨ (key y = key x ∧ d x < d y) then some x else b) none
/-- QUEUE_BIND, R406: slots that are no longer needed are freed, and the eligible queue of the highest effective priority is
bound to a free slot. -/
def execQueueBind (s : State) : Res :=
  .next <|
    let s := s.freeSlots
    let free := (List.range 32).find? fun i => !(s.misc.slots.any fun p => p.1 = i)
    let cand := s.queues.filter fun q => s.eligible q && !(s.bound q)
    match free, pickBest cand s.effPrio s.misc.lastBound 1024 with
    | some i, some q =>
      { s.setReg (queueOff q 3) (BitVec.ofNat 64 (2 ^ 63 + i * 2 ^ 32)) with
        misc := { s.misc with slots := mput s.misc.slots i q, lastBound := q,
                              waits := mdel (mdel s.misc.waits (2 * q)) (2 * q + 1) } }
    | _, _ => s

/-- A field of a header word. -/
def Launch.fld (l : Launch) (w hi lo : Nat) : Nat := bits (hdrWord l.hdr w) hi lo
/-- R408: the partition, registers, granules and group of a launch. -/
def Launch.part (l : Launch) : Nat := l.fld 0 34 32
/-- R408: GROUP. -/
def Launch.group (l : Launch) : Nat := l.fld 0 20 13
/-- R408: PERS. -/
def Launch.pers (l : Launch) : Bool := bit (hdrWord l.hdr 0) 37
/-- R408: NROUTE. -/
def Launch.nroute (l : Launch) : Nat := l.fld 5 21 12
/-- R408: the entry PCs of S, V, M and C at the start. -/
def Launch.entries (l : Launch) : List Word :=
  hdrWord l.hdr 1 :: (List.range 3).map fun i => hdrWord l.hdr (if l.nvar = 0 then 2 + i else 9 + i)
/-- R263, R408: the entry PCs of V, M and C of a variant. -/
def Launch.ventries (l : Launch) (v : Nat) : List Word := (List.range 3).map fun i => hdrWord l.hdr (9 + 4 * v + i)

/-- R410: the reserved fields of a header are zero. -/
def Launch.reservedOk (l : Launch) : Bool :=
  decide (l.fld 0 36 35 = 0) && decide (l.fld 0 31 29 = 0) && decide (l.fld 0 12 12 = 0) && decide (l.fld 0 5 5 = 0) &&
  decide (l.fld 5 31 22 = 0) && decide (l.fld 5 1 0 = 0) && (decide (l.mode ≠ 2) || decide (l.fld 5 8 2 = 0)) &&
  ((List.range 4).all fun v =>
    if v < l.nvar then decide (l.fld (12 + 4 * v) 63 32 = 0)
    else (List.range 4).all fun i => decide (hdrWord l.hdr (9 + 4 * v + i) = 0)) &&
  ((List.range 7).all fun i => decide (hdrWord l.hdr (25 + i) = 0))
/-- R410: check 6 of Table 17.5. -/
def Launch.entriesOk (l : Launch) : Bool :=
  let vs := (List.range (min l.nvar 4)).flatMap l.ventries
  decide (l.mode ≠ 3) && (((List.range 4).map fun i => hdrWord l.hdr (1 + i)) ++ vs).all (fun e => decide (e.toNat % 4 = 0)) &&
  (decide (l.mode ≠ 2) || (decide (hdrWord l.hdr 3 = 0) && decide (hdrWord l.hdr 4 = 0) && decide (l.fld 0 4 0 = 0) && l.pers &&
    (List.range (min l.nvar 4)).all fun v => decide (hdrWord l.hdr (10 + 4 * v) = 0) && decide (hdrWord l.hdr (11 + 4 * v) = 0)))
/-- R453, R456: whether a launch of a group may run: the plane is RUNNING and no other launch of the GROUP runs or is pre-empted here. -/
def State.groupFree (s : State) (l : Launch) : Bool :=
  decide (l.group = 0) || (decide (bits (s.reg 0x3010018) 63 62 = 1) &&
    !(s.launches.any fun k => decide (k.id ≠ l.id) && (decide (k.st = .running) || decide (k.st = .preempted)) &&
       decide (k.group = l.group)))
/-- R410: the first of checks 2 to 11 of Table 17.5 that a header fails, by its detail code. -/
def State.headerFault (s : State) (l : Launch) : Option Nat :=
  if l.fld 0 63 48 ≠ 0x4C48 ∨ l.fld 0 47 40 ≠ 1 then some 0x07
  else if l.reservedOk = false ∨ 552 < l.nroute ∨ (hdrWord l.hdr 6).toNat % 8 ≠ 0 then some 0x08
  else if l.fld 0 11 6 % 8 ≠ 0 ∨ 32 < l.fld 0 11 6 then some 0x09
  else if 24 < l.fld 0 4 0 then some 0x0A
  else if l.entriesOk = false then some 0x0B
  else if 4 < l.nvar ∨ (l.nvar ≠ 0 ∧ ((List.range 3).any fun i => decide (hdrWord l.hdr (2 + i) ≠ 0))) then some 0x0C
  else if l.part ≠ bits (s.queue l.queue 1) 55 53 ∨ s.partEn l.part = false ∨
     (l.mode = 2 ∧ bit (s.part l.part 0) (24 + l.fld 5 11 9) = false) then some 0x0D
  else if decide (l.fld 5 63 32 ≠ 0) ≠ l.pers then some 0x0E
  else if (hdrWord l.hdr 7).toNat % 65536 ≠ 0 ∨ (hdrWord l.hdr 8).toNat % 65536 ≠ 0 then some 0x0F
  else if (l.fld 0 25 25 = 1 ∧ l.group = 0) ∨ s.groupFree l = false then some 0x10
  else none

/-- R409: a routing-table entry: source, destination, hop count, hops. -/
def routeHops (e : Word) : List Nat := (List.range (bits e 53 50)).map fun h => bits e (2 * h + 1) (2 * h)
/-- R409: the cluster one hop on; none outside the mesh. -/
def hopFrom (cl dir : Nat) : Option Nat :=
  let x := cl % 6
  let y := cl / 6
  match dir with
  | 0 => if y = 0 then none else some (cl - 6)
  | 1 => if x = 5 then none else some (cl + 1)
  | 2 => if y = 3 then none else some (cl + 6)
  | _ => if x = 0 then none else some (cl - 1)
/-- R145: the clusters that a path visits; none once it leaves the mesh. -/
def pathFrom : Nat → List Nat → List (Option Nat)
  | _, [] => []
  | cl, d :: r => match hopFrom cl d with
    | some c => some c :: pathFrom c r
    | none => [none]
/-- R145: the default path: to the destination column first, then to its row. -/
def defaultHops (a b : Nat) : List Nat :=
  List.replicate (b % 6 - a % 6) 1 ++ List.replicate (a % 6 - b % 6) 3 ++
  List.replicate (b / 6 - a / 6) 2 ++ List.replicate (a / 6 - b / 6) 0
/-- R145: the channels a path uses, each as a cluster and a direction. -/
def pathChans : Nat → List Nat → List Nat
  | _, [] => []
  | cl, d :: r => (4 * cl + d) :: (match hopFrom cl d with | some c => pathChans c r | none => [])
/-- R145: the edges of a path, from each channel to the next. -/
def chanEdges (l : List Nat) : List (Nat × Nat) := l.zip (l.drop 1)
/-- R146: drops the edges whose first channel no edge leads to, n times; the edges that stay lie on or behind a cycle. -/
def pruneEdges : Nat → List (Nat × Nat) → List (Nat × Nat)
  | 0, l => l
  | n + 1, l => pruneEdges n (l.filter fun e => l.any fun d => d.2 = e.1)
/-- R146: whether edges between the 96 channels form a cycle. -/
def hasCycle (l : List (Nat × Nat)) : Bool := !(pruneEdges 96 l).isEmpty
/-- R144: whether a stake lies in the mesh and in the partition's rectangle. -/
def stakeOk (w5 rect : Word) : Bool :=
  let x0 := bits w5 11 9
  let y0 := bits w5 8 7
  let px := bits rect 11 9
  let py := bits rect 8 7
  decide (x0 + bits w5 6 4 < 6) && decide (y0 + bits w5 3 2 < 4) && decide (px ≤ x0) && decide (py ≤ y0) &&
  decide (x0 + bits w5 6 4 ≤ px + bits rect 6 4) && decide (y0 + bits w5 3 2 ≤ py + bits rect 3 2)
/-- R145, R146, R409: the first check of Table 5.9 that a launch's stake and routes fail, by its detail code. -/
def routeFault (w5 rect : Word) (stake : List Nat) (es : List Word) : Option Nat :=
  let src (e : Word) : Nat := bits e 63 59
  let dst (e : Word) : Nat := bits e 58 54
  let pairs := es.map fun e => (src e, dst e)
  if stakeOk w5 rect = false then some 0x01
  else if (es.any fun e => decide (bits e 49 20 ≠ 0) || decide (bits e 53 50 = 0) || decide (10 < bits e 53 50) ||
      decide (bits e 19 0 / 2 ^ (2 * bits e 53 50) ≠ 0) || decide (src e ∉ stake) || decide (dst e ∉ stake)) ∨
     pairs.eraseDups.length ≠ pairs.length then some 0x02
  else if es.any fun e => (pathFrom (src e) (routeHops e)).any fun c =>
      match c with | some k => decide (k ∉ stake) | none => true then some 0x03
  else if es.any fun e => decide ((pathFrom (src e) (routeHops e)).getLastD none ≠ some (dst e)) then some 0x04
  else
    let own := es.flatMap fun e => chanEdges (pathChans (src e) (routeHops e))
    let dflt := stake.flatMap fun a => stake.flatMap fun b =>
      if a = b ∨ (a, b) ∈ pairs then [] else chanEdges (pathChans a (defaultHops a b))
    if hasCycle (own ++ dflt).eraseDups then some 0x05 else none

/-- The unit number under which the mapper's own accesses run; they come from no core. -/
def mapperUnit : Nat := 1000
/-- R410: what the checks of a launch come to. -/
inductive HdrChk where
  | wait
  | fail (detail : Nat)
  | pass (hdr : List Word)
  deriving DecidableEq, Repr
/-- R410, R424: the words of a range that check 1 reads; poison fails the check (log 75). -/
def State.checkRead (s : State) (l : Launch) (va n : Nat) : SvcBytes × State :=
  if n = 0 then (.ok [], s)
  else match s.svcRange mapperUnit l.id l.asid va n 0 18 with
    | (.ok ps, s) => (if ps.any fun p => s.physPoison p.1 p.2 then .deny else .ok ps, s)
    | r => r
/-- R410: the checks of Tables 17.5 and 5.9 in their order. -/
def State.checkLaunch (s : State) (l : Launch) : HdrChk × State :=
  match s.checkRead l l.hdrVa.toNat 256 with
  | (.wait, s) => (.wait, s)
  | (.deny, s) => (.fail 0x06, s)
  | (.ok ps, s) =>
    let l := { l with hdr := (piecesWords s.mem ps).map (·.2) }
    match s.checkRead l (hdrWord l.hdr 6).toNat (8 * l.nroute) with
    | (.wait, s) => (.wait, s)
    | (.deny, s) => (.fail 0x06, s)
    | (.ok rs, s) =>
      match s.checkRead l (hdrWord l.hdr 7).toNat (if hdrWord l.hdr 7 = 0 then 0 else 0x30000) with
      | (.wait, s) => (.wait, s)
      | (.deny, s) => (.fail 0x06, s)
      | (.ok _, s) =>
        match s.headerFault l with
        | some d => (.fail d, s)
        | none =>
          if l.mode = 2 then (.pass l.hdr, s)
          else match routeFault (hdrWord l.hdr 5) (s.part l.part 0) l.stake ((piecesWords s.mem rs).map (·.2)) with
            | some d => (.fail d, s)
            | none => (.pass l.hdr, s)
/-- R410: a launch that is being checked goes on: it waits for a page, ends with STATUS 1, or competes for its clusters. -/
def State.runChecks (s : State) (l : Launch) : State :=
  match s.checkLaunch l with
  | (.wait, s) => s
  | (.fail d, s) => s.modLaunch l.id fun l =>
      { l with st := .ending, status := 1, cause := 0x17, detail := BitVec.ofNat 16 d }
  | (.pass h, s) => s.modLaunch l.id fun l => { l with hdr := h, st := .waiting }

/-- R393: MODE of a partition's RRCTL. -/
def State.rrMode (s : State) (p : Nat) : Nat := bits (s.reg (rrctlOff p)) 63 62
/-- R405, R396, R397, R424: the words of the entry at HEAD: from the ring, or in replay mode from the log, where a record that is not there
leaves the queue waiting; an entry that reads as poison is no legal one. -/
def State.entryAt (s : State) (q : Nat) : Option (List Word × State) :=
  let p := bits (s.queue q 1) 55 53
  let at_ := (s.queue q 0).toNat + 64 * (s.qHead q % ringSize (s.queue q 1))
  if s.rrMode p = 2 then
    let key := replayKey p 511 .S
    match s.findRec (s.logBase p) 0x3FFF .S (s.logSize p / 32) (mget 0 s.misc.logPos key) with
    | some (3, _, _, pos) =>
      some ((memWords s.mem (s.logBase p + pos - 64) 8).map (·.2), { s with misc := { s.misc with logPos := mput s.misc.logPos key pos } })
    | _ => none
  else some (if s.physPoison at_ 64 then List.replicate 8 0 else (memWords s.mem at_ 8).map (·.2), s)
/-- R404: whether an entry is refused. -/
def entryBad (e : List Word) : Bool :=
  let w := hdrWord e
  decide (bits (w 0) 63 56 ≠ 1) || decide ((w 1).toNat % 256 ≠ 0) || decide ((w 2).toNat % 32 ≠ 0) ||
  decide (bits (w 0) 54 0 ≠ 0) || (List.range 4).any fun i => decide (w (4 + i) ≠ 0)
/-- QUEUE_ENTRY_TAKE, R402, R404, R405, R410: the entry at HEAD of a bound queue is taken once its previous launch has ended and
completed, and the launch is checked. -/
def execQueueEntryTake (queue : BitVec 10) (s : State) : Res :=
  .next <|
    let q := queue.toNat
    match s.launchOf q with
    | some l => if l.st = .checking then s.runChecks l else s
    | none =>
      if s.eligible q ∧ s.bound q ∧ ringPlaced (s.queue q 0).toNat then
        match s.entryAt q with
        | none => s
        | some (e, s) =>
          let p := bits (s.queue q 1) 55 53
          let bad := entryBad e
          let l : Launch := ⟨s.uid, q, [], bit (hdrWord e 0) 55, hdrWord e 2, hdrWord e 3, hdrWord e 1,
            if bad then .ending else .checking, s.partAsid p, 0, if bad then 5 else 0, 0, 0⟩
          let s := { s with uid := s.uid + 1, launches := s.launches ++ [l] }
          let s := if s.rrMode p = 1 then s.logPut p 0x3FFF (logWords 3 0x3FFF 0 s.now ([0, 0] ++ e)) else s
          if bad then s else s.runChecks l
      else s

/-- R138, R412, R453: MEMBERS of a unit of a launch. A stack core has its number as Table 15.9 gives it in CORE, and lies in no cluster and on no
compute die: CLUS and DIE stay 0 (log 86). -/
def State.membersOf (s : State) (l : Launch) (u : Nat) : Word :=
  if isStack u then
    BitVec.ofNat 64 (l.fld 0 25 21 * 2 ^ 48 + l.group * 2 ^ 40 + bits (s.reg 0x3010000) 52 48 * 2 ^ 32 + u)
  else BitVec.ofNat 64 (l.fld 0 25 21 * 2 ^ 48 + l.group * 2 ^ 40 + bits (s.reg 0x3010000) 52 48 * 2 ^ 32 +
    dieOf u * 2 ^ 24 + clusterOf u * 2 ^ 16 + u)
/-- R38, R102, R125, R265, R386, R412: the context with which a launch starts on a unit. -/
def State.startCtx (s : State) (l : Launch) (u : Nat) : Ctx :=
  let e (i : Nat) : Word := l.entries.getD i 0
  let sq (i : Nat) : Seq := { Seq.zero with pc := e i, run := decide (e i ≠ 0) }
  let period := BitVec.ofNat 32 (l.fld 5 63 32)
  { Ctx.zero with
    lid := l.id, mode := (match l.mode with | 0 => .timed | 1 => .elastic | _ => .stack), asid := l.asid, gran := l.fld 0 4 0
    group := BitVec.ofNat 8 l.group, s := sq 0, v := sq 1, m := sq 2, c := sq 3, valloc := BitVec.ofNat 6 (l.fld 0 11 6)
    members := s.membersOf l u, variant := BitVec.ofNat 64 (0xF00 + l.nvar), wdogPer := period, wdogLeft := period }

/-- R407: the launch that holds a unit: that of the context it runs, or that of the queued context which takes its place; 0
for none. -/
def State.holder (s : State) (u : Nat) : Nat :=
  let k := s.core u
  if k.bankKind = .queued ∧ k.swap.isSome then k.bank.lid else k.ctx.launch
/-- R407, R411: the groups of units that a launch takes as wholes: the cores of each cluster, or the eight of a stack. -/
def Launch.areas (l : Launch) : List (List Nat) :=
  if l.mode = 2 then [l.units] else l.stake.map fun cl => (List.range 16).map (coreAt cl)
/-- R407: the launches that hold an area. -/
def State.holders (s : State) (area : List Nat) : List Nat := ((area.map s.holder).filter (· ≠ 0)).eraseDups
/-- R377, R383, R384: whether a core may take a context into its bank now; chunks of an ended launch that are in transfer come first. -/
def Core.bankFree (k : Core) : Bool :=
  k.swap.isNone && !(k.saved.any Ctx.moving) && !k.ctx.handler && (decide (k.bankKind = .empty) || decide (k.bankKind = .handler))
/-- R407: PRIO of a launch's queue. -/
def State.prioOf (s : State) (l : Launch) : Nat := bits (s.queue l.queue 1) 58 56
/-- R407, R453, R456: whether a launch may start: every area of its stake is free, or held by compute launches of a lower PRIO alone; a launch
of a group that has been checked waits while its plane is not RUNNING or another launch of the GROUP runs (log 86). -/
def State.canStart (s : State) (l : Launch) : Bool :=
  s.groupFree l && l.areas.all fun a =>
    (a.all fun u => (s.core u).bankFree) && (s.holders a).all fun h =>
      match s.launch h with
      | some k => decide (l.mode ≠ 2) && decide (k.mode ≠ 2) && decide (s.prioOf k < s.prioOf l)
      | none => false

/-- R25, R412: the granules that a launch owns are zeroed. -/
def State.zeroOwned (s : State) (u gran : Nat) : State :=
  let n := gran * Config.granule
  { s.modCore u fun k => { k with spad := k.spad.filter fun c => decide (n ≤ c.1) } with
    misc := { s.misc with poisonSpad := s.misc.poisonSpad.filter fun p => !(decide (p.1 = u) && decide (64 * p.2 < n)) }
    bbs := s.bbs.filter fun b => !(decide (b.1 / 2 ^ 21 = u) && decide (b.1 % 2 ^ 21 < n)) }
/-- R412: a launch starts on a free unit. -/
def State.startUnit (s : State) (l : Launch) (h : Option Ctx) (u : Nat) : State :=
  let c := s.startCtx l u
  let sv := l.saveArea u
  (s.zeroOwned u (if isStack u then 0 else c.gran)).modCore u fun k =>
    { k with
      ctx := c, bank := h.getD Ctx.zero, bankKind := if h.isSome then .handler else .empty, hpc := (h.getD Ctx.zero).s.pc,
      active := true, frozen := false, himg := hdrWord l.hdr 7, savebase := sv.1, savelen := sv.2, regions := [], hevent := 0,
      hseq := 0, hdone := none, rows := [], spillst := 0, spillpos := 0, spillgo := false, frzNs := 0, fillWant := [] }
/-- R382: a context that comes in takes every granule of its scratchpad on the first touch, from its image or as zeros. -/
def Ctx.awaitFill (c : Ctx) (u : Nat) (image : Bool) : Ctx :=
  { c with toFill := if isStack u then [] else (List.range c.gran).map fun g => (g, image) }
/-- R385, R407: a launch's contexts enter the shadow banks of an area that others hold, and the swap begins. -/
def State.preemptArea (s : State) (l : Launch) (a : List Nat) : State :=
  let s := a.foldl (fun s u => s.modCore u fun k =>
    { k with bank := (s.startCtx l u).awaitFill u false, bankKind := .queued,
             savedRg := mput k.savedRg l.id ([], (l.saveArea u).1, (l.saveArea u).2) }) s
  let s := (s.holders a).foldl (fun s h => if h = l.id then s else s.modLaunch h fun k =>
    if k.st = .running then { k with st := .preempted } else k) s
  s.startSwaps a true
/-- R393, R396: the mode of RRCTL takes effect for a launch that starts. -/
def State.enterMode (s : State) (l : Launch) : State :=
  match s.rrMode l.part with
  | 1 => { s with misc := { s.misc with recording := l.id :: s.misc.recording } }
  | 2 => { s with misc := { s.misc with replay := l.id :: s.misc.replay } }
  | _ => s
/-- R412: a launch starts on every area of its stake; where the handler image does not translate yet it goes on waiting. -/
def State.startLaunch (s : State) (l : Launch) : State :=
  let himg := (hdrWord l.hdr 7).toNat
  let r : Option (Option Ctx) × State :=
    if himg = 0 then (some none, s)
    else match s.svcRange mapperUnit l.id l.asid himg 0x30000 0 18 with
      | (.wait, s) => (none, s)
      | (.deny, s) => (some none, s)
      | (.ok ps, s) => (some (some (handlerCtx (piecesWords s.mem ps) l.id l.asid)), s)
  match r with
  | (none, s) => s
  | (some h, s) =>
    let s := (s.modLaunch l.id fun l => { l with st := .running }).enterMode l
    let s := { s with misc := { s.misc with lastSlot := s.slotOf l.queue } }
    (l.areas.foldl (fun s a => if s.holders a = [] then a.foldl (fun s u => s.startUnit l h u) s else s.preemptArea l a) s).showOver l

/-- R382, R407: whether a context that was swapped out of a unit may come back: the host does not hold it, and its cluster is
free of other launches. -/
def State.canResume (s : State) (u : Nat) (c : Ctx) : Bool :=
  let dom := domainOfCtx c u
  let area := if isStack u then [u] else (List.range 16).map (coreAt (clusterOf u))
  (match s.launch c.lid with | some l => decide (l.st = .running) || decide (l.st = .preempted) | none => false) &&
  (dom.all fun j => decide (j ∉ s.misc.hung) && (s.core j).bankFree && decide ((s.core j).ctx.lid = 0) &&
    (s.core j).saved.any fun x => x.lid = c.lid) &&
  (area.all fun j => decide (s.holder j = 0) || decide (s.holder j = c.lid))
/-- R374, R382: a saved context takes what has been written over its image in memory since it was spilled. -/
def Ctx.overlay (c c0 : Ctx) (free : Nat) (ws : List (Nat × Word)) : Ctx :=
  ws.foldl (fun c w => if w.1 < 0x30000 ∧ c0.imageRead free w.1 ≠ w.2 then c.imageWrite true w.1 w.2 else c) c
/-- R382, R385, R390: one unit's saved context goes into its shadow bank; its scratchpad follows on the first touch, and a poisoned line
of its image poisons it. -/
def State.queueSaved (s : State) (u : Nat) (c : Ctx) (ps : List (Nat × Nat)) : State :=
  let k := s.core u
  let c0 := (k.saved0.find? fun x => x.lid = c.lid).getD c
  let c' := (c.overlay c0 s.free (piecesWords s.mem ps)).awaitFill u true
  s.modCore u fun k =>
    { k with bank := { c' with poisoned := c'.poisoned || ps.any fun p => s.physPoison p.1 p.2 }, bankKind := .queued }
/-- R385, R407: a domain that was swapped out comes back, once its images translate. -/
def State.resumeDomain (s : State) (u : Nat) (c : Ctx) : State :=
  let dom := domainOfCtx c u
  let saveOf (s : State) (j : Nat) : Ctx × Nat :=
    let k := s.core j
    ((k.saved.find? fun x => x.lid = c.lid).getD c, (mget ([], 0, 0) k.savedRg c.lid).2.1.toNat)
  let r := dom.foldl (fun (r : Option (List (Nat × Ctx × List (Nat × Nat))) × State) j =>
    match r.1 with
    | none => r
    | some l =>
      let x := saveOf r.2 j
      match r.2.svcRange j c.lid c.asid x.2 0x30000 0 19 with
      | (.ok ps, s) => (some (l ++ [(j, x.1, ps)]), s)
      | (_, s) => (none, s)) (some [], s)
  match r with
  | (none, s) => s
  | (some l, s) =>
    let s := l.foldl (fun s x => s.queueSaved x.1 x.2.1 x.2.2) s
    let left := s.cores.any fun p => p.2.saved.any fun x => decide (x.lid = c.lid) && decide (p.1 ∉ dom)
    let s := if left then s else s.modLaunch c.lid fun l => { l with st := .running }
    s.startSwaps dom true
/-- The first domain that may come back. -/
def State.resumable (s : State) : Option (Nat × Ctx) :=
  s.cores.findSome? fun p => (p.2.saved.find? fun c => s.canResume p.1 c).map fun c => (p.1, c)
/-- LAUNCH_SCHEDULE, R385, R407, R412: a domain whose clusters are free again resumes; else, of the head launches that can start,
the mapper starts the one of the highest effective priority, in round-robin order of slots. -/
def execLaunchSchedule (s : State) : Res :=
  .next <|
    match s.resumable with
    | some (u, c) => s.resumeDomain u c
    | none =>
      let cand := s.launches.filter fun l => decide (l.st = .waiting) && s.canStart l
      let key (i : Nat) : Nat := match cand.find? fun l => s.slotOf l.queue = i with | some l => s.effPrio l.queue | none => 0
      match pickBest (cand.map fun l => s.slotOf l.queue) key s.misc.lastSlot 32 with
      | none => s
      | some i => match cand.find? fun l => s.slotOf l.queue = i with
        | some l => s.startLaunch l
        | none => s

/-- R39, R114, R222: whether what a context has issued is complete, its scale loads apart. -/
def Ctx.finished (c : Ctx) : Bool :=
  c.allHalted && ([SeqId.S, .V, .M, .C].all fun q => (c.seq q).ring.all fun l => !l.v) && c.wins.isEmpty && c.mcast.isEmpty &&
  c.cmds.isEmpty && ((List.range 8).all fun i => !(vget c.slots i .empty).isBound) &&
  (c.allCmds.all fun k => k.isScale) && c.await.isEmpty
/-- R114: whether a translation is one that only a scale load of C still waits for, when no other command is left: scale loads do not hold up the
end of a launch. -/
def Out.forScales (o : Out) : Bool := match o.op with | .xlat 6 _ => decide (o.q = .C) | _ => false
/-- R39, R114: whether a launch has come to its end on every unit. -/
def State.launchDone (s : State) (l : Launch) : Bool :=
  !l.pers && (l.units.all fun u =>
    let k := s.core u
    decide (k.ctx.lid = l.id) && k.swap.isNone && k.ctx.finished && !(k.slog.any fun e => decide (e.lid = l.id))) &&
  !(s.outs.any fun o => decide (o.lid = l.id) && !o.forScales) && !(s.packets.any fun p => decide (p.lid = l.id)) &&
  !(s.fires.any fun f => decide (f.lid = l.id))
/-- R257: the dirty bytes of every region of a launch are written back at its end. -/
def State.writeBackLaunch (s : State) (l : Launch) : WbRes × Nat × State :=
  l.units.foldl (fun (a : WbRes × Nat × State) u =>
    if a.1 ≠ .done then a
    else let r := a.2.2.writeBackAll u .S l.id ((a.2.2.ctx u).s.pc); (r.1, u, r.2)) (.done, 0, s)
/-- R405: HEAD advances by one. -/
def State.advanceHead (s : State) (q : Nat) : State :=
  let w := s.queue q 1
  s.setReg (queueOff q 1) (setBits w 31 16 ((bits w 31 16 + 1) % ringSize w))
/-- R405: steps 2 and 3 of a launch's end; the launch is gone and its queue may take its next entry. -/
def State.closeLaunch (s : State) (l : Launch) : State :=
  let s := s.advanceHead l.queue
  let s := if l.irq then s.emit (.msix (s.slotOf l.queue)) else s
  { s with
    launches := s.launches.filter fun k => k.id ≠ l.id
    cores := s.cores.map fun (p : Nat × Core) => (p.1, { p.2 with saved := p.2.saved.filter fun c => c.lid ≠ l.id })
    misc := { s.misc with recording := s.misc.recording.filter (· ≠ l.id), replay := s.misc.replay.filter (· ≠ l.id)
                          endedQ := mput s.misc.endedQ l.id l.queue }
    outs := s.outs.filter fun o => !(decide (o.lid = l.id) && (match o.op with | .xlat _ _ => true | _ => false)) }.freeSlots
/-- R405, R418: a completion that is not written is reported to the event queue of CD0, once that has room. -/
def State.noCompletion (s : State) (l : Launch) : State :=
  if s.ringFull (evqhOff 0) (evqhOff 0 + 8) then s else (s.post 0 [evWord0 11 0 0 0x3FFF, BitVec.ofNat 64 l.queue, l.cpl, 0]).closeLaunch l
/-- R404, R405: the completion record is written, or reported as not written; it waits for an absent page. -/
def State.complete (s : State) (l : Launch) : State :=
  if l.cpl.toNat % 32 ≠ 0 then s.noCompletion l
  else match s.svcPage mapperUnit l.id l.asid l.cpl.toNat 5 19 with
    | (.wait, s) => s
    | (.deny, s) => s.noCompletion l
    | (.ok pa, s) =>
      let w0 := BitVec.ofNat 64 (l.status.toNat * 2 ^ 56 + l.cause.toNat * 2 ^ 48 + l.detail.toNat * 2 ^ 32)
      (s.physWrite (atAddr pa (wordBytes [w0, l.tag, BitVec.ofNat 64 (l.energy / 1000), s.datumNs]))).closeLaunch l
/-- R39, R377, R413, R454: whether an ended launch still has stores, logged stores, chunks in transfer or unanswered packets. -/
def State.winding (s : State) (l : Launch) : Bool :=
  (s.cores.any fun p => p.2.slog.any fun e => decide (e.lid % 2 ^ 40 = l.id)) ||
  (s.outs.any fun o => decide (o.lid % 2 ^ 40 = l.id) && (match o.op with | .store _ => true | .amo _ _ _ _ _ => true | _ => false)) ||
  (s.cores.any fun p => p.2.saved.any fun c => decide (c.lid = l.id) && c.moving) ||
  (s.packets.any fun p => decide (p.lid = l.id))
/-- LAUNCH_END, R39, R257, R405, R413, R454: a launch whose units are done ends, and one that has ended writes its completion
once its stores are performed and its packets answered or abandoned; those that a `caw` has not sent are not sent any more. -/
def execLaunchEnd (lid : Nat) (s : State) : Res :=
  .next <| match s.launch lid with
    | none => s
    | some l =>
      match l.st with
      | .running =>
        if s.launchDone l then
          match s.writeBackLaunch l with
          | (.done, _, s) => s.endLaunch lid 0 0 0
          | (.wait, _, s) => s
          | (.fault c, u, s) => s.endByFault u lid c 0
        else s
      | .ending =>
        let s := { s with packets := s.packets.filter fun p => !(decide (p.lid = lid) && (p.back || (decide (p.cmd ≠ 0) && !p.sent))) }
        if s.winding l then s else s.complete l
      | _ => s

/-- QKILL, R405, R457: the running or pre-empted launch of a queue ends with STATUS 4. -/
def State.killQueue (s : State) (q : Nat) : State :=
  match s.launchOf q with
  | some l => if l.st = .running ∨ l.st = .preempted then s.endLaunch l.id 4 0 0 else s
  | none => s
/-- QKILL. -/
def execQkill (v : BitVec 64) (s : State) : Res := .next (s.killQueue (bits v 9 0))

/-- R417: whole microjoules enter a counter and the rest is carried. -/
def State.charge (s : State) (off key nj : Nat) : State :=
  let t := mget 0 s.misc.rem key + nj
  { s.setReg off (s.reg off + BitVec.ofNat 64 (t / 1000)) with misc := { s.misc with rem := mput s.misc.rem key (t % 1000) } }
/-- R416: the decision at the end of a window. -/
def dutyNext (cap mw duty : Nat) : Nat :=
  if cap ≠ 0 ∧ 1000 * cap < mw then min (duty + 64) 1008
  else if cap = 0 ∨ 16 * mw < 15000 * cap then duty - 16 else duty
/-- R416, R417: one partition's measurement takes effect; what a launch that has ended in the window has spent there reaches its queue, its
completion having been written (log 86). -/
def State.meter (s : State) (m : MeterArgs) : State :=
  let p := m.part.toNat
  let b := s.part p 1
  let s := s.setReg (partOff p 2) (m.milliwatt.setWidth 64)
  let s := if s.partEn p then s.setReg (partOff p 1) (setBits b 10 0 (dutyNext (bits b 47 32) m.milliwatt.toNat (bits b 10 0))) else s
  let s := s.charge (partOff p 3) (2000 + p) m.idleNj
  m.launchNj.foldl (fun s e => match s.launch e.1 with
    | some l => (s.charge (queueOff l.queue 2) l.queue e.2).modLaunch e.1 fun l => { l with energy := l.energy + e.2 }
    | none => match s.misc.endedQ.find? fun p => p.1 = e.1 with
      | some p => s.charge (queueOff p.2 2) p.2 e.2
      | none => s) s
/-- R416: whether a window of 1,024 cycles, counted from package reset, has ended whose measurements have not taken effect. -/
def State.windowOver (s : State) : Bool := decide (s.misc.windowAt + 1024 ≤ s.now)
/-- POWER_WINDOW_END, R416, R417: the measurements of a window that has ended take effect, once. -/
def execPowerWindowEnd (meters : List MeterArgs) (s : State) : Res :=
  .next <|
    if s.windowOver then
      let t := meters.foldl State.meter s
      { t with misc := { t.misc with windowAt := s.now - (s.now - s.misc.windowAt) % 1024, endedQ := [] } }
    else s
/-- R416, R417: what the meters read at the end of a window where no input says it (log 86): the partitions that are enabled, with their
launches. -/
def State.readMeters (s : State) : List MeterArgs :=
  let k := s.misc.windowAt / 1024
  ((List.range 8).filter s.partEn).map fun p =>
    ⟨BitVec.ofNat 3 p, Config.powerMw p k, Config.idleNj p k,
      (((s.launches.filter fun l => decide (l.st ≠ .checking) && decide (l.st ≠ .waiting)).map fun l => (l.id, l.queue)) ++ s.misc.endedQ).filterMap
        fun l => if bits (s.queue l.2 1) 55 53 = p then some (l.1, Config.launchNj l.1 k) else none⟩
/-- R416: whether cycle k of a window is a throttle slot at a duty. -/
def throttleSlot (duty k : Nat) : Bool := decide (k * duty / 1024 < (k + 1) * duty / 1024)
/-- THROTTLE_SLOT, R394, R416: every timed cluster of the partition freezes and every elastic sequencer stalls on this cycle. -/
def execThrottleSlot (part : BitVec 3) (s : State) : Res :=
  .next <|
    let p := part.toNat
    let s := (s.unitsOf p).foldl (fun s u =>
      if (s.domain u).headD u = u then s.logInput 7 u .S [1] else s) s
    { s with misc := { s.misc with throttled := (p :: s.misc.throttled).eraseDups } }

/-- R414: the clusters of a partition's rectangle. -/
def rectClusters (w : Word) : List Nat :=
  (List.range (bits w 3 2 + 1)).flatMap fun y => (List.range (bits w 6 4 + 1)).map fun x =>
    (bits w 8 7 + y) * 6 + bits w 11 9 + x
/-- R414: whether a partition runs a launch. -/
def State.partBusy (s : State) (p : Nat) : Bool :=
  s.launches.any fun l => (decide (l.st = .running) || decide (l.st = .preempted)) && decide (l.part = p)
/-- R414: whether PARTA value v of partition p would share a cluster or a stack with another enabled partition. -/
def State.overlaps (s : State) (p : Nat) (v : Word) : Bool :=
  bit v 63 && (List.range 8).any fun o =>
    decide (o ≠ p) && s.partEn o && (decide (bits v 31 24 &&& bits (s.part o 0) 31 24 ≠ 0) ||
      (rectClusters v).any fun c => decide (c ∈ rectClusters (s.part o 0)))
/-- R414, R416: a write of PARTA. -/
def State.partaWrite (s : State) (p : Nat) (v : Word) : State :=
  let v := v &&& 0x8000FFFFFF000FFC
  if s.partBusy p ∨ s.overlaps p v then s
  else
    let s := s.setReg (partOff p 0) v
    if bit v 63 then s.setReg (partOff p 1) (setBits (s.part p 1) 10 0 0) else s
/-- PARTA_WRITE. -/
def execPartaWrite (part : BitVec 3) (v : BitVec 64) (s : State) : Res := .next (s.partaWrite part.toNat v)
/-- R415: the floor of a partition's cap: 30 W for each cluster and 20 W for each stack. -/
def State.capFloor (s : State) (p : Nat) : Nat :=
  let w := s.part p 0
  30 * ((bits w 3 2 + 1) * (bits w 6 4 + 1)) + 20 * ((List.range 8).filter fun i => bit w (24 + i)).length
/-- R415: a write of PARTB. -/
def State.capWrite (s : State) (p : Nat) (v : Word) : State :=
  let cap := bits v 47 32
  let sum := ((List.range 8).map fun o => if s.partEn o then (if o = p then cap else bits (s.part o 1) 47 32) else 0).sum
  if 2680 < sum ∨ (cap ≠ 0 ∧ cap < s.capFloor p) then s
  else s.setReg (partOff p 1) (setBits (s.part p 1) 47 32 cap)
/-- CAP_WRITE. -/
def execCapWrite (part : BitVec 3) (v : BitVec 64) (s : State) : Res := .next (s.capWrite part.toNat v)

end Sys2Proof.Machine
end

