-- ==== Sys2Proof/Machine/Optical.lean ====
section
/-! DEFINITION. The security alarm (R424) and the direct ports: keys, levels and replay (R427 to R431, R438, R439), scheduled slots
(R432 to R434), open traffic in both directions (R319, R320, R435, R436) and accumulate-writes to and from other packages (R178,
R314, R437, R454). -/
namespace Sys2Proof.Machine

/-- R424: EL: the link keys are erased, and every side that sends stops as at key exhaustion. -/
def State.eraseLinks (s : State) : State :=
  let s := (List.range 16).foldl (fun s p =>
    let o := portBlock p
    let s := (s.setPort p { s.port p with noKey := true }).setReg (o + 0x18) (setBits (s.reg (o + 0x18)) 63 63 0)
    let s := (List.range 4).foldl (fun s i => s.setReg (o + 0x20 + 8 * i) 0) s
    if bits (s.reg (o + 8)) 63 62 = 1 then (portStop s p).linkEvent 0x16 (BitVec.ofNat 64 p) else s) s
  let s := (List.range 4).foldl (fun s i => s.setReg (0x3010028 + 8 * i) 0) s
  { s.setReg 0x3010020 (setBits (s.reg 0x3010020) 63 63 0) with plane := { s.plane with noKey := true } }
/-- R424: HALT: every launch ends with STATUS 4. -/
def State.haltAll (s : State) : State :=
  s.launches.foldl (fun s l =>
    if l.st = .running ∨ l.st = .preempted then s.endLaunch l.id 4 0 0
    else if l.st = .checking ∨ l.st = .waiting then s.modLaunch l.id fun l => { l with st := .ending, status := 4 }
    else s) s
/-- R424: a source raises the alarm (LINK 0, DEBUG 1, SIG 2, TAMPER 3), and its field of ALMPOL acts. -/
def State.alarm (s : State) (src : Nat) : State :=
  let s := (s.setReg 0x6000000 (s.reg 0x6000000 ||| BitVec.ofNat 64 (2 ^ src))).emit (.msix 44)
  let pol := s.reg 0x6000008
  let s := if bit pol (3 * src + 2) then s.eraseLinks else s
  let s := if bit pol (3 * src + 1) then { s with misc := { s.misc with keysErased := true } } else s
  if bit pol (3 * src) then s.haltAll else s
/-- TAMPER, R424. -/
def execTamper (s : State) : Res := .next (s.alarm 3)
/-- R430: a flit whose tag fails: the port stops in both directions and the alarm is raised. -/
def State.authFail (s : State) (p : Nat) : State := (portStop s p).alarm 0

/-- A channel command of any context, by its identity. -/
def State.cmdOwner (s : State) (id : Nat) : Option (Nat × Nat × CCmd) :=
  s.cores.findSome? fun p => p.2.lids.findSome? fun lid =>
    let c := s.ctxOf p.1 lid
    ((c.allCmds ++ c.await).find? fun k => k.id = id).map fun k => (p.1, lid, k)
/-- R322: the window offset of a `csend.t`. -/
def CCmd.sendOff (k : CCmd) : Nat := match k.op with | .csendt _ _ _ off _ _ _ => off | _ => 0
/-- R303, R320, R321: what has flown has met a refusal: a copy fault of its command, which stands again at the head of its channel even where
it was complete; `f` says what is tried again. -/
def State.flownFault (s : State) (x : Flown) (code : Nat) (addr : Word) (info : Option Word) (f : CCmd → CCmd) : State :=
  if x.lid ∉ (s.core x.u).lids then s
  else
    let c := s.ctxOf x.u x.lid
    let k := ((c.allCmds ++ c.await).find? fun k => k.id = x.cmd.id).getD { x.cmd with next := x.cmd.chunks, redo := [], adds := [], flights := [] }
    (s.modCtxOf x.u x.lid fun c => { c with copies := c.copies.filter (· ≠ k.id) ++ [k.id] }).copyFault x.u x.lid (f k) x.idx code addr info
/-- What has left for another package is kept, so that a refusal finds its command (R303, R320). -/
def State.fly (s : State) (x : Flown) : State := { s with plane := { s.plane with flown := s.plane.flown ++ [x] } }

/-- R438, log 72: scheduled flits that are not sent again leave their numbers to link-control flits. -/
def TxMsg.fillers (m : TxMsg) (ack : Nat) : List TxMsg :=
  (List.range m.n).map fun i => ⟨0, 1, 1, 0, m.lseq.map fun l => (l + i) % 2 ^ 24, .control (.ack (BitVec.ofNat 24 ack))⟩
/-- R322, R433, R438, R439: a scheduled departure is broken: its slots are given up, nothing of it is sent again, and the command is a
copy fault 0x15, tried again from the chunk of offset `off` on. -/
def State.breakSend (s : State) (p id off : Nat) : State :=
  let x := s.port p
  let s := s.setPort p { x with
    claims := x.claims.filter fun c => c.id ≠ id
    txq := x.txq.flatMap fun m => if m.cmd = id ∧ id ≠ 0 then m.fillers x.ack else [m] }
  let again (k : CCmd) : CCmd := { k with next := 0, done := min k.done (off / 4096) }
  match s.cmdOwner id with
  | some (u, lid, k) => s.copyFault u lid (again k) (off / 4096) 0x15 (BitVec.ofNat 64 (k.sendOff + off)) none
  | none => match s.plane.flown.find? fun y => decide (y.port = p + 1) && decide (y.cmd.id = id) with
    | some y => s.flownFault { y with idx := off / 4096 } 0x15 (BitVec.ofNat 64 (y.cmd.sendOff + off)) none again
    | none => s

/-- R431: a link-control flit is to leave. -/
def State.sendCtl (s : State) (p : Nat) (c : LinkCtl) : State := s.sendMsg p 1 1 (.control c)
/-- R438: what of a numbered message comes after the LSEQ l. -/
def TxMsg.after (l : Nat) (m : TxMsg) : Option TxMsg :=
  let d := (m.lseq.getD 0 + m.n + 2 ^ 24 - 1 - l) % 2 ^ 24
  if d = 0 ∨ 2 ^ 23 ≤ d then none
  else some (if d < m.n then { m with n := d, lseq := some ((l + 1) % 2 ^ 24) } else m)
/-- R428: an acknowledgement frees what it covers, in the buffer and among what is to be sent again. -/
def State.ackFlits (s : State) (p l : Nat) : State :=
  let x := s.port p
  s.setPort p { x with
    buf := x.buf.filterMap (TxMsg.after l)
    txq := x.txq.filterMap fun m => if m.lseq.isSome then m.after l else some m }
/-- R438: flits that a command may still send again in the slots that it holds; a slot whose time is over is none of them. -/
def State.sendRoom (s : State) (p id : Nat) : Nat :=
  (((s.port p).claims.filter fun c => c.id = id).map fun c => slotFlits (s.txLevel p) - (c.len + 223) / 224 - c.again).sum
/-- R438: in the slot that lasts, flits of its command leave again as far as its unused room goes. -/
def State.serveRoom (s : State) (p : Nat) : State :=
  let t := s.datumNs.toNat / 8 * 8
  (s.port p).claims.foldl (fun s c =>
    if c.gone = false ∨ c.start ≠ t then s
    else (s.port p).txq.foldl (fun s m =>
      let again := match (s.port p).claims.find? fun d => d.start = c.start with | some d => d.again | none => 0
      if m.cmd = c.id ∧ m.n + again + (c.len + 223) / 224 ≤ slotFlits (s.txLevel p) ∧ s.portUp p then
        (s.setPort p { s.port p with
          txq := (s.port p).txq.erase m
          claims := (s.port p).claims.map fun d => if d.start = c.start then { d with again := d.again + m.n } else d }).sendFlits p m
      else s) s) s
/-- Order of LSEQ among flits that have left (R438), `t` being the number of the next. -/
def insertLseq (t : Nat) (m : TxMsg) : List TxMsg → List TxMsg
  | [] => [m]
  | x :: l =>
    if (m.lseq.getD 0 + 2 ^ 24 - t) % 2 ^ 24 ≤ (x.lseq.getD 0 + 2 ^ 24 - t) % 2 ^ 24 then m :: x :: l else x :: insertLseq t m l
/-- R438, R439: every flit that has left and is not acknowledged is sent again, before all others and in order; scheduled ones leave in the
room of their command, which is a copy fault 0x15 where the room does not last. -/
def State.replayFlits (s : State) (p : Nat) : State :=
  let x := s.port p
  let sent := ((x.txq.filter fun m => m.lseq.isSome) ++ x.buf).foldr (insertLseq x.lseqTx) []
  let wait := (x.txq.filter fun m => m.lseq.isNone).map fun m => { m with left := m.n }
  let s := s.setPort p { x with buf := [], txq := sent.map (fun m => { m with cls := 0, left := m.n }) ++ wait }
  let ids := ((sent.filter fun m => decide (m.cmd ≠ 0)).map (·.cmd)).eraseDups
  (ids.foldl (fun s id =>
    let mine := sent.filter fun m => decide (m.cmd = id)
    if (mine.map (·.n)).sum ≤ s.sendRoom p id then s
    else
      let off := (mine.map fun m => match s.plane.flown.find? fun y =>
          decide (y.port = p + 1) && decide (y.cmd.id = id) && decide (some y.no = m.lseq) with
        | some y => 4096 * y.idx
        | none => 0).foldl min (2 ^ 40)
      s.breakSend p id off) s).serveRoom p

/-- R439: a direction's transmit level changes: the event is posted, and claimed slots whose bytes no longer fit are broken. -/
def State.setLevel (s : State) (p lv : Nat) : State :=
  let o := portBlock p + 8
  let w := setBits (s.reg o) 61 60 lv
  let s := (s.setReg o (if lv = 3 then setBits w 63 62 2 else w)).linkEvent 0 (BitVec.ofNat 64 p)
  (s.port p).claims.foldl (fun s c =>
    if c.gone = false ∧ slotCap lv < c.len ∧ (s.port p).claims.any (fun d => d.id = c.id) then s.breakSend p c.id c.off else s) s
/-- R439: the transmitting side steps down and announces it, and the flits in flight are replayed. -/
def State.dropLevel (s : State) (p lv : Nat) : State :=
  ((s.setLevel p lv).sendCtl p (.level (BitVec.ofNat 2 lv))).replayFlits p

/-- R438, R439: a nak: every flit after the last intact one is sent again; more than 16 in a frame drop the level. -/
def State.nakFlits (s : State) (p l : Nat) : State :=
  let s := s.ackFlits p l
  let o := portBlock p + 8
  let s := s.setReg o (setBits (s.reg o) 31 0 (bits (s.reg o) 31 0 + 1))
  let frame := s.datumNs.toNat / 8192
  let x := s.port p
  let n := (if x.nakAt = frame then x.naks else 0) + 1
  let s := s.setPort p { x with naks := n, nakAt := frame }
  let lv := s.txLevel p
  if 16 < n ∧ 1 ≤ lv ∧ lv < 3 then (s.setPort p { s.port p with naks := 0 }).dropLevel p (lv + 1) else s.replayFlits p

/-- R438: a nak names the last intact LSEQ. -/
def State.sendNak (s : State) (p : Nat) : State :=
  let x := s.port p
  (s.setPort p { x with nakFor := some x.lseqRx }).sendCtl p (.nak (BitVec.ofNat 24 x.ack))
/-- R428, R430, R438: n flits have been received without an uncorrected error, the first under the header `h`: a tag that fails stops the
port; the ACK frees what it covers; the flits are passed on where LSEQ is the next expected, discarded where they are repeated, and a gap is
answered by one nak. -/
def State.rxFlit (s : State) (p : Nat) (h : FlitHdr) (n : Nat) (k : State → State) : State :=
  if s.portUp p = false then s
  else if h.tagOk = false then s.authFail p
  else
    let s := s.ackFlits p h.ack.toNat
    let x := s.port p
    let d := (h.lseq.toNat + 2 ^ 24 - x.lseqRx) % 2 ^ 24
    if d = 0 then k (s.setPort p { x with lseqRx := (x.lseqRx + n) % 2 ^ 24, nakFor := if n = 0 then x.nakFor else none })
    else if 2 ^ 23 ≤ d ∨ x.nakFor = some x.lseqRx then s
    else s.sendNak p
/-- IDLE_FLIT, R428, R430: an idle flit, which bears the number of the flit that is to follow it, or a flit whose TYPE is reserved. -/
def execIdleFlit (port : BitVec 4) (h : FlitHdr) (ty : BitVec 4) (s : State) : Res :=
  .next (s.rxFlit port.toNat { h with tagOk := h.tagOk && decide (ty.toNat < 7) } 0 id)
/-- R439: a receiving level changes. -/
def State.setRlevel (s : State) (p : Nat) (r : BitVec 2) : State :=
  let o := portBlock p + 8
  if bits (s.reg o) 59 58 = r.toNat then s
  else (s.setReg o (setBits (s.reg o) 59 58 r.toNat)).linkEvent 0 (BitVec.ofNat 64 p)
/-- LINK_CONTROL, R431, R433, R435, R438, R439. -/
def execLinkControl (port : BitVec 4) (h : FlitHdr) (c : LinkCtl) (s : State) : Res :=
  .next <|
    let p := port.toNat
    let o := portBlock p + 8
    s.rxFlit p h 1 fun s => match c with
      | .ack l => s.ackFlits p l.toNat
      | .nak l => s.nakFlits p l.toNat
      | .level r => s.setRlevel p r
      | .drop lv => if s.txLevel p < lv.toNat then s.dropLevel p lv.toNat else s
      | .lock b => s.setReg o (setBits (s.reg o) 57 57 (b2n b))
      | .depth d => s.setReg o (setBits (s.reg o) 37 32 d.toNat)
/-- UNCORRECTED_FLIT, R438. -/
def execUncorrectedFlit (port : BitVec 4) (s : State) : Res :=
  .next (if s.portUp port.toNat then s.sendNak port.toNat else s)
/-- LANE_DEGRADE, R439: a failing lane steps its direction from LEVEL 0 to LEVEL 1 and the flits in flight are replayed; the receiving end
asks the other to step its direction down. Which wavelengths fail shows in no register. -/
def execLaneDegrade (port : BitVec 4) (rx : Bool) (_upper : Bool) (s : State) : Res :=
  .next <|
    let p := port.toNat
    if s.portUp p = false then s
    else if rx then (if bits (s.reg (portBlock p + 8)) 59 58 = 0 then s.sendCtl p (.drop 1) else s)
    else if s.txLevel p = 0 then s.dropLevel p 1
    else s
/-- R429: the next key of a port is installed. -/
def State.portKey (s : State) (p : Nat) (v : Word) : State :=
  let o := portBlock p
  (s.setReg (o + 0x38) v).setReg (o + 0x18) (setBits (s.reg (o + 0x18)) 63 63 1)
/-- R429, R449: the next key of the plane is installed. -/
def State.planeKey (s : State) (v : Word) : State :=
  (s.setReg 0x3010040 v).setReg 0x3010020 (setBits (s.reg 0x3010020) 63 63 1)
/-- KEY_INSTALL, R429, R440, R449: the write of KNEXT3. -/
def execKeyInstall (link : Link) (v : BitVec 64) (s : State) : Res :=
  .next <| match link with
    | .port p => s.portKey p.toNat v
    | .plane => s.planeKey v
/-- R429: the end of a key epoch of the plane. -/
def State.planeEpochEnd (s : State) : State :=
  let w := s.reg 0x3010020
  if bit w 63 then s.setReg 0x3010020 (BitVec.ofNat 64 ((bits w 55 40 + 1) % 2 ^ 16 * 2 ^ 40))
  else { s with plane := { s.plane with noKey := true } }.linkEvent 0x16 0x80
/-- EPOCH_END, R429. -/
def execEpochEnd (link : Link) (s : State) : Res :=
  .next <| match link with
    | .port p => s.portEpochEnd p.toNat
    | .plane => s.planeEpochEnd
/-- R439, R440: PCTL.TRAIN: the port is idle until its training ends. -/
def State.retrain (s : State) (p : Nat) : State :=
  let o := portBlock p
  if bit (s.reg o) 63 then
    (s.setReg o (setBits (s.reg o) 62 62 1)).setReg (o + 8) (setBits (s.reg (o + 8)) 63 62 0)
  else s
/-- PORT_RETRAIN, R439, R440. -/
def execPortRetrain (port : BitVec 4) (s : State) : Res := .next (s.retrain port.toNat)
/-- PORT_TRAINED, R427, R434, R435, R440: training ends and fixes the latency, the peer's depth and the levels. A side whose key
is erased or used up starts the epoch of its next key, or stays stopped; so does every side under a bad image (R400). The ends exchange
their ring depths, the rings are free of what no command waits for any more, and what is not acknowledged is sent again (log 72). -/
def execPortTrained (port : BitVec 4) (lat : BitVec 16) (depth : BitVec 6) (level rlevel : BitVec 2) (s : State) : Res :=
  .next <|
    let p := port.toNat
    let o := portBlock p
    let w := s.reg (o + 8)
    let go := !s.imageBad && (!(s.port p).noKey || bit (s.reg (o + 0x18)) 63)
    let s := if (s.port p).noKey ∧ go then (s.setPort p { s.port p with noKey := false }).portEpochEnd p else s
    let st := if ¬ go then 3 else if level = 3 ∧ rlevel = 3 then 2 else 1
    let w' := setBits (setBits (setBits (setBits w 63 62 st) 61 60 level.toNat) 59 58 rlevel.toNat) 37 32 depth.toNat
    let s := (((s.setReg o (setBits (s.reg o) 62 62 0)).setReg (o + 0x10) (lat.setWidth 64)).setReg (o + 8) w')
    let s := if bits w 61 60 ≠ level.toNat ∨ bits w 59 58 ≠ rlevel.toNat then s.linkEvent 0 (BitVec.ofNat 64 p) else s
    let s := (s.remote.filter fun r => r.late && decide (r.port = p)).foldl State.dropRemote s
    if st = 1 then (s.sendCtl p (.depth (BitVec.ofNat 6 (bits (s.reg o) 37 32)))).replayFlits p else s

/-- R432: a slot-map write takes effect at the first frame that starts at least 8,192 ns later. -/
def State.slotMap (s : State) (p i : Nat) (v : Word) : State :=
  let o := portBlock p + 0x80 + 8 * i
  let t := (s.datumNs.toNat + 8192 + 8191) / 8192 * 8192
  let x := s.port p
  (s.setPort p { x with mapOld := (x.mapOld.filter fun m => decide (s.datumNs.toNat < m.1)) ++ [(t, i, s.reg o)] }).setReg o v
/-- SLOTMAP_WRITE. -/
def execSlotmapWrite (port : BitVec 4) (i : BitVec 4) (v : BitVec 64) (s : State) : Res :=
  .next (s.slotMap port.toNat i.toNat v)

/-- R322, R431, R434, R438: the bytes of a claimed slot are read and leave as scheduled data, and behind them what is to be sent again; after
the last slot the command is performed. Log 80: a chunk of the source that is not filled, as its region asks, breaks the departure. -/
def State.departSlot (s : State) (p u lid : Nat) (k : CCmd) (c : Claim) : State :=
  match k.op with
  | .csendt _ wa wb off src _ _ =>
    let a := src + BitVec.ofNat 64 c.off
    let q := placeOf u a
    let t := s.touchBy (k.toucher u lid) q.1 (touchPts q.2 c.len)
    if t.1 = false then t.2.breakSend p k.id c.off
    else match t.2.readRaces u k (c.off / 4096) [(a, c.len)] with
      | (some f, s) => (s.setPort p { s.port p with claims := (s.port p).claims.filter fun d => d.id ≠ k.id }).copyFault u lid
          { k with next := 0 } (c.off / 4096) f.code.toNat f.addr (some f.info)
      | (none, s) =>
        let f : SchedBody := ⟨BitVec.ofNat 64 c.start, BitVec.ofNat 1 (bits wa 62 62), BitVec.ofNat 16 (bits wa 39 24),
          BitVec.ofNat 9 (bits wa 53 45), BitVec.ofNat 64 (winBase wb + off + c.off), (s.copyBytes u a c.len).1⟩
        let n := (c.len + 223) / 224
        let s := (s.fly ⟨p + 1, (s.port p).lseqTx, u, lid, k, c.off / 4096, true⟩).tellPeer lid (s.peer p) (k.chunkHist (c.off / 4096))
        let s := if s.isReplay u then s else s.sendFlits p ⟨4, n, n, k.id, none, .sched f⟩
        let s := (s.setPort p { s.port p with claims := (s.port p).claims.map fun d => if d = c then { d with gone := true } else d }).serveRoom p
        let left := (s.port p).claims.filter fun d => decide (d.id = k.id) && !d.gone
        if left.isEmpty then s.performCopy u lid k false
        else s.putCmd u lid { k with done := left.foldl (fun n d => min n (d.off / 4096)) k.chunks }
  | _ => s
/-- SCHEDULED_SLOT, R322, R432, R433: the slot of the current datum begins; one whose time has passed, that the map no longer
schedules, whose ends are not LOCKED or which no longer holds its bytes breaks its command. -/
def execScheduledSlot (port : BitVec 4) (s : State) : Res :=
  .next <|
    let p := port.toNat
    let t := s.datumNs.toNat / 8 * 8
    match (s.port p).claims.find? fun c => !c.gone && decide (c.start ≤ t) with
    | none => s
    | some c => match s.cmdOwner c.id with
      | none => s.setPort p { s.port p with claims := (s.port p).claims.filter fun d => d.id ≠ c.id }
      | some (u, lid, k) =>
        if c.start ≠ t ∨ s.scheduled p c.start = false ∨ s.locked p = false ∨ s.portUp p = false ∨ slotCap (s.txLevel p) < c.len then s.breakSend p c.id c.off
        else s.departSlot p u lid k c
/-- CSEND_DEADLINE_MISS, R322: the first chunk of a `csend.t` at the head of its channel has not started by its datum. -/
def execCsendDeadlineMiss (u : Nat) (ch : Nat) (s : State) : Res :=
  .next <| (s.core u).lids.foldl (fun s lid =>
    match (vget (s.ctxOf u lid).chans ch ⟨[], 0⟩).cmds with
    | k :: _ => match k.op with
      | .csendt _ _ _ off _ _ gt =>
        if k.next = 0 ∧ k.faulted = none ∧ gt.toNat ≤ s.datumNs.toNat then
          s.copyFault u lid k 0 0x15 (BitVec.ofNat 64 off) none
        else s
      | _ => s
    | [] => s) s

/-- The context of the launch that a core runs, also while its handler runs. -/
def Core.launchCtx (k : Core) : Ctx := if k.ctx.handler then k.bank else k.ctx
/-- R320: whether a remote chunk may access n bytes of a core's scratchpad. -/
def State.ingressOk (s : State) (core : Nat) (asid : BitVec 16) (off n : Nat) (wr : Bool) : Bool :=
  let k := s.core core
  let c := k.launchCtx
  decide (core < Config.nCores) && decide (c.lid ≠ 0) && decide (c.asid = asid) && decide (off + n ≤ c.gran * Config.granule) &&
  (!wr || k.storeOk (touchPts off n))
/-- R453: the GROUP of a launch, 0 for none. -/
def State.groupOf (s : State) (lid : Nat) : Nat := match s.launch lid with | some l => l.group | none => 0
/-- R272, R281: what an access from another package has before it here, as far as this package knows (log 51): what that package has
acquired, and its own earlier accesses. -/
def State.remoteHist (s : State) (lid pkg : Nat) : Map Nat :=
  let lo := keyRemote lid pkg 0
  s.clocks.foldl (fun m kv => if lo ≤ kv.1 ∧ kv.1 < lo + 512 then vcJoin m kv.2 else m) (s.vc (keyAcqR lid pkg))
/-- R282: the PHASE under which this package's part of a launch runs: that of its first compute core. -/
def State.phaseOf (s : State) (lid : Nat) : Word :=
  match s.launch lid with
  | some l => (s.ctxOf ((l.units.filter fun u => !isStack u).headD 0) lid).phase
  | none => 0
/-- R266, R319: the party of a chunk from another package: C of the core that issued it. -/
def State.remoteAcc (s : State) (lid pkg srcU comp : Nat) : Acc :=
  ⟨100000 + pkg * 384 + srcU, .C, 3, lid, s.remoteHist lid pkg, s.phaseOf lid, some comp, 100000 + pkg * 384 + srcU⟩
/-- R272: what a core of another package has accessed here. -/
def State.remoteDone (s : State) (lid pkg srcU comp : Nat) : State := s.joinVc (keyRemote lid pkg srcU) [(comp, 1)]
/-- R282 to R287, R291: an access from another package to lines of a scratchpad is judged and stamped, where its launch is of a group. -/
def State.remoteSpad (s : State) (a : Acc) (pkg srcU comp kind core off n : Nat) : Option CauseArgs × State :=
  if s.groupOf a.lid = 0 then (none, s)
  else
    let keys := lineSpan (spadKeyBase core) off n
    match s.access a kind false keys with
    | (some (l, det), s) => (some (raceCause 0 (off + 64 * (l - keys.headD 0)) det), s)
    | (none, s) => (none, s.remoteDone a.lid pkg srcU comp)
/-- Physical pieces take bytes in order. -/
def dealPhys : List (Nat × Nat) → List Byte → List (Nat × Byte)
  | [], _ => []
  | p :: r, b => atAddr p.1 (b.take p.2) ++ dealPhys r (b.drop p.2)
/-- Physical pieces of a range with their virtual addresses, as the judgement of global accesses takes them. -/
def globalPieces (va : Nat) (ps : List (Nat × Nat)) : List (Nat × Nat × Nat × Word) :=
  (ps.foldl (fun (r : Nat × List (Nat × Nat × Nat × Word)) p => (r.1 + p.2, r.2 ++ [(va + r.1, p.2, p.1, 0x0600000000000000)])) (0, [])).2
/-- R282 to R289: an access from another package to global bytes is judged and stamped; where its launch has no group only the lines of open
buckets count. -/
def State.remoteGlobal (s : State) (a : Acc) (pkg srcU comp kind : Nat) (asid : BitVec 16) (va : Nat) (ps : List (Nat × Nat)) :
    Option CauseArgs × State :=
  let l := globalPieces va ps
  if s.groupOf a.lid = 0 then
    match l.findSome? fun q => (s.bucketLine a.u q.2.2.1 q.2.1).map fun x => q.1 + (x - q.2.2.1) with
    | some x => (some (raceCause 0 x (bucketDetail s.free (min kind 2) a.phase)), s.tickFree)
    | none => (none, s)
  else match s.globalAll a kind 0 asid l with
    | (some c, s) => (some c, s)
    | (none, s) => (none, s.remoteDone a.lid pkg srcU comp)
/-- The launch that runs under an ASID, 0 for none; of several one with a group domain (log 51). -/
def State.lidOf (s : State) (asid : BitVec 16) : Nat :=
  let ls := s.launches.filter fun l => decide (l.asid = asid) && (decide (l.st = .running) || decide (l.st = .preempted))
  match ls.find? fun l => decide (l.group ≠ 0) with
  | some l => l.id
  | none => match ls with | l :: _ => l.id | [] => 0

/-- R394: the second data word of an arrival: its length, what counts it, its kind (0 a write, 1 the answer to a chunk, 3 that to a packet, 5
what a burst meets, 7 what scheduled bytes meet, 9 an add alone) and the status of an answer. -/
def arrivalInfo (kind n st : Nat) (bb : Option Nat) : Word :=
  BitVec.ofNat 64 (n + kind * 2 ^ 16 + st * 2 ^ 20 + (match bb with | some b => 2 ^ 13 + b * 2 ^ 32 | none => 0))
/-- Bytes as the words of a log record. -/
def bytesWords (data : List Byte) : List Word :=
  (List.range ((data.length + 7) / 8)).map fun i => BitVec.ofNat 64 (leNat ((data.drop (8 * i)).take 8))
/-- R394: a remote arrival is an input of a launch. -/
def State.logArrival (s : State) (lid u : Nat) (a : Word) (kind st n : Nat) (bb : Option Nat) (data : List Word) : State :=
  s.logFor lid 5 u .C ([a, arrivalInfo kind n st bb] ++ data)
/-- The code of a status in the log. -/
def statusCode : ChunkStatus → Nat
  | .done => 0 | .refused => 1 | .unadded => 2 | .raced _ _ => 3
/-- The words that the log holds of a status. -/
def statusWords : ChunkStatus → List Word
  | .raced a d => [a, d] | _ => []
/-- R396: whether the launch that a request aims at is replayed, so that the port delivers nothing. -/
def State.replaysAt (s : State) (win : BitVec 1) (core : Nat) (asid : BitVec 16) : Bool :=
  if win = 0 then decide ((s.core core).launchCtx.lid ∈ s.misc.replay) else decide (s.lidOf asid ∈ s.misc.replay)
/-- R394: the unit that logs an arrival at global addresses under an ASID: the first of its launch. -/
def State.logUnit (s : State) (asid : BitVec 16) : Nat :=
  match s.launch (s.lidOf asid) with | some l => l.units.headD 0 | none => 0

/-- The unit number under which the ingress MMU translates. -/
def ingressUnit : Nat := 1001
/-- R431, R436: the answer to a chunk is to leave. -/
def State.answerChunk (s : State) (p : Nat) (r : OpenReq) (st : ChunkStatus) (data : List Byte) : State :=
  s.sendMsg p 2 (1 + (data.length + 223) / 224) (.answer (.chunk r.srcU r.srcCh r.seq r.slot st data))
/-- The part of a group launch that this package runs (R453). -/
def State.groupLaunch (s : State) (group : Nat) : Option Launch :=
  s.launches.find? fun l => (decide (l.st = .running) || decide (l.st = .preempted)) && decide (l.group = group)
/-- What a chunk at its target comes to. -/
inductive Ingress where
  | wait
  | ends (st : ChunkStatus) (data : List Byte)
/-- R256, R266: a chunk from another package touches a core's scratchpad. Fills that it begins are charged to no sequencer here (log 79); one
that is denied is taken back and refuses the chunk. -/
def State.ingressTouch (s : State) (core : Nat) (offs : List Nat) : Ingress × State :=
  let bad := s.outs.filter fun o => decide (o.lid = 0) && o.deny.isSome && (match o.op with
    | .fill u j ch => decide (u = core) && (s.core u).regions.any fun r => decide (r.1 = j) &&
        offs.any fun x => decide (r.2.off + 4096 * ch ≤ x) && decide (x < r.2.off + 4096 * ch + 4096)
    | _ => false)
  if bad ≠ [] then (.ends .refused [], bad.foldl State.undoOut s)
  else
    let r := s.touchBy ⟨core, .C, 0, 0, ⟨[], 0⟩⟩ core offs
    if r.1 then (.ends .done [], r.2) else (.wait, r.2)
/-- R278, R303: the add alone of a chunk that landed before. The target is named by ASID and core, or by the GROUP of the launch
(log 80). It publishes the bytes of that chunk and no other (R279). -/
def State.ingressAdd (s : State) (pkg : Nat) (r : OpenReq) : Ingress × State :=
  let core := r.core.toNat
  let bb := r.bb.toNat
  let asid := if r.win = 0 then r.asid else (match s.groupLaunch r.asid.toNat with | some l => l.asid | none => 0)
  if bb % 8 ≠ 0 ∨ s.ingressOk core asid bb 8 true = false then (.ends .refused [], s)
  else match s.ingressTouch core [bb] with
    | (.wait, s) => (.wait, s)
    | (.ends .refused _, s) => (.ends .refused [], s)
    | (_, s) =>
      let was := s.landed.find? fun x => decide (x.1 = pkg) && decide (x.2.1 = r.srcU) && decide (x.2.2.1 = r.srcCh.toNat) && decide (x.2.2.2.1 = r.len.toNat)
      match s.bbAdd core bb r.len.toNat (match was with | some x => [(x.2.2.2.2, 1)] | none => []) with
      | some t =>
        let t : State := { t with landed := match was with | some x => t.landed.erase x | none => t.landed }
        (.ends .done [], t.logArrival (s.core core).launchCtx.lid core (BitVec.ofNat 64 (2 ^ 63 + bb)) 9 0 r.len.toNat (some bb) [])
      | none => (.ends .unadded [], s)
/-- R278, R303: a chunk that has landed is counted; one whose add is refused is remembered with its component. -/
def State.ingressCount (s : State) (pkg : Nat) (r : OpenReq) (comp : Nat) : Ingress × State :=
  if r.count = false then (.ends .done [], s)
  else match s.bbAdd r.core.toNat r.bb.toNat r.len.toNat [(comp, 1)] with
    | some s => (.ends .done [], s)
    | none => (.ends .unadded [], { s with landed := s.landed ++ [(pkg, r.srcU, r.srcCh.toNat, r.len.toNat, comp)] })
/-- R278, R282, R319, R320: a complete chunk is checked, judged and performed; an absent page or an unfilled chunk holds it. Log 80: an
offset of a byte barrier that is no multiple of 8 is refused here. -/
def State.ingress (s : State) (p tag : Nat) (r : OpenReq) (data : List Byte) : Ingress × State :=
  let wr := decide (r.kind = 0)
  let n := r.len.toNat
  let pkg := s.peer p
  let comp := chunkComp s.uid 0 true
  let s := s.tickUid
  if r.add then s.ingressAdd pkg r
  else if r.win = 0 then
    let core := r.core.toNat
    let off := r.addr.toNat
    let bb := r.bb.toNat
    if s.ingressOk core r.asid off n wr = false ∨ (r.count ∧ (bb % 8 ≠ 0 ∨ s.ingressOk core r.asid bb 8 true = false)) then
      (.ends .refused [], s)
    else match s.ingressTouch core (touchPts off n ++ (if r.count then [bb] else [])) with
      | (.wait, s) => (.wait, s)
      | (.ends .refused _, s) => (.ends .refused [], s)
      | (_, s) =>
        let lid := (s.core core).launchCtx.lid
        match s.remoteSpad (s.remoteAcc lid pkg r.srcU comp) pkg r.srcU comp (b2n wr) core off n with
        | (some c, s) => (.ends (.raced c.addr c.info) [], s)
        | (none, s) =>
          if wr then
            ((s.logArrival lid core (BitVec.ofNat 64 (2 ^ 63 + off)) 0 0 n (if r.count then some bb else none) (bytesWords data)).spadWrite
              core (atAddr off data)).ingressCount pkg r comp
          else (.ends .done ((s.core core).spad.rdN off n), s)
  else
    match s.svcRange ingressUnit 0 r.asid r.addr.toNat n 6 (if wr then 2048 + tag else 1024 + tag) with
    | (.wait, s) => (.wait, s)
    | (.deny, s) => (.ends .refused [], s)
    | (.ok ps, s) =>
      let lid := s.lidOf r.asid
      match s.remoteGlobal (s.remoteAcc lid pkg r.srcU comp) pkg r.srcU comp (b2n wr) r.asid r.addr.toNat ps with
      | (some c, s) => (.ends (.raced c.addr c.info) [], s)
      | (none, s) =>
        if wr then (.ends .done [], (s.logArrival lid (s.logUnit r.asid) r.addr 0 0 n none (bytesWords data)).physWrite (dealPhys ps data))
        else (.ends .done (ps.flatMap fun q => s.mem.rdN q.1 q.2), s)
/-- R436: bytes of a gathered chunk in line order. -/
def RingSlot.bytes (x : RingSlot) : List Byte :=
  (List.range ((x.req.len.toNat + 63) / 64)).flatMap fun i => ((x.lines.find? fun l => l.1 = i).map (·.2)).getD []
/-- R436: whether every line of a chunk is placed. -/
def RingSlot.full (x : RingSlot) : Bool :=
  decide (x.req.kind = 1) || x.req.add || (List.range ((x.req.len.toNat + 63) / 64)).all fun i => x.lines.any fun l => l.1 = i
/-- R320: whether a page of a chunk at the target is absent. -/
def State.ingressHolds (s : State) (tag : Nat) : Bool :=
  s.outs.any fun o => decide (o.u = ingressUnit) && decide (o.st = .held) &&
    (match o.op with | .xlat 6 t => decide (t = 1024 + tag) || decide (t = 2048 + tag) | _ => false)
/-- R320: the sender of a chunk is told that it is held. -/
def State.tellHeld (s : State) (p : Nat) (x : RingSlot) : State :=
  (s.setPort p { s.port p with ring := (s.port p).ring.map fun y => if y.slot = x.slot then { y with told := true } else y }).sendMsg p 2 1
    (.answer (.held x.req.srcU x.req.srcCh x.req.seq x.req.slot))
/-- R436: complete chunks are performed, their ring slots freed and their answers sent. -/
def State.serveRing (s : State) (p : Nat) : State :=
  (s.port p).ring.foldl (fun s x =>
    if x.full = false then s
    else
      let free (s : State) : State := s.setPort p { s.port p with ring := (s.port p).ring.filter fun y => y.slot ≠ x.slot }
      if s.replaysAt x.req.win x.req.core.toNat x.req.asid then free s
      else match s.ingress p (64 * p + x.slot) x.req x.bytes with
        | (.wait, s) => if !x.told && s.ingressHolds (64 * p + x.slot) then s.tellHeld p x else s
        | (.ends st d, s) => (free s).answerChunk p x.req st d) s
/-- R396: whether a stack serves a replayed launch, so that the ports deliver no packet to it. -/
def State.stackReplays (s : State) (st : Nat) : Bool :=
  (List.range 8).any fun i => s.isReplay (384 + 8 * st + i)
/-- OPEN_REQUEST, R320, R431, R435, R437: a request takes a ring slot, a read is served at once, and an accumulate-write goes to its
stack. -/
def execOpenRequest (port : BitVec 4) (h : FlitHdr) (r : OpenReq) (s : State) : Res :=
  .next <|
    let p := port.toNat
    s.rxFlit p h (if r.pkt.isSome then 2 else 1) fun s =>
      match r.pkt with
      | some k =>
        if s.stackReplays r.stack.toNat then s
        else
          let a := s.awApply r.stack.toNat { k with port := p + 1 }
          a.2.sendMsg p 2 1 (.answer (.packet k.id a.1))
      | none =>
        if bits (s.reg (portBlock p)) 37 32 ≤ r.slot.toNat then s
        else
          let x := s.port p
          (s.setPort p { x with ring := x.ring.filter (fun y => y.slot ≠ r.slot.toNat) ++ [⟨r.slot.toNat, r, [], false⟩] }).serveRing p
/-- R436: a line whose flag word a ring slot expects is placed, any other is discarded. -/
def RingSlot.place (x : RingSlot) (l : OpenLine) : RingSlot :=
  if x.slot = l.slot.toNat ∧ x.req.seq = l.seq ∧ ¬ (x.lines.any fun y => y.1 = l.line.toNat) then
    { x with lines := x.lines ++ [(l.line.toNat, l.data)] }
  else x
/-- OPEN_DATA, R431, R436: three lines a flit are placed by their flag words, and a chunk that is complete is performed. -/
def execOpenData (port : BitVec 4) (h : FlitHdr) (lines : List OpenLine) (s : State) : Res :=
  .next <|
    let p := port.toNat
    s.rxFlit p h (max 1 ((lines.length + 2) / 3)) fun s =>
      let x := s.port p
      (s.setPort p { x with ring := x.ring.map fun y => lines.foldl RingSlot.place y }).serveRing p
/-- R320, R434: the bytes of a scheduled slot, whose first flit bore `lseq`, are performed; an absent page holds them. What they meet beside
that is answered to the sender. From S + 13 + LAT a `waitt` orders a write to a scratchpad, and one to pages that held it up for nothing. -/
def State.schedIn (s : State) (p lseq : Nat) (f : SchedBody) (held : Bool) : State :=
  let s := s.setPort p { s.port p with heldSched := (s.port p).heldSched.erase (lseq, f) }
  if s.replaysAt f.kind f.core.toNat f.asid then s
  else
    let r : OpenReq := ⟨0, f.asid, f.kind, f.core, f.addr, BitVec.ofNat 13 f.data.length, false, 0, 0, 0, 0, 0, 0, none, false⟩
    let comp := chunkComp s.uid 0 true
    match s.ingress p (1024 + p) r f.data with
    | (.wait, s) => s.setPort p { s.port p with heldSched := (s.port p).heldSched ++ [(lseq, f)] }
    | (.ends .done _, s) =>
      if (f.kind = 0 ∨ held = false) ∧ s.locked p then
        { s with sched := s.sched ++ [(f.start.toNat + 13 + bits (s.reg (portBlock p + 0x10)) 15 0, comp)] }
      else s
    | (.ends st _, s) => s.sendMsg p 2 1 (.answer (.sched (BitVec.ofNat 24 lseq) st))
/-- SCHEDULED_DATA, R320, R430, R434. -/
def execScheduledData (port : BitVec 4) (f : SchedFlit) (s : State) : Res :=
  .next (s.rxFlit port.toNat f.hdr ((f.body.data.length + 223) / 224) fun s => s.schedIn port.toNat f.hdr.lseq.toNat f.body false)

/-- R303: the command of an outstanding remote chunk, where its context still holds it. -/
def State.remoteCmd (s : State) (r : RemOut) : Option CCmd :=
  let c := s.ctxOf r.u r.lid
  (c.allCmds ++ c.await).find? fun k => k.id = r.id
/-- R303, R324: a remote chunk is refused, races or has timed out: a copy fault of its command, or of every core of its firing. -/
def State.remoteFault (s : State) (r : RemOut) (code : Nat) (addr : Word) (info : Option Word) : State :=
  if r.ch = 4 then
    match s.fires.find? fun f => f.id = r.id with
    | none => s
    | some f => s.fireStop f code addr info
  else match s.remoteCmd r with
    | none => s
    | some k =>
      let k' := match k.op with
        | .cput _ _ _ _ _ _ _ => { k with redo := k.redo ++ [r.idx], done := min k.done r.idx }
        | _ => { k with redo := k.redo ++ [r.idx] }
      s.copyFault r.u r.lid k' r.idx code addr info
/-- R278, R303: a chunk has landed at its target and its add is refused: a copy fault 0x08, whose command tries the add alone again. -/
def State.unadded (s : State) (r : RemOut) (port : Nat) : State :=
  if r.ch = 4 then s.remoteFault r 0x08 r.addr none
  else match s.remoteCmd r with
    | none => s
    | some k => s.copyFault r.u r.lid { k with adds := k.adds ++ [(r.idx, port)] } r.idx 0x08 r.addr none
/-- R304, R329: how far a remote command has come: below `done` every chunk has been acknowledged; and whether a target holds one. -/
def State.recount (s : State) (r : RemOut) : State :=
  match s.remoteCmd r with
  | some k =>
    let mine := s.awaited.filter fun x => decide (x.id = k.id) && decide (x.ch = k.ch)
    let held := if mine.any (·.held) then some r.addr else none
    (match k.op with
     | .cput _ _ _ _ _ _ _ => s.putCmd r.u r.lid { k with done := (mine.map (·.idx) ++ k.redo).foldl min k.next, held := held }
     | .cget _ _ _ _ _ _ => s.putCmd r.u r.lid { k with held := held }
     | _ => s)
  | none => s
/-- R319: a chunk is no longer outstanding. -/
def State.acked (s : State) (r : RemOut) : State := (s.dropRemote r).recount r
/-- R106, R302, R376: the head command of a channel of the trapped context goes, with the packets it has not had answered and the page it
waits for, and waits for its remote chunks no longer; it counts as complete, so what it has done is ordered as at any completion. -/
def State.dropCopy (s : State) (u ch : Nat) : State :=
  let b := (s.core u).bank
  match (vget b.chans ch ⟨[], 0⟩).cmds.head? with
  | none => s
  | some k =>
    let s : State := (s.awaited.filter fun r => decide (r.u = u) && decide (r.id = k.id) && decide (r.ch = ch)).foldl State.giveUp s
    ({ s with
      packets := s.packets.filter fun p => decide (p.cmd ≠ k.id)
      outs := s.outs.filter fun o => decide (o.u ≠ u) || decide (o.lid ≠ b.lid) || decide (o.op ≠ OutOp.xlat 6 ch) }.modCore u fun x =>
        { x with bank := x.bank.dropHead ch }).joinVc (keyPend (compOf b.lid u .C)) k.accesses
/-- R376: `cdrop`. -/
def execCdrop (c : BitVec 2) (s : State) : Res :=
  guardH s fun s => .next (advance (s.dropCopy s.turn.u c.toNat))
/-- R304, R320: the target holds a chunk. -/
def State.remoteHeld (s : State) (r : RemOut) : State :=
  ({ s with remote := s.remote.map fun x => if x.port = r.port ∧ x.seq = r.seq then { x with held := true } else x } : State).recount r
/-- R301, R319: the data of a `cget` chunk has come and is in transfer to its destination. -/
def State.getData (s : State) (r : RemOut) (data : List Byte) : State :=
  match (s.ctxOf r.u r.lid).allCmds.find? fun k => k.id = r.id with
  | some k => match k.op with
    | .cget _ _ _ _ _ _ =>
      s.putCmd r.u r.lid { k with flights := k.flights.zipIdx.map fun f =>
        if k.done + f.2 = r.idx ∧ f.1.at_.isNone then
          ⟨some s.now, dealBytes (f.1.pieces.map fun p => (p.1, p.2.1, p.2.2.length)) data, false⟩
        else f.1 }
    | _ => s
  | none => s
/-- The burst of this package with a GSEQ. -/
def State.flownBurst (s : State) (gseq : Nat) : Option Flown := s.plane.flown.find? fun x => decide (x.port = 0) && decide (x.no = gseq)
/-- R321: the virtual address of a flown chunk of a `cbcast`. -/
def Flown.addr (x : Flown) : Word := match x.cmd.op with | .cbcast dst _ _ _ => dst + BitVec.ofNat 64 (4096 * x.idx) | _ => 0
/-- R278, R282, R303, R320, R321: what a member meets in a burst, named by its GSEQ, beside performing it: a copy fault 0x14, 0x08 or 0x05.
`port` is the port of that member plus one, 0 for this package. -/
def State.bcastRefused (s : State) (gseq port : Nat) (st : ChunkStatus) : State :=
  match s.flownBurst gseq with
  | some x =>
    let again (k : CCmd) : CCmd := { k with redo := k.redo ++ [x.idx] }
    match st with
    | .done => s
    | .unadded => s.flownFault x 0x08 x.addr none fun k => { k with adds := k.adds ++ [(x.idx, port)] }
    | .refused => s.flownFault x 0x14 x.addr none again
    | .raced a d => s.flownFault x 0x05 a (some d) again
  | none => s
/-- R434: the departure of this package that a port's LSEQ names. -/
def State.flownSlot (s : State) (p lseq : Nat) : Option Flown :=
  s.plane.flown.reverse.find? fun x => decide (x.port = p + 1) && decide (x.no = lseq)
/-- R282, R303, R320, R434: the target has refused scheduled bytes, or they race there; the departure is tried again from their chunk on. -/
def State.schedRefused (s : State) (p lseq : Nat) (st : ChunkStatus) : State :=
  match s.flownSlot p lseq with
  | some x =>
    let s := s.setPort p { s.port p with claims := (s.port p).claims.filter fun d => d.id ≠ x.cmd.id }
    let again (k : CCmd) : CCmd := { k with next := 0, done := x.idx }
    (match st with
     | .done => s
     | .raced a d => s.flownFault x 0x05 a (some d) again
     | _ => s.flownFault x 0x14 (BitVec.ofNat 64 (x.cmd.sendOff + 4096 * x.idx)) none again)
  | none => s
/-- R178, R394: the answer to a packet reaches this package. -/
def State.packetAnswer (s : State) (id : Nat) (ans : AwAnswer) : State :=
  { s with packets := s.packets.map fun k => if k.p.id = id ∧ k.sent ∧ k.ans = none then { k with ans := some ans } else k }
/-- The code of an answer to a packet in the log. -/
def ansCode : AwAnswer → Nat
  | .accepted => 0 | .duplicate => 1 | .late => 2 | .refused => 3 | .config => 4
/-- R282, R303, R319, R320, R324: the final answer to an outstanding chunk; one that its command no longer waits for only ends its place. -/
def State.chunkAnswer (s : State) (r : RemOut) (st : ChunkStatus) (data : List Byte) : State :=
  if r.late then s.dropRemote r
  else
    let s := s.acked r
    match st with
    | .refused => s.remoteFault r 0x14 r.addr none
    | .raced a d => s.remoteFault r 0x05 a (some d)
    | .unadded => s.unadded r (if r.get then r.port + 1 else 0)
    | .done =>
      if r.ch = 4 then (match s.fires.find? fun f => f.id = r.id with | some f => s.fireDone f | none => s)
      else s.getData r data
/-- What has flown as the log names it: the address of a burst, the window offset of scheduled bytes. -/
def Flown.logAddr (x : Flown) : Word := if x.port = 0 then x.addr else BitVec.ofNat 64 x.cmd.sendOff
/-- R394: what a chunk that has flown meets is an input of its launch. -/
def State.logFlown (s : State) (x : Option Flown) (st : ChunkStatus) : State :=
  match x with
  | some x => s.logArrival x.lid x.u x.logAddr (if x.port = 0 then 5 else 7) (statusCode st) 0 none (statusWords st)
  | none => s
/-- R396: the logged arrival that a unit has next, whose first data words are `a` and `info`, takes effect, as at its target or as an answer;
none where nothing here awaits it yet. -/
def State.replayArrival (s : State) (u : Nat) (a info : Word) (data : List Byte) : Option State :=
  let lid := (s.ctx u).lid
  let asid := (s.ctx u).asid
  let n := bits info 12 0
  let st : ChunkStatus := match bits info 21 20 with
    | 0 => .done | 1 => .refused | 2 => .unadded
    | _ => .raced (BitVec.ofNat 64 (leNat (data.take 8))) (BitVec.ofNat 64 (leNat ((data.drop 8).take 8)))
  let r := s.awaited.find? fun r => decide (r.u = u) && decide (r.addr = a)
  let f := s.plane.flown.find? fun x => decide (x.u = u) && decide (x.logAddr = a)
  let count (s : State) : State :=
    if bit info 13 then (s.bbAdd u (bits info 63 32) n []).getD s else s
  match bits info 19 16 with
  | 0 =>
    if bit a 63 then some (count (s.spadWrite u (atAddr (a.toNat % 2 ^ 63) data)))
    else match s.svcRange ingressUnit lid asid a.toNat data.length 6 3600 with
      | (.ok ps, s) => some (count (s.physWrite (dealPhys ps data)))
      | (.wait, _) => none
      | (.deny, s) => some s
  | 1 => r.map fun r => s.chunkAnswer r st data
  | 3 => (s.packets.find? fun k => decide (k.u = u) && decide (k.desc = a) && k.sent && decide (k.ans = none)).map fun k =>
      s.packetAnswer k.p.id ((match n with
        | 0 => AwAnswer.accepted | 1 => .duplicate | 2 => .late | 3 => .refused | _ => .config))
  | 5 => f.map fun x => s.bcastRefused x.no 1 st
  | 7 => f.map fun x => s.schedRefused (x.port - 1) x.no st
  | _ => some (count s)
/-- R396: the arrivals that the log has next for the replayed launch of a unit come on their cycle. -/
def State.replayIn (s : State) (u : Nat) : State :=
  if s.isReplay u = false then s
  else [SeqId.S, .V, .M, .C].foldl (fun s q =>
    match s.nextRec u q with
    | some (5, cyc, at_, pos) =>
      if (s.ctx u).clk < cyc then s
      else
        let info := s.memWord (at_ + 24)
        match s.replayArrival u (s.memWord (at_ + 16)) info (s.mem.rdN (at_ + 32) (arrivalBytes info)) with
        | some s => s.logMove u q pos
        | none => s
    | _ => s) s
/-- ANSWER, R178, R303, R319, R320, R324, R437. -/
def execAnswer (port : BitVec 4) (h : FlitHdr) (a : LinkAnswer) (s : State) : Res :=
  .next <|
    let p := port.toNat
    s.rxFlit p h (match a with | .chunk _ _ _ _ _ data => 1 + (data.length + 223) / 224 | _ => 1) fun s =>
      match a with
      | .packet id ans =>
        let s := match s.packets.find? fun k => k.p.id = id with
          | some k => s.logFor k.lid 5 k.u k.q [k.desc, arrivalInfo 3 (ansCode ans) 0 none]
          | none => s
        s.packetAnswer id ans
      | .chunk _ _ seq _ st data =>
        (match s.remote.find? fun r => decide (r.port = p) && decide (r.seq = seq.toNat) with
         | none => s
         | some r =>
           let s := if r.late then s else
             s.logArrival r.lid r.u r.addr 1 (statusCode st) data.length none (match st with | .done => bytesWords data | _ => statusWords st)
           s.chunkAnswer r st data)
      | .held _ _ seq _ =>
        (match s.awaited.find? fun r => decide (r.port = p) && decide (r.seq = seq.toNat) with
         | none => s
         | some r => s.remoteHeld r)
      | .burst _ _ gseq st => (s.logFlown (s.flownBurst gseq.toNat) st).bcastRefused gseq.toNat (p + 1) st
      | .sched lseq st => (s.logFlown (s.flownSlot p lseq.toNat) st).schedRefused p lseq.toNat st
/-- R320, R440: the time-out of a port in real cycles. -/
def State.tmoCycles (s : State) (p : Nat) : Nat := max 1 (bits (s.reg (portBlock p)) 15 0) * 1050
/-- REMOTE_TIMEOUT, R320: no answer to a chunk of a channel has come within the port's time-out; one that its target holds has been
answered. It keeps its place in the ring until its answer comes (R435). -/
def execRemoteTimeout (u : Nat) (ch : Nat) (s : State) : Res :=
  .next <| match s.awaited.find? fun r => decide (r.u = u) && decide (r.ch = ch) && !r.held && decide (r.since + s.tmoCycles r.port ≤ s.now) with
    | some r => ((s.giveUp r).recount r).remoteFault r 0x13 r.addr none
    | none => s

/-- R437, R441: TREE of a job. -/
def State.tree (s : State) (j : Nat) : Word := s.reg (0x3011000 + 8 * j)
/-- R437: whether a packet goes to another package. -/
def State.pktRemote (s : State) (k : PktOut) : Bool := bit (s.tree k.p.job.toNat) 63
/-- R437, R441: packets of a job outstanding at other packages. -/
def State.jobOut (s : State) (j : Nat) : Nat :=
  (s.packets.filter fun k => decide (k.p.job.toNat = j) && s.pktRemote k && k.sent && decide (k.ans = none)).length
/-- The command of a packet of a `caw`. -/
def State.pktCmd (s : State) (k : PktOut) : Option CCmd :=
  let c := s.ctxOf k.u k.lid
  (c.allCmds ++ c.await).find? fun x => decide (x.id = k.cmd) && decide (k.cmd ≠ 0)
/-- R314: whether a packet may be sent now: those before it in its command have been, and the command is not faulted. -/
def State.pktReady (s : State) (k : PktOut) : Bool :=
  !k.sent && !k.back && decide (k.ans = none) &&
  (decide (k.cmd = 0) || (!(s.packets.any fun x => decide (x.cmd = k.cmd) && decide (x.p.id < k.p.id) && !x.sent && !x.back) &&
    (match s.pktCmd k with | some c => c.faulted.isNone | none => true)))
/-- R437: packets for other packages leave, as far as W and the port let them; one that no port reaches is answered as a
configuration error. -/
def State.sendPackets (s : State) : State :=
  s.packets.foldl (fun s k =>
    if s.pktReady k ∧ s.pktRemote k then
      let t := s.tree k.p.job.toNat
      match s.portFor (bits t 12 8) with
      | none => s.packetSent k.p.id (some .config)
      | some p =>
        if s.portUp p ∧ s.jobOut k.p.job.toNat < max 1 (bits t 7 0) then
          let r : OpenReq := ⟨2, 0, 0, 0, 0, 0, false, 0, 0, 0, k.u, 0, BitVec.ofNat 3 k.stack, some k.p, false⟩
          let s := if s.isReplay k.u then s else s.sendMsg p 3 2 (.request r)
          s.packetSent k.p.id none
        else s
    else s) s

/-- R178: a counter of AWSTAT rises. -/
def Ctx.awCount (c : Ctx) (lo : Nat) : Ctx :=
  { c with awstat := setBits c.awstat (lo + 15) lo (bits c.awstat (lo + 15) lo + 1) }
/-- R178, R314: a packet meets a configuration error, or the fabric's time-out: cause 0x0C or 0x13 in V for a `vaw`, a copy fault of
a `caw`, whose packet is sent again when C resumes. -/
def State.pktFault (s : State) (k : PktOut) (code : Nat) : State :=
  match s.pktCmd k with
  | some c =>
    let z : Nat := match c.op with | .caw _ _ _ y _ => segBytes y | _ => 256
    let i := (k.p.seg.toNat - bits k.desc 20 15) * z / 4096
    let s := { s with packets := s.packets.map fun (x : PktOut) =>
      if x.p.id = k.p.id then { x with back := true, sent := false, ans := none } else x }
    s.copyFault k.u k.lid c i code k.desc none
  | none =>
    let s := { s with packets := s.packets.filter fun x => x.p.id ≠ k.p.id }
    if k.cmd = 0 then s.deliverTo k.u k.lid .V ⟨BitVec.ofNat 8 code, 0, k.pc, k.desc, 0⟩ else s
/-- AW_ANSWER, R178, R314: the answer to a packet reaches its core. -/
def execAwAnswer (id : Nat) (ans : AwAnswer) (s : State) : Res :=
  .next <| match s.packets.find? fun k => k.p.id = id with
    | none => s
    | some k =>
      if k.ans ≠ some ans then s
      else
        let cnt (lo : Nat) : State := s.modCtxOf k.u k.lid (·.awCount lo)
        let done (s : State) : State := { s with packets := s.packets.filter fun x => x.p.id ≠ id }
        match ans with
        | .accepted => done (cnt 0)
        | .duplicate => done (cnt 16)
        | .late => done (cnt 32)
        | .refused =>
          let s := cnt 48
          { s with packets := s.packets.map fun x =>
              if x.p.id = id then { x with back := true, sent := false, ans := none } else x }
        | .config => s.pktFault k 0x0C
/-- AW_RESEND, R178, R314, R454: after back-off a refused packet is sent again, one that faulted its `caw` once C has resumed; when its launch
has ended it is abandoned. -/
def execAwResend (id : Nat) (s : State) : Res :=
  .next <| match s.packets.find? fun k => k.p.id = id with
    | none => s
    | some k =>
      let free : Bool := match s.pktCmd k with | some c => c.faulted.isNone | none => true
      if k.back ∧ s.launchLive k.lid = false then { s with packets := s.packets.filter fun x => x.p.id ≠ id }
      else if k.back ∧ free then
        { s with packets := s.packets.map fun x => if x.p.id = id then { x with back := false } else x }
      else s
/-- R437, R454: whether a packet at another package is to be abandoned: its target has left the view or its time has passed, or its launch has
ended before it could be sent and its port does not send. -/
def State.pktLost (s : State) (k : PktOut) : Bool :=
  let pkg := bits (s.tree k.p.job.toNat) 12 8
  let left := decide (bits (s.reg 0x3010018) 63 62 ≠ 0) && !(bit (s.reg 0x3010008) pkg)
  let late : Bool := match s.portFor pkg with | some p => decide (k.since + s.tmoCycles p ≤ s.now) | none => true
  let shut : Bool := match s.portFor pkg with | some p => !s.portUp p | none => true
  s.pktRemote k && decide (k.ans = none) && (if k.sent then left || late else !s.launchLive k.lid && !k.back && (left || shut))
/-- AW_PACKET_ABANDON, R437, R454: a packet whose target has left the view or does not answer in time is abandoned; in a launch that
runs it meets cause 0x13. -/
def execAwPacketAbandon (id : Nat) (s : State) : Res :=
  .next <| match s.packets.find? fun k => k.p.id = id with
    | none => s
    | some k =>
      if s.pktLost k then
        if s.launchLive k.lid then
          s.pktFault k 0x13
        else { s with packets := s.packets.filter fun x => x.p.id ≠ id }
      else s

end Sys2Proof.Machine
end

