-- ==== Sys2Proof/Machine/Plane.lean ====
section
/-! DEFINITION. Barriers (R139 to R143, R264, R446), the broadcast plane (R321, R442 to R449, R456) and datum time (R450 to
R452). -/
namespace Sys2Proof.Machine

/-- R449: BPSTAT.STATE. -/
def State.bpState (s : State) : Nat := bits (s.reg 0x3010018) 63 62
/-- R449: BPSTAT.HOLD. -/
def State.holdsToken (s : State) : Bool := bit (s.reg 0x3010018) 61
/-- R445: HOLD changes; a new hold begins its quota afresh. -/
def State.setHold (s : State) (b : Bool) : State :=
  let s := s.setReg 0x3010018 (setBits (s.reg 0x3010018) 61 61 (b2n b))
  if b then { s with plane := { s.plane with quota := 0 } } else s
/-- R447: MASK of the view. -/
def State.viewMask (s : State) : Nat := bits (s.reg 0x3010008) 31 0
/-- R447: EPOCH of the view. -/
def State.viewEpoch (s : State) : Nat := bits (s.reg 0x3010008) 63 32
/-- R449: BPSEQ. -/
def State.gseq (s : State) : Nat := (s.reg 0x3010010).toNat
/-- R445: the member after position p along the traverse of a mask. -/
def nextMember (mask p : Nat) : Nat :=
  ((List.range 32).map fun i => (p + 1 + i) % 32).find? (fun j => mask.testBit j) |>.getD p
/-- R447: the distance of position m after position p along the traverse of a mask. -/
def memberDist (mask p m : Nat) : Nat :=
  (((List.range 32).map fun i => (p + 1 + i) % 32).filter fun j => mask.testBit j).idxOf m + 1

/-- R429: whether the plane's key epoch still has n flits. -/
def State.planeFits (s : State) (n : Nat) : Bool :=
  !s.plane.noKey && (bit (s.reg 0x3010020) 63 || decide (bits (s.reg 0x3010020) 39 0 + n ≤ 2 ^ 40))
/-- R429, R443: n flits of a burst are counted in the plane's key epoch. -/
def State.countPlane (s : State) (n : Nat) : State :=
  let w := s.reg 0x3010020
  let c := bits w 39 0
  let c' := c + n
  let s := if c < 2 ^ 40 - 2 ^ 32 ∧ 2 ^ 40 - 2 ^ 32 ≤ c' then s.linkEvent 0 0x80 else s
  if c' < 2 ^ 40 then s.setReg 0x3010020 (setBits w 39 0 c')
  else
    let s := s.planeEpochEnd
    s.setReg 0x3010020 (setBits (s.reg 0x3010020) 39 0 (if s.plane.noKey then 2 ^ 40 - 1 else c' - 2 ^ 40))
/-- R443: flits of a burst. -/
def Burst.flits (b : Burst) : Nat := match b.body with | .data d => 1 + (d.data.length + 223) / 224 | _ => 1

/-- R456: the package has left the view: every `cbcast` chunk not yet carried is a copy fault 0x13; the group-scope operations and
barriers raise 0x13 when their sequencers try again. -/
def State.dropBursts (s : State) : State :=
  let ids := s.plane.dataId
  let s := { s with plane := { s.plane with data := [], dataId := [] } }
  (ids.map (·.1)).eraseDups.foldl (fun s id =>
    match s.cmdOwner id, ids.find? fun d => decide (d.1 = id) with
    | some (u, lid, k), some d =>
      let a : Word := match k.op with | .cbcast dst _ _ _ => dst + BitVec.ofNat 64 (4096 * d.2) | _ => 0
      s.copyFault u lid { k with next := d.2 } d.2 0x13 a none
    | _, _ => s) s
/-- Core and program order of a group-scope operation (R446). -/
def insertOp (o : PlaneOp) : List PlaneOp → List PlaneOp
  | [] => [o]
  | x :: l => if o.u < x.u ∨ (o.u = x.u ∧ o.id < x.id) then o :: x :: l else x :: insertOp o l
/-- R271, R446: the operations of this package that a burst carries take their places in T, in the order of their index, and are complete;
an atomic is then performed in its turn. -/
def State.placeOps (s : State) (carried : PlaneOp → Bool) : State :=
  let l := (s.plane.ops.filter carried).foldr insertOp []
  let s := l.foldl (fun s o => s.scOp o.lid o.u o.q 4) s
  { s with plane := { s.plane with
      done := s.plane.done ++ l.map (·.id), order := s.plane.order.filter s.amoAlive ++ l.filter (·.amo) } }
/-- R448, R456: the plane of this package leaves RUNNING; what it has carried keeps its place in T. -/
def State.leavePlane (s : State) (st : Nat) : State :=
  ((s.setReg 0x3010018 (setBits (s.reg 0x3010018) 63 61 (2 * st))).placeOps fun o =>
    o.gseq.isSome && decide (o.id ∉ s.plane.done)).dropBursts
/-- R448: a removed member is EXCLUDED and sends nothing more on the plane. -/
def State.exclude (s : State) : State := s.leavePlane 2
/-- R430: a flit of a burst whose tag fails: the plane of this package stops, GO with it (log 50), and the alarm is raised. -/
def State.planeAuthFail (s : State) : State :=
  ((s.leavePlane 0).setReg 0x3010000 (setBits (s.reg 0x3010000) 63 63 0)).alarm 0
/-- R448: every S that stands in a group barrier not yet complete raises 0x13 there. -/
def State.breakBarriers (s : State) : State :=
  s.cores.foldl (fun s p => p.2.lids.foldl (fun s lid =>
    let c := s.ctxOf p.1 lid
    match c.bar with
    | some (5, _) =>
      if c.barGo then s
      else (s.modCtxOf p.1 lid fun c => { c with bar := none, barSw := none }).deliverTo p.1 lid .S ⟨0x13, 0, c.s.pc, 0, 0⟩
    | _ => s) s) s
/-- R447, R448: a proposal is performed: the new view is adopted, and the proposer holds the token. -/
def State.adoptView (s : State) (by_ epoch mask : Nat) : State :=
  if mask.testBit s.pos = false then s.exclude
  else
    let v := BitVec.ofNat 64 (epoch * 2 ^ 32 + mask)
    let s := (s.setReg 0x3010008 v).setHold (decide (by_ = s.pos))
    let s := { s with plane := { s.plane with
      held := s.plane.held.filter fun b => mask.testBit b.h.sender.toNat
      arrived := [], barSent := [] } }
    s.breakBarriers.linkEvent 0 v

/-- R282, R320, R321: what this member meets in a burst reaches the sender, who knows the burst by its GSEQ. -/
def State.refuseBurst (s : State) (h : BurstHdr) (d : BurstData) (st : ChunkStatus) : State :=
  if h.sender.toNat = s.pos then s.bcastRefused h.gseq.toNat 0 st
  else match s.portFor h.sender.toNat with
    | some p => s.sendMsg p 2 1 (.answer (.burst d.core.toNat d.srcCh h.gseq st))
    | none => s
/-- R266, R282 to R289, R321: the bytes of a burst are performed at their pages: the chunks of this package's own commands are judged and
stamped as accesses of C of the issuing core, where a race is the fault of the copy; those of others as remote ones. Nothing where nothing
has been performed, else what the count of the burst brings: its chunk, with what happens before it where that is known here. -/
def State.bcastWrite (s : State) (h : BurstHdr) (d : BurstData) (lid : Nat) (asid : BitVec 16) (ps : List (Nat × Nat)) :
    Option (Map Nat) × State :=
  let comp := chunkComp s.uid 0 true
  let s := s.tickUid
  match (if h.sender.toNat = s.pos then s.flownBurst h.gseq.toNat else none) with
  | some x =>
    (match s.globalAll (x.cmd.acc x.u x.lid x.idx true) 1 x.cmd.pc asid (globalPieces d.va.toNat ps) with
     | (some c, s) => (none, s.flownFault x c.code.toNat c.addr (some c.info) fun k => { k with redo := k.redo ++ [x.idx] })
     | (none, s) => (some (x.cmd.chunkHist x.idx), s.physWrite (dealPhys ps d.data)))
  | none =>
    (match s.remoteGlobal (s.remoteAcc lid h.sender.toNat d.core.toNat comp) h.sender.toNat d.core.toNat comp 1 asid d.va.toNat ps with
     | (some c, s) => (none, s.refuseBurst h d (.raced c.addr c.info))
     | (none, s) => (some [(comp, 1)], s.physWrite (dealPhys ps d.data)))
/-- R279, R303: a burst is counted at this member; one whose add is refused is remembered with its component. -/
def State.bcastCount (s : State) (h : BurstHdr) (d : BurstData) (core bb : Nat) (hist : Map Nat) : State :=
  match s.bbAdd core bb d.data.length hist with
  | some s => s
  | none =>
    ({ s with landed := s.landed ++ [(h.sender.toNat, d.core.toNat, d.srcCh.toNat, d.data.length, (hist.headD (0, 0)).1)] } : State).refuseBurst
      h d .unadded
/-- R320, R321, R446: a chunk of a `cbcast` is performed at this member; false where a page or a chunk of its byte barrier
holds it. -/
def State.bcastIn (s : State) (h : BurstHdr) (d : BurstData) : Bool × State :=
  match s.groupLaunch d.group.toNat with
  | none => (true, s.refuseBurst h d .refused)
  | some l =>
    if l.id ∈ s.misc.replay then (true, s)
    else match s.svcRange ingressUnit 0 l.asid d.va.toNat d.data.length 6 3500 with
      | (.wait, s) => (false, s)
      | (.deny, s) => (true, s.refuseBurst h d .refused)
      | (.ok ps, s) =>
        let bb := d.bb.map fun bb => placeOf d.core.toNat bb
        let log (s : State) : State :=
          s.logArrival l.id d.core.toNat d.va 0 0 d.data.length (bb.map (·.2)) (bytesWords d.data)
        match bb with
        | none => (true, ((log s).bcastWrite h d l.id l.asid ps).2)
        | some q =>
          if s.ingressOk q.1 l.asid q.2 8 true = false then (true, s.refuseBurst h d .refused)
          else match s.ingressTouch q.1 [q.2] with
            | (.wait, s) => (false, s)
            | (.ends .refused _, s) => (true, s.refuseBurst h d .refused)
            | (_, s) => match (log s).bcastWrite h d l.id l.asid ps with
              | (none, s) => (true, s)
              | (some hist, s) => (true, s.bcastCount h d q.1 q.2 hist)
/-- R302, R321, R445: the chunk at the head of the plane's queue leaves as the burst of a GSEQ; a command all of whose chunks have left is
performed. -/
def State.bcastLeaves (s : State) (gseq : Nat) : State :=
  match s.plane.dataId with
  | [] => { s with plane := { s.plane with data := s.plane.data.drop 1 } }
  | d :: r =>
    let s := { s with plane := { s.plane with data := s.plane.data.drop 1, dataId := r } }
    match s.cmdOwner d.1 with
    | some (u, lid, k) =>
      let k := { k with done := max k.done (d.2 + 1) }
      let s := s.fly ⟨0, gseq, u, lid, k, d.2, false⟩
      let s := (List.range 32).foldl (fun s p => if s.viewMask.testBit p ∧ p ≠ s.pos then s.tellPeer lid p (k.chunkHist d.2) else s) s
      if k.faulted.isSome ∨ k.unsent ∨ (r.any fun e => decide (e.1 = d.1)) then s.putCmd u lid k else s.performCopy u lid k true
    | none => s
/-- R302: this package has performed its own burst. -/
def State.bcastHere (s : State) (gseq : Nat) : State :=
  { s with plane := { s.plane with flown := s.plane.flown.map fun x => if x.port = 0 ∧ x.no = gseq then { x with here := true } else x } }

/-- R450: DSTAT.STATE. -/
def State.dState (s : State) : Nat := bits (s.reg 0x3020008) 63 62
/-- R450: a servo state is entered. -/
def State.setDState (s : State) (n : Nat) : State :=
  { s.setReg 0x3020008 (setBits (s.reg 0x3020008) 63 62 n) with lockCnt := 0 }
/-- R452: OFFSET is the last measured offset. -/
def State.setOffset (s : State) (o : BitVec 32) : State := s.setReg 0x3020008 (setBits (s.reg 0x3020008) 31 0 o.toNat)
/-- R451: a rate correction is at most lim parts per billion. -/
def clampSlew (v lim : Int) : Int := max (-lim) (min lim v)
/-- R450, R451: a measured offset: the state changes by it, and its correction is applied within the bounds of R451. -/
def State.followUp (s : State) (m : TimeMsg) : State :=
  if m.domain.toNat ≠ bits (s.reg 0x3020010) 55 48 then s
  else
    let s := s.setOffset m.offset
    let off := m.offset.toInt
    let st := s.dState
    let s : State := { s with plane := { s.plane with syncAt := s.now, gmAt := s.now } }
    let s :=
      if st = 2 then (if 2000 < off ∨ off < -2000 then s.setDState 1 else s)
      else if st = 1 then
        (if -1500 ≤ off ∧ off ≤ 1500 then
          (if 16 ≤ s.lockCnt + 1 then s.setDState 2 else { s with lockCnt := s.lockCnt + 1 })
        else { s with lockCnt := 0 })
      else s
    if s.dState = 1 ∧ 1000 < m.step.toNat then { s with datumNs := s.datumNs + m.step, datumSlew := 0 }
    else { s with datumSlew := clampSlew m.slew.toInt (if s.dState = 2 then 100000 else 1000000) }
/-- R451: the datum advances by one cycle of 20/21 ns under the rate correction; the fraction counts in 2^-16/21 ns. -/
def State.datumTick (s : State) : State :=
  let step : Int := 1310720 + 1310720 * s.datumSlew / 1000000000
  let t := s.datumFr + step.toNat
  { s with datumNs := s.datumNs + BitVec.ofNat 64 (t / 1376256), datumFr := t % 1376256 }
/-- R450: this package is grandmaster where it takes part in the election and nobody heard is better. -/
def State.electGm (s : State) : State :=
  let c := s.reg 0x3020010
  let own : Nat × Nat := (bits c 7 0, s.plane.clockId.toNat)
  let wins : Bool := match s.plane.best with
    | none => true
    | some b => decide (own.1 < b.1 ∨ (own.1 = b.1 ∧ own.2 < b.2))
  s.setReg 0x3020008 (setBits (s.reg 0x3020008) 61 61 (b2n (bit c 63 && wins)))

/-- R442, R450: a timing message leaves by the plane, in the next hold, or by the management port, as DCFG.SRC says. -/
def State.sendTime (s : State) (m : TimeSent) : State :=
  match bits (s.reg 0x3020010) 57 56 with
  | 0 => if s.bpState = 1 then { s with plane := { s.plane with timeq := s.plane.timeq ++ [m] } } else s
  | 3 => s
  | _ => s.emit (.time m)
/-- R450: cycles of a Sync interval of 2^-7 s. -/
def syncInterval : Nat := 8203125
/-- R450: the grandmaster sends a Sync and its Follow_Up in every interval, and Announce messages (PRESUMED, log 89: every 2 s). Its own
offset is 0, by which its own servo goes (log 89). -/
def State.grandmaster (s : State) : State :=
  let c := s.reg 0x3020010
  let dom := bits c 55 48
  if bit (s.reg 0x3020008) 61 = false ∨ s.now % syncInterval ≠ 0 then s
  else
    let s := if s.now % (256 * syncInterval) = 0 then s.sendTime (.announce (bits c 7 0) 248 0xFE 0xFFFF 128 dom s.plane.clockId) else s
    let s := (s.sendTime (.sync dom)).sendTime (.followUp dom s.datumNs)
    (if s.dState = 0 ∨ s.dState = 3 then s.setDState 1 else s).followUp ⟨BitVec.ofNat 8 dom, 0, 0, 0⟩
/-- R444 to R448, R450: what a burst of this view other than a data burst does at this member. -/
def State.burstEffect (s : State) (b : Burst) : State :=
  let by_ := b.h.sender.toNat
  let own := decide (by_ = s.pos)
  match b.body with
  | .token next =>
    let s := { s with plane := { s.plane with tokenTo := next, tokenAt := s.now } }
    if next = s.pos then s.setHold true else if own then s.setHold false else s
  | .data _ => s
  | .fence ops =>
    if own then s.placeOps fun o => decide (o.gseq = some b.h.gseq.toNat) && decide (o.id ∉ s.plane.done)
    else ops.foldl (fun s c => s.launches.foldl (fun s l => if l.group = 0 then s else s.scRemote l.id by_ [c]) s) s
  | .barrier g =>
    let l := s.plane.arrived ++ [(g, by_)]
    let all := (List.range 32).all fun p => !(s.viewMask.testBit p) || l.any fun e => decide (e = (g, p))
    if all ∧ s.groupLaunch g = none then
      { s with plane := { s.plane with arrived := l.filter fun e => decide (e.1 ≠ g), barSent := s.plane.barSent.filter (· ≠ g) } }
    else { s with plane := { s.plane with arrived := l } }
  | .proposal e m => s.adoptView by_ e m
  | .nak lost =>
    let frame := s.datumNs.toNat / 8192
    let n := (if s.plane.nakAt = frame then s.plane.naks else 0) + 1
    let mine := s.plane.kept.any fun k => decide (k.h.gseq.toNat = lost)
    { s with plane := { s.plane with naks := n, nakAt := frame, resend := s.plane.resend ++ (if mine then [lost] else []) } }
  | .timing m => if bits (s.reg 0x3020010) 57 56 = 0 then s.followUp m else s
  | .told _ => s
  | .control lv =>
    { s.setReg 0x3010018 (setBits (s.reg 0x3010018) 60 59 lv) with plane := { s.plane with naks := 0 } }.linkEvent 0 0x80
/-- R444, R447: a burst is performed: BPSEQ follows it and nobody is suspected any more; false where a data burst is held. -/
def State.performBurst (s : State) (b : Burst) : Bool × State :=
  let go (s : State) : State :=
    { s.setReg 0x3010010 b.h.gseq with plane := { s.plane with tokenAt := 0 } }
  match b.body with
  | .data d =>
    match s.bcastIn b.h d with
    | (true, s) => (true, if b.h.sender.toNat = s.pos then (go s).bcastHere b.h.gseq.toNat else go s)
    | (false, s) => (false, s)
  | _ => (true, (go s).burstEffect b)
/-- R444: a burst waits in GSEQ order. -/
def holdBurst : List Burst → Burst → List Burst
  | [], b => [b]
  | x :: l, b => if b.h.gseq.toNat < x.h.gseq.toNat then b :: x :: l else if b.h.gseq = x.h.gseq then x :: l else x :: holdBurst l b
/-- R444: whether a burst belongs to the current view and has not been performed. -/
def State.burstDue (s : State) (b : Burst) : Bool :=
  decide (s.bpState = 1) && decide (b.h.vepoch.toNat = s.viewEpoch) && s.viewMask.testBit b.h.sender.toNat &&
  decide (s.gseq < b.h.gseq.toNat)
/-- R444: the waiting bursts are performed in order, as far as they can be. -/
def State.drainHeld : Nat → State → State
  | 0, s => s
  | f + 1, s =>
    match s.plane.held with
    | [] => s
    | b :: r =>
      let blocked : Bool := s.plane.lost.any fun l => decide (l.1 < b.h.gseq.toNat)
      if blocked then s
      else
        let s' := { s with plane := { s.plane with held := r } }
        if s'.burstDue b = false then State.drainHeld f s'
        else match s'.performBurst b with
          | (true, s') => State.drainHeld f s'
          | (false, s') => { s' with plane := { s'.plane with held := holdBurst s'.plane.held b } }
/-- R444: drains what waits. -/
def State.drain (s : State) : State := s.drainHeld (s.plane.held.length + 1)
/-- R444, R445: a burst is received: it is performed in its turn, or discarded. A token burst that names a member which still lacks a
burst gives it the hold in which it asks for that burst. A burst whose tag fails stops the plane. -/
def State.receiveBurst (s : State) (b : Burst) : State :=
  if s.bpState = 1 ∧ b.h.tagOk = false then s.planeAuthFail
  else if s.burstDue b = false then s
  else
    let s : State := { s with plane := { s.plane with lost := mdel s.plane.lost b.h.gseq.toNat } }
    let s := ({ s with plane := { s.plane with held := holdBurst s.plane.held b } } : State).drain
    match b.body with
    | .token next =>
      if next = s.pos ∧ s.plane.lost ≠ [] ∧ (s.plane.held.any fun k => decide (k = b)) then s.setHold true else s
    | _ => s

/-- R443: the number of the last burst that has been performed, waits or is missing. -/
def State.lastNo (s : State) : Nat :=
  s.plane.held.foldl (fun n b => max n b.h.gseq.toNat) (s.plane.lost.foldl (fun n l => max n l.1) s.gseq)
/-- R443: the header of the next burst of this package. -/
def State.nextHdr (s : State) : BurstHdr := ⟨true, BitVec.ofNat 5 s.pos, BitVec.ofNat 32 s.viewEpoch, BitVec.ofNat 64 (s.lastNo + 1)⟩
/-- R429: a burst for which the key epoch has no room ends the epoch, and nothing more is sent. -/
def State.planeSpent (s : State) : State := if s.plane.noKey then s else s.planeEpochEnd
/-- R443, R445: the holder sends a burst with the next number, and performs it in its turn. -/
def State.sendBurst (s : State) (body : BurstBody) : State :=
  let b : Burst := ⟨s.nextHdr, body⟩
  if s.planeFits b.flits = false then s.planeSpent
  else
    let s := (s.countPlane b.flits).emit (.burst b)
    ({ s with plane := { s.plane with kept := s.plane.kept ++ [b], held := holdBurst s.plane.held b } } : State).drain
/-- R446: whether all member cores of this package's part of a group launch have arrived at a group barrier. -/
def State.groupArrived (s : State) (lid : Nat) : Bool :=
  let ms := s.members lid 5 0
  let stands (u : Nat) : Bool := match (s.ctxOf u lid).bar with | some (5, _) => !(s.ctxOf u lid).barGo | _ => false
  ms.any stands && ms.all fun u => stands u || (s.ctxOf u lid).allHalted
/-- R446: the groups whose barrier burst is due. -/
def State.barrierDue (s : State) : List Nat :=
  s.launches.filterMap fun l =>
    if l.st = .running ∧ l.group ≠ 0 ∧ l.group ∉ s.plane.barSent ∧ s.groupArrived l.id then some l.group else none
/-- R445, R446: the next burst of a hold, or none when there is nothing to send. -/
def State.holdStep (s : State) : Option State :=
  match s.plane.resend with
  | g :: r =>
    let s := { s with plane := { s.plane with resend := r } }
    match s.plane.kept.find? fun b => decide (b.h.gseq.toNat = g) with
    | some b => some (if s.planeFits b.flits then (s.countPlane b.flits).emit (.burst b) else s.planeSpent)
    | none => some s
  | [] =>
    let fresh := (s.plane.ops.filter fun o => o.gseq.isNone).foldr insertOp []
    if fresh ≠ [] then
      let no := s.lastNo + 1
      some (if s.planeFits 1 then
          ({ s with plane := { s.plane with ops := s.plane.ops.map fun o => if o.gseq.isNone then { o with gseq := some no } else o } } : State).sendBurst
            (.fence (fresh.map (·.u)))
        else s.planeSpent)
    else match s.barrierDue with
      | g :: _ => some (if s.planeFits 1 then
          ({ s with plane := { s.plane with barSent := s.plane.barSent ++ [g] } } : State).sendBurst (.barrier g) else s.planeSpent)
      | [] => match s.plane.data with
        | d :: _ =>
          let own : Bool := match s.groupLaunch d.group.toNat with | some l => decide (l.id ∈ s.misc.replay) | none => false
          some (if own then (s.bcastLeaves (s.lastNo + 1)).bcastHere (s.lastNo + 1)
            else if s.planeFits (Burst.flits ⟨s.nextHdr, .data d⟩) then (s.bcastLeaves (s.lastNo + 1)).sendBurst (.data d)
            else s.planeSpent)
        | [] => none
/-- R429, R445: whether the hold goes on: a burst that waits at the holder itself holds it up, and without a key nothing is sent. -/
def State.holdOpen (s : State) : Bool :=
  s.holdsToken && decide (s.bpState = 1) && !s.plane.noKey && (s.plane.held.isEmpty || !s.plane.lost.isEmpty)
/-- R445: bursts of a hold, up to a number of them; true when the hold has come to its token burst. -/
def State.holdLoop (q : Nat) : Nat → State → Bool × State
  | 0, s => (s.holdOpen, s)
  | f + 1, s =>
    if s.holdOpen = false then (false, s)
    else if q ≤ s.plane.quota then (true, s)
    else match s.holdStep with
      | none => (true, s)
      | some s => State.holdLoop q f { s with plane := { s.plane with quota := s.plane.quota + 1 } }
/-- R439, R449: a level below that of the plane is announced after more than 16 naks in a frame (log 50); the plane knows levels 0 to 2. -/
def State.planeLevel (s : State) : State :=
  let lv := bits (s.reg 0x3010018) 60 59
  if 16 < s.plane.naks ∧ lv < 2 then s.sendBurst (.control (lv + 1)) else s
/-- R444: a hold begins with naks for the bursts that this member lacks. -/
def State.askLost (s : State) (q : Nat) : State :=
  if s.plane.quota ≠ 0 then s
  else (s.plane.lost.take q).foldl (fun s l =>
    let s := s.sendBurst (.nak l.1)
    { s with plane := { s.plane with quota := s.plane.quota + 1 } }) s
/-- R442, R443, R450: the timing messages that wait leave as timing bursts. -/
def State.sayTime (s : State) : State :=
  let l := s.plane.timeq
  l.foldl (fun s m => if s.holdOpen then s.sendBurst (.told m) else s) { s with plane := { s.plane with timeq := [] } }
/-- R444, R445: a hold. A token burst of a member alone in its view comes back to it later. -/
def State.sendHold (s : State) : State :=
  if s.holdOpen = false then s
  else
    let q := max 1 (bits (s.reg 0x3010000) 47 40)
    match (s.planeLevel.sayTime.askLost q).holdLoop q (q + 1) with
    | (false, s) => s
    | (true, s) =>
      let next := nextMember s.viewMask s.pos
      if s.planeFits 1 = false then s.planeSpent
      else if next = s.pos then
        let b : Burst := ⟨s.nextHdr, .token next⟩
        let s := (s.countPlane 1).emit (.burst b)
        let s := s.tickFree.setHold false
        { s with plane := { s.plane with again := some (s.now + 1 + s.delay, b) } }
      else if s.plane.lost ≠ [] then (s.sendBurst (.token next)).setHold false
      else s.sendBurst (.token next)

/-- TOKEN_BURST, R445. -/
def execTokenBurst (h : BurstHdr) (named : BitVec 5) (s : State) : Res := .next (s.receiveBurst ⟨h, .token named.toNat⟩)
/-- DATA_BURST, R321, R446. -/
def execDataBurst (h : BurstHdr) (d : BurstData) (s : State) : Res := .next (s.receiveBurst ⟨h, .data d⟩)
/-- FENCE_BURST, R446. -/
def execFenceBurst (h : BurstHdr) (ops : List Nat) (s : State) : Res := .next (s.receiveBurst ⟨h, .fence ops⟩)
/-- BARRIER_BURST, R446. -/
def execBarrierBurst (h : BurstHdr) (group : BitVec 8) (s : State) : Res := .next (s.receiveBurst ⟨h, .barrier group.toNat⟩)
/-- PROPOSAL_BURST, R447, R448. -/
def execProposalBurst (h : BurstHdr) (epoch mask : BitVec 32) (s : State) : Res :=
  .next (s.receiveBurst ⟨h, .proposal epoch.toNat mask.toNat⟩)
/-- NAK_BURST, R444, R449. -/
def execNakBurst (h : BurstHdr) (lost : BitVec 64) (s : State) : Res := .next (s.receiveBurst ⟨h, .nak lost.toNat⟩)
/-- TIMING_BURST, R450. -/
def execTimingBurst (h : BurstHdr) (m : TimeMsg) (s : State) : Res := .next (s.receiveBurst ⟨h, .timing m⟩)
/-- CONTROL_BURST, R449. -/
def execControlBurst (h : BurstHdr) (level : BitVec 2) (s : State) : Res := .next (s.receiveBurst ⟨h, .control level.toNat⟩)
/-- UNCORRECTED_BURST, R444: a burst has been received with an uncorrected error; after the third failure the member leaves the
view by a proposal of its own. -/
def execUncorrectedBurst (gseq : BitVec 64) (s : State) : Res :=
  .next <|
    let g := gseq.toNat
    if s.bpState ≠ 1 ∨ g ≤ s.gseq ∨ (s.plane.held.any fun b => decide (b.h.gseq = gseq)) then s
    else
      let n := mget 0 s.plane.lost g + 1
      let s : State := { s with plane := { s.plane with lost := mput s.plane.lost g n } }
      if n < 3 then s
      else if s.planeFits 1 then
        ((s.countPlane 1).emit (.burst ⟨s.nextHdr, .proposal (s.viewEpoch + 1) (s.viewMask - 2 ^ s.pos)⟩)).exclude
      else s.exclude
/-- R447: whether member `suspect` has been silent so long that this member's proposal is due. -/
def State.tokenLost (s : State) (suspect : Nat) : Bool :=
  let c := s.reg 0x3010000
  decide (s.bpState = 1) && decide (s.plane.tokenAt ≠ 0) && decide (s.plane.tokenTo = suspect) && decide (suspect ≠ s.pos) &&
  s.viewMask.testBit suspect && s.viewMask.testBit s.pos && decide (s.plane.tokenAt ≤ s.now) &&
  decide (21 * (bits c 39 20 + (memberDist s.viewMask suspect s.pos - 1) * bits c 19 0) ≤ 20 * (s.now - s.plane.tokenAt))
/-- TOKEN_TIMEOUT, R447: the proposal removes the suspect and the members whose proposal times have passed. -/
def execTokenTimeout (suspect : BitVec 5) (s : State) : Res :=
  .next <|
    let p := suspect.toNat
    if s.tokenLost p ∧ s.planeFits 1 then
      let d := memberDist s.viewMask p s.pos
      let gone := (List.range 32).filter fun j =>
        s.viewMask.testBit j && (decide (j = p) || decide (memberDist s.viewMask p j < d))
      s.sendBurst (.proposal (s.viewEpoch + 1) (s.viewMask - (gone.map (2 ^ ·)).sum))
    else s
/-- BPCFG_WRITE, R449: ignored unless STOPPED. -/
def State.bpcfgWrite (s : State) (v : Word) : State :=
  if s.bpState = 0 then s.setReg 0x3010000 (v &&& 0x801FFFFFFFFFFFFF) else s
/-- BPCFG_WRITE. -/
def execBpcfgWrite (v : BitVec 64) (s : State) : Res := .next (s.bpcfgWrite v)
/-- BPVIEW_WRITE, R449: ignored unless STOPPED. -/
def State.bpviewWrite (s : State) (v : Word) : State := if s.bpState = 0 then s.setReg 0x3010008 v else s
/-- BPVIEW_WRITE. -/
def execBpviewWrite (v : BitVec 64) (s : State) : Res := .next (s.bpviewWrite v)
/-- R447, R449: whether the plane leaves STOPPED. -/
def State.joinDue (s : State) : Bool := bit (s.reg 0x3010000) 63 && !s.imageBad && decide (s.bpState = 0) && s.viewMask.testBit s.pos
/-- BP_JOIN, R445, R449: the package joins the traverse; the lowest position of the view has the first hold (DESIGN CHOICE, log 33). The training that measures STARLAT ends here. -/
def execBpJoin (s : State) : Res :=
  .next <|
    if s.joinDue then
      let s := s.setReg 0x3010018 (setBits (setBits (s.reg 0x3010018) 63 62 1) 15 0 (Config.starLat s.free).toNat)
      let s := s.tickFree
      s.setHold (decide (nextMember s.viewMask 31 = s.pos))
    else s

/-- R450: DCFG.DOMAIN. -/
def State.timeDomain (s : State) : Nat := bits (s.reg 0x3020010) 55 48
/-- R450: a message of a grandmaster has been heard; `sync` that it is a Sync. -/
def State.heardGm (s : State) (sync : Bool) : State :=
  { s with plane := { s.plane with gmAt := s.now, syncAt := if sync then s.now else s.plane.syncAt } }
/-- R450, R452: SYNC: a package that is not LOCKED acquires. -/
def execSync (m : TimeMsg) (s : State) : Res :=
  .next <|
    if m.domain.toNat ≠ s.timeDomain then s
    else
      let s := s.heardGm true
      if s.dState = 0 ∨ s.dState = 3 then s.setDState 1 else s
/-- FOLLOW_UP, R450, R451; a slave asks for the delay behind it (log 89). -/
def execFollowUp (m : TimeMsg) (s : State) : Res :=
  .next <|
    if m.domain.toNat = s.timeDomain ∧ bit (s.reg 0x3020008) 61 = false then (s.followUp m).sendTime (.delayReq s.timeDomain)
    else s.followUp m
/-- ANNOUNCE, R450: a candidate is heard; the best of them, by priority1 and then clockIdentity, is grandmaster. -/
def execAnnounce (prio1 : BitVec 8) (clockId : BitVec 64) (domain : BitVec 8) (gm : Bool) (s : State) : Res :=
  .next <|
    if domain.toNat ≠ s.timeDomain ∨ gm = false then s
    else
      let x : Nat × Nat := (prio1.toNat, clockId.toNat)
      let b := match s.plane.best with
        | none => x
        | some y => if x.1 < y.1 ∨ (x.1 = y.1 ∧ x.2 < y.2) then x else y
      let s := s.heardGm false
      ({ s with plane := { s.plane with best := some b } } : State).electGm
/-- DELAY_REQ, R450: the grandmaster answers. -/
def execDelayReq (m : TimeMsg) (s : State) : Res :=
  .next (if m.domain.toNat = s.timeDomain ∧ bit (s.reg 0x3020008) 61 then s.sendTime (.delayResp m) else s)
/-- DELAY_RESP, R450: the end-to-end delay is known and the offset measured anew. -/
def execDelayResp (m : TimeMsg) (s : State) : Res :=
  .next (if m.domain.toNat = s.timeDomain then s.setOffset m.offset else s)
/-- R450: whether a LOCKED package has met no Sync for 8 intervals. -/
def State.holdoverDue (s : State) : Bool := decide (s.dState = 2) && decide (s.plane.syncAt + 8 * syncInterval ≤ s.now)
/-- HOLDOVER, R450. -/
def execHoldover (s : State) : Res :=
  .next (if s.holdoverDue then (s.setDState 3).heardGm false else s)
/-- R450: whether in HOLDOVER no grandmaster has been heard for 1 s. -/
def State.freeRunDue (s : State) : Bool := decide (s.dState = 3) && decide (s.plane.gmAt + 128 * syncInterval ≤ s.now)
/-- FREE_RUN, R450: no grandmaster is known any more, and the election begins anew. -/
def execFreeRun (s : State) : Res :=
  .next (if s.freeRunDue then
      ({ s.setDState 0 with plane := { (s.setDState 0).plane with best := none } } : State).electGm
    else s)

/-- Table 5.8: cycles from the last arrival to the release; a group barrier is carried on the plane. -/
def releaseDelay (level : Nat) : Nat := match level with | 2 => 2 | 3 => 8 | 4 => 32 | _ => 0
/-- R142: the phase number of a level rises by one. -/
def phaseUp (level : Nat) (w : Word) : Word :=
  if level < 2 ∨ 5 < level then w
  else
    let lo := 16 * (level - 2)
    setBits w (lo + 15) lo (bits w (lo + 15) lo + 1)
/-- R38, R264: V, M and C restart at the entry PCs of a variant. -/
def Ctx.restart (c : Ctx) (es : List Word) : Ctx :=
  let sq (i : Nat) : Seq := { Seq.zero with pc := es.getD i 0, run := decide (es.getD i 0 ≠ 0), nextAt := c.clk + 1 }
  { c with
    v := sq 0, m := sq 1, c := sq 2
    vr := Vector.replicate 32 0, vo := Vector.replicate 8 0, vq := Vector.replicate 16 0, vb := Vector.replicate 3 0
    mkr := Vector.replicate 8 0, tiles := .zero, vtset := 0, vrm := 0, vseed := 0, vsrctr := 0, awround := 0, awstat := 0
    a := Vector.replicate 16 0, g := Vector.replicate 16 0, vl0 := .zero, vl1 := .zero, poison := c.poison.filter fun p => p.1 = .S }
/-- R139, R141, R446: the units that stand in a barrier of a level, where it may complete now. -/
def State.barrierReady (s : State) (lid level dom : Nat) : Option (List Nat) :=
  let ms := s.members lid level dom
  let at_ (u : Nat) : Option Nat :=
    let c := s.ctxOf u lid
    match c.bar with
    | some (l, t) => if l = level ∧ ¬ c.barGo then some t else none
    | none => none
  let st := ms.filter fun u => (at_ u).isSome
  if st = [] ∨ ¬ (ms.all fun u => (at_ u).isSome || (s.ctxOf u lid).allHalted) then none
  else if ¬ (st.all fun u => decide ((at_ u).getD 0 + releaseDelay level ≤ s.now)) then none
  else
    let heard : Bool := match s.launch lid with
      | some l => (List.range 32).all fun p => !(s.viewMask.testBit p) || s.plane.arrived.any fun e => decide (e = (l.group, p))
      | none => false
    if level = 5 ∧ ¬ heard then none else some st
/-- R446: a group barrier uses up one barrier burst of every member of the view. -/
def State.useArrivals (s : State) (g : Nat) : State :=
  { s with plane := { s.plane with
      arrived := (List.range 32).foldl (fun l p => if s.viewMask.testBit p then l.erase (g, p) else l) s.plane.arrived
      barSent := s.plane.barSent.filter (· ≠ g) } }
/-- R275, R446: what the other packages of the view have done here is before a group barrier that they have reached, and what is before it
here is before all that they do after it. -/
def State.barrierRemote (s : State) (lid : Nat) (units : List Nat) : State :=
  let mine := units.foldl (fun a u => vcJoin a (s.vc (keyBar lid u))) []
  (List.range 32).foldl (fun s p =>
    if s.viewMask.testBit p ∧ p ≠ s.pos then
      (s.joinVc (keyBar lid (units.headD 0)) (s.remoteHist lid p)).joinVc (keyAcqR lid p) mine
    else s) s
/-- BARRIER_COMPLETE, R139, R142, R143, R264, R275, R446: a barrier completes; the variant named takes effect, or differing variants
raise 0x17, a plain bar among them counting as one that differs (log 82). -/
def execBarrierComplete (lid : Nat) (level : Nat) (dom : Nat) (s : State) : Res :=
  .next <| match s.barrierReady lid level dom with
    | none => s
    | some st =>
      let ms := s.members lid level dom
      let names := (st.map fun u => (s.ctxOf u lid).barSw).eraseDups
      let es (v : Nat) : List Word := match s.launch lid with | some l => l.ventries v | none => []
      let s := if level = 5 then (match s.launch lid with | some l => s.useArrivals l.group | none => s) else s
      let s := ms.foldl (fun s u => s.modCtxOf u lid fun c => { c with phase := phaseUp level c.phase }) s
      let s := (ms.filter fun u => u ∉ st).foldl (fun s u => s.barrierArrive lid u) s
      let s := if level = 5 then s.barrierRemote lid ms else s
      let s := s.barrierHb lid ms
      if 1 < names.length then
        let info := Config.variantsNamed (names.map fun n => n.getD 15)
        st.foldl (fun s u =>
          (s.modCtxOf u lid fun c => { c with bar := none, barSw := none }).deliverTo u lid .S
            ⟨0x17, 0, (s.ctxOf u lid).s.pc, 0, info⟩) s
      else
        let s : State := match names with
          | [some v] => st.foldl (fun s u => s.modCtxOf u lid fun c =>
              { c.restart (es v) with variant := setBits (setBits c.variant 5 4 v) 11 8 15 }) s
          | _ => s
        let s : State := match names, s.launch lid with | [some _], some l => s.showOver l | _, _ => s
        st.foldl (fun s u => s.modCtxOf u lid fun c => { c with barGo := true }) s

end Sys2Proof.Machine
end

