-- ==== Sys2Proof/Machine/Package.lean ====
section
/-! DEFINITION. The package register space as its readers and writers meet it (R8, R9, R399 to R401), the observation port (R421 to
R423), package reset (R400), and the performance of global accesses (R236, R247, R248). -/
namespace Sys2Proof.Machine

/-- R423: OBSCTL.UNLK. -/
def State.unlocked (s : State) : Bool := bit (s.reg 0x5000000) 63
/-- R421: the 8 bytes that OBSSEL and OBSOFF name. -/
def State.obsWord (s : State) : Word :=
  let u := bits (s.reg 0x5000008) 8 0
  let k := s.core u
  if u < Config.nUnits then k.imageWord k.ctx s.free (bits (s.reg 0x5000010) 20 3 * 8) else 0
/-- R421, R423: a read of OBSDATA. -/
def State.obsRead (s : State) : Word × State := if s.unlocked then (s.obsWord, s.tickFree) else (0, s.alarm 1)
/-- Whether a register is write-only. -/
def regWo (off : Nat) : Bool :=
  decide (off = 0x10) || decide (off = 0x5000028) || (decide (0x3010028 ≤ off) && decide (off ≤ 0x3010040)) ||
  (decide (0x3000000 ≤ off) && decide (off < 0x3010000) && decide (0x20 ≤ off % 0x1000) && decide (off % 0x1000 < 0x40))
/-- R399: a read of a register; an offset with no register, one that is write-only or one that is not a multiple of 8 reads zero. -/
def State.regRead (s : State) (off : Nat) : Word × State :=
  if off % 8 ≠ 0 ∨ regWo off then (0, s)
  else if off = 0x5000018 then s.obsRead
  else if off = 0x3020000 then (s.datumNs, s)
  else if off = 0x3020008 then (setBits (s.reg off) 47 32 (s.datumFr / 21), s)
  else (s.reg off, s)

/-- R418: held records of an event queue, or of a page-fault queue named 100 + die, enter the ring as far as it has room. -/
def State.flushEvents (s : State) : State :=
  let held := s.misc.evHeld
  held.foldl (fun s e =>
    if s.misc.evHeld.any fun x => x.1 = e.1 then { s with misc := { s.misc with evHeld := s.misc.evHeld ++ [e] } }
    else if e.1 < 100 then s.post e.1 e.2
    else
      let h := dieBlock (e.1 - 100) + 0x10050
      if s.ringFull h (h + 8) then { s with misc := { s.misc with evHeld := s.misc.evHeld ++ [e] } }
      else (s.ringPut (dieBlock (e.1 - 100) + 0x30000) (h + 8) e.2).emit (.msix (32 + (e.1 - 100))))
    { s with misc := { s.misc with evHeld := [] } }
/-- R418: a write of the head of an event queue, or of a page-fault queue named 100 + die. -/
def State.evqhWrite (s : State) (k : Nat) (v : Word) : State :=
  (s.setReg (if k < 100 then evqhOff k else dieBlock (k - 100) + 0x10050) (BitVec.ofNat 64 (bits v 7 0))).flushEvents
/-- EVQH_WRITE, R418. -/
def execEvqhWrite (queue : Nat) (v : BitVec 64) (s : State) : Res :=
  .next (if queue < 12 ∨ (100 ≤ queue ∧ queue < 104) then s.evqhWrite queue v else s)

/-- R393, R395: a write of RRCTL: the log begins anew, the records that waited enter it, and the partition's domains may come
back. -/
def State.rrctlWrite (s : State) (p : Nat) (v : Word) : State :=
  let pend := s.misc.logPend.filter fun e => e.1 = p
  let back := s.misc.logHung.filter fun u => s.partOf u = p
  let m := s.misc
  let s := { s.setReg (rrctlOff p) (v &&& 0xC000FFFFFFFFFFFF) with
    misc := { m with
      logPos := m.logPos.filter fun e => !(decide (e.1 = p) || (decide (16 ≤ e.1) && decide ((e.1 - 16) / 4 / 512 = p)))
      logHeld := m.logHeld.filter (· ≠ p), logPend := m.logPend.filter fun e => e.1 ≠ p
      hung := m.hung.filter fun u => u ∉ back, logHung := m.logHung.filter fun u => u ∉ back } }
  pend.foldl (fun s e => s.logPut p 0 e.2) s
/-- RRCTL_WRITE, R393, R395. -/
def execRrctlWrite (part : BitVec 3) (v : BitVec 64) (s : State) : Res := .next (s.rrctlWrite part.toNat v)

/-- OBSDATA_READ, R421, R423: the word leaves by the port. -/
def execObsdataRead (s : State) : Res :=
  .next (if s.unlocked then s.tickFree.emit (.read (some s.obsWord)) else s.alarm 1)
/-- R422, R423: a write of OBSCTL.FRZ; FROZEN follows once every requested domain has frozen. -/
def State.frzWrite (s : State) (v : Word) : State :=
  if s.unlocked then s.setReg 0x5000000 (BitVec.ofNat 64 (2 ^ 63 + bits v 7 0)) else s.alarm 1
/-- FRZ_WRITE, R422, R423. -/
def execFrzWrite (v : BitVec 64) (s : State) : Res := .next (s.frzWrite v)
/-- R423: a response is checked, and the challenge renewed. -/
def State.obsKey (s : State) (ok : Bool) (chal : Word) : State :=
  let s := s.setReg 0x5000020 chal
  if ok then s.setReg 0x5000000 (setBits (s.reg 0x5000000) 63 63 1) else s.alarm 1
/-- OBSKEY_WRITE, R423: the verdict on the signature and the next challenge come with the event (log 12). -/
def execObskeyWrite (_v : BitVec 64) (ok : Bool) (chal : BitVec 64) (s : State) : Res := .next (s.obsKey ok chal)

/-- R8, R440: a write of PCTL; while EN = 1 it changes TMO and may set TRAIN, no more. A TRAIN set while EN = 0 stays set. -/
def State.pctlWrite (s : State) (p : Nat) (v : Word) : State :=
  let o := portBlock p
  let w := s.reg o
  let s := if bit w 63 then s.setReg o (setBits w 15 0 (bits v 15 0)) else s.setReg o ((v &&& 0xC01F003F0000FFFF) ||| (w &&& 0x4000000000000000))
  if bit v 62 then s.retrain p else s
/-- R440: a write in the block of a port. -/
def State.portWrite (s : State) (p o : Nat) (v : Word) : State :=
  if o = 0 then s.pctlWrite p v
  else if o = 0x20 ∨ o = 0x28 ∨ o = 0x30 then s.setReg (portBlock p + o) v
  else if o = 0x38 then s.portKey p v
  else if 0x80 ≤ o ∧ o < 0x100 then s.slotMap p ((o - 0x80) / 8) v
  else s
/-- R441: a write of a tree table entry; ignored while a packet of the job is outstanding. -/
def State.treeWrite (s : State) (j : Nat) (v : Word) : State :=
  if s.jobOut j = 0 then s.setReg (0x3011000 + 8 * j) (v &&& 0x8000000000001FFF) else s
/-- R419: a write in the block of a compute die. -/
def State.dieWrite (s : State) (d o : Nat) (v : Word) : State :=
  if o < 0x10000 then s.setReg (dieBlock d + o) v
  else if o = 0x10000 then s.setReg (dieBlock d + o) (v &&& 0x000FFFFFFFFFF000)
  else if o = 0x10010 ∨ o = 0x10020 then s.setReg (dieBlock d + o) (v &&& 0x01FFFFFFFFFF0000)
  else if o = 0x10018 then s.shootdown d v
  else if o = 0x10028 then s.resolve d v
  else if o = 0x10040 then s.evqhWrite d v
  else if o = 0x10050 then s.evqhWrite (100 + d) v
  else s
/-- R336: a write of a page-list entry leaves SD. -/
def State.listWrite (s : State) (st e : Nat) (v : Word) : State :=
  s.setReg (listOff st e) ((v &&& 0xB00FFFFFFFFF0000) ||| (s.reg (listOff st e) &&& 0x4000000000000000))
/-- R420: a write in the block of a stack's base die. -/
def State.stackWrite (s : State) (st o : Nat) (v : Word) : State :=
  if o < 0x22000 then s.tableWrite st o v
  else if 0x30000 ≤ o ∧ o < 0x38000 then s.listWrite st ((o - 0x30000) / 8) v
  else if o = 0x40000 then s.listRefresh st v
  else if o = 0x40040 then s.evqhWrite (4 + st) v
  else s
/-- R9, R399: a write of a register by its offset; reserved bits read zero, and an offset with no register ignores it. -/
def State.regWrite (s : State) (off : Nat) (v : Word) : State :=
  if off % 8 ≠ 0 then s
  else if off = 0x10 then s.killQueue (bits v 9 0)
  else if off = 0x18 then s.setReg off (v &&& 0xFFFF)
  else if 0x10000 ≤ off ∧ off < 0x10200 then
    (let p := (off - 0x10000) / 64
     if off % 64 = 0 then s.partaWrite p v else if off % 64 = 8 then s.capWrite p v else s)
  else if 0x20000 ≤ off ∧ off < 0x28000 then s.queueWrite ((off - 0x20000) / 32) (off % 32 / 8) v
  else if 0x100000 ≤ off ∧ off < 0x500000 then (if off % 4096 = 0 then s.notify ((off - 0x100000) / 4096) v else s)
  else if 0x1000000 ≤ off ∧ off < 0x1400000 then s.dieWrite ((off - 0x1000000) / 0x100000) (off % 0x100000) v
  else if 0x2000000 ≤ off ∧ off < 0x2800000 then s.stackWrite ((off - 0x2000000) / 0x100000) (off % 0x100000) v
  else if 0x3000000 ≤ off ∧ off < 0x3010000 then s.portWrite ((off - 0x3000000) / 0x1000) (off % 0x1000) v
  else if off = 0x3010000 then s.bpcfgWrite v
  else if off = 0x3010008 then s.bpviewWrite v
  else if 0x3010028 ≤ off ∧ off < 0x3010040 then s.setReg off v
  else if off = 0x3010040 then s.planeKey v
  else if 0x3011000 ≤ off ∧ off < 0x3011800 then s.treeWrite ((off - 0x3011000) / 8) v
  else if off = 0x3020010 then (s.setReg off (v &&& 0x83FF0000000000FF)).electGm
  else if 0x3030000 ≤ off ∧ off < 0x3030018 then s.tierWrite ((off - 0x3030000) / 8) v
  else if off = 0x5000000 then s.frzWrite v
  else if off = 0x5000008 then s.setReg off (v &&& 0x1FF)
  else if off = 0x5000010 then s.setReg off (v &&& 0x1FFFF8)
  else if off = 0x5000028 then s.tickFree.obsKey (Config.obsVerdict (s.reg 0x5000020) v) (Config.obsNext s.free)
  else if off = 0x6000000 then s.setReg off (s.reg off &&& ~~~v)
  else if 0x7000000 ≤ off ∧ off < 0x7000040 then s.rrctlWrite ((off - 0x7000000) / 8) v
  else s
/-- REGISTER_WRITE, R8, R9, R399: the host, or a walker hart, writes a register. -/
def execRegisterWrite (off v : BitVec 64) (s : State) : Res := .next (s.regWrite off.toNat v)
/-- One record of a management frame (R401). -/
def mgmtRecord (a : List MgmtRecord × State) (r : MgmtRecord) : List MgmtRecord × State :=
  if r.op = 1 then
    let x := a.2.regRead r.off.toNat
    (a.1 ++ [{ r with data := x.1 }], x.2)
  else if r.op = 2 then (a.1, a.2.regWrite r.off.toNat r.data)
  else a
/-- MANAGEMENT_FRAME, R401: its records take effect in order, and its reads are answered. -/
def execManagementFrame (recs : List MgmtRecord) (s : State) : Res :=
  .next <|
    let r := recs.foldl mgmtRecord ([], s)
    if r.1.isEmpty then r.2 else r.2.emit (.mgmt r.1)
/-- BAR2_ACCESS, R400, R401: the host reads or writes 8 bytes of HBM through its window, which does not answer under a bad image;
poison is no data (R390). -/
def execBar2Access (pa : BitVec 64) (w : Option (BitVec 64)) (s : State) : Res :=
  .next <|
    let a := pa.toNat
    if s.imageBad ∨ 8 * Config.stackBytes < a + 8 then s
    else match w with
      | some v => s.physWrite (atAddr a (natLe 8 v.toNat))
      | none => s.emit (.read (if s.physPoison a 8 then none else some (BitVec.ofNat 64 (leNat (s.mem.rdN a 8)))))
/-- MEMORY_KEY_INSTALL, R424: new memory encryption keys. -/
def execMemoryKeyInstall (s : State) : Res := .next { s with misc := { s.misc with keysErased := false } }
/-- PACKAGE_RESET, R8, R37, R400, R416: every register takes its reset value and the image is loaded; a bad signature leaves every
image field zero and raises the alarm. -/
def execPackageReset (img : ImageArgs) (s : State) : Res :=
  .next <|
    let r : State := { State.reset with
      now := s.now, mem := s.mem, inputs := s.inputs, free := s.free, uid := s.uid, sent := s.sent
      misc := { Misc.zero with windowAt := s.now } }
    if img.sigOk then
      let r := (r.setReg 0 (BitVec.ofNat 64 (0x4453038400000000 + img.step.toNat * 2 ^ 16))).setReg 8
        (BitVec.ofNat 64 (2 ^ 63 + img.imgver.toNat))
      let r := (r.setReg 0x6000008 (img.almpol.setWidth 64)).setReg 0x5000020 img.chal
      { r with
        plane := { r.plane with clockId := img.clockId }
        cores := (List.range 64).map fun i => (384 + i, { Core.zero with spbase := img.spbase &&& ~~~3 }) }
    else ((r.setReg 0 0).setReg 8 (BitVec.ofNat 64 (2 ^ 62))).alarm 2

/-- MDEPTH_WRITE, R224: MDEPTH of a core is written. -/
def execMdepthWrite (u : Nat) (v : BitVec 64) (s : State) : Res :=
  .next (s.modCtx u fun c => { c with mdepth := mdepthPut c.mdepth v })
/-- TILECFG_WRITE, R181, R186: TILECFG0 or TILECFG1 of a core is written. -/
def execTilecfgWrite (u : Nat) (hi : BitVec 1) (v : BitVec 64) (s : State) : Res :=
  .next (s.modCtx u fun c => { c with tiles := c.tiles.putCfgWord hi.toNat v c.vtset })
/-- CTT_WORD0_WRITE, R323: word 0 of an entry of a cluster's table is written. -/
def execCttWord0Write (cluster : Nat) (entry : BitVec 10) (v : BitVec 64) (s : State) : Res :=
  .next (s.cttWrite cluster entry.toNat 0 v)
/-- ILLEGAL_INSTRUCTION, R9, R68, R156: a fetched word with no meaning raises 0x01 and does not issue. -/
def execIllegalInstruction (s : State) : Res := .next (raiseIllegal s)

/-- R399: the register space as global accesses reach it. -/
def regPort : RegPort := ⟨State.regRead, State.regWrite⟩
/-- GLOBAL_ACCESS_PERFORM, R236, R244, R247, R267: an access whose turn has come takes effect; a store behind logged ones of
its sequencer is logged, one behind an entry that is still to be performed or logged waits. -/
def execGlobalAccessPerform (id : Nat) (s : State) : Res :=
  .next <| match s.out id with
    | none => s
    | some o =>
      if o.st ≠ .queued ∨ s.now < o.ready then s
      else match o.op with
        | .xlat _ _ => s
        | .store _ =>
          if s.loadsBefore o then s
          else if s.behindLog o then s.logStore o false false
          else if s.inOrder o then s.tryOut regPort o else s
        | _ => if s.inOrder o then s.tryOut regPort o else s

/-- SIDE_LOG_REPLAY, R248, R250, R290: the head logged store of a sequencer is replayed once its page translates with W. -/
def execSideLogReplay (u : Nat) (q : SeqId) (s : State) : Res :=
  .next <| match (s.core u).logHead q with
    | none => s
    | some e =>
      if ¬ s.replayReady u e then s
      else match s.out e.id with
        | some o => (s.modLog u e.id fun e => { e with denied := false, resume := false }).tryOut regPort o
        | none => s.dropLog u e.id

end Sys2Proof.Machine
end

