-- ==== Sys2Proof/Machine/Dispatch.lean ====
section
/-! DEFINITION. One arm for each instruction: the direct call of its meaning. -/
namespace Sys2Proof.Machine

/-- What instruction i does in state s: an instruction of a stream acts for the sequencer whose turn it is. -/
def exec (i : Instr) (s : State) : Host.Outcome State Fault Refusal :=
  match i with
  | .add t d a b => Sys2Proof.Machine.execAdd t d a b s
  | .sub t d a b => Sys2Proof.Machine.execSub t d a b s
  | .and t d a b => Sys2Proof.Machine.execAnd t d a b s
  | .or t d a b => Sys2Proof.Machine.execOr t d a b s
  | .xor t d a b => Sys2Proof.Machine.execXor t d a b s
  | .sll t d a b => Sys2Proof.Machine.execSll t d a b s
  | .srl t d a b => Sys2Proof.Machine.execSrl t d a b s
  | .sra t d a b => Sys2Proof.Machine.execSra t d a b s
  | .slt t d a b => Sys2Proof.Machine.execSlt t d a b s
  | .sltu t d a b => Sys2Proof.Machine.execSltu t d a b s
  | .seq t d a b => Sys2Proof.Machine.execSeq t d a b s
  | .min t d a b => Sys2Proof.Machine.execMin t d a b s
  | .max t d a b => Sys2Proof.Machine.execMax t d a b s
  | .minu t d a b => Sys2Proof.Machine.execMinu t d a b s
  | .maxu t d a b => Sys2Proof.Machine.execMaxu t d a b s
  | .adds t d a b => Sys2Proof.Machine.execAdds t d a b s
  | .subs t d a b => Sys2Proof.Machine.execSubs t d a b s
  | .addsu t d a b => Sys2Proof.Machine.execAddsu t d a b s
  | .subsu t d a b => Sys2Proof.Machine.execSubsu t d a b s
  | .mul t d a b => Sys2Proof.Machine.execMul t d a b s
  | .mulh t d a b => Sys2Proof.Machine.execMulh t d a b s
  | .mulhu t d a b => Sys2Proof.Machine.execMulhu t d a b s
  | .div t d a b => Sys2Proof.Machine.execDiv t d a b s
  | .divu t d a b => Sys2Proof.Machine.execDivu t d a b s
  | .rem t d a b => Sys2Proof.Machine.execRem t d a b s
  | .remu t d a b => Sys2Proof.Machine.execRemu t d a b s
  | .andn t d a b => Sys2Proof.Machine.execAndn t d a b s
  | .clz t d a => Sys2Proof.Machine.execClz t d a s
  | .popc t d a => Sys2Proof.Machine.execPopc t d a s
  | .addi t d a imm => Sys2Proof.Machine.execAddi t d a imm s
  | .andi t d a imm => Sys2Proof.Machine.execAndi t d a imm s
  | .ori t d a imm => Sys2Proof.Machine.execOri t d a imm s
  | .xori t d a imm => Sys2Proof.Machine.execXori t d a imm s
  | .slli t d a n => Sys2Proof.Machine.execSlli t d a n s
  | .srli t d a n => Sys2Proof.Machine.execSrli t d a n s
  | .srai t d a n => Sys2Proof.Machine.execSrai t d a n s
  | .slti t d a imm => Sys2Proof.Machine.execSlti t d a imm s
  | .sltiu t d a imm => Sys2Proof.Machine.execSltiu t d a imm s
  | .seqi t d a imm => Sys2Proof.Machine.execSeqi t d a imm s
  | .movi t d imm => Sys2Proof.Machine.execMovi t d imm s
  | .movk t d h imm => Sys2Proof.Machine.execMovk t d h imm s
  | .adr t d imm => Sys2Proof.Machine.execAdr t d imm s
  | .sel t d a b c => Sys2Proof.Machine.execSel t d a b c s
  | .faddF32 t d a b m => Sys2Proof.Machine.execFaddF32 t d a b m s
  | .fsubF32 t d a b m => Sys2Proof.Machine.execFsubF32 t d a b m s
  | .fmulF32 t d a b m => Sys2Proof.Machine.execFmulF32 t d a b m s
  | .fminF32 t d a b => Sys2Proof.Machine.execFminF32 t d a b s
  | .fmaxF32 t d a b => Sys2Proof.Machine.execFmaxF32 t d a b s
  | .fnegF32 t d a => Sys2Proof.Machine.execFnegF32 t d a s
  | .fabsF32 t d a => Sys2Proof.Machine.execFabsF32 t d a s
  | .feqF32 t d a b => Sys2Proof.Machine.execFeqF32 t d a b s
  | .fltF32 t d a b => Sys2Proof.Machine.execFltF32 t d a b s
  | .fleF32 t d a b => Sys2Proof.Machine.execFleF32 t d a b s
  | .fcvtF32S64 t d a m => Sys2Proof.Machine.execFcvtF32S64 t d a m s
  | .fcvtF32B64 t d a m => Sys2Proof.Machine.execFcvtF32B64 t d a m s
  | .fcvtS64F32 t d a m => Sys2Proof.Machine.execFcvtS64F32 t d a m s
  | .fcvtB64F32 t d a m => Sys2Proof.Machine.execFcvtB64F32 t d a m s
  | .fcvtS32F32 t d a m => Sys2Proof.Machine.execFcvtS32F32 t d a m s
  | .fcvtB32F32 t d a m => Sys2Proof.Machine.execFcvtB32F32 t d a m s
  | .fcvtF32Bf16 t d a => Sys2Proof.Machine.execFcvtF32Bf16 t d a s
  | .fcvtBf16F32 t d a m => Sys2Proof.Machine.execFcvtBf16F32 t d a m s
  | .fmaF32 m t d a b c => Sys2Proof.Machine.execFmaF32 m t d a b c s
  | .ldS8 t d a imm => Sys2Proof.Machine.execLdS8 t d a imm s
  | .ldB8 t d a imm => Sys2Proof.Machine.execLdB8 t d a imm s
  | .ldS16 t d a imm => Sys2Proof.Machine.execLdS16 t d a imm s
  | .ldB16 t d a imm => Sys2Proof.Machine.execLdB16 t d a imm s
  | .ldS32 t d a imm => Sys2Proof.Machine.execLdS32 t d a imm s
  | .ldB32 t d a imm => Sys2Proof.Machine.execLdB32 t d a imm s
  | .ldB64 t d a imm => Sys2Proof.Machine.execLdB64 t d a imm s
  | .stB8 d b imm => Sys2Proof.Machine.execStB8 d b imm s
  | .stB16 d b imm => Sys2Proof.Machine.execStB16 d b imm s
  | .stB32 d b imm => Sys2Proof.Machine.execStB32 d b imm s
  | .stB64 d b imm => Sys2Proof.Machine.execStB64 d b imm s
  | .amoAdd sc t d a b z => Sys2Proof.Machine.execAmoAdd sc t d a b z s
  | .amoAnd sc t d a b z => Sys2Proof.Machine.execAmoAnd sc t d a b z s
  | .amoOr sc t d a b z => Sys2Proof.Machine.execAmoOr sc t d a b z s
  | .amoXor sc t d a b z => Sys2Proof.Machine.execAmoXor sc t d a b z s
  | .amoSwap sc t d a b z => Sys2Proof.Machine.execAmoSwap sc t d a b z s
  | .amoSmin sc t d a b z => Sys2Proof.Machine.execAmoSmin sc t d a b z s
  | .amoSmax sc t d a b z => Sys2Proof.Machine.execAmoSmax sc t d a b z s
  | .amoUmin sc t d a b z => Sys2Proof.Machine.execAmoUmin sc t d a b z s
  | .amoUmax sc t d a b z => Sys2Proof.Machine.execAmoUmax sc t d a b z s
  | .amoCas sc t d a b z => Sys2Proof.Machine.execAmoCas sc t d a b z s
  | .fence sc => Sys2Proof.Machine.execFence sc s
  | .bar l => Sys2Proof.Machine.execBar l s
  | .barSw v l => Sys2Proof.Machine.execBarSw v l s
  | .waitt a => Sys2Proof.Machine.execWaitt a s
  | .fpush a => Sys2Proof.Machine.execFpush a s
  | .beq a b o => Sys2Proof.Machine.execBeq a b o s
  | .bne a b o => Sys2Proof.Machine.execBne a b o s
  | .blt a b o => Sys2Proof.Machine.execBlt a b o s
  | .bge a b o => Sys2Proof.Machine.execBge a b o s
  | .bltu a b o => Sys2Proof.Machine.execBltu a b o s
  | .bgeu a b o => Sys2Proof.Machine.execBgeu a b o s
  | .call t d imm => Sys2Proof.Machine.execCall t d imm s
  | .callr t d a imm => Sys2Proof.Machine.execCallr t d a imm s
  | .csrr t d imm => Sys2Proof.Machine.execCsrr t d imm s
  | .csrw a imm => Sys2Proof.Machine.execCsrw a imm s
  | .nop => Sys2Proof.Machine.execNop s
  | .sig k n => Sys2Proof.Machine.execSig k n s
  | .wait k n => Sys2Proof.Machine.execWait k n s
  | .tmark n => Sys2Proof.Machine.execTmark n s
  | .beacon => Sys2Proof.Machine.execBeacon s
  | .beaconW => Sys2Proof.Machine.execBeaconW s
  | .brk n => Sys2Proof.Machine.execBrk n s
  | .trap n => Sys2Proof.Machine.execTrap n s
  | .halt => Sys2Proof.Machine.execHalt s
  | .zloop l c o => Sys2Proof.Machine.execZloop l c o s
  | .zloopReg l r o => Sys2Proof.Machine.execZloopReg l r o s
  | .jmp o => Sys2Proof.Machine.execJmp o s
  | .jmpReg r => Sys2Proof.Machine.execJmpReg r s
  | .bkwait d => Sys2Proof.Machine.execBkwait d s
  | .bkopen a => Sys2Proof.Machine.execBkopen a s
  | .bkclose a => Sys2Proof.Machine.execBkclose a s
  | .hold a => Sys2Proof.Machine.execHold a s
  | .release a => Sys2Proof.Machine.execRelease a s
  | .pub => Sys2Proof.Machine.execPub s
  | .xrd t d a imm => Sys2Proof.Machine.execXrd t d a imm s
  | .xwr d b imm => Sys2Proof.Machine.execXwr d b imm s
  | .hret => Sys2Proof.Machine.execHret s
  | .cdrop c => Sys2Proof.Machine.execCdrop c s
  | .xkill a => Sys2Proof.Machine.execXkill a s
  | .xpost a => Sys2Proof.Machine.execXpost a s
  | .vaddS32 t d a b x m => Sys2Proof.Machine.execVaddS32 t d a b x m s
  | .vsubS32 t d a b x m => Sys2Proof.Machine.execVsubS32 t d a b x m s
  | .vmulS32 t d a b x m => Sys2Proof.Machine.execVmulS32 t d a b x m s
  | .vmulhS32 t d a b x m => Sys2Proof.Machine.execVmulhS32 t d a b x m s
  | .vmulhB32 t d a b x m => Sys2Proof.Machine.execVmulhB32 t d a b x m s
  | .vminS32 t d a b x m => Sys2Proof.Machine.execVminS32 t d a b x m s
  | .vmaxS32 t d a b x m => Sys2Proof.Machine.execVmaxS32 t d a b x m s
  | .vminB32 t d a b x m => Sys2Proof.Machine.execVminB32 t d a b x m s
  | .vmaxB32 t d a b x m => Sys2Proof.Machine.execVmaxB32 t d a b x m s
  | .vaddsS32 t d a b x m => Sys2Proof.Machine.execVaddsS32 t d a b x m s
  | .vsubsS32 t d a b x m => Sys2Proof.Machine.execVsubsS32 t d a b x m s
  | .vaddsB32 t d a b x m => Sys2Proof.Machine.execVaddsB32 t d a b x m s
  | .vsubsB32 t d a b x m => Sys2Proof.Machine.execVsubsB32 t d a b x m s
  | .vandB32 t d a b x m => Sys2Proof.Machine.execVandB32 t d a b x m s
  | .vorB32 t d a b x m => Sys2Proof.Machine.execVorB32 t d a b x m s
  | .vxorB32 t d a b x m => Sys2Proof.Machine.execVxorB32 t d a b x m s
  | .vandnB32 t d a b x m => Sys2Proof.Machine.execVandnB32 t d a b x m s
  | .vsllB32 t d a b x m => Sys2Proof.Machine.execVsllB32 t d a b x m s
  | .vsrlB32 t d a b x m => Sys2Proof.Machine.execVsrlB32 t d a b x m s
  | .vsraS32 t d a b x m => Sys2Proof.Machine.execVsraS32 t d a b x m s
  | .vaddS16 t d a b x m => Sys2Proof.Machine.execVaddS16 t d a b x m s
  | .vsubS16 t d a b x m => Sys2Proof.Machine.execVsubS16 t d a b x m s
  | .vaddsS16 t d a b x m => Sys2Proof.Machine.execVaddsS16 t d a b x m s
  | .vsubsS16 t d a b x m => Sys2Proof.Machine.execVsubsS16 t d a b x m s
  | .vaddsB16 t d a b x m => Sys2Proof.Machine.execVaddsB16 t d a b x m s
  | .vsubsB16 t d a b x m => Sys2Proof.Machine.execVsubsB16 t d a b x m s
  | .vmulS16 t d a b x m => Sys2Proof.Machine.execVmulS16 t d a b x m s
  | .vaddS8 t d a b x m => Sys2Proof.Machine.execVaddS8 t d a b x m s
  | .vsubS8 t d a b x m => Sys2Proof.Machine.execVsubS8 t d a b x m s
  | .vaddsS8 t d a b x m => Sys2Proof.Machine.execVaddsS8 t d a b x m s
  | .vsubsS8 t d a b x m => Sys2Proof.Machine.execVsubsS8 t d a b x m s
  | .vaddsB8 t d a b x m => Sys2Proof.Machine.execVaddsB8 t d a b x m s
  | .vsubsB8 t d a b x m => Sys2Proof.Machine.execVsubsB8 t d a b x m s
  | .vfaddF32 t d a b x m => Sys2Proof.Machine.execVfaddF32 t d a b x m s
  | .vfsubF32 t d a b x m => Sys2Proof.Machine.execVfsubF32 t d a b x m s
  | .vfmulF32 t d a b x m => Sys2Proof.Machine.execVfmulF32 t d a b x m s
  | .vfminF32 t d a b x m => Sys2Proof.Machine.execVfminF32 t d a b x m s
  | .vfmaxF32 t d a b x m => Sys2Proof.Machine.execVfmaxF32 t d a b x m s
  | .vfmaF32 t d a b x m => Sys2Proof.Machine.execVfmaF32 t d a b x m s
  | .vfaddBf16 t d a b x m => Sys2Proof.Machine.execVfaddBf16 t d a b x m s
  | .vfsubBf16 t d a b x m => Sys2Proof.Machine.execVfsubBf16 t d a b x m s
  | .vfmulBf16 t d a b x m => Sys2Proof.Machine.execVfmulBf16 t d a b x m s
  | .vfminBf16 t d a b x m => Sys2Proof.Machine.execVfminBf16 t d a b x m s
  | .vfmaxBf16 t d a b x m => Sys2Proof.Machine.execVfmaxBf16 t d a b x m s
  | .vfmaBf16 t d a b x m => Sys2Proof.Machine.execVfmaBf16 t d a b x m s
  | .vexp2F32 t d a x m => Sys2Proof.Machine.execVexp2F32 t d a x m s
  | .vlog2F32 t d a x m => Sys2Proof.Machine.execVlog2F32 t d a x m s
  | .vrcpF32 t d a x m => Sys2Proof.Machine.execVrcpF32 t d a x m s
  | .vrsqrtF32 t d a x m => Sys2Proof.Machine.execVrsqrtF32 t d a x m s
  | .vcmpS32 c k a b x m => Sys2Proof.Machine.execVcmpS32 c k a b x m s
  | .vcmpB32 c k a b x m => Sys2Proof.Machine.execVcmpB32 c k a b x m s
  | .vcmpF32 c k a b x m => Sys2Proof.Machine.execVcmpF32 c k a b x m s
  | .vcmpBf16 c k a b x m => Sys2Proof.Machine.execVcmpBf16 c k a b x m s
  | .vcvt p t d a f g r m => Sys2Proof.Machine.execVcvt p t d a f g r m s
  | .vmxpk t d a f g r => Sys2Proof.Machine.execVmxpk t d a f g r s
  | .vredAddS32 t d a x m => Sys2Proof.Machine.execVredAddS32 t d a x m s
  | .vredAddsS32 t d a x m => Sys2Proof.Machine.execVredAddsS32 t d a x m s
  | .vredMinS32 t d a x m => Sys2Proof.Machine.execVredMinS32 t d a x m s
  | .vredMaxS32 t d a x m => Sys2Proof.Machine.execVredMaxS32 t d a x m s
  | .vredMinB32 t d a x m => Sys2Proof.Machine.execVredMinB32 t d a x m s
  | .vredMaxB32 t d a x m => Sys2Proof.Machine.execVredMaxB32 t d a x m s
  | .vredAndB32 t d a x m => Sys2Proof.Machine.execVredAndB32 t d a x m s
  | .vredOrB32 t d a x m => Sys2Proof.Machine.execVredOrB32 t d a x m s
  | .vredXorB32 t d a x m => Sys2Proof.Machine.execVredXorB32 t d a x m s
  | .vredAddF32 t d a x m => Sys2Proof.Machine.execVredAddF32 t d a x m s
  | .vredMinF32 t d a x m => Sys2Proof.Machine.execVredMinF32 t d a x m s
  | .vredMaxF32 t d a x m => Sys2Proof.Machine.execVredMaxF32 t d a x m s
  | .vredAddBf16 t d a x m => Sys2Proof.Machine.execVredAddBf16 t d a x m s
  | .vpermB32 t d a b x m => Sys2Proof.Machine.execVpermB32 t d a b x m s
  | .vpermB8 t d a b x m => Sys2Proof.Machine.execVpermB8 t d a b x m s
  | .vrotB32 t d a imm => Sys2Proof.Machine.execVrotB32 t d a imm s
  | .vselB32 t d a b x => Sys2Proof.Machine.execVselB32 t d a b x s
  | .vmovi t d imm => Sys2Proof.Machine.execVmovi t d imm s
  | .vmand d a b => Sys2Proof.Machine.execVmand d a b s
  | .vmor d a b => Sys2Proof.Machine.execVmor d a b s
  | .vmxor d a b => Sys2Proof.Machine.execVmxor d a b s
  | .vmandn d a b => Sys2Proof.Machine.execVmandn d a b s
  | .vmnot d a => Sys2Proof.Machine.execVmnot d a s
  | .vmset d => Sys2Proof.Machine.execVmset d s
  | .vmclr d => Sys2Proof.Machine.execVmclr d s
  | .vmmov d a => Sys2Proof.Machine.execVmmov d a s
  | .vflag sc k w m => Sys2Proof.Machine.execVflag sc k w m s
  | .vld t r x imm => Sys2Proof.Machine.execVld t r x imm s
  | .vst r x imm => Sys2Proof.Machine.execVst r x imm s
  | .vlds t r b c z sc m => Sys2Proof.Machine.execVlds t r b c z sc m s
  | .vsts r b c z sc m => Sys2Proof.Machine.execVsts r b c z sc m s
  | .vldx t r b imm z sc m => Sys2Proof.Machine.execVldx t r b imm z sc m s
  | .vstx r b imm z sc m => Sys2Proof.Machine.execVstx r b imm z sc m s
  | .vgld t r x imm => Sys2Proof.Machine.execVgld t r x imm s
  | .vgst r x imm => Sys2Proof.Machine.execVgst r x imm s
  | .vsend r k => Sys2Proof.Machine.execVsend r k s
  | .vrecv t r => Sys2Proof.Machine.execVrecv t r s
  | .vacc t d imm => Sys2Proof.Machine.execVacc t d imm s
  | .vaccX t d x imm => Sys2Proof.Machine.execVaccX t d x imm s
  | .vamul t d a b l o imm j => Sys2Proof.Machine.execVamul t d a b l o imm j s
  | .vconj t d a l imm => Sys2Proof.Machine.execVconj t d a l imm s
  | .vnorm t d a l => Sys2Proof.Machine.execVnorm t d a l s
  | .vaw y a x => Sys2Proof.Machine.execVaw y a x s
  | .vtcfg t r c w => Sys2Proof.Machine.execVtcfg t r c w s
  | .vtrel t => Sys2Proof.Machine.execVtrel t s
  | .vtrow r t imm q => Sys2Proof.Machine.execVtrow r t imm q s
  | .vtrowr t r n imm q => Sys2Proof.Machine.execVtrowr t r n imm q s
  | .vtcol t r n imm q => Sys2Proof.Machine.execVtcol t r n imm q s
  | .vtcolw r t imm q => Sys2Proof.Machine.execVtcolw r t imm q s
  | .vtsave m x => Sys2Proof.Machine.execVtsave m x s
  | .vtload m x => Sys2Proof.Machine.execVtload m x s
  | .vsrnd t d a g p x => Sys2Proof.Machine.execVsrnd t d a g p x s
  | .chadd a => Sys2Proof.Machine.execChadd a s
  | .madd d a b => Sys2Proof.Machine.execMadd d a b s
  | .msub d a b => Sys2Proof.Machine.execMsub d a b s
  | .mand d a b => Sys2Proof.Machine.execMand d a b s
  | .mor d a b => Sys2Proof.Machine.execMor d a b s
  | .mxor d a b => Sys2Proof.Machine.execMxor d a b s
  | .msll d a b => Sys2Proof.Machine.execMsll d a b s
  | .msrl d a b => Sys2Proof.Machine.execMsrl d a b s
  | .mminu d a b => Sys2Proof.Machine.execMminu d a b s
  | .maddi d a imm => Sys2Proof.Machine.execMaddi d a imm s
  | .mmovk d h imm => Sys2Proof.Machine.execMmovk d h imm s
  | .mmovx d x => Sys2Proof.Machine.execMmovx d x s
  | .mmovi d imm => Sys2Proof.Machine.execMmovi d imm s
  | .mbeq a b o => Sys2Proof.Machine.execMbeq a b o s
  | .mbne a b o => Sys2Proof.Machine.execMbne a b o s
  | .mbltu a b o => Sys2Proof.Machine.execMbltu a b o s
  | .mma u a b sc k => Sys2Proof.Machine.execMma u a b sc k s
  | .mmaReg u a b sc r => Sys2Proof.Machine.execMmaReg u a b sc r s
  | .mstage u a b l k => Sys2Proof.Machine.execMstage u a b l k s
  | .mstageReg u a b l r => Sys2Proof.Machine.execMstageReg u a b l r s
  | .mzero u n => Sys2Proof.Machine.execMzero u n s
  | .mswap => Sys2Proof.Machine.execMswap s
  | .cadd d a b => Sys2Proof.Machine.execCadd d a b s
  | .csub d a b => Sys2Proof.Machine.execCsub d a b s
  | .cand d a b => Sys2Proof.Machine.execCand d a b s
  | .cor d a b => Sys2Proof.Machine.execCor d a b s
  | .cxor d a b => Sys2Proof.Machine.execCxor d a b s
  | .csll d a b => Sys2Proof.Machine.execCsll d a b s
  | .csrl d a b => Sys2Proof.Machine.execCsrl d a b s
  | .cminu d a b => Sys2Proof.Machine.execCminu d a b s
  | .caddi d a imm => Sys2Proof.Machine.execCaddi d a imm s
  | .cmovk d h imm => Sys2Proof.Machine.execCmovk d h imm s
  | .cmovx d x => Sys2Proof.Machine.execCmovx d x s
  | .cmovi d imm => Sys2Proof.Machine.execCmovi d imm s
  | .cbeq a b o => Sys2Proof.Machine.execCbeq a b o s
  | .cbne a b o => Sys2Proof.Machine.execCbne a b o s
  | .cbltu a b o => Sys2Proof.Machine.execCbltu a b o s
  | .cpy c d sc n b x f l => Sys2Proof.Machine.execCpy c d sc n b x f l s
  | .ctens c r b x f l => Sys2Proof.Machine.execCtens c r b x f l s
  | .cgath c d sc imm n b x e => Sys2Proof.Machine.execCgath c d sc imm n b x e s
  | .cscat c d sc imm n b x e => Sys2Proof.Machine.execCscat c d sc imm n b x e s
  | .cscl c r n k => Sys2Proof.Machine.execCscl c r n k s
  | .cldlct c r n => Sys2Proof.Machine.execCldlct c r n s
  | .cldalg c r n => Sys2Proof.Machine.execCldalg c r n s
  | .caw c sc q n y => Sys2Proof.Machine.execCaw c sc q n y s
  | .cver c d q o n b x => Sys2Proof.Machine.execCver c d q o n b x s
  | .cmapR c l o q n => Sys2Proof.Machine.execCmapR c l o q n s
  | .cmapW c l o q n => Sys2Proof.Machine.execCmapW c l o q n s
  | .cwb c m => Sys2Proof.Machine.execCwb c m s
  | .cput c w a o n b x => Sys2Proof.Machine.execCput c w a o n b x s
  | .cget c w a o n b x => Sys2Proof.Machine.execCget c w a o n b x s
  | .cbcast c d sc n b x => Sys2Proof.Machine.execCbcast c d sc n b x s
  | .csendT c w a o n t p => Sys2Proof.Machine.execCsendT c w a o n t p s
  | .tready c e => Sys2Proof.Machine.execTready c e s
  | .cbbarm c b v => Sys2Proof.Machine.execCbbarm c b v s
  | .cbbadd c b v => Sys2Proof.Machine.execCbbadd c b v s
  | .cbbwait c b p => Sys2Proof.Machine.execCbbwait c b p s
  | .rcfence => Sys2Proof.Machine.execRcfence s
  | .cpya c d sc n b x => Sys2Proof.Machine.execCpya c d sc n b x s
  | .packageReset img => Sys2Proof.Machine.execPackageReset img s
  | .resultLanding u q => Sys2Proof.Machine.execResultLanding u q s
  | .loadDataArrival id => Sys2Proof.Machine.execLoadDataArrival id s
  | .stallRelease u => Sys2Proof.Machine.execStallRelease u s
  | .swapEnd u => Sys2Proof.Machine.execSwapEnd u s
  | .scaleEntryEnter u ch => Sys2Proof.Machine.execScaleEntryEnter u ch s
  | .chunkStart u => Sys2Proof.Machine.execChunkStart u s
  | .chunkCommit u ch => Sys2Proof.Machine.execChunkCommit u ch s
  | .copyCommandComplete u id => Sys2Proof.Machine.execCopyCommandComplete u id s
  | .matrixCommandStart u id => Sys2Proof.Machine.execMatrixCommandStart u id s
  | .quiescence u id => Sys2Proof.Machine.execQuiescence u id s
  | .vsendArrival u => Sys2Proof.Machine.execVsendArrival u s
  | .windowAccess u => Sys2Proof.Machine.execWindowAccess u s
  | .multicastWrite u => Sys2Proof.Machine.execMulticastWrite u s
  | .awAnswer id ans => Sys2Proof.Machine.execAwAnswer id ans s
  | .awResend id => Sys2Proof.Machine.execAwResend id s
  | .denialArrival u q c => Sys2Proof.Machine.execDenialArrival u q c s
  | .globalAccessPerform id => Sys2Proof.Machine.execGlobalAccessPerform id s
  | .sideLogReplay u q => Sys2Proof.Machine.execSideLogReplay u q s
  | .regionFillEnd u slot chunk => Sys2Proof.Machine.execRegionFillEnd u slot chunk s
  | .walkResponse id resp => Sys2Proof.Machine.execWalkResponse id resp s
  | .walkTimeout id => Sys2Proof.Machine.execWalkTimeout id s
  | .shootdown die v => Sys2Proof.Machine.execShootdown die v s
  | .shootdownComplete die => Sys2Proof.Machine.execShootdownComplete die s
  | .resolve die v => Sys2Proof.Machine.execResolve die v s
  | .tierDemotion tier asid va size oldPa look => Sys2Proof.Machine.execTierDemotion tier asid va size oldPa look s
  | .promotion asid va size oldPa look => Sys2Proof.Machine.execPromotion asid va size oldPa look s
  | .tierRegisterWrite tier v => Sys2Proof.Machine.execTierRegisterWrite tier v s
  | .barrierComplete lid level dom => Sys2Proof.Machine.execBarrierComplete lid level dom s
  | .spillEnd u => Sys2Proof.Machine.execSpillEnd u s
  | .spillGo w => Sys2Proof.Machine.execSpillGo w s
  | .watchdogFire u => Sys2Proof.Machine.execWatchdogFire u s
  | .freezeLimit u => Sys2Proof.Machine.execFreezeLimit u s
  | .correctableError u => Sys2Proof.Machine.execCorrectableError u s
  | .uncorrectableError what => Sys2Proof.Machine.execUncorrectableError what s
  | .notify queue v => Sys2Proof.Machine.execNotify queue v s
  | .queueDescriptorWrite queue word v => Sys2Proof.Machine.execQueueDescriptorWrite queue word v s
  | .queueBind => Sys2Proof.Machine.execQueueBind s
  | .priorityAgeing => Sys2Proof.Machine.execPriorityAgeing s
  | .queueEntryTake queue => Sys2Proof.Machine.execQueueEntryTake queue s
  | .launchSchedule => Sys2Proof.Machine.execLaunchSchedule s
  | .launchEnd lid => Sys2Proof.Machine.execLaunchEnd lid s
  | .qkill v => Sys2Proof.Machine.execQkill v s
  | .powerWindowEnd meters => Sys2Proof.Machine.execPowerWindowEnd meters s
  | .throttleSlot part => Sys2Proof.Machine.execThrottleSlot part s
  | .partaWrite part v => Sys2Proof.Machine.execPartaWrite part v s
  | .capWrite part v => Sys2Proof.Machine.execCapWrite part v s
  | .obsdataRead => Sys2Proof.Machine.execObsdataRead s
  | .frzWrite v => Sys2Proof.Machine.execFrzWrite v s
  | .obskeyWrite v ok chal => Sys2Proof.Machine.execObskeyWrite v ok chal s
  | .tamper => Sys2Proof.Machine.execTamper s
  | .managementFrame recs => Sys2Proof.Machine.execManagementFrame recs s
  | .evqhWrite queue v => Sys2Proof.Machine.execEvqhWrite queue v s
  | .lrefresh stack v => Sys2Proof.Machine.execLrefresh stack v s
  | .bucketDescriptorWrite stack bucket word v => Sys2Proof.Machine.execBucketDescriptorWrite stack bucket word v s
  | .jobRecordWrite stack job word v => Sys2Proof.Machine.execJobRecordWrite stack job word v s
  | .awPacket stack p => Sys2Proof.Machine.execAwPacket stack p s
  | .roundPublish job stack => Sys2Proof.Machine.execRoundPublish job stack s
  | .mdepthWrite u v => Sys2Proof.Machine.execMdepthWrite u v s
  | .tilecfgWrite u hi v => Sys2Proof.Machine.execTilecfgWrite u hi v s
  | .cttWord0Write cluster entry v => Sys2Proof.Machine.execCttWord0Write cluster entry v s
  | .slotmapWrite port imm v => Sys2Proof.Machine.execSlotmapWrite port imm v s
  | .keyInstall link v => Sys2Proof.Machine.execKeyInstall link v s
  | .portRetrain port => Sys2Proof.Machine.execPortRetrain port s
  | .bpcfgWrite v => Sys2Proof.Machine.execBpcfgWrite v s
  | .bpJoin => Sys2Proof.Machine.execBpJoin s
  | .bpviewWrite v => Sys2Proof.Machine.execBpviewWrite v s
  | .scheduledSlot port => Sys2Proof.Machine.execScheduledSlot port s
  | .scheduledData port f => Sys2Proof.Machine.execScheduledData port f s
  | .openRequest port h r => Sys2Proof.Machine.execOpenRequest port h r s
  | .openData port h lines => Sys2Proof.Machine.execOpenData port h lines s
  | .answer port h a => Sys2Proof.Machine.execAnswer port h a s
  | .linkControl port h c => Sys2Proof.Machine.execLinkControl port h c s
  | .laneDegrade port rx upper => Sys2Proof.Machine.execLaneDegrade port rx upper s
  | .epochEnd link => Sys2Proof.Machine.execEpochEnd link s
  | .csendDeadlineMiss u ch => Sys2Proof.Machine.execCsendDeadlineMiss u ch s
  | .remoteTimeout u ch => Sys2Proof.Machine.execRemoteTimeout u ch s
  | .awPacketAbandon id => Sys2Proof.Machine.execAwPacketAbandon id s
  | .tokenBurst h named => Sys2Proof.Machine.execTokenBurst h named s
  | .dataBurst h d => Sys2Proof.Machine.execDataBurst h d s
  | .fenceBurst h ops => Sys2Proof.Machine.execFenceBurst h ops s
  | .barrierBurst h group => Sys2Proof.Machine.execBarrierBurst h group s
  | .proposalBurst h epoch mask => Sys2Proof.Machine.execProposalBurst h epoch mask s
  | .nakBurst h lost => Sys2Proof.Machine.execNakBurst h lost s
  | .timingBurst h m => Sys2Proof.Machine.execTimingBurst h m s
  | .tokenTimeout suspect => Sys2Proof.Machine.execTokenTimeout suspect s
  | .sync m => Sys2Proof.Machine.execSync m s
  | .followUp m => Sys2Proof.Machine.execFollowUp m s
  | .announce prio1 clockId domain gm => Sys2Proof.Machine.execAnnounce prio1 clockId domain gm s
  | .delayReq m => Sys2Proof.Machine.execDelayReq m s
  | .delayResp m => Sys2Proof.Machine.execDelayResp m s
  | .holdover => Sys2Proof.Machine.execHoldover s
  | .freeRun => Sys2Proof.Machine.execFreeRun s
  | .registerWrite off v => Sys2Proof.Machine.execRegisterWrite off v s
  | .illegalInstruction => Sys2Proof.Machine.execIllegalInstruction s
  | .walkerTrap id => Sys2Proof.Machine.execWalkerTrap id s
  | .domainResume u => Sys2Proof.Machine.execDomainResume u s
  | .handlerReload u => Sys2Proof.Machine.execHandlerReload u s
  | .rrctlWrite part v => Sys2Proof.Machine.execRrctlWrite part v s
  | .bar2Access pa w => Sys2Proof.Machine.execBar2Access pa w s
  | .memoryKeyInstall => Sys2Proof.Machine.execMemoryKeyInstall s
  | .idleFlit port h ty => Sys2Proof.Machine.execIdleFlit port h ty s
  | .uncorrectedFlit port => Sys2Proof.Machine.execUncorrectedFlit port s
  | .uncorrectedBurst gseq => Sys2Proof.Machine.execUncorrectedBurst gseq s
  | .portTrained port lat depth level rlevel => Sys2Proof.Machine.execPortTrained port lat depth level rlevel s
  | .controlBurst h level => Sys2Proof.Machine.execControlBurst h level s

end Sys2Proof.Machine
end

