-- ==== Sys2Proof/Machine/Reads.lean ====
section
/-! DEFINITION. The registers that an instruction reads, as poison consumption needs them (R390): operand codes 0 to 58 of S and V, the
masks of V as 64 + k, local registers of M and C, and the S registers that V, M and C see (R115). -/
namespace Sys2Proof.Machine

/-- Registers and queue places among operand codes (Table 1.2); of M and C the codes are their local registers (R91). -/
def r6 (q : SeqId) (l : List (BitVec 6)) : List (SeqId × Nat) := (l.filter fun f => decide (f.toNat < 59)).map fun f => (q, f.toNat)
/-- Masks of V. -/
def rm (l : List (BitVec 3)) : List (SeqId × Nat) := l.map fun k => (.V, 64 + k.toNat)
/-- R157: the mask of an instruction with M = 1. -/
def rM (m : BitVec 1) : List (SeqId × Nat) := if m = 1 then rm [0] else []
/-- Local registers. -/
def r4 (q : SeqId) (l : List (BitVec 4)) : List (SeqId × Nat) := l.map fun f => (q, f.toNat)
/-- Local registers of descriptors (R208). -/
def rp (l : List (BitVec 3)) : List (SeqId × Nat) := l.flatMap fun f => [(.M, 2 * f.toNat), (.M, 2 * f.toNat + 1)]
/-- S main registers. -/
def rx (l : List (BitVec 5)) : List (SeqId × Nat) := l.map fun f => (.S, f.toNat)
/-- The register of a table load (R311, R312). -/
def ra (r : BitVec 6) : List (SeqId × Nat) :=
  if r.toNat < 32 then [(.S, r.toNat)] else [(.C, r.toNat - 32)]

/-- R390: the registers that an instruction of sequencer q reads; an event reads none. -/
def instrReads (q : SeqId) (i : Instr) : List (SeqId × Nat) :=
  match i with
  | .add _ _ a b | .sub _ _ a b | .and _ _ a b | .or _ _ a b | .xor _ _ a b | .sll _ _ a b | .srl _ _ a b
  | .sra _ _ a b | .slt _ _ a b | .sltu _ _ a b | .seq _ _ a b | .min _ _ a b | .max _ _ a b | .minu _ _ a b
  | .maxu _ _ a b | .adds _ _ a b | .subs _ _ a b | .addsu _ _ a b | .subsu _ _ a b | .mul _ _ a b | .mulh _ _ a b
  | .mulhu _ _ a b | .div _ _ a b | .divu _ _ a b | .rem _ _ a b | .remu _ _ a b | .andn _ _ a b
  | .faddF32 _ _ a b _ | .fsubF32 _ _ a b _ | .fmulF32 _ _ a b _ | .fminF32 _ _ a b | .fmaxF32 _ _ a b
  | .feqF32 _ _ a b | .fltF32 _ _ a b | .fleF32 _ _ a b | .amoAdd _ _ _ a b _ | .amoAnd _ _ _ a b _
  | .amoOr _ _ _ a b _ | .amoXor _ _ _ a b _ | .amoSwap _ _ _ a b _ | .amoSmin _ _ _ a b _ | .amoSmax _ _ _ a b _
  | .amoUmin _ _ _ a b _ | .amoUmax _ _ _ a b _ | .beq a b _ | .bne a b _ | .blt a b _ | .bge a b _ | .bltu a b _
  | .bgeu a b _ => r6 .S [a, b]
  | .clz _ _ a | .popc _ _ a | .addi _ _ a _ | .andi _ _ a _ | .ori _ _ a _ | .xori _ _ a _ | .slli _ _ a _
  | .srli _ _ a _ | .srai _ _ a _ | .slti _ _ a _ | .sltiu _ _ a _ | .seqi _ _ a _ | .fnegF32 _ _ a
  | .fabsF32 _ _ a | .fcvtF32S64 _ _ a _ | .fcvtF32B64 _ _ a _ | .fcvtS64F32 _ _ a _ | .fcvtB64F32 _ _ a _
  | .fcvtS32F32 _ _ a _ | .fcvtB32F32 _ _ a _ | .fcvtF32Bf16 _ _ a | .fcvtBf16F32 _ _ a _ | .ldS8 _ _ a _
  | .ldB8 _ _ a _ | .ldS16 _ _ a _ | .ldB16 _ _ a _ | .ldS32 _ _ a _ | .ldB32 _ _ a _ | .ldB64 _ _ a _ | .waitt a
  | .fpush a | .callr _ _ a _ | .csrw a _ | .bkopen a | .bkclose a | .hold a | .release a | .xrd _ _ a _ | .xkill a
  | .xpost a => r6 .S [a]
  | .movi _ _ _ | .adr _ _ _ | .fence _ | .bar _ | .barSw _ _ | .call _ _ _ | .csrr _ _ _ | .nop | .sig _ _
  | .wait _ _ | .tmark _ | .beacon | .beaconW | .brk _ | .trap _ | .halt | .zloop _ _ _ | .jmp _ | .bkwait _ | .pub
  | .hret | .cdrop _ | .vmovi _ _ _ | .vmset _ | .vmclr _ | .vrecv _ _ | .vacc _ _ _ | .vtcfg _ _ _ _ | .vtrel _
  | .vtrowr _ _ _ _ _ | .vtcol _ _ _ _ _ | .mmovi _ _ | .mzero _ _ | .mswap | .cmovi _ _ | .cwb _ _ | .rcfence
  | .packageReset _ | .resultLanding _ _ | .loadDataArrival _ | .stallRelease _ | .swapEnd _ | .scaleEntryEnter _ _
  | .chunkStart _ | .chunkCommit _ _ | .copyCommandComplete _ _ | .matrixCommandStart _ _ | .quiescence _ _
  | .vsendArrival _ | .windowAccess _ | .multicastWrite _ | .awAnswer _ _ | .awResend _ | .denialArrival _ _ _
  | .globalAccessPerform _ | .sideLogReplay _ _ | .regionFillEnd _ _ _ | .walkResponse _ _ | .walkTimeout _
  | .shootdown _ _ | .shootdownComplete _ | .resolve _ _ | .tierDemotion _ _ _ _ _ _ | .promotion _ _ _ _ _
  | .tierRegisterWrite _ _ | .barrierComplete _ _ _ | .spillEnd _ | .spillGo _ | .watchdogFire _ | .freezeLimit _
  | .correctableError _ | .uncorrectableError _ | .notify _ _ | .queueDescriptorWrite _ _ _ | .queueBind
  | .priorityAgeing | .queueEntryTake _ | .launchSchedule | .launchEnd _ | .qkill _ | .powerWindowEnd _
  | .throttleSlot _ | .partaWrite _ _ | .capWrite _ _ | .obsdataRead | .frzWrite _ | .obskeyWrite _ _ _ | .tamper
  | .managementFrame _ | .evqhWrite _ _ | .lrefresh _ _ | .bucketDescriptorWrite _ _ _ _ | .jobRecordWrite _ _ _ _
  | .awPacket _ _ | .roundPublish _ _ | .mdepthWrite _ _ | .tilecfgWrite _ _ _ | .cttWord0Write _ _ _
  | .slotmapWrite _ _ _ | .keyInstall _ _ | .portRetrain _ | .bpcfgWrite _ | .bpJoin | .bpviewWrite _
  | .scheduledSlot _ | .scheduledData _ _ | .openRequest _ _ _ | .openData _ _ _ | .answer _ _ _
  | .linkControl _ _ _ | .laneDegrade _ _ _ | .epochEnd _ | .csendDeadlineMiss _ _ | .remoteTimeout _ _
  | .awPacketAbandon _ | .tokenBurst _ _ | .dataBurst _ _ | .fenceBurst _ _ | .barrierBurst _ _
  | .proposalBurst _ _ _ | .nakBurst _ _ | .timingBurst _ _ | .tokenTimeout _ | .sync _ | .followUp _
  | .announce _ _ _ _ | .delayReq _ | .delayResp _ | .holdover | .freeRun | .registerWrite _ _
  | .illegalInstruction | .walkerTrap _ | .domainResume _ | .handlerReload _ | .rrctlWrite _ _ | .bar2Access _ _
  | .memoryKeyInstall | .idleFlit _ _ _ | .uncorrectedFlit _ | .uncorrectedBurst _ | .portTrained _ _ _ _ _
  | .controlBurst _ _ => []
  | .movk _ d _ _ => r6 .S [d]
  | .sel _ _ a b c | .fmaF32 _ _ _ a b c => r6 .S [a, b, c]
  | .stB8 d b _ | .stB16 d b _ | .stB32 d b _ | .stB64 d b _ | .xwr d b _ => r6 .S [d, b]
  | .amoCas _ _ d a b _ => r6 .S [d, a, b]
  | .zloopReg _ r _ | .jmpReg r => r6 q [r]
  | .vaddS32 _ d a b x m | .vsubS32 _ d a b x m | .vmulS32 _ d a b x m | .vmulhS32 _ d a b x m
  | .vmulhB32 _ d a b x m | .vminS32 _ d a b x m | .vmaxS32 _ d a b x m | .vminB32 _ d a b x m
  | .vmaxB32 _ d a b x m | .vaddsS32 _ d a b x m | .vsubsS32 _ d a b x m | .vaddsB32 _ d a b x m
  | .vsubsB32 _ d a b x m | .vandB32 _ d a b x m | .vorB32 _ d a b x m | .vxorB32 _ d a b x m
  | .vandnB32 _ d a b x m | .vsllB32 _ d a b x m | .vsrlB32 _ d a b x m | .vsraS32 _ d a b x m
  | .vaddS16 _ d a b x m | .vsubS16 _ d a b x m | .vaddsS16 _ d a b x m | .vsubsS16 _ d a b x m
  | .vaddsB16 _ d a b x m | .vsubsB16 _ d a b x m | .vmulS16 _ d a b x m | .vaddS8 _ d a b x m
  | .vsubS8 _ d a b x m | .vaddsS8 _ d a b x m | .vsubsS8 _ d a b x m | .vaddsB8 _ d a b x m | .vsubsB8 _ d a b x m
  | .vfaddF32 _ d a b x m | .vfsubF32 _ d a b x m | .vfmulF32 _ d a b x m | .vfminF32 _ d a b x m
  | .vfmaxF32 _ d a b x m | .vfaddBf16 _ d a b x m | .vfsubBf16 _ d a b x m | .vfmulBf16 _ d a b x m
  | .vfminBf16 _ d a b x m | .vfmaxBf16 _ d a b x m | .vpermB32 _ d a b x m | .vpermB8 _ d a b x m =>
    r6 .V [a, b] ++ (if m = 1 then rm [0] ++ r6 .V [d] else []) ++ (if a = 61 ∨ b = 61 then rx [x] else [])
  | .vmand _ a b | .vmor _ a b | .vmxor _ a b | .vmandn _ a b => rm [a, b]
  | .vmnot _ a | .vmmov _ a => rm [a]
  | .vflag _ k _ m => rm [k] ++ rM m
  | .vfmaF32 _ d a b x m | .vfmaBf16 _ d a b x m => rM m ++ r6 .V [a, b, d] ++ (if a = 61 ∨ b = 61 then rx [x] else [])
  | .vexp2F32 _ d a x m | .vlog2F32 _ d a x m | .vrcpF32 _ d a x m | .vrsqrtF32 _ d a x m =>
    r6 .V [a] ++ (if m = 1 then rm [0] ++ r6 .V [d] else []) ++ (if a = 61 then rx [x] else [])
  | .vcmpS32 _ _ a b x m | .vcmpB32 _ _ a b x m | .vcmpF32 _ _ a b x m | .vcmpBf16 _ _ a b x m =>
    rM m ++ r6 .V [a, b] ++ (if a = 61 ∨ b = 61 then rx [x] else [])
  | .vselB32 _ _ a b x =>
    rm [0] ++ r6 .V [a, b] ++ (if a = 61 ∨ b = 61 then rx [x] else [])
  | .vcvt _ _ d a _ _ _ m => r6 .V [a] ++ (if m = 1 then rm [0] ++ r6 .V [d] else [])
  | .vmxpk _ _ a _ _ _ | .vrotB32 _ _ a _ | .vconj _ _ a _ _ | .vnorm _ _ a _ | .chadd a => r6 .V [a]
  | .vredAddS32 _ _ a x m | .vredAddsS32 _ _ a x m | .vredMinS32 _ _ a x m | .vredMaxS32 _ _ a x m
  | .vredMinB32 _ _ a x m | .vredMaxB32 _ _ a x m | .vredAndB32 _ _ a x m | .vredOrB32 _ _ a x m
  | .vredXorB32 _ _ a x m | .vredAddF32 _ _ a x m | .vredMinF32 _ _ a x m | .vredMaxF32 _ _ a x m
  | .vredAddBf16 _ _ a x m => rM m ++ r6 .V [a] ++ (if a = 61 then rx [x] else [])
  | .vld _ _ x _ | .vgld _ _ x _ | .vaccX _ _ x _ | .vtsave _ x | .vtload _ x | .mmovx _ x | .cmovx _ x => rx [x]
  | .vst r x _ | .vgst r x _ => r6 .V [r] ++ rx [x]
  | .vlds _ r b c _ _ m => (if m = 1 then rm [0] ++ r6 .V [r] else []) ++ rx [b, c]
  | .vsts r b c _ _ m => rM m ++ r6 .V [r] ++ rx [b, c]
  | .vldx _ r b i _ _ m => r6 .V [i] ++ (if m = 1 then rm [0] ++ r6 .V [r] else []) ++ rx [b]
  | .vstx r b i _ _ m => rM m ++ r6 .V [r, i] ++ rx [b]
  | .vsend r _ | .vtrow r _ _ _ | .vtcolw r _ _ _ => r6 .V [r]
  | .vamul _ _ a b _ _ _ _ => r6 .V [a, b]
  | .vaw _ a x | .vsrnd _ _ a _ _ x => r6 .V [a] ++ rx [x]
  | .madd _ a b | .msub _ a b | .mand _ a b | .mor _ a b | .mxor _ a b | .msll _ a b | .msrl _ a b | .mminu _ a b
  | .mbeq a b _ | .mbne a b _ | .mbltu a b _ => r4 .M [a, b]
  | .maddi _ a _ => r4 .M [a]
  | .mmovk d _ _ => r4 .M [d]
  | .mma _ a b _ _ | .mstage _ a b _ _ => rp [a, b]
  | .mmaReg _ a b _ r | .mstageReg _ a b _ r => rp [a, b] ++ r4 .M [r]
  | .cadd _ a b | .csub _ a b | .cand _ a b | .cor _ a b | .cxor _ a b | .csll _ a b | .csrl _ a b | .cminu _ a b
  | .cbeq a b _ | .cbne a b _ | .cbltu a b _ => r4 .C [a, b]
  | .caddi _ a _ => r4 .C [a]
  | .cmovk d _ _ => r4 .C [d]
  | .cpy _ d s n b x _ _ | .cbcast _ d s n b x | .cpya _ d s n b x =>
    r4 .C [d, s, n] ++ (if x = 1 then r4 .C [b] else [])
  | .ctens _ r b x _ _ => r4 .C [r] ++ (if x = 1 then r4 .C [b] else [])
  | .cgath _ d s i n b x _ | .cscat _ d s i n b x _ => r4 .C [d, s, i, n] ++ (if x = 1 then r4 .C [b] else [])
  | .cscl _ r _ _ | .cldlct _ r _ | .cldalg _ r _ => ra r
  | .caw _ s q n _ => r4 .C [s, q, n]
  | .cver _ d q o n b x => r4 .C [d, q, o, n] ++ (if x = 1 then r4 .C [b] else [])
  | .cmapR _ l o q n | .cmapW _ l o q n => r4 .C [l, o, q, n]
  | .cput _ _ a o n b x | .cget _ _ a o n b x => r4 .C [a, o, n] ++ (if x = 1 then r4 .C [b] else [])
  | .csendT _ _ a o n t _ => r4 .C [a, o, n, t]
  | .tready _ e => r4 .C [e]
  | .cbbarm _ b v | .cbbadd _ b v => r4 .C [b, v]
  | .cbbwait _ b _ => r4 .C [b]

end Sys2Proof.Machine
end

