-- ==== Sys2Proof/Machine/Cycle.lean ====
section
/-! DEFINITION. A cycle of the machine (R4, R22, R27, R99 to R101, R122, R126 to R129, R362, R363): which sequencers of a trap domain
issue together, the end of a domain's cycle, and the work that is due when a new real cycle begins. Lean's runtime has no tag for
an instruction beyond the first 245, so what builds one is marked noncomputable; the kernel evaluates it like any definition. -/
namespace Sys2Proof.Machine
noncomputable section

/-- The state that an answer goes on with; a stop leaves the state as it was. -/
def State.after (s : State) (r : Res) : State := match r with | .next t => t | _ => s
/-- One event or instruction as a change of state. -/
def State.does (s : State) (i : Instr) : State := s.after (exec i s)

/-- R390: whether an instruction of sequencer q reads a poisoned register. -/
def Ctx.readsPoison (c : Ctx) (q : SeqId) (i : Instr) : Bool :=
  !c.poison.isEmpty && (instrReads q i).any fun r => decide (r ∈ c.poison)

/-- R27, R241: the fetch of sequencer q waits; a page that does not translate is asked for. -/
def State.awaitFetch (s : State) (u : Nat) (q : SeqId) (pc : Word) : State :=
  let c := s.ctx u
  match s.xlate u c.asid pc.toNat 4 with
  | .miss => stall frzFetch (s.awaitPage u q c.lid c.asid pc.toNat 1 (seqCode q) pc)
  | _ => stall frzFetch s
/-- R132: whether the first cause that waits for a sequencer is the timing fault of a send, which is raised on the very cycle of the
arrival and is no input of the timetable. -/
def Seq.sendFault (x : Seq) : Bool := match x.deliver with | c :: _ => decide (c.code = 0x06) | [] => false
/-- R242, R362, R394: a cause that reached sequencer q is raised on the instruction that it tries now. -/
def State.raiseDelivered (s : State) (u : Nat) (q : SeqId) (c : CauseArgs) : State :=
  let t := s.modSeq u q fun x => { x with deliver := x.deliver.drop 1 }
  raiseCause c false (if ((s.ctx u).seq q).sendFault then t else t.inputDone 11 u q (c.code.setWidth 64))
/-- R396: in replay mode a cause is raised on the cycle that the log names; none elsewhere. -/
def State.deliverNow (s : State) (u : Nat) (q : SeqId) : Option (Option CauseArgs) :=
  let l := ((s.ctx u).seq q).deliver
  if s.isReplay u ∧ ((s.ctx u).seq q).sendFault = false then
    match s.replayed 11 u q with
    | some _ => some l.head?
    | none => none
  else l.head?.map some
/-- R27, R242, R274, R390: sequencer q of unit u fetches its instruction and tries it. -/
def State.issueSeq (s : State) (u : Nat) (q : SeqId) : Res :=
  let s := { s with turn := ⟨u, q⟩, verdict := Verdict.issued }
  let c := s.ctx u
  let pc := (c.seq q).pc
  if c.lid = 0 then .next s
  else if c.poisoned then .next (stall frzNone (s.consumePoison u q 0))
  else if q = .S ∧ s.amoPending u = true then .next (stall frzSync s)
  else match s.deliverNow u q with
    | some (some d) => .next (s.raiseDelivered u q d)
    | some none => .next (stall frzNone s)
    | none =>
      match s.fetch u pc with
      | .wait => .next (s.awaitFetch u q pc)
      | .bad => .next (stall frzNone (s.consumePoison u q pc))
      | .deny => .next (raiseProt pc s)
      | .word w =>
        let s := { s with word := w }
        match decodeBytes q (natLe 4 w.toNat) with
        | none => exec .illegalInstruction s
        | some i => if c.readsPoison q i then .next (stall frzNone (s.consumePoison u q 0)) else exec i s

/-- The order in which the sequencers of a core are tried within a cycle (R119; log 22). -/
def issueOrder : List SeqId := [.V, .S, .M, .C]
/-- R22, R27, R132, R199: whether a sequencer has an instruction to try on this cycle. -/
def State.seqDue (s : State) (u : Nat) (q : SeqId) : Bool :=
  let c := s.ctx u
  let x := c.seq q
  x.run && (decide (x.nextAt ≤ c.clk) || x.sendFault) && !(decide (q = .M) && c.mswap.isSome) && !(decide (c.mode ≠ .timed) && c.late q)
/-- The sequencers of a domain that have an instruction to try. -/
def State.duesOf (s : State) (dom : List Nat) : List (Nat × SeqId) :=
  dom.flatMap fun j => (issueOrder.filter (s.seqDue j)).map fun q => (j, q)
/-- A try with its outcome. -/
abbrev Try := Nat × SeqId × Verdict
/-- R100: the tries of a cycle, in order; each sees what those before it have issued. -/
def State.tries (s : State) (l : List (Nat × SeqId)) : List Try :=
  (l.foldl (fun (p : State × List Try) a =>
    let t := p.1.after (p.1.issueSeq a.1 a.2)
    (match t.verdict with | .raised _ _ => p.1 | _ => t, p.2 ++ [(a.1, a.2, t.verdict)])) (s, [])).2
/-- R362: whether a try raised a non-issuing cause. -/
def Try.refused (t : Try) : Bool := match t.2.2 with | .raised false _ => true | _ => false
/-- R362: whether a try raised an issuing cause. -/
def Try.traps (t : Try) : Bool := match t.2.2 with | .raised true _ => true | _ => false
/-- Whether a try met a stall. -/
def Try.stalls (t : Try) : Bool := match t.2.2 with | .stalled _ => true | _ => false

/-- R126, R129: a core of a timed domain meets freeze condition b. -/
def State.freezeBit (s : State) (b u : Nat) : State :=
  if s.timed u then s.modCtx u fun c => { c with frzs := c.frzs ||| BitVec.ofNat 12 (2 ^ b) } else s
/-- Puts micro-steps before those that wait. -/
def State.then_ (s : State) (l : List Act) : State := { s with agenda := l ++ s.agenda }
/-- R386: whether WDOG.LEFT counts in a context. -/
def Ctx.watched (c : Ctx) : Bool := decide (c.wdogPer ≠ 0) && !c.handler && decide (c.wdogLeft ≠ 0)
/-- The place of an event among the last ones of a cycle: window and multicast writes (R134), quiescence (R215), commits of chunks (R119)
and waits on byte barriers (R327). -/
def evStage (i : Instr) : Nat :=
  match i with
  | .windowAccess _ | .multicastWrite _ => 4
  | .quiescence _ _ => 5
  | .chunkCommit _ _ => 7
  | .copyCommandComplete _ _ => 8
  | _ => 0
/-- R119, R133, R134: the order of the micro-steps of a real cycle over all cores: reads that see no write of the cycle, decisions and
issues, sequencer-port writes, engine-port writes, and the ends of the domains' cycles. -/
def Act.stage (a : Act) : Nat :=
  match a with
  | .ev i => evStage i
  | .reads _ => 0
  | .plan _ => 1
  | .issue _ _ => 2
  | .flush _ => 3
  | .close _ _ => 6
/-- Sets a micro-step behind those of its stage. -/
def Act.insert (a : Act) : List Act → List Act
  | [] => [a]
  | b :: l => if b.stage ≤ a.stage then b :: Act.insert a l else a :: b :: l
/-- Sets micro-steps down in the places of their stages. -/
def State.later (s : State) (l : List Act) : State := { s with agenda := l.foldl (fun g a => a.insert g) s.agenda }
/-- R126: the cycle of a domain is frozen; in the other modes no cycle of it is counted but by the watchdog (R386). -/
def State.endFrozen (s : State) (u : Nat) : State :=
  if s.timed u then s.then_ [.close u true]
  else s.modCtx u fun c => { c with wdogLeft := if c.watched then c.wdogLeft - 1 else c.wdogLeft }

/-- R17: a result as an instruction tried on its landing cycle sees it; nothing beyond the context changes. -/
def Ctx.landEntry (c : Ctx) (stack : Bool) (q : SeqId) (l : Land) : Ctx :=
  if l.v = false then c
  else
    let d := l.dst.toNat
    match l.kind with
    | .reg => c.landReg q l
    | .mask => { c with mkr := vset c.mkr d (l.val.setWidth 256) }
    | .flag => { c with vflag := vset c.vflag d (flagWord (vget c.vflag d 0) l.val) }
    | .csrw => c.csrPut stack (8 * l.index.toNat) (l.val.setWidth 64)
    | .reserved _ => c
/-- R363: the context with the results due on this cycle landed, for instructions that are tried and do not issue. -/
def Ctx.landView (c : Ctx) (stack : Bool) : Ctx :=
  issueOrder.foldl (fun c' q =>
    ((c.seq q).ring.filter fun l => l.isDue c.clk && !l.late c.clk).foldl (fun c' l => c'.landEntry stack q l) c') c
/-- R101: the landings of a frozen cycle are taken back; what the tries of the cycle did otherwise stays. -/
def Ctx.unland (old new : Ctx) : Ctx :=
  if new.lid ≠ old.lid then new
  else
    let keep (o n : Seq) : Seq := { n with lp0 := o.lp0, lp1 := o.lp1 }
    { new with
      s := keep old.s new.s, v := keep old.v new.v, m := keep old.m new.m, c := keep old.c new.c
      x := old.x, xo := old.xo, xq := old.xq, xb := old.xb, vr := old.vr, vo := old.vo, vq := old.vq, vb := old.vb
      mkr := old.mkr, a := old.a, g := old.g, vflag := old.vflag, poison := old.poison, vl0 := old.vl0, vl1 := old.vl1
      vrm := old.vrm, vseed := old.vseed, vsrctr := old.vsrctr, mcmask := old.mcmask, awround := old.awround
      awstat := old.awstat, tiles := old.tiles, mdepth := old.mdepth, rwin := old.rwin, frzs := old.frzs ||| new.frzs }
/-- A try that does not issue has its effect: a stall, or the cause that it raises (R129, R363). -/
def State.refuseTry (s : State) (a : Try) : State :=
  let v := { s with turn := ⟨a.1, a.2.1⟩ }
  if (s.ctx a.1).lid = 0 then s
  else
    let t := s.after (s.issueSeq a.1 a.2.1)
    match a.2.2, t.verdict with
    | .issued, _ => s
    | .stalled _, .stalled _ => t
    | .raised _ _, .raised false _ => t
    | .stalled b, _ => stall b v
    | .raised _ c, _ => raiseCause c false v
/-- R101, R126, R363: tries of a cycle on which nothing issues. -/
def State.refuse (s : State) (dom : List Nat) (l : List Try) : State :=
  let v := dom.foldl (fun s j => s.modCtx j fun c => c.landView (isStack j)) s
  let t := l.foldl State.refuseTry v
  dom.foldl (fun t j => t.modCtx j fun c => (s.ctx j).unland c) t

/-- R390: a due ring entry that is poisoned is consumed before it lands. -/
def State.takePoison (s : State) (dom : List Nat) : Bool × State :=
  dom.foldl (fun r j => issueOrder.foldl (fun r q =>
    let c := r.2.ctx j
    let bad (l : Land) : Bool := l.v && !l.wait && l.poison.isSome && l.isDue c.clk
    match (c.seq q).ring.find? bad with
    | some l =>
      let s := r.2.modSeq j q fun x => { x with ring := x.ring.map fun e => if bad e then { e with v := false } else e }
      (true, s.consumePoison j q (l.poison.getD 0))
    | none => r) r) (false, s)
/-- R126, R256: the window accesses and multicast writes due on this cycle: the units of a timed domain where one meets a chunk that
is not filled, whose fill begins. -/
def State.touchDue (s : State) (dom : List Nat) : List Nat × State :=
  dom.foldl (fun (r : List Nat × State) j =>
    let c := s.ctx j
    let ws : List (Toucher × List Nat × List Nat) := (c.wins.filter fun w => decide (w.due ≤ c.clk)).map fun w =>
      (w.toucher j c.lid, [w.target], match w.rd with | some e => e.offs | none => w.wr.map (·.1))
    let ms : List (Toucher × List Nat × List Nat) := (c.mcast.filter fun w => decide (w.due ≤ c.clk)).map fun w =>
      (w.toucher j c.lid, w.targets j, w.wr.map (·.1))
    (ws ++ ms).foldl (fun (r : List Nat × State) a => a.2.1.foldl (fun (r : List Nat × State) t =>
      let x := r.2.touchBy a.1 t a.2.2
      (if x.1 then r.1 else r.1 ++ [j], x.2)) r) r) ([], s)

/-- R131: the units of a domain where data of a `vsend` arrives on this cycle. -/
def State.arrivals (s : State) (dom : List Nat) : List Instr :=
  (dom.filter fun j => (s.ctx j).arrive.any fun p => decide (p.1 = (s.ctx j).clk)).map .vsendArrival
/-- R133, R215: the window loads that a domain performs on this cycle and the array commands that it starts. -/
def State.readEvents (s : State) (dom : List Nat) : List Instr :=
  ((dom.filter fun j => (s.ctx j).wins.any fun w => decide (w.due ≤ (s.ctx j).clk) && w.rd.isSome && w.amo.isNone).map .windowAccess) ++
  (dom.flatMap fun j => ((s.ctx j).cmds.filter fun k => (s.ctx j).startDue j k).map fun k => .matrixCommandStart j k.id)
/-- R17, R133, R215: the events before the issues of a cycle: landings, and in a timed domain the reads. -/
def State.preEvents (s : State) (dom : List Nat) : List Instr :=
  (dom.flatMap fun j => (issueOrder.filter fun q => ((s.ctx j).seq q).ring.any fun l =>
    l.isDue (s.ctx j).clk && !l.late (s.ctx j).clk).map fun q => .resultLanding j q) ++
  (if dom.any s.timed then s.readEvents dom else [])
/-- R119, R133: the reads of an elastic core, which come before every write of the cycle. -/
def State.reads (s : State) (u : Nat) : State :=
  if s.timed u ∨ (s.ctx u).lid = 0 ∨ (s.core u).swap.isSome ∨ (s.core u).frozen then s
  else (s.readEvents [u]).foldl State.does s
/-- R133 to R135, R215: the events after the issues of a cycle: window stores and atomics with multicast writes, by the index of the
writing core and of one core the window's first (log 77), and array commands that become quiescent. -/
def State.postEvents (s : State) (dom : List Nat) : List Instr :=
  (dom.flatMap fun j =>
    (if (s.ctx j).wins.any fun w => decide (w.due ≤ (s.ctx j).clk) && (w.rd.isNone || w.amo.isSome) then [.windowAccess j] else []) ++
    (if (s.ctx j).mcast.any fun w => decide (w.due ≤ (s.ctx j).clk) then [.multicastWrite j] else [])) ++
  (dom.flatMap fun j => ((s.ctx j).cmds.filter fun k => k.ends (s.ctx j).clk).map fun k => .quiescence j k.id)
/-- R416: whether this cycle is a throttle slot for a domain; in replay mode the log says so (R396). -/
def State.throttledNow (s : State) (u : Nat) : Bool :=
  if s.isReplay u then (s.replayed 7 u .S).isSome else decide (s.partOf u ∈ s.misc.throttled)
/-- R215, R216: the cores of a domain whose array waits, on a command's deadline, for the bytes of an operand. -/
def State.operandsLate (s : State) (dom : List Nat) : List Nat :=
  dom.filter fun j => (s.ctx j).cmds.any fun k => (s.ctx j).startDue j k
/-- R122: whether the instruction that a sequencer tries is a `wait` or an `fpush`. -/
def State.waitsHere (s : State) (u : Nat) (q : SeqId) : Bool :=
  match s.fetch u ((s.ctx u).seq q).pc with
  | .word w => (match decodeBytes q (natLe 4 w.toNat) with
    | some (.wait _ _) | some (.fpush _) => true
    | _ => false)
  | _ => false
/-- R122: the sequencer of a try is stuck: it stalls so, or its sender has halted, for which it raises 0x08 by itself. -/
def State.stuckTry (s : State) (t : Try) : Bool :=
  match t.2.2 with
  | .stalled b => decide (b = frzStuck)
  | .raised false c => decide (c.code = 0x08) && s.waitsHere t.1 t.2.1
  | _ => false
/-- R122: every running sequencer of a core of an elastic launch is stuck: it waits for what none of them will bring. -/
def State.stuck (s : State) (u : Nat) (l : List Try) : Bool :=
  let run := issueOrder.filter fun q => ((s.ctx u).seq q).run
  !run.isEmpty && run.all fun q => l.any fun t => decide (t.1 = u) && decide (t.2.1 = q) && s.stuckTry t
/-- R122: a stuck sequencer raises 0x08. -/
def State.raiseStuck (s : State) (t : Try) : Try :=
  match t.2.2 with
  | .stalled _ => (t.1, t.2.1, .raised false ⟨0x08, 0, ((s.ctx t.1).seq t.2.1).pc, 0, 0⟩)
  | _ => t

/-- A cycle on which a domain goes on: what comes before its issues and the issues now, the rest of it in its place of the real cycle. -/
def State.goOn (s : State) (u : Nat) (dom : List Nat) (issues : List (Nat × SeqId)) (frozen : Bool) : State :=
  (s.later ([.flush u] ++ (s.postEvents dom).map .ev ++ [.close u frozen])).then_
    ((if dom.any fun j => issueOrder.any fun q => ((s.ctx j).seq q).stalled then [.ev (.stallRelease u)] else []) ++
      (s.arrivals dom ++ s.preEvents dom).map .ev ++ issues.map (fun a => .issue a.1 a.2))
/-- R215, R216: the commands of a core that wait for bytes on their deadline freeze it, and ask for the bytes (R256). -/
def State.freezeHeld (s : State) (j : Nat) : State :=
  ((s.ctx j).cmds.filter fun k => (s.ctx j).startDue j k).foldl (fun s k => s.does (.matrixCommandStart j k.id)) (s.freezeBit frzData j)
/-- R100, R126, R362, R363: the tries of a domain's cycle are settled: some cause is non-issuing, the cycle is frozen, or its
instructions issue together. A `brk` or `trap` does not wait for a freeze that others meet: what did not meet it issues. -/
def State.settle (s : State) (u : Nat) (dom : List Nat) : State :=
  let sB := (s.arrivals dom).foldl State.does s
  let t0 := (sB.preEvents dom).foldl State.does sB
  let r := t0.tries (s.duesOf dom)
  let no := r.filter Try.refused
  let st := r.filter Try.stalls
  let tr := r.filter Try.traps
  let held := if s.timed u then t0.operandsLate dom else []
  let go := ((r.filter fun t => !t.traps && !t.stalls) ++ tr).map fun t => (t.1, t.2.1)
  if !(s.timed u) && s.stuck u r then (sB.refuse dom (r.map s.raiseStuck)).endFrozen u
  else if no ≠ [] then ((held.foldl State.freezeHeld sB).refuse dom (no ++ if s.timed u then st else [])).endFrozen u
  else if s.timed u ∧ (st ≠ [] ∨ held ≠ []) ∧ tr = [] then ((held.foldl State.freezeHeld sB).refuse dom st).endFrozen u
  else if s.timed u then s.goOn u dom go false
  else s.goOn u dom (((r.filter fun t => !t.traps) ++ tr).map fun t => (t.1, t.2.1)) false
/-- The sequencers of a domain that a cycle with late data tries: those whose own results have come (R22). -/
def State.duesInTime (s : State) (dom : List Nat) : List (Nat × SeqId) := (s.duesOf dom).filter fun a => !((s.ctx a.1).late a.2)
/-- The tries of a cycle with late data (R126, R363): each core's results that have come are seen. -/
def State.lateTries (s : State) (dom : List Nat) : List Try :=
  (dom.foldl (fun s j => s.modCtx j fun c => c.landView (isStack j)) s).tries (s.duesInTime dom)
/-- The cores of a domain with a result due whose data has not come (R22). -/
def State.lateCores (s : State) (dom : List Nat) : List Nat := dom.filter fun j => issueOrder.any fun q => (s.ctx j).late q
/-- R126, R363: a timed cycle with late data, at `late`: causes are raised, and a `brk` or `trap` that no cause bars issues with what
met no freeze, the late results left for the resume; otherwise the cycle is frozen. -/
def State.settleLate (s : State) (u : Nat) (dom late : List Nat) : State :=
  let sB := late.foldl (fun s j => s.freezeBit frzData j) ((s.arrivals dom).foldl State.does s)
  let r := sB.lateTries dom
  let no := r.filter Try.refused
  let tr := r.filter Try.traps
  if no = [] ∧ tr ≠ [] then
    let go := ((r.filter fun t => !t.traps && !t.stalls) ++ tr).map fun t => (t.1, t.2.1)
    let t := dom.foldl (fun s j => issueOrder.foldl (fun s q => s.landDue j q) s) s
    t.goOn u dom go false
  else (sB.refuse dom (no ++ r.filter Try.stalls)).endFrozen u
/-- R129, R216: the cores of a domain whose array waits for bytes on a cycle, its starts tried as if nothing froze it. -/
def State.operandsHeld (s : State) (dom : List Nat) : List Nat :=
  let s := dom.foldl (fun s j => s.modCore j fun k => { k with frozen := false, swap := none }) s
  ((s.preEvents dom).foldl State.does s).operandsLate dom
/-- R129: the conditions of Table 5.2 that the cores of a timed domain meet on a cycle that another condition freezes for all. -/
def State.meetFreezes (s : State) (dom : List Nat) : State :=
  let s := (s.lateCores dom ++ s.operandsHeld dom).foldl (fun s j => s.freezeBit frzData j) s
  (s.lateTries dom).foldl (fun s t => match t.2.2 with | .stalled b => if b < 12 then s.freezeBit b t.1 else s | _ => s) s
/-- R128, R371: a swap back freezes the context that waits in the shadow bank of a timed cluster for its 64 cycles. -/
def Core.frozenBack (k : Core) (now : Nat) : Core :=
  match k.swap with
  | some w =>
    if !w.toHandler && !w.spill && decide (k.bank.mode = .timed) && decide (w.until_ ≤ now + 64) then
      { k with bank := { k.bank with frzn := k.bank.frzn + 1, frzs := k.bank.frzs ||| BitVec.ofNat 12 (2 ^ frzSwap) } }
    else k
  | none => k
/-- R129: a core of the domain of unit u meets the freeze that the port asks for, and a throttle slot. -/
def State.portFreezes (s : State) (u j : Nat) : State :=
  let s' := if (s.core u).frozen then s.freezeBit frzObs j else s
  if s.throttledNow u then s'.freezeBit frzThrottle j else s'
/-- The decision on the cycle of the trap domain whose first unit is u (R100, R126, R363, R371, R416, R422). -/
def State.plan (s : State) (u : Nat) : State :=
  let dom := s.domain u
  if (s.ctx u).lid = 0 ∨ dom.headD u ≠ u then s
  else if (s.core u).swap.isSome then
    if s.timed u then (dom.foldl (fun s j => (s.freezeBit frzSwap j).portFreezes u j) s).endFrozen u
    else s.modCore u (Core.frozenBack · s.now)
  else if (s.core u).frozen then
    if s.timed u then (dom.foldl (fun s j => s.portFreezes u j) (s.meetFreezes dom)).endFrozen u else s.endFrozen u
  else match s.takePoison dom with
    | (true, s) => s.endFrozen u
    | (false, s) =>
      if s.throttledNow u then
        let s := if s.isReplay u then s.inputDone 7 u .S 1 else s
        if s.timed u then (dom.foldl (fun s j => s.freezeBit frzThrottle j) (s.meetFreezes dom)).endFrozen u
        else s.goOn u dom [] true
      else if s.timed u then
        let w := s.touchDue dom
        let late := s.lateCores dom ++ w.1
        if late ≠ [] then w.2.settleLate u dom late else s.settle u dom
      else s.settle u dom

/-- The effect of one entry kept for the end of the cycle. -/
def State.endOp (s : State) (u : Nat) (e : EndOp) : State :=
  match e with
  | .spad wr => s.ownWrite u .V wr
  | .tiles t cfgd => s.modCtx u fun c => { c with tiles := t, vtset := c.vtset ||| cfgd }
  | .tload mask off => s.modCtx u fun c => { c with tiles := c.tiles.load (s.ownSpad u .V) mask off }
  | .vsrctr => s.modCtx u fun c => { c with vsrctr := c.vsrctr + 1 }
  | .dropRecords => s.modCtx u fun c => { c with rcache := [] }
  | .token a b n => (s.modCtx u fun c => c.setTokens a b (c.tokens a b + n)).tokenPut (s.ctx u).lid u a b n
/-- The sequencer-port writes of a cycle (R119, R183, R184), before the window stores; tokens are added at the end (R104). -/
def State.flush (s : State) (u : Nat) : State :=
  (s.domain u).foldl (fun s j =>
    let ops := (s.ctx j).endOps
    let tok (e : EndOp) : Bool := match e with | .token _ _ _ => true | _ => false
    let s := s.modCtx j fun c => { c with endOps := ops.filter tok, vtset := 0 }
    (ops.filter fun e => !tok e).foldl (fun s e => s.endOp j e) s) s

/-- R219: the spare cycle of the array goes to the follow-on that has begun. -/
def Ctx.followStep (c : Ctx) (u : Nat) : Ctx :=
  if c.spare u then
    { c with cmds := c.cmds.map fun k =>
        if k.follow ∧ k.started.isSome ∧ k.left ≠ 0 then
          { k with left := k.left - 1, quies := if k.left = 1 then c.clk + 14 else 0 }
        else k }
  else c
/-- R15: one sequencer's count of cycles without a stall. -/
def Seq.count (x : Seq) (late : Bool) : Seq := if x.stalled ∨ late then x else { x with live := x.live + 1 }
/-- R367: while no sequencer of a context has issued since it entered its core, the results in its rings come no nearer. -/
def Ctx.holdRings (c : Ctx) : Ctx :=
  if c.fresh.isEmpty then c
  else if c.fresh ≠ [c.s.nextAt, c.v.nextAt, c.m.nextAt, c.c.nextAt] then { c with fresh := [] }
  else
    let f (x : Seq) : Seq := { x with ring := x.ring.map fun l => { l with due := l.due + 1 } }
    { c with s := f c.s, v := f c.v, m := f c.m, c := f c.c }
/-- R15, R93, R115, R125, R199, R219, R367, R386: the end of a cycle that is no frozen cycle of a timed domain. -/
def Ctx.endCycle (c : Ctx) (u : Nat) (counts : Bool) : Ctx :=
  let c := c.followStep u
  let c := c.swapBanks.holdRings
  let cnt (q : SeqId) : Seq := if counts then (c.seq q).count (c.late q || (decide (q = .M) && c.mswap.isSome)) else c.seq q
  { c with
    s := cnt .S, v := cnt .V, m := cnt .M, c := cnt .C
    x2 := c.x1, x1 := c.x, vl0 := c.v.lp0, vl1 := c.v.lp1, clk := c.clk + 1
    wdogLeft := if c.watched then c.wdogLeft - 1 else c.wdogLeft }
/-- The end of a domain's cycle. A frozen cycle of a timed domain is counted in FRZN (R128) and towards FRZLIM (R388), a cycle that the
port freezes excepted (R422); it is no domain cycle (R125). -/
def State.close (s : State) (u : Nat) (frozen : Bool) : State :=
  if (s.ctx u).lid = 0 then s
  else if s.timed u ∧ frozen then
    (s.domain u).foldl (fun s j => (s.modCtx j fun c => { c with frzn := c.frzn + 1 }).modCore j fun k =>
      { k with frzNs := if k.frozen then k.frzNs else k.frzNs + 20 }) s
  else
    (s.domain u).foldl (fun s j =>
      let ops := (s.ctx j).endOps
      let s := ops.foldl (fun s e => s.endOp j e) (s.modCtx j fun c => { c with endOps := [] })
      (s.modCtx j fun c => { c.endCycle j (!frozen) with uid0 := s.uid }).modCore j fun k => { k with frzNs := 0 }) s

end
end Sys2Proof.Machine
end

