-- ==== Sys2Proof/Machine/Boundary.lean ====
section
/-! DEFINITION. A new real cycle: the datum and the links move on, tokens of C are posted (R104), a requested freeze takes effect
(R422), and the inputs and engine events that are due are set down in their order, followed by the cycles of the trap domains. -/
namespace Sys2Proof.Machine
noncomputable section

/-- R104: the tokens of C whose commands are complete are posted, in every context of a unit. -/
def State.postTokens (s : State) (u : Nat) : State :=
  let k := s.core u
  let idle (c : Ctx) : Bool := c.ctok.isEmpty
  if idle k.ctx ∧ idle k.bank ∧ k.saved.all idle then s
  else
    let out := ((k.ctx :: k.bank :: k.saved).map fun c => (c.lid, c.postDue.1)).flatMap fun p => p.2.map fun t => (p.1, t)
    let s := s.setCore u { k with ctx := k.ctx.postDue.2, bank := k.bank.postDue.2, saved := k.saved.map fun c => c.postDue.2 }
    out.foldl (fun s p => s.tokenPut p.1 u .C p.2.1 p.2.2) s
/-- R422: whether the observation port asks for a freeze of the partition that a unit runs in. -/
def State.frozenBy (s : State) (u : Nat) : Bool :=
  decide ((s.ctx u).lid ≠ 0) && decide (s.partOf u < 8) && bit (s.reg 0x5000000) (s.partOf u)
/-- R422: a requested freeze begins, or ends, between two cycles, and FROZEN says that it has begun. -/
def State.obsFreeze (s : State) : State :=
  let w := s.reg 0x5000000
  let s' := { s with cores := s.cores.map fun p => (p.1, { p.2 with frozen := s.frozenBy p.1 }) }
  let v := setBits w 62 62 (b2n (decide (bits w 7 0 ≠ 0)))
  if v = w then s' else s'.setReg 0x5000000 v
/-- R429, R434: once in a datum frame every port that is up tells its peer whether this end is LOCKED. -/
def State.sayLocked (s : State) : State :=
  (List.range 16).foldl (fun s p => if s.portUp p then s.sendCtl p (.lock (decide (s.dState = 2))) else s) s
/-- R436, R320: chunks and scheduled bytes that waited for a page are tried again. -/
def State.servePorts (s : State) : State :=
  s.ports.foldl (fun s p =>
    let s := s.serveRing p.1
    (s.port p.1).heldSched.foldl (fun s f => s.schedIn p.1 f.1 f.2 true) s) s
/-- The part of a new cycle that no instruction of the opcode table names. -/
def State.nextCycle (s : State) : State :=
  let frame := s.datumNs.toNat / 8192
  let slot := s.datumNs.toNat / 8
  let s := ({ s with now := s.now + 1 } : State).datumTick
  let s := { s with misc := { s.misc with throttled := [] } }
  let s := s.cores.foldl (fun s p => s.postTokens p.1) s
  let s := s.obsFreeze
  let s := if s.datumNs.toNat / 8192 = frame then s else s.sayLocked
  let s := if s.datumNs.toNat / 8 = slot then s else (List.range 16).foldl State.slotBegins s
  let s := (s.cores.foldl (fun s p => s.replayIn p.1) s.servePorts).proceedLogged
  let s := s.grandmaster.drain.sendHold.sendPackets
  s.hbm.foldl (fun s d => (s.takeLate d.1).flushHeld d.1) s

/-- The event of an outstanding access (R22, R236, R242, R256), where one is due. -/
def State.outEvent (s : State) (o : Out) : Option Instr :=
  if s.now < o.ready then none
  else match o.op, o.deny, o.st with
    | .xlat _ _, _, _ => none
    | .fill _ _ _, some c, _ => if o.lid = 0 then none else some (.denialArrival o.u o.q c)
    | _, some c, _ => some (.denialArrival o.u o.q c)
    | _, none, .queued => some (.globalAccessPerform o.id)
    | .fill r j ch, none, .answered => some (.regionFillEnd r j ch)
    | _, none, .answered => some (.loadDataArrival o.id)
    | _, none, _ => none
/-- The logged stores of a core that can be replayed (R248). -/
def State.replayEvents (s : State) (u : Nat) (k : Core) : List Instr :=
  [SeqId.S, .V, .M, .C].filterMap fun q => match k.logHead q with
    | some e => if s.replayReady u e then some (.sideLogReplay u q) else none
    | none => none
/-- The events of walks and shootdowns (R238, R239, R243). -/
def State.walkEvents (s : State) : List Instr :=
  List.append (s.walks.filterMap fun w => if w.ans.isSome then some (.walkResponse w.id 0) else none)
    (s.shoot.map fun x => .shootdownComplete (BitVec.ofNat 2 x.1))
/-- Whether SPILL_END has work on a core (R372, R382, R384). -/
def Core.spillDue (k : Core) : Bool :=
  !k.fillWant.isEmpty || match k.bankKind with
  | .spilling => decide (k.spillst = 1)
  | .empty => (decide (k.ctx.lid ≠ 0) && !k.ctx.handler && decide (k.himg ≠ 0)) || k.swap.isSome
  | .queued => match k.swap with | some w => w.toHandler | none => false
  | _ => false
/-- Whether the swap of a core has lasted its 64 cycles (R371). -/
def Core.swapOver (k : Core) (now : Nat) : Bool :=
  match k.swap with | some w => decide (w.until_ ≠ 0) && decide (w.until_ ≤ now) | none => false
/-- An event that is due where a condition holds. -/
def whenDue (b : Bool) (i : Instr) : List Instr := if b then [i] else []
/-- The events of swaps, spills and watchdogs of a core (R371, R382, R388). -/
def State.swapEvents (s : State) (u : Nat) (k : Core) : List Instr :=
  List.flatten
    [whenDue (k.swapOver s.now) (.swapEnd u), whenDue k.spillDue (.spillEnd u),
     whenDue (s.plainRun u && decide (k.ctx.wdogPer ≠ 0) && decide (k.ctx.wdogLeft = 0)) (.watchdogFire u),
     whenDue k.overLimit (.freezeLimit u)]
/-- Whether the chunk in transfer of a command has reached its commit (R301). -/
def CCmd.arrived (x : CCmd) (now : Nat) : Bool := match x.flights with | f :: _ => f.due now | [] => false
/-- The commands at the heads of a context's channels. -/
def Ctx.heads (c : Ctx) : List CCmd := c.chans.toList.filterMap fun ch => ch.cmds.head?
/-- The event of the command at the head of a channel, its commits apart (R311, R322). -/
def State.headEvent (s : State) (u : Nat) (x : CCmd) : List Instr :=
  match x.op with
  | .cscl _ _ _ => whenDue (x.arrived s.now) (.scaleEntryEnter u x.ch)
  | .csendt _ _ _ _ _ _ gt => whenDue (decide (x.next = 0) && decide (gt.toNat ≤ s.datumNs.toNat)) (.csendDeadlineMiss u x.ch)
  | _ => []
/-- Whether a command may have something to commit on this cycle, at the head of its channel or performed: a chunk, an add, an update of a
byte barrier, a flag whose firing may begin. -/
def CCmd.commits (x : CCmd) (now : Nat) : Bool :=
  match x.op with
  | .cscl _ _ _ => false
  | .cbbarm _ _ | .cbbadd _ _ | .tready _ | .cget _ _ _ _ _ _ => true
  | .cbcast _ _ _ _ => !x.adds.isEmpty
  | _ => x.arrived now || x.owes
/-- R119, R301, R324, R326, R327: the writes of the engine ports of a core on this cycle, after its other accesses. -/
def State.commitEvents (s : State) (u : Nat) (k : Core) : List Instr :=
  let l := k.lids.flatMap fun lid => (s.ctxOf u lid).heads ++ (s.ctxOf u lid).await
  ((List.range 4).filter fun ch => l.any fun x => decide (x.ch = ch) && x.commits s.now).map fun ch => .chunkCommit u ch
/-- R327: the waits on byte barriers of a core, which see every update of the cycle. -/
def State.waitEvents (s : State) (u : Nat) (k : Core) : List Instr :=
  (k.lids.flatMap fun lid => (s.ctxOf u lid).heads.filter CCmd.isBbWait).map fun x => .copyCommandComplete u x.id
/-- The events of the copy channels of a core (R121, R301, R302). -/
def State.copyEvents (s : State) (u : Nat) (k : Core) : List Instr :=
  let ctxs := k.lids.map fun lid => s.ctxOf u lid
  let heads := ctxs.flatMap fun c => c.heads.flatMap fun x => s.headEvent u x
  let ends := ctxs.flatMap fun c => c.await.map fun x => Instr.copyCommandComplete u x.id
  let go := k.swap.isNone && !k.ctx.handler && decide (k.ctx.lid ≠ 0) && !isStack u &&
    (!k.ctx.heads.isEmpty || s.fires.any fun f => decide (f.owner = u))
  List.flatten [heads, ends, whenDue go (.chunkStart u)]
/-- The events of an accumulate-write packet (R178, R314, R437, R454). -/
def State.packetEvents (s : State) (k : PktOut) : List Instr :=
  List.flatten
    [whenDue (s.pktReady k && !s.pktRemote k) (.awPacket (BitVec.ofNat 3 k.stack) k.p),
     (match k.ans with | some a => [Instr.awAnswer k.p.id a] | none => []),
     whenDue k.back (.awResend k.p.id), whenDue (s.pktLost k) (.awPacketAbandon k.p.id)]
/-- The events of remote chunks and claimed slots (R320, R433). -/
def State.portEvents (s : State) : List Instr :=
  List.append
    ((s.awaited.filter fun r => !r.held && decide (r.since + s.tmoCycles r.port ≤ s.now)).map fun r => Instr.remoteTimeout r.u r.ch)
    ((s.ports.filter fun p => p.2.claims.any fun c => !c.gone && decide (c.start ≤ s.datumNs.toNat / 8 * 8)).map fun p =>
      Instr.scheduledSlot (BitVec.ofNat 4 p.1))
/-- The rounds that a stack has a part in (R357). -/
def roundEvents (k : Nat) (d : StackDie) : List Instr :=
  ((d.pubd.map (·.1)).eraseDups).map fun j => .roundPublish (BitVec.ofNat 8 j) (BitVec.ofNat 3 k)
/-- Whether this cycle is a throttle slot of a partition (R416). -/
def State.slotNow (s : State) (p : Nat) : Bool :=
  s.partEn p && throttleSlot (bits (s.part p 1) 10 0) ((s.now - s.misc.windowAt) % 1024)
/-- The events of the mapper and of the power controller (R402 to R407, R416). -/
def State.hostEvents (s : State) : List Instr :=
  List.flatten
    [whenDue (s.windowOver && !(s.inputs.any fun p => decide (p.1 ≤ s.now) && (match p.2 with | .powerWindowEnd _ => true | _ => false)))
       (.powerWindowEnd s.readMeters),
     ((List.range 8).filter s.slotNow).map fun p => Instr.throttleSlot (BitVec.ofNat 3 p),
     whenDue (!s.queues.isEmpty) .priorityAgeing,
     whenDue (s.queues.any fun q => s.eligible q && !s.bound q) .queueBind,
     s.misc.slots.map fun p => Instr.queueEntryTake (BitVec.ofNat 10 p.2),
     whenDue (!s.launches.isEmpty) .launchSchedule,
     s.launches.map fun l => Instr.launchEnd l.id]
/-- R445: the token burst of a member alone in its view, when it comes back. -/
def State.ownToken (s : State) : List Instr :=
  match s.plane.again with
  | some (t, ⟨h, .token n⟩) => whenDue (decide (t ≤ s.now)) (.tokenBurst h (BitVec.ofNat 5 n))
  | _ => []
/-- The barriers in which some core stands (R139). -/
def State.standing (s : State) : List (Nat × Nat × Nat) :=
  (s.cores.flatMap fun p => p.2.lids.filterMap fun lid => match (s.ctxOf p.1 lid).bar with
    | some (l, _) => some (lid, l, domainOf l p.1)
    | none => none).eraseDups
/-- The events of the broadcast plane, the servo and the barriers (R139, R445, R447, R449, R450). -/
def State.planeEvents (s : State) : List Instr :=
  List.flatten
    [whenDue s.joinDue .bpJoin, s.ownToken,
     whenDue s.holdoverDue .holdover, whenDue s.freeRunDue .freeRun,
     ((List.range 32).filter s.tokenLost).map fun p => Instr.tokenTimeout (BitVec.ofNat 5 p),
     s.standing.map fun b => Instr.barrierComplete b.1 b.2.1 b.2.2]
/-- The events that the package's engines bring on this cycle, in their order. -/
def State.engineEvents (s : State) : List Instr :=
  List.flatten
    [s.outs.filterMap s.outEvent, s.cores.flatMap (fun p => s.replayEvents p.1 p.2), s.walkEvents,
     s.cores.flatMap (fun p => s.swapEvents p.1 p.2), s.misc.reload.map Instr.handlerReload,
     s.cores.flatMap (fun p => s.copyEvents p.1 p.2), s.packets.flatMap s.packetEvents, s.portEvents,
     s.hbm.flatMap (fun d => roundEvents d.1 d.2), s.hostEvents, s.planeEvents]
/-- R445: the token burst of a member alone in its view comes back once. -/
def State.takeAgain (s : State) : State :=
  match s.plane.again with
  | some (t, _) => if t ≤ s.now then { s with plane := { s.plane with again := none } } else s
  | none => s
/-- A new real cycle is set down: the inputs that are due, the engines' events, the cycles of the trap domains, and the writes of the
engine ports behind those of the sequencers (R119). -/
def State.boundary (s : State) : State :=
  let s := s.nextCycle
  let now (p : Nat × Instr) : Bool := decide (p.1 ≤ s.now)
  let ev := ((s.inputs.filter now).map (·.2)) ++ s.engineEvents
  { s.takeAgain with
    inputs := s.inputs.filter fun p => !now p
    agenda := ev.map .ev ++ (s.cores.map fun p => .reads p.1) ++ (s.cores.map fun p => .plan p.1) ++
      (s.cores.flatMap fun p => s.commitEvents p.1 p.2).map .ev ++ (s.cores.flatMap fun p => s.waitEvents p.1 p.2).map .ev }

/-- Whether a number names a unit of the package (R392); the service numbers of the mapper and the ports are none. -/
def unitOk (u : Nat) : Bool := decide (u < Config.nUnits)
/-- The unit that an event names, where it names one that the package does not have. -/
def strangeUnit (i : Instr) : Option Nat :=
  let no (u : Nat) : Option Nat := if unitOk u then none else some u
  match i with
  | .resultLanding u _ | .stallRelease u | .swapEnd u | .scaleEntryEnter u _ | .chunkStart u | .chunkCommit u _
  | .copyCommandComplete u _ | .matrixCommandStart u _ | .quiescence u _ | .vsendArrival u | .windowAccess u | .multicastWrite u
  | .denialArrival u _ _ | .sideLogReplay u _ | .regionFillEnd u _ _ | .spillEnd u | .spillGo ⟨u, _⟩ | .watchdogFire u | .freezeLimit u
  | .correctableError u | .mdepthWrite u _ | .tilecfgWrite u _ _ | .csendDeadlineMiss u _ | .domainResume u
  | .handlerReload u => no u
  | .uncorrectableError w =>
    match w with
    | .spadLine u _ | .ringEntry u _ _ | .mainReg u _ _ | .accComponent u _ _ | .context u => no u
    | _ => none
  | _ => none
/-- The unit that a micro-step names, where the package does not have it. -/
def Act.strange (a : Act) : Option Nat :=
  let no (u : Nat) : Option Nat := if unitOk u then none else some u
  match a with
  | .ev i => strangeUnit i
  | .reads u | .issue u _ | .plan u | .flush u | .close u _ => no u
/-- What a micro-step does. -/
def State.act (s : State) (a : Act) : Res :=
  match a with
  | .ev i => exec i s
  | .issue u q => s.issueSeq u q
  | .reads u => .next (s.reads u)
  | .plan u => .next (s.plan u)
  | .flush u => .next (s.flush u)
  | .close u frozen => .next (s.close u frozen)

/-- Log 4: the stream that reads a word of the opcode table, and the kind of context that has it: a handler's, a stack core's or
another. -/
def wordHome (w : Nat) : SeqId × Bool × Bool :=
  match streamOrder.find? fun q => (decodeBytes q (bytesOf w)).isSome with
  | none => (.S, false, false)
  | some q =>
    match decodeBytes q (bytesOf w) with
    | some (.xrd _ _ _ _) | some (.xwr _ _ _) | some .hret | some (.cdrop _) | some (.xkill _) | some (.xpost _) => (q, true, false)
    | some (.bkwait _) | some (.bkopen _) | some (.bkclose _) | some .pub | some (.hold _) | some (.release _) | some (.chadd _)
    | some (.vsrnd _ _ _ _ _ _) => (q, false, true)
    | _ => (q, false, false)
/-- Log 4: the context of unit u with sequencer q ready to fetch: a launch has started it there. -/
def Ctx.ready (c : Ctx) (q : SeqId) (handler stack : Bool) : Ctx :=
  let c := c.setSeq q { c.seq q with run := true, nextAt := c.clk, deliver := [] }
  { c with lid := if c.lid = 0 then 1 else c.lid, handler := handler, mode := if stack then .stack else .elastic, valloc := 32,
           poisoned := false }
/-- Log 4: s with word w where the next step fetches, and that step the try of the sequencer which reads it. -/
def State.placeWord (s : State) (w : Nat) : State :=
  let h := wordHome w
  let u := if h.2.2 then 384 else 0
  let s := s.modCtx u fun c => c.ready h.1 h.2.1 h.2.2
  let s := s.modCore u fun k => { k with slog := [] }
  let c := s.ctx u
  let pc := (c.seq h.1).pc.toNat
  let s := if h.2.2 then s.setReg (0x2000000 + 0x30000 + 8 * (pc / 2 ^ 30 % 4096)) 0xA000000000000000
    else { s with tlb := ⟨false, 0, c.asid, pc / 65536 * 65536, 0x0600000000000000⟩ :: s.tlb }
  { s with
    mem := s.mem.wrL (atAddr (if h.2.2 then pc % 2 ^ 30 else pc % 65536) (natLe 4 w))
    misc := { s.misc with replay := s.misc.replay.filter (· ≠ c.lid) }
    agenda := [.issue u h.1] }

end
end Sys2Proof.Machine
end

