-- ==== Sys2Proof/Machine/Step.lean ====
section
/-! DEFINITION. One step: the next micro-step of the agenda, or the setting down of a new cycle (log 3). -/
namespace Sys2Proof.Machine
noncomputable section

/-- One step of the machine. -/
def step (s : State) : Host.Outcome State Fault Refusal :=
  match s.agenda with
  | [] => .next s.boundary
  | a :: r =>
    match a.strange with
    | some u => .fault (.noSuchUnit u)
    | none => { s with agenda := r }.act a

/-- Log 4: s with an instruction word where the next step fetches. -/
def State.withFetchWord (s : State) (nbits w : Nat) : State := s.placeWord (w % 2 ^ nbits)

end
end Sys2Proof.Machine
end

