-- ==== Sys2Proof/WellFormed.lean ====
section
/-! DEFINITION. Which instructions a stream can hold: the words of its own tables and the shared group (R65, R88, R154,
R201, R294), with an atomic's scope among the five of Table 3.3. An event is a word of no stream. -/
namespace Sys2Proof

/-- The streams whose tables hold an instruction. -/
def streamsOf (i : Instr) : List SeqId :=
  match i with
  | .add _ _ _ _ => [.S]
  | .sub _ _ _ _ => [.S]
  | .and _ _ _ _ => [.S]
  | .or _ _ _ _ => [.S]
  | .xor _ _ _ _ => [.S]
  | .sll _ _ _ _ => [.S]
  | .srl _ _ _ _ => [.S]
  | .sra _ _ _ _ => [.S]
  | .slt _ _ _ _ => [.S]
  | .sltu _ _ _ _ => [.S]
  | .seq _ _ _ _ => [.S]
  | .min _ _ _ _ => [.S]
  | .max _ _ _ _ => [.S]
  | .minu _ _ _ _ => [.S]
  | .maxu _ _ _ _ => [.S]
  | .adds _ _ _ _ => [.S]
  | .subs _ _ _ _ => [.S]
  | .addsu _ _ _ _ => [.S]
  | .subsu _ _ _ _ => [.S]
  | .mul _ _ _ _ => [.S]
  | .mulh _ _ _ _ => [.S]
  | .mulhu _ _ _ _ => [.S]
  | .div _ _ _ _ => [.S]
  | .divu _ _ _ _ => [.S]
  | .rem _ _ _ _ => [.S]
  | .remu _ _ _ _ => [.S]
  | .andn _ _ _ _ => [.S]
  | .clz _ _ _ => [.S]
  | .popc _ _ _ => [.S]
  | .addi _ _ _ _ => [.S]
  | .andi _ _ _ _ => [.S]
  | .ori _ _ _ _ => [.S]
  | .xori _ _ _ _ => [.S]
  | .slli _ _ _ _ => [.S]
  | .srli _ _ _ _ => [.S]
  | .srai _ _ _ _ => [.S]
  | .slti _ _ _ _ => [.S]
  | .sltiu _ _ _ _ => [.S]
  | .seqi _ _ _ _ => [.S]
  | .movi _ _ _ => [.S]
  | .movk _ _ _ _ => [.S]
  | .adr _ _ _ => [.S]
  | .sel _ _ _ _ _ => [.S]
  | .faddF32 _ _ _ _ _ => [.S]
  | .fsubF32 _ _ _ _ _ => [.S]
  | .fmulF32 _ _ _ _ _ => [.S]
  | .fminF32 _ _ _ _ => [.S]
  | .fmaxF32 _ _ _ _ => [.S]
  | .fnegF32 _ _ _ => [.S]
  | .fabsF32 _ _ _ => [.S]
  | .feqF32 _ _ _ _ => [.S]
  | .fltF32 _ _ _ _ => [.S]
  | .fleF32 _ _ _ _ => [.S]
  | .fcvtF32S64 _ _ _ _ => [.S]
  | .fcvtF32B64 _ _ _ _ => [.S]
  | .fcvtS64F32 _ _ _ _ => [.S]
  | .fcvtB64F32 _ _ _ _ => [.S]
  | .fcvtS32F32 _ _ _ _ => [.S]
  | .fcvtB32F32 _ _ _ _ => [.S]
  | .fcvtF32Bf16 _ _ _ => [.S]
  | .fcvtBf16F32 _ _ _ _ => [.S]
  | .fmaF32 _ _ _ _ _ _ => [.S]
  | .ldS8 _ _ _ _ => [.S]
  | .ldB8 _ _ _ _ => [.S]
  | .ldS16 _ _ _ _ => [.S]
  | .ldB16 _ _ _ _ => [.S]
  | .ldS32 _ _ _ _ => [.S]
  | .ldB32 _ _ _ _ => [.S]
  | .ldB64 _ _ _ _ => [.S]
  | .stB8 _ _ _ => [.S]
  | .stB16 _ _ _ => [.S]
  | .stB32 _ _ _ => [.S]
  | .stB64 _ _ _ => [.S]
  | .amoAdd _ _ _ _ _ _ => [.S]
  | .amoAnd _ _ _ _ _ _ => [.S]
  | .amoOr _ _ _ _ _ _ => [.S]
  | .amoXor _ _ _ _ _ _ => [.S]
  | .amoSwap _ _ _ _ _ _ => [.S]
  | .amoSmin _ _ _ _ _ _ => [.S]
  | .amoSmax _ _ _ _ _ _ => [.S]
  | .amoUmin _ _ _ _ _ _ => [.S]
  | .amoUmax _ _ _ _ _ _ => [.S]
  | .amoCas _ _ _ _ _ _ => [.S]
  | .fence _ => [.S]
  | .bar _ => [.S]
  | .barSw _ _ => [.S]
  | .waitt _ => [.S]
  | .fpush _ => [.S]
  | .beq _ _ _ => [.S]
  | .bne _ _ _ => [.S]
  | .blt _ _ _ => [.S]
  | .bge _ _ _ => [.S]
  | .bltu _ _ _ => [.S]
  | .bgeu _ _ _ => [.S]
  | .call _ _ _ => [.S]
  | .callr _ _ _ _ => [.S]
  | .csrr _ _ _ => [.S]
  | .csrw _ _ => [.S]
  | .nop => [.S, .V, .M, .C]
  | .sig _ _ => [.S, .V, .M, .C]
  | .wait _ _ => [.S, .V, .M, .C]
  | .tmark _ => [.S, .V, .M, .C]
  | .beacon => [.S, .V, .M, .C]
  | .beaconW => [.S, .V, .M, .C]
  | .brk _ => [.S, .V, .M, .C]
  | .trap _ => [.S, .V, .M, .C]
  | .halt => [.S, .V, .M, .C]
  | .zloop _ _ _ => [.S, .V, .M, .C]
  | .zloopReg _ _ _ => [.S, .V, .M, .C]
  | .jmp _ => [.S, .V, .M, .C]
  | .jmpReg _ => [.S, .V, .M, .C]
  | .bkwait _ => [.S]
  | .bkopen _ => [.S]
  | .bkclose _ => [.S]
  | .hold _ => [.S]
  | .release _ => [.S]
  | .pub => [.S]
  | .xrd _ _ _ _ => [.S]
  | .xwr _ _ _ => [.S]
  | .hret => [.S]
  | .cdrop _ => [.S]
  | .xkill _ => [.S]
  | .xpost _ => [.S]
  | .vaddS32 _ _ _ _ _ _ => [.V]
  | .vsubS32 _ _ _ _ _ _ => [.V]
  | .vmulS32 _ _ _ _ _ _ => [.V]
  | .vmulhS32 _ _ _ _ _ _ => [.V]
  | .vmulhB32 _ _ _ _ _ _ => [.V]
  | .vminS32 _ _ _ _ _ _ => [.V]
  | .vmaxS32 _ _ _ _ _ _ => [.V]
  | .vminB32 _ _ _ _ _ _ => [.V]
  | .vmaxB32 _ _ _ _ _ _ => [.V]
  | .vaddsS32 _ _ _ _ _ _ => [.V]
  | .vsubsS32 _ _ _ _ _ _ => [.V]
  | .vaddsB32 _ _ _ _ _ _ => [.V]
  | .vsubsB32 _ _ _ _ _ _ => [.V]
  | .vandB32 _ _ _ _ _ _ => [.V]
  | .vorB32 _ _ _ _ _ _ => [.V]
  | .vxorB32 _ _ _ _ _ _ => [.V]
  | .vandnB32 _ _ _ _ _ _ => [.V]
  | .vsllB32 _ _ _ _ _ _ => [.V]
  | .vsrlB32 _ _ _ _ _ _ => [.V]
  | .vsraS32 _ _ _ _ _ _ => [.V]
  | .vaddS16 _ _ _ _ _ _ => [.V]
  | .vsubS16 _ _ _ _ _ _ => [.V]
  | .vaddsS16 _ _ _ _ _ _ => [.V]
  | .vsubsS16 _ _ _ _ _ _ => [.V]
  | .vaddsB16 _ _ _ _ _ _ => [.V]
  | .vsubsB16 _ _ _ _ _ _ => [.V]
  | .vmulS16 _ _ _ _ _ _ => [.V]
  | .vaddS8 _ _ _ _ _ _ => [.V]
  | .vsubS8 _ _ _ _ _ _ => [.V]
  | .vaddsS8 _ _ _ _ _ _ => [.V]
  | .vsubsS8 _ _ _ _ _ _ => [.V]
  | .vaddsB8 _ _ _ _ _ _ => [.V]
  | .vsubsB8 _ _ _ _ _ _ => [.V]
  | .vfaddF32 _ _ _ _ _ _ => [.V]
  | .vfsubF32 _ _ _ _ _ _ => [.V]
  | .vfmulF32 _ _ _ _ _ _ => [.V]
  | .vfminF32 _ _ _ _ _ _ => [.V]
  | .vfmaxF32 _ _ _ _ _ _ => [.V]
  | .vfmaF32 _ _ _ _ _ _ => [.V]
  | .vfaddBf16 _ _ _ _ _ _ => [.V]
  | .vfsubBf16 _ _ _ _ _ _ => [.V]
  | .vfmulBf16 _ _ _ _ _ _ => [.V]
  | .vfminBf16 _ _ _ _ _ _ => [.V]
  | .vfmaxBf16 _ _ _ _ _ _ => [.V]
  | .vfmaBf16 _ _ _ _ _ _ => [.V]
  | .vexp2F32 _ _ _ _ _ => [.V]
  | .vlog2F32 _ _ _ _ _ => [.V]
  | .vrcpF32 _ _ _ _ _ => [.V]
  | .vrsqrtF32 _ _ _ _ _ => [.V]
  | .vcmpS32 _ _ _ _ _ _ => [.V]
  | .vcmpB32 _ _ _ _ _ _ => [.V]
  | .vcmpF32 _ _ _ _ _ _ => [.V]
  | .vcmpBf16 _ _ _ _ _ _ => [.V]
  | .vcvt _ _ _ _ _ _ _ _ => [.V]
  | .vmxpk _ _ _ _ _ _ => [.V]
  | .vredAddS32 _ _ _ _ _ => [.V]
  | .vredAddsS32 _ _ _ _ _ => [.V]
  | .vredMinS32 _ _ _ _ _ => [.V]
  | .vredMaxS32 _ _ _ _ _ => [.V]
  | .vredMinB32 _ _ _ _ _ => [.V]
  | .vredMaxB32 _ _ _ _ _ => [.V]
  | .vredAndB32 _ _ _ _ _ => [.V]
  | .vredOrB32 _ _ _ _ _ => [.V]
  | .vredXorB32 _ _ _ _ _ => [.V]
  | .vredAddF32 _ _ _ _ _ => [.V]
  | .vredMinF32 _ _ _ _ _ => [.V]
  | .vredMaxF32 _ _ _ _ _ => [.V]
  | .vredAddBf16 _ _ _ _ _ => [.V]
  | .vpermB32 _ _ _ _ _ _ => [.V]
  | .vpermB8 _ _ _ _ _ _ => [.V]
  | .vrotB32 _ _ _ _ => [.V]
  | .vselB32 _ _ _ _ _ => [.V]
  | .vmovi _ _ _ => [.V]
  | .vmand _ _ _ => [.V]
  | .vmor _ _ _ => [.V]
  | .vmxor _ _ _ => [.V]
  | .vmandn _ _ _ => [.V]
  | .vmnot _ _ => [.V]
  | .vmset _ => [.V]
  | .vmclr _ => [.V]
  | .vmmov _ _ => [.V]
  | .vflag _ _ _ _ => [.V]
  | .vld _ _ _ _ => [.V]
  | .vst _ _ _ => [.V]
  | .vlds _ _ _ _ _ _ _ => [.V]
  | .vsts _ _ _ _ _ _ => [.V]
  | .vldx _ _ _ _ _ _ _ => [.V]
  | .vstx _ _ _ _ _ _ => [.V]
  | .vgld _ _ _ _ => [.V]
  | .vgst _ _ _ => [.V]
  | .vsend _ _ => [.V]
  | .vrecv _ _ => [.V]
  | .vacc _ _ _ => [.V]
  | .vaccX _ _ _ _ => [.V]
  | .vamul _ _ _ _ _ _ _ _ => [.V]
  | .vconj _ _ _ _ _ => [.V]
  | .vnorm _ _ _ _ => [.V]
  | .vaw _ _ _ => [.V]
  | .vtcfg _ _ _ _ => [.V]
  | .vtrel _ => [.V]
  | .vtrow _ _ _ _ => [.V]
  | .vtrowr _ _ _ _ _ => [.V]
  | .vtcol _ _ _ _ _ => [.V]
  | .vtcolw _ _ _ _ => [.V]
  | .vtsave _ _ => [.V]
  | .vtload _ _ => [.V]
  | .vsrnd _ _ _ _ _ _ => [.V]
  | .chadd _ => [.V]
  | .madd _ _ _ => [.M]
  | .msub _ _ _ => [.M]
  | .mand _ _ _ => [.M]
  | .mor _ _ _ => [.M]
  | .mxor _ _ _ => [.M]
  | .msll _ _ _ => [.M]
  | .msrl _ _ _ => [.M]
  | .mminu _ _ _ => [.M]
  | .maddi _ _ _ => [.M]
  | .mmovk _ _ _ => [.M]
  | .mmovx _ _ => [.M]
  | .mmovi _ _ => [.M]
  | .mbeq _ _ _ => [.M]
  | .mbne _ _ _ => [.M]
  | .mbltu _ _ _ => [.M]
  | .mma _ _ _ _ _ => [.M]
  | .mmaReg _ _ _ _ _ => [.M]
  | .mstage _ _ _ _ _ => [.M]
  | .mstageReg _ _ _ _ _ => [.M]
  | .mzero _ _ => [.M]
  | .mswap => [.M]
  | .cadd _ _ _ => [.C]
  | .csub _ _ _ => [.C]
  | .cand _ _ _ => [.C]
  | .cor _ _ _ => [.C]
  | .cxor _ _ _ => [.C]
  | .csll _ _ _ => [.C]
  | .csrl _ _ _ => [.C]
  | .cminu _ _ _ => [.C]
  | .caddi _ _ _ => [.C]
  | .cmovk _ _ _ => [.C]
  | .cmovx _ _ => [.C]
  | .cmovi _ _ => [.C]
  | .cbeq _ _ _ => [.C]
  | .cbne _ _ _ => [.C]
  | .cbltu _ _ _ => [.C]
  | .cpy _ _ _ _ _ _ _ _ => [.C]
  | .ctens _ _ _ _ _ _ => [.C]
  | .cgath _ _ _ _ _ _ _ _ => [.C]
  | .cscat _ _ _ _ _ _ _ _ => [.C]
  | .cscl _ _ _ _ => [.C]
  | .cldlct _ _ _ => [.C]
  | .cldalg _ _ _ => [.C]
  | .caw _ _ _ _ _ => [.C]
  | .cver _ _ _ _ _ _ _ => [.C]
  | .cmapR _ _ _ _ _ => [.C]
  | .cmapW _ _ _ _ _ => [.C]
  | .cwb _ _ => [.C]
  | .cput _ _ _ _ _ _ _ => [.C]
  | .cget _ _ _ _ _ _ _ => [.C]
  | .cbcast _ _ _ _ _ _ => [.C]
  | .csendT _ _ _ _ _ _ _ => [.C]
  | .tready _ _ => [.C]
  | .cbbarm _ _ _ => [.C]
  | .cbbadd _ _ _ => [.C]
  | .cbbwait _ _ _ => [.C]
  | .rcfence => [.C]
  | .cpya _ _ _ _ _ _ => [.C]
  | .packageReset _ => []
  | .resultLanding _ _ => []
  | .loadDataArrival _ => []
  | .stallRelease _ => []
  | .swapEnd _ => []
  | .scaleEntryEnter _ _ => []
  | .chunkStart _ => []
  | .chunkCommit _ _ => []
  | .copyCommandComplete _ _ => []
  | .matrixCommandStart _ _ => []
  | .quiescence _ _ => []
  | .vsendArrival _ => []
  | .windowAccess _ => []
  | .multicastWrite _ => []
  | .awAnswer _ _ => []
  | .awResend _ => []
  | .denialArrival _ _ _ => []
  | .globalAccessPerform _ => []
  | .sideLogReplay _ _ => []
  | .regionFillEnd _ _ _ => []
  | .walkResponse _ _ => []
  | .walkTimeout _ => []
  | .shootdown _ _ => []
  | .shootdownComplete _ => []
  | .resolve _ _ => []
  | .tierDemotion _ _ _ _ _ _ => []
  | .promotion _ _ _ _ _ => []
  | .tierRegisterWrite _ _ => []
  | .barrierComplete _ _ _ => []
  | .spillEnd _ => []
  | .spillGo _ => []
  | .watchdogFire _ => []
  | .freezeLimit _ => []
  | .correctableError _ => []
  | .uncorrectableError _ => []
  | .notify _ _ => []
  | .queueDescriptorWrite _ _ _ => []
  | .queueBind => []
  | .priorityAgeing => []
  | .queueEntryTake _ => []
  | .launchSchedule => []
  | .launchEnd _ => []
  | .qkill _ => []
  | .powerWindowEnd _ => []
  | .throttleSlot _ => []
  | .partaWrite _ _ => []
  | .capWrite _ _ => []
  | .obsdataRead => []
  | .frzWrite _ => []
  | .obskeyWrite _ _ _ => []
  | .tamper => []
  | .managementFrame _ => []
  | .evqhWrite _ _ => []
  | .lrefresh _ _ => []
  | .bucketDescriptorWrite _ _ _ _ => []
  | .jobRecordWrite _ _ _ _ => []
  | .awPacket _ _ => []
  | .roundPublish _ _ => []
  | .mdepthWrite _ _ => []
  | .tilecfgWrite _ _ _ => []
  | .cttWord0Write _ _ _ => []
  | .slotmapWrite _ _ _ => []
  | .keyInstall _ _ => []
  | .portRetrain _ => []
  | .bpcfgWrite _ => []
  | .bpJoin => []
  | .bpviewWrite _ => []
  | .scheduledSlot _ => []
  | .scheduledData _ _ => []
  | .openRequest _ _ _ => []
  | .openData _ _ _ => []
  | .answer _ _ _ => []
  | .linkControl _ _ _ => []
  | .laneDegrade _ _ _ => []
  | .epochEnd _ => []
  | .csendDeadlineMiss _ _ => []
  | .remoteTimeout _ _ => []
  | .awPacketAbandon _ => []
  | .tokenBurst _ _ => []
  | .dataBurst _ _ => []
  | .fenceBurst _ _ => []
  | .barrierBurst _ _ => []
  | .proposalBurst _ _ _ => []
  | .nakBurst _ _ => []
  | .timingBurst _ _ => []
  | .tokenTimeout _ => []
  | .sync _ => []
  | .followUp _ => []
  | .announce _ _ _ _ => []
  | .delayReq _ => []
  | .delayResp _ => []
  | .holdover => []
  | .freeRun => []
  | .registerWrite _ _ => []
  | .illegalInstruction => []
  | .walkerTrap _ => []
  | .domainResume _ => []
  | .handlerReload _ => []
  | .rrctlWrite _ _ => []
  | .bar2Access _ _ => []
  | .memoryKeyInstall => []
  | .idleFlit _ _ _ => []
  | .uncorrectedFlit _ => []
  | .uncorrectedBurst _ => []
  | .portTrained _ _ _ _ _ => []
  | .controlBurst _ _ => []

/-- R84, Table 3.3: the scope of an atomic is one of the five codes. -/
def scopeOk (i : Instr) : Bool :=
  match i with
  | .amoAdd s _ _ _ _ _ => decide (s.toNat ≤ 4)
  | .amoAnd s _ _ _ _ _ => decide (s.toNat ≤ 4)
  | .amoOr s _ _ _ _ _ => decide (s.toNat ≤ 4)
  | .amoXor s _ _ _ _ _ => decide (s.toNat ≤ 4)
  | .amoSwap s _ _ _ _ _ => decide (s.toNat ≤ 4)
  | .amoSmin s _ _ _ _ _ => decide (s.toNat ≤ 4)
  | .amoSmax s _ _ _ _ _ => decide (s.toNat ≤ 4)
  | .amoUmin s _ _ _ _ _ => decide (s.toNat ≤ 4)
  | .amoUmax s _ _ _ _ _ => decide (s.toNat ≤ 4)
  | .amoCas s _ _ _ _ _ => decide (s.toNat ≤ 4)
  | _ => true

/-- An instruction that stream q can hold: it has a word that the stream's decoder reads back (R9). -/
def wellFormed (q : SeqId) (i : Instr) : Bool := (streamsOf i).contains q && scopeOk i

end Sys2Proof
end

