-- ==== Sys2Proof/Laws/Encode.lean ====
section
/-! SUPPORT. Lemmas about words, their bytes and their fields, for the family RoundTrip of Laws/PerInstr.lean. -/
namespace Sys2Proof.Laws

/-- The word that the bytes of a word form is that word (R7). -/
theorem wordOf_bytesOf (w : Nat) (h : w < 2 ^ 32) : wordOf (bytesOf w) = some w := by
  have e : bytesOf w = [BitVec.ofNat 8 w, BitVec.ofNat 8 (w / 2 ^ 8), BitVec.ofNat 8 (w / 2 ^ 16), BitVec.ofNat 8 (w / 2 ^ 24)] := by
    simp [bytesOf, List.range, List.range.loop]
  rw [e, wordOf]
  simp only [BitVec.toNat_ofNat, Option.some.injEq]
  omega

namespace RoundTrip
/-- An instruction whose word decodes to it has a word whose bytes decode to it. -/
theorem of_word {i : Instr} {q : SeqId} {w : Nat} (he : encode i = some w) (hw : w < 2 ^ 32) (hd : decode q w = some i) :
    ∃ w, encode i = some w ∧ w < 2 ^ 32 ∧ decodeBytes q (bytesOf w) = some i :=
  ⟨w, he, hw, by rw [decodeBytes, wordOf_bytesOf w hw]; exact hd⟩
/-- A field of a word. -/
theorem fld_eq {k w lo : Nat} {x : BitVec k} (h : w / 2 ^ lo % 2 ^ k = x.toNat) : fld k w lo = x :=
  BitVec.eq_of_toNat_eq (by rw [fld, BitVec.toNat_ofNat]; exact h)
/-- The stream of an instruction of one stream alone. -/
theorem one {i : Instr} {p q : SeqId} (h : streamsOf i = [p]) (hq : wellFormed q i = true) : q = p := by
  rw [wellFormed, h] at hq
  cases p <;> cases q <;> first | rfl | exact absurd (Bool.and_eq_true_iff.mp hq).1 (by decide)
/-- An event is a word of no stream. -/
theorem none_of {i : Instr} {q : SeqId} (h : streamsOf i = []) (hq : wellFormed q i = true) : False := by
  rw [wellFormed, h] at hq
  exact absurd (Bool.and_eq_true_iff.mp hq).1 (by simp)
/-- The scope of a well-formed atomic is one of the five. -/
theorem within {i : Instr} {q : SeqId} (hq : wellFormed q i = true) : scopeOk i = true := (Bool.and_eq_true_iff.mp hq).2
/-- The majors of an instruction whose major holds a field of two bits. -/
theorem fourMajors {w m n : Nat} (hs : n < 2 ^ 2) (g : opc w = m + n) :
    opc w = m ∨ opc w = m + 1 ∨ opc w = m + 2 ∨ opc w = m + 3 := by omega
/-- The majors of the atomics. -/
theorem amoMajor {w n : Nat} (hs : n ≤ 4) (g : opc w = 0x30 + n) :
    opc w = 0x30 ∨ opc w = 0x31 ∨ opc w = 0x32 ∨ opc w = 0x33 ∨ opc w = 0x34 := by omega
end RoundTrip
end Sys2Proof.Laws
end

