-- ==== Sys2Proof/Laws/PerInstr.lean ====
section
/-! SUPPORT. The family RoundTrip: for every instruction that a stream can hold, decoding its encoded word gives it back
(R8, R9). One lemma for each constructor; an event has no word, so that of an event says nothing. -/
namespace Sys2Proof.Laws.RoundTrip
set_option linter.unusedSimpArgs false

/-- What the family says of an instruction: in every stream that can hold it, its word has 32 bits and the four bytes of
the word decode to it. -/
def Statement (i : Instr) : Prop :=
  ∀ q, wellFormed q i = true → ∃ w, encode i = some w ∧ w < 2 ^ 32 ∧ decodeBytes q (bytesOf w) = some i

theorem majorS01 {w : Nat} (h : opc w = 0x01) : decode .S w =
    decodeS01 w := by
  rw [decode, decodeS, h]
  rfl
theorem majorS02 {w : Nat} (h : opc w = 0x02) : decode .S w =
    some (Instr.addi (fld 1 w 24) (fld 6 w 18) (fld 6 w 12) (fld 12 w 0)) := by
  rw [decode, decodeS, h]
  rfl
theorem majorS03 {w : Nat} (h : opc w = 0x03) : decode .S w =
    some (Instr.andi (fld 1 w 24) (fld 6 w 18) (fld 6 w 12) (fld 12 w 0)) := by
  rw [decode, decodeS, h]
  rfl
theorem majorS04 {w : Nat} (h : opc w = 0x04) : decode .S w =
    some (Instr.ori (fld 1 w 24) (fld 6 w 18) (fld 6 w 12) (fld 12 w 0)) := by
  rw [decode, decodeS, h]
  rfl
theorem majorS05 {w : Nat} (h : opc w = 0x05) : decode .S w =
    some (Instr.xori (fld 1 w 24) (fld 6 w 18) (fld 6 w 12) (fld 12 w 0)) := by
  rw [decode, decodeS, h]
  rfl
theorem majorS06 {w : Nat} (h : opc w = 0x06) : decode .S w =
    decodeS06 w := by
  rw [decode, decodeS, h]
  rfl
theorem majorS07 {w : Nat} (h : opc w = 0x07) : decode .S w =
    some (Instr.slti (fld 1 w 24) (fld 6 w 18) (fld 6 w 12) (fld 12 w 0)) := by
  rw [decode, decodeS, h]
  rfl
theorem majorS08 {w : Nat} (h : opc w = 0x08) : decode .S w =
    some (Instr.sltiu (fld 1 w 24) (fld 6 w 18) (fld 6 w 12) (fld 12 w 0)) := by
  rw [decode, decodeS, h]
  rfl
theorem majorS09 {w : Nat} (h : opc w = 0x09) : decode .S w =
    some (Instr.seqi (fld 1 w 24) (fld 6 w 18) (fld 6 w 12) (fld 12 w 0)) := by
  rw [decode, decodeS, h]
  rfl
theorem majorS0A {w : Nat} (h : opc w = 0x0A) : decode .S w =
    some (Instr.movi (fld 1 w 24) (fld 6 w 18) (fld 18 w 0)) := by
  rw [decode, decodeS, h]
  rfl
theorem majorS0B {w : Nat} (h : opc w = 0x0B) : decode .S w =
    some (Instr.movk (fld 1 w 24) (fld 6 w 18) (fld 2 w 16) (fld 16 w 0)) := by
  rw [decode, decodeS, h]
  rfl
theorem majorS0C {w : Nat} (h : opc w = 0x0C) : decode .S w =
    some (Instr.adr (fld 1 w 24) (fld 6 w 18) (fld 18 w 0)) := by
  rw [decode, decodeS, h]
  rfl
theorem majorS0D {w : Nat} (h : opc w = 0x0D) : decode .S w =
    some (Instr.sel (fld 1 w 24) (fld 6 w 18) (fld 6 w 12) (fld 6 w 6) (fld 6 w 0)) := by
  rw [decode, decodeS, h]
  rfl
theorem majorS10 {w : Nat} (h : opc w = 0x10) : decode .S w =
    decodeS10 w := by
  rw [decode, decodeS, h]
  rfl
theorem majorS11 {w : Nat} (h : opc w = 0x11) : decode .S w =
    decodeS11 w := by
  rw [decode, decodeS, h]
  rfl
theorem majorS12 {w : Nat} (h : opc w = 0x12) : decode .S w =
    decodeS12 w := by
  rw [decode, decodeS, h]
  rfl
theorem majorS14 {w : Nat} (h : opc w = 0x14) : decode .S w =
    some (Instr.fmaF32 (fld 2 w 25) (fld 1 w 24) (fld 6 w 18) (fld 6 w 12) (fld 6 w 6) (fld 6 w 0)) := by
  rw [decode, decodeS, h]
  rfl
theorem majorS15 {w : Nat} (h : opc w = 0x15) : decode .S w =
    some (Instr.fmaF32 (fld 2 w 25) (fld 1 w 24) (fld 6 w 18) (fld 6 w 12) (fld 6 w 6) (fld 6 w 0)) := by
  rw [decode, decodeS, h]
  rfl
theorem majorS16 {w : Nat} (h : opc w = 0x16) : decode .S w =
    some (Instr.fmaF32 (fld 2 w 25) (fld 1 w 24) (fld 6 w 18) (fld 6 w 12) (fld 6 w 6) (fld 6 w 0)) := by
  rw [decode, decodeS, h]
  rfl
theorem majorS17 {w : Nat} (h : opc w = 0x17) : decode .S w =
    some (Instr.fmaF32 (fld 2 w 25) (fld 1 w 24) (fld 6 w 18) (fld 6 w 12) (fld 6 w 6) (fld 6 w 0)) := by
  rw [decode, decodeS, h]
  rfl
theorem majorS20 {w : Nat} (h : opc w = 0x20) : decode .S w =
    some (Instr.ldS8 (fld 1 w 24) (fld 6 w 18) (fld 6 w 12) (fld 12 w 0)) := by
  rw [decode, decodeS, h]
  rfl
theorem majorS21 {w : Nat} (h : opc w = 0x21) : decode .S w =
    some (Instr.ldB8 (fld 1 w 24) (fld 6 w 18) (fld 6 w 12) (fld 12 w 0)) := by
  rw [decode, decodeS, h]
  rfl
theorem majorS22 {w : Nat} (h : opc w = 0x22) : decode .S w =
    some (Instr.ldS16 (fld 1 w 24) (fld 6 w 18) (fld 6 w 12) (fld 12 w 0)) := by
  rw [decode, decodeS, h]
  rfl
theorem majorS23 {w : Nat} (h : opc w = 0x23) : decode .S w =
    some (Instr.ldB16 (fld 1 w 24) (fld 6 w 18) (fld 6 w 12) (fld 12 w 0)) := by
  rw [decode, decodeS, h]
  rfl
theorem majorS24 {w : Nat} (h : opc w = 0x24) : decode .S w =
    some (Instr.ldS32 (fld 1 w 24) (fld 6 w 18) (fld 6 w 12) (fld 12 w 0)) := by
  rw [decode, decodeS, h]
  rfl
theorem majorS25 {w : Nat} (h : opc w = 0x25) : decode .S w =
    some (Instr.ldB32 (fld 1 w 24) (fld 6 w 18) (fld 6 w 12) (fld 12 w 0)) := by
  rw [decode, decodeS, h]
  rfl
theorem majorS26 {w : Nat} (h : opc w = 0x26) : decode .S w =
    some (Instr.ldB64 (fld 1 w 24) (fld 6 w 18) (fld 6 w 12) (fld 12 w 0)) := by
  rw [decode, decodeS, h]
  rfl
theorem majorS28 {w : Nat} (h : opc w = 0x28) : decode .S w =
    if fix w 24 24 = 0 then some (Instr.stB8 (fld 6 w 18) (fld 6 w 12) (fld 12 w 0)) else none := by
  rw [decode, decodeS, h]
  rfl
theorem majorS29 {w : Nat} (h : opc w = 0x29) : decode .S w =
    if fix w 24 24 = 0 then some (Instr.stB16 (fld 6 w 18) (fld 6 w 12) (fld 12 w 0)) else none := by
  rw [decode, decodeS, h]
  rfl
theorem majorS2A {w : Nat} (h : opc w = 0x2A) : decode .S w =
    if fix w 24 24 = 0 then some (Instr.stB32 (fld 6 w 18) (fld 6 w 12) (fld 12 w 0)) else none := by
  rw [decode, decodeS, h]
  rfl
theorem majorS2B {w : Nat} (h : opc w = 0x2B) : decode .S w =
    if fix w 24 24 = 0 then some (Instr.stB64 (fld 6 w 18) (fld 6 w 12) (fld 12 w 0)) else none := by
  rw [decode, decodeS, h]
  rfl
theorem majorS30 {w : Nat} (h : opc w = 0x30) : decode .S w =
    decodeAmo w := by
  rw [decode, decodeS, h]
  rfl
theorem majorS31 {w : Nat} (h : opc w = 0x31) : decode .S w =
    decodeAmo w := by
  rw [decode, decodeS, h]
  rfl
theorem majorS32 {w : Nat} (h : opc w = 0x32) : decode .S w =
    decodeAmo w := by
  rw [decode, decodeS, h]
  rfl
theorem majorS33 {w : Nat} (h : opc w = 0x33) : decode .S w =
    decodeAmo w := by
  rw [decode, decodeS, h]
  rfl
theorem majorS34 {w : Nat} (h : opc w = 0x34) : decode .S w =
    decodeAmo w := by
  rw [decode, decodeS, h]
  rfl
theorem majorS38 {w : Nat} (h : opc w = 0x38) : decode .S w =
    if fix w 24 3 = 0 then some (Instr.fence (fld 3 w 0)) else none := by
  rw [decode, decodeS, h]
  rfl
theorem majorS39 {w : Nat} (h : opc w = 0x39) : decode .S w =
    decodeS39 w := by
  rw [decode, decodeS, h]
  rfl
theorem majorS3A {w : Nat} (h : opc w = 0x3A) : decode .S w =
    if fix w 11 0 = 0 ∧ fix w 24 18 = 0 then some (Instr.waitt (fld 6 w 12)) else none := by
  rw [decode, decodeS, h]
  rfl
theorem majorS3B {w : Nat} (h : opc w = 0x3B) : decode .S w =
    if fix w 11 0 = 0 ∧ fix w 24 18 = 0 then some (Instr.fpush (fld 6 w 12)) else none := by
  rw [decode, decodeS, h]
  rfl
theorem majorS40 {w : Nat} (h : opc w = 0x40) : decode .S w =
    some (Instr.beq (fld 6 w 19) (fld 6 w 13) (fld 13 w 0)) := by
  rw [decode, decodeS, h]
  rfl
theorem majorS41 {w : Nat} (h : opc w = 0x41) : decode .S w =
    some (Instr.bne (fld 6 w 19) (fld 6 w 13) (fld 13 w 0)) := by
  rw [decode, decodeS, h]
  rfl
theorem majorS42 {w : Nat} (h : opc w = 0x42) : decode .S w =
    some (Instr.blt (fld 6 w 19) (fld 6 w 13) (fld 13 w 0)) := by
  rw [decode, decodeS, h]
  rfl
theorem majorS43 {w : Nat} (h : opc w = 0x43) : decode .S w =
    some (Instr.bge (fld 6 w 19) (fld 6 w 13) (fld 13 w 0)) := by
  rw [decode, decodeS, h]
  rfl
theorem majorS44 {w : Nat} (h : opc w = 0x44) : decode .S w =
    some (Instr.bltu (fld 6 w 19) (fld 6 w 13) (fld 13 w 0)) := by
  rw [decode, decodeS, h]
  rfl
theorem majorS45 {w : Nat} (h : opc w = 0x45) : decode .S w =
    some (Instr.bgeu (fld 6 w 19) (fld 6 w 13) (fld 13 w 0)) := by
  rw [decode, decodeS, h]
  rfl
theorem majorS46 {w : Nat} (h : opc w = 0x46) : decode .S w =
    some (Instr.call (fld 1 w 24) (fld 6 w 18) (fld 18 w 0)) := by
  rw [decode, decodeS, h]
  rfl
theorem majorS47 {w : Nat} (h : opc w = 0x47) : decode .S w =
    some (Instr.callr (fld 1 w 24) (fld 6 w 18) (fld 6 w 12) (fld 12 w 0)) := by
  rw [decode, decodeS, h]
  rfl
theorem majorS50 {w : Nat} (h : opc w = 0x50) : decode .S w =
    if fix w 17 13 = 0 then some (Instr.csrr (fld 1 w 24) (fld 6 w 18) (fld 13 w 0)) else none := by
  rw [decode, decodeS, h]
  rfl
theorem majorS51 {w : Nat} (h : opc w = 0x51) : decode .S w =
    if fix w 17 13 = 0 ∧ fix w 24 24 = 0 then some (Instr.csrw (fld 6 w 18) (fld 13 w 0)) else none := by
  rw [decode, decodeS, h]
  rfl
theorem majorS58 {w : Nat} (h : opc w = 0x58) : decode .S w =
    some (Instr.xrd (fld 1 w 24) (fld 6 w 18) (fld 6 w 12) (fld 12 w 0)) := by
  rw [decode, decodeS, h]
  rfl
theorem majorS59 {w : Nat} (h : opc w = 0x59) : decode .S w =
    if fix w 24 24 = 0 then some (Instr.xwr (fld 6 w 18) (fld 6 w 12) (fld 12 w 0)) else none := by
  rw [decode, decodeS, h]
  rfl
theorem majorS5A {w : Nat} (h : opc w = 0x5A) : decode .S w =
    if fix w 24 0 = 0 then some (Instr.hret) else none := by
  rw [decode, decodeS, h]
  rfl
theorem majorS5B {w : Nat} (h : opc w = 0x5B) : decode .S w =
    if fix w 24 2 = 0 then some (Instr.cdrop (fld 2 w 0)) else none := by
  rw [decode, decodeS, h]
  rfl
theorem majorS5C {w : Nat} (h : opc w = 0x5C) : decode .S w =
    if fix w 11 0 = 0 ∧ fix w 24 18 = 0 then some (Instr.xkill (fld 6 w 12)) else none := by
  rw [decode, decodeS, h]
  rfl
theorem majorS5D {w : Nat} (h : opc w = 0x5D) : decode .S w =
    if fix w 11 0 = 0 ∧ fix w 24 18 = 0 then some (Instr.xpost (fld 6 w 12)) else none := by
  rw [decode, decodeS, h]
  rfl
theorem majorS60 {w : Nat} (h : opc w = 0x60) : decode .S w =
    if fix w 17 0 = 0 ∧ fix w 24 24 = 0 then some (Instr.bkwait (fld 6 w 18)) else none := by
  rw [decode, decodeS, h]
  rfl
theorem majorS61 {w : Nat} (h : opc w = 0x61) : decode .S w =
    if fix w 11 0 = 0 ∧ fix w 24 18 = 0 then some (Instr.bkopen (fld 6 w 12)) else none := by
  rw [decode, decodeS, h]
  rfl
theorem majorS62 {w : Nat} (h : opc w = 0x62) : decode .S w =
    if fix w 11 0 = 0 ∧ fix w 24 18 = 0 then some (Instr.bkclose (fld 6 w 12)) else none := by
  rw [decode, decodeS, h]
  rfl
theorem majorS63 {w : Nat} (h : opc w = 0x63) : decode .S w =
    if fix w 11 0 = 0 ∧ fix w 24 18 = 0 then some (Instr.hold (fld 6 w 12)) else none := by
  rw [decode, decodeS, h]
  rfl
theorem majorS64 {w : Nat} (h : opc w = 0x64) : decode .S w =
    if fix w 11 0 = 0 ∧ fix w 24 18 = 0 then some (Instr.release (fld 6 w 12)) else none := by
  rw [decode, decodeS, h]
  rfl
theorem majorS65 {w : Nat} (h : opc w = 0x65) : decode .S w =
    if fix w 24 0 = 0 then some (Instr.pub) else none := by
  rw [decode, decodeS, h]
  rfl
theorem majorS7F {w : Nat} (h : opc w = 0x7F) : decode .S w = decodeShared w := by
  rw [decode, decodeS, h]
  rfl
theorem majorV01 {w : Nat} (h : opc w = 0x01) : decode .V w =
    some (Instr.vaddS32 (fld 1 w 24) (fld 6 w 18) (fld 6 w 12) (fld 6 w 6) (fld 5 w 1) (fld 1 w 0)) := by
  rw [decode, decodeV, h]
  rfl
theorem majorV02 {w : Nat} (h : opc w = 0x02) : decode .V w =
    some (Instr.vsubS32 (fld 1 w 24) (fld 6 w 18) (fld 6 w 12) (fld 6 w 6) (fld 5 w 1) (fld 1 w 0)) := by
  rw [decode, decodeV, h]
  rfl
theorem majorV03 {w : Nat} (h : opc w = 0x03) : decode .V w =
    some (Instr.vmulS32 (fld 1 w 24) (fld 6 w 18) (fld 6 w 12) (fld 6 w 6) (fld 5 w 1) (fld 1 w 0)) := by
  rw [decode, decodeV, h]
  rfl
theorem majorV04 {w : Nat} (h : opc w = 0x04) : decode .V w =
    some (Instr.vmulhS32 (fld 1 w 24) (fld 6 w 18) (fld 6 w 12) (fld 6 w 6) (fld 5 w 1) (fld 1 w 0)) := by
  rw [decode, decodeV, h]
  rfl
theorem majorV05 {w : Nat} (h : opc w = 0x05) : decode .V w =
    some (Instr.vmulhB32 (fld 1 w 24) (fld 6 w 18) (fld 6 w 12) (fld 6 w 6) (fld 5 w 1) (fld 1 w 0)) := by
  rw [decode, decodeV, h]
  rfl
theorem majorV06 {w : Nat} (h : opc w = 0x06) : decode .V w =
    some (Instr.vminS32 (fld 1 w 24) (fld 6 w 18) (fld 6 w 12) (fld 6 w 6) (fld 5 w 1) (fld 1 w 0)) := by
  rw [decode, decodeV, h]
  rfl
theorem majorV07 {w : Nat} (h : opc w = 0x07) : decode .V w =
    some (Instr.vmaxS32 (fld 1 w 24) (fld 6 w 18) (fld 6 w 12) (fld 6 w 6) (fld 5 w 1) (fld 1 w 0)) := by
  rw [decode, decodeV, h]
  rfl
theorem majorV08 {w : Nat} (h : opc w = 0x08) : decode .V w =
    some (Instr.vminB32 (fld 1 w 24) (fld 6 w 18) (fld 6 w 12) (fld 6 w 6) (fld 5 w 1) (fld 1 w 0)) := by
  rw [decode, decodeV, h]
  rfl
theorem majorV09 {w : Nat} (h : opc w = 0x09) : decode .V w =
    some (Instr.vmaxB32 (fld 1 w 24) (fld 6 w 18) (fld 6 w 12) (fld 6 w 6) (fld 5 w 1) (fld 1 w 0)) := by
  rw [decode, decodeV, h]
  rfl
theorem majorV0A {w : Nat} (h : opc w = 0x0A) : decode .V w =
    some (Instr.vaddsS32 (fld 1 w 24) (fld 6 w 18) (fld 6 w 12) (fld 6 w 6) (fld 5 w 1) (fld 1 w 0)) := by
  rw [decode, decodeV, h]
  rfl
theorem majorV0B {w : Nat} (h : opc w = 0x0B) : decode .V w =
    some (Instr.vsubsS32 (fld 1 w 24) (fld 6 w 18) (fld 6 w 12) (fld 6 w 6) (fld 5 w 1) (fld 1 w 0)) := by
  rw [decode, decodeV, h]
  rfl
theorem majorV0C {w : Nat} (h : opc w = 0x0C) : decode .V w =
    some (Instr.vaddsB32 (fld 1 w 24) (fld 6 w 18) (fld 6 w 12) (fld 6 w 6) (fld 5 w 1) (fld 1 w 0)) := by
  rw [decode, decodeV, h]
  rfl
theorem majorV0D {w : Nat} (h : opc w = 0x0D) : decode .V w =
    some (Instr.vsubsB32 (fld 1 w 24) (fld 6 w 18) (fld 6 w 12) (fld 6 w 6) (fld 5 w 1) (fld 1 w 0)) := by
  rw [decode, decodeV, h]
  rfl
theorem majorV0E {w : Nat} (h : opc w = 0x0E) : decode .V w =
    some (Instr.vandB32 (fld 1 w 24) (fld 6 w 18) (fld 6 w 12) (fld 6 w 6) (fld 5 w 1) (fld 1 w 0)) := by
  rw [decode, decodeV, h]
  rfl
theorem majorV0F {w : Nat} (h : opc w = 0x0F) : decode .V w =
    some (Instr.vorB32 (fld 1 w 24) (fld 6 w 18) (fld 6 w 12) (fld 6 w 6) (fld 5 w 1) (fld 1 w 0)) := by
  rw [decode, decodeV, h]
  rfl
theorem majorV10 {w : Nat} (h : opc w = 0x10) : decode .V w =
    some (Instr.vxorB32 (fld 1 w 24) (fld 6 w 18) (fld 6 w 12) (fld 6 w 6) (fld 5 w 1) (fld 1 w 0)) := by
  rw [decode, decodeV, h]
  rfl
theorem majorV11 {w : Nat} (h : opc w = 0x11) : decode .V w =
    some (Instr.vandnB32 (fld 1 w 24) (fld 6 w 18) (fld 6 w 12) (fld 6 w 6) (fld 5 w 1) (fld 1 w 0)) := by
  rw [decode, decodeV, h]
  rfl
theorem majorV12 {w : Nat} (h : opc w = 0x12) : decode .V w =
    some (Instr.vsllB32 (fld 1 w 24) (fld 6 w 18) (fld 6 w 12) (fld 6 w 6) (fld 5 w 1) (fld 1 w 0)) := by
  rw [decode, decodeV, h]
  rfl
theorem majorV13 {w : Nat} (h : opc w = 0x13) : decode .V w =
    some (Instr.vsrlB32 (fld 1 w 24) (fld 6 w 18) (fld 6 w 12) (fld 6 w 6) (fld 5 w 1) (fld 1 w 0)) := by
  rw [decode, decodeV, h]
  rfl
theorem majorV14 {w : Nat} (h : opc w = 0x14) : decode .V w =
    some (Instr.vsraS32 (fld 1 w 24) (fld 6 w 18) (fld 6 w 12) (fld 6 w 6) (fld 5 w 1) (fld 1 w 0)) := by
  rw [decode, decodeV, h]
  rfl
theorem majorV18 {w : Nat} (h : opc w = 0x18) : decode .V w =
    some (Instr.vaddS16 (fld 1 w 24) (fld 6 w 18) (fld 6 w 12) (fld 6 w 6) (fld 5 w 1) (fld 1 w 0)) := by
  rw [decode, decodeV, h]
  rfl
theorem majorV19 {w : Nat} (h : opc w = 0x19) : decode .V w =
    some (Instr.vsubS16 (fld 1 w 24) (fld 6 w 18) (fld 6 w 12) (fld 6 w 6) (fld 5 w 1) (fld 1 w 0)) := by
  rw [decode, decodeV, h]
  rfl
theorem majorV1A {w : Nat} (h : opc w = 0x1A) : decode .V w =
    some (Instr.vaddsS16 (fld 1 w 24) (fld 6 w 18) (fld 6 w 12) (fld 6 w 6) (fld 5 w 1) (fld 1 w 0)) := by
  rw [decode, decodeV, h]
  rfl
theorem majorV1B {w : Nat} (h : opc w = 0x1B) : decode .V w =
    some (Instr.vsubsS16 (fld 1 w 24) (fld 6 w 18) (fld 6 w 12) (fld 6 w 6) (fld 5 w 1) (fld 1 w 0)) := by
  rw [decode, decodeV, h]
  rfl
theorem majorV1C {w : Nat} (h : opc w = 0x1C) : decode .V w =
    some (Instr.vaddsB16 (fld 1 w 24) (fld 6 w 18) (fld 6 w 12) (fld 6 w 6) (fld 5 w 1) (fld 1 w 0)) := by
  rw [decode, decodeV, h]
  rfl
theorem majorV1D {w : Nat} (h : opc w = 0x1D) : decode .V w =
    some (Instr.vsubsB16 (fld 1 w 24) (fld 6 w 18) (fld 6 w 12) (fld 6 w 6) (fld 5 w 1) (fld 1 w 0)) := by
  rw [decode, decodeV, h]
  rfl
theorem majorV1E {w : Nat} (h : opc w = 0x1E) : decode .V w =
    some (Instr.vmulS16 (fld 1 w 24) (fld 6 w 18) (fld 6 w 12) (fld 6 w 6) (fld 5 w 1) (fld 1 w 0)) := by
  rw [decode, decodeV, h]
  rfl
theorem majorV20 {w : Nat} (h : opc w = 0x20) : decode .V w =
    some (Instr.vaddS8 (fld 1 w 24) (fld 6 w 18) (fld 6 w 12) (fld 6 w 6) (fld 5 w 1) (fld 1 w 0)) := by
  rw [decode, decodeV, h]
  rfl
theorem majorV21 {w : Nat} (h : opc w = 0x21) : decode .V w =
    some (Instr.vsubS8 (fld 1 w 24) (fld 6 w 18) (fld 6 w 12) (fld 6 w 6) (fld 5 w 1) (fld 1 w 0)) := by
  rw [decode, decodeV, h]
  rfl
theorem majorV22 {w : Nat} (h : opc w = 0x22) : decode .V w =
    some (Instr.vaddsS8 (fld 1 w 24) (fld 6 w 18) (fld 6 w 12) (fld 6 w 6) (fld 5 w 1) (fld 1 w 0)) := by
  rw [decode, decodeV, h]
  rfl
theorem majorV23 {w : Nat} (h : opc w = 0x23) : decode .V w =
    some (Instr.vsubsS8 (fld 1 w 24) (fld 6 w 18) (fld 6 w 12) (fld 6 w 6) (fld 5 w 1) (fld 1 w 0)) := by
  rw [decode, decodeV, h]
  rfl
theorem majorV24 {w : Nat} (h : opc w = 0x24) : decode .V w =
    some (Instr.vaddsB8 (fld 1 w 24) (fld 6 w 18) (fld 6 w 12) (fld 6 w 6) (fld 5 w 1) (fld 1 w 0)) := by
  rw [decode, decodeV, h]
  rfl
theorem majorV25 {w : Nat} (h : opc w = 0x25) : decode .V w =
    some (Instr.vsubsB8 (fld 1 w 24) (fld 6 w 18) (fld 6 w 12) (fld 6 w 6) (fld 5 w 1) (fld 1 w 0)) := by
  rw [decode, decodeV, h]
  rfl
theorem majorV28 {w : Nat} (h : opc w = 0x28) : decode .V w =
    some (Instr.vfaddF32 (fld 1 w 24) (fld 6 w 18) (fld 6 w 12) (fld 6 w 6) (fld 5 w 1) (fld 1 w 0)) := by
  rw [decode, decodeV, h]
  rfl
theorem majorV29 {w : Nat} (h : opc w = 0x29) : decode .V w =
    some (Instr.vfsubF32 (fld 1 w 24) (fld 6 w 18) (fld 6 w 12) (fld 6 w 6) (fld 5 w 1) (fld 1 w 0)) := by
  rw [decode, decodeV, h]
  rfl
theorem majorV2A {w : Nat} (h : opc w = 0x2A) : decode .V w =
    some (Instr.vfmulF32 (fld 1 w 24) (fld 6 w 18) (fld 6 w 12) (fld 6 w 6) (fld 5 w 1) (fld 1 w 0)) := by
  rw [decode, decodeV, h]
  rfl
theorem majorV2B {w : Nat} (h : opc w = 0x2B) : decode .V w =
    some (Instr.vfminF32 (fld 1 w 24) (fld 6 w 18) (fld 6 w 12) (fld 6 w 6) (fld 5 w 1) (fld 1 w 0)) := by
  rw [decode, decodeV, h]
  rfl
theorem majorV2C {w : Nat} (h : opc w = 0x2C) : decode .V w =
    some (Instr.vfmaxF32 (fld 1 w 24) (fld 6 w 18) (fld 6 w 12) (fld 6 w 6) (fld 5 w 1) (fld 1 w 0)) := by
  rw [decode, decodeV, h]
  rfl
theorem majorV2D {w : Nat} (h : opc w = 0x2D) : decode .V w =
    some (Instr.vfmaF32 (fld 1 w 24) (fld 6 w 18) (fld 6 w 12) (fld 6 w 6) (fld 5 w 1) (fld 1 w 0)) := by
  rw [decode, decodeV, h]
  rfl
theorem majorV30 {w : Nat} (h : opc w = 0x30) : decode .V w =
    some (Instr.vfaddBf16 (fld 1 w 24) (fld 6 w 18) (fld 6 w 12) (fld 6 w 6) (fld 5 w 1) (fld 1 w 0)) := by
  rw [decode, decodeV, h]
  rfl
theorem majorV31 {w : Nat} (h : opc w = 0x31) : decode .V w =
    some (Instr.vfsubBf16 (fld 1 w 24) (fld 6 w 18) (fld 6 w 12) (fld 6 w 6) (fld 5 w 1) (fld 1 w 0)) := by
  rw [decode, decodeV, h]
  rfl
theorem majorV32 {w : Nat} (h : opc w = 0x32) : decode .V w =
    some (Instr.vfmulBf16 (fld 1 w 24) (fld 6 w 18) (fld 6 w 12) (fld 6 w 6) (fld 5 w 1) (fld 1 w 0)) := by
  rw [decode, decodeV, h]
  rfl
theorem majorV33 {w : Nat} (h : opc w = 0x33) : decode .V w =
    some (Instr.vfminBf16 (fld 1 w 24) (fld 6 w 18) (fld 6 w 12) (fld 6 w 6) (fld 5 w 1) (fld 1 w 0)) := by
  rw [decode, decodeV, h]
  rfl
theorem majorV34 {w : Nat} (h : opc w = 0x34) : decode .V w =
    some (Instr.vfmaxBf16 (fld 1 w 24) (fld 6 w 18) (fld 6 w 12) (fld 6 w 6) (fld 5 w 1) (fld 1 w 0)) := by
  rw [decode, decodeV, h]
  rfl
theorem majorV35 {w : Nat} (h : opc w = 0x35) : decode .V w =
    some (Instr.vfmaBf16 (fld 1 w 24) (fld 6 w 18) (fld 6 w 12) (fld 6 w 6) (fld 5 w 1) (fld 1 w 0)) := by
  rw [decode, decodeV, h]
  rfl
theorem majorV38 {w : Nat} (h : opc w = 0x38) : decode .V w =
    if fix w 11 6 = 0 then some (Instr.vexp2F32 (fld 1 w 24) (fld 6 w 18) (fld 6 w 12) (fld 5 w 1) (fld 1 w 0)) else none := by
  rw [decode, decodeV, h]
  rfl
theorem majorV39 {w : Nat} (h : opc w = 0x39) : decode .V w =
    if fix w 11 6 = 0 then some (Instr.vlog2F32 (fld 1 w 24) (fld 6 w 18) (fld 6 w 12) (fld 5 w 1) (fld 1 w 0)) else none := by
  rw [decode, decodeV, h]
  rfl
theorem majorV3A {w : Nat} (h : opc w = 0x3A) : decode .V w =
    if fix w 11 6 = 0 then some (Instr.vrcpF32 (fld 1 w 24) (fld 6 w 18) (fld 6 w 12) (fld 5 w 1) (fld 1 w 0)) else none := by
  rw [decode, decodeV, h]
  rfl
theorem majorV3B {w : Nat} (h : opc w = 0x3B) : decode .V w =
    if fix w 11 6 = 0 then some (Instr.vrsqrtF32 (fld 1 w 24) (fld 6 w 18) (fld 6 w 12) (fld 5 w 1) (fld 1 w 0)) else none := by
  rw [decode, decodeV, h]
  rfl
theorem majorV3C {w : Nat} (h : opc w = 0x3C) : decode .V w =
    some (Instr.vcmpS32 (fld 4 w 21) (fld 3 w 18) (fld 6 w 12) (fld 6 w 6) (fld 5 w 1) (fld 1 w 0)) := by
  rw [decode, decodeV, h]
  rfl
theorem majorV3D {w : Nat} (h : opc w = 0x3D) : decode .V w =
    some (Instr.vcmpB32 (fld 4 w 21) (fld 3 w 18) (fld 6 w 12) (fld 6 w 6) (fld 5 w 1) (fld 1 w 0)) := by
  rw [decode, decodeV, h]
  rfl
theorem majorV3E {w : Nat} (h : opc w = 0x3E) : decode .V w =
    some (Instr.vcmpF32 (fld 4 w 21) (fld 3 w 18) (fld 6 w 12) (fld 6 w 6) (fld 5 w 1) (fld 1 w 0)) := by
  rw [decode, decodeV, h]
  rfl
theorem majorV3F {w : Nat} (h : opc w = 0x3F) : decode .V w =
    some (Instr.vcmpBf16 (fld 4 w 21) (fld 3 w 18) (fld 6 w 12) (fld 6 w 6) (fld 5 w 1) (fld 1 w 0)) := by
  rw [decode, decodeV, h]
  rfl
theorem majorV40 {w : Nat} (h : opc w = 0x40) : decode .V w =
    some (Instr.vcvt (fld 2 w 25) (fld 1 w 24) (fld 6 w 18) (fld 6 w 12) (fld 4 w 8) (fld 4 w 4) (fld 3 w 1) (fld 1 w 0)) := by
  rw [decode, decodeV, h]
  rfl
theorem majorV41 {w : Nat} (h : opc w = 0x41) : decode .V w =
    some (Instr.vcvt (fld 2 w 25) (fld 1 w 24) (fld 6 w 18) (fld 6 w 12) (fld 4 w 8) (fld 4 w 4) (fld 3 w 1) (fld 1 w 0)) := by
  rw [decode, decodeV, h]
  rfl
theorem majorV42 {w : Nat} (h : opc w = 0x42) : decode .V w =
    some (Instr.vcvt (fld 2 w 25) (fld 1 w 24) (fld 6 w 18) (fld 6 w 12) (fld 4 w 8) (fld 4 w 4) (fld 3 w 1) (fld 1 w 0)) := by
  rw [decode, decodeV, h]
  rfl
theorem majorV43 {w : Nat} (h : opc w = 0x43) : decode .V w =
    some (Instr.vcvt (fld 2 w 25) (fld 1 w 24) (fld 6 w 18) (fld 6 w 12) (fld 4 w 8) (fld 4 w 4) (fld 3 w 1) (fld 1 w 0)) := by
  rw [decode, decodeV, h]
  rfl
theorem majorV44 {w : Nat} (h : opc w = 0x44) : decode .V w =
    if fix w 0 0 = 0 then some (Instr.vmxpk (fld 1 w 24) (fld 6 w 18) (fld 6 w 12) (fld 4 w 8) (fld 4 w 4) (fld 3 w 1)) else none := by
  rw [decode, decodeV, h]
  rfl
theorem majorV48 {w : Nat} (h : opc w = 0x48) : decode .V w =
    decodeV48 w := by
  rw [decode, decodeV, h]
  rfl
theorem majorV4C {w : Nat} (h : opc w = 0x4C) : decode .V w =
    some (Instr.vpermB32 (fld 1 w 24) (fld 6 w 18) (fld 6 w 12) (fld 6 w 6) (fld 5 w 1) (fld 1 w 0)) := by
  rw [decode, decodeV, h]
  rfl
theorem majorV4D {w : Nat} (h : opc w = 0x4D) : decode .V w =
    some (Instr.vpermB8 (fld 1 w 24) (fld 6 w 18) (fld 6 w 12) (fld 6 w 6) (fld 5 w 1) (fld 1 w 0)) := by
  rw [decode, decodeV, h]
  rfl
theorem majorV4E {w : Nat} (h : opc w = 0x4E) : decode .V w =
    if fix w 11 6 = 0 then some (Instr.vrotB32 (fld 1 w 24) (fld 6 w 18) (fld 6 w 12) (fld 6 w 0)) else none := by
  rw [decode, decodeV, h]
  rfl
theorem majorV4F {w : Nat} (h : opc w = 0x4F) : decode .V w =
    if fix w 0 0 = 0 then some (Instr.vselB32 (fld 1 w 24) (fld 6 w 18) (fld 6 w 12) (fld 6 w 6) (fld 5 w 1)) else none := by
  rw [decode, decodeV, h]
  rfl
theorem majorV50 {w : Nat} (h : opc w = 0x50) : decode .V w =
    if fix w 17 12 = 0 then some (Instr.vmovi (fld 1 w 24) (fld 6 w 18) (fld 12 w 0)) else none := by
  rw [decode, decodeV, h]
  rfl
theorem majorV52 {w : Nat} (h : opc w = 0x52) : decode .V w =
    decodeV52 w := by
  rw [decode, decodeV, h]
  rfl
theorem majorV53 {w : Nat} (h : opc w = 0x53) : decode .V w =
    if fix w 16 0 = 0 then some (Instr.vflag (fld 2 w 23) (fld 3 w 20) (fld 2 w 18) (fld 1 w 17)) else none := by
  rw [decode, decodeV, h]
  rfl
theorem majorV58 {w : Nat} (h : opc w = 0x58) : decode .V w =
    if fix w 17 17 = 0 then some (Instr.vld (fld 1 w 24) (fld 6 w 18) (fld 5 w 12) (fld 12 w 0)) else none := by
  rw [decode, decodeV, h]
  rfl
theorem majorV59 {w : Nat} (h : opc w = 0x59) : decode .V w =
    if fix w 17 17 = 0 ∧ fix w 24 24 = 0 then some (Instr.vst (fld 6 w 18) (fld 5 w 12) (fld 12 w 0)) else none := by
  rw [decode, decodeV, h]
  rfl
theorem majorV5A {w : Nat} (h : opc w = 0x5A) : decode .V w =
    if fix w 4 1 = 0 then some (Instr.vlds (fld 1 w 24) (fld 6 w 18) (fld 5 w 13) (fld 5 w 8) (fld 2 w 6) (fld 1 w 5) (fld 1 w 0)) else none := by
  rw [decode, decodeV, h]
  rfl
theorem majorV5B {w : Nat} (h : opc w = 0x5B) : decode .V w =
    if fix w 4 1 = 0 ∧ fix w 24 24 = 0 then some (Instr.vsts (fld 6 w 18) (fld 5 w 13) (fld 5 w 8) (fld 2 w 6) (fld 1 w 5) (fld 1 w 0)) else none := by
  rw [decode, decodeV, h]
  rfl
theorem majorV5C {w : Nat} (h : opc w = 0x5C) : decode .V w =
    if fix w 2 1 = 0 ∧ fix w 12 12 = 0 then some (Instr.vldx (fld 1 w 24) (fld 6 w 18) (fld 5 w 13) (fld 6 w 6) (fld 2 w 4) (fld 1 w 3) (fld 1 w 0)) else none := by
  rw [decode, decodeV, h]
  rfl
theorem majorV5D {w : Nat} (h : opc w = 0x5D) : decode .V w =
    if fix w 2 1 = 0 ∧ fix w 12 12 = 0 ∧ fix w 24 24 = 0 then some (Instr.vstx (fld 6 w 18) (fld 5 w 13) (fld 6 w 6) (fld 2 w 4) (fld 1 w 3) (fld 1 w 0)) else none := by
  rw [decode, decodeV, h]
  rfl
theorem majorV5E {w : Nat} (h : opc w = 0x5E) : decode .V w =
    if fix w 17 17 = 0 then some (Instr.vgld (fld 1 w 24) (fld 6 w 18) (fld 5 w 12) (fld 12 w 0)) else none := by
  rw [decode, decodeV, h]
  rfl
theorem majorV5F {w : Nat} (h : opc w = 0x5F) : decode .V w =
    if fix w 17 17 = 0 ∧ fix w 24 24 = 0 then some (Instr.vgst (fld 6 w 18) (fld 5 w 12) (fld 12 w 0)) else none := by
  rw [decode, decodeV, h]
  rfl
theorem majorV60 {w : Nat} (h : opc w = 0x60) : decode .V w =
    if fix w 7 0 = 0 ∧ fix w 17 12 = 0 ∧ fix w 24 24 = 0 then some (Instr.vsend (fld 6 w 18) (fld 4 w 8)) else none := by
  rw [decode, decodeV, h]
  rfl
theorem majorV61 {w : Nat} (h : opc w = 0x61) : decode .V w =
    if fix w 17 0 = 0 then some (Instr.vrecv (fld 1 w 24) (fld 6 w 18)) else none := by
  rw [decode, decodeV, h]
  rfl
theorem majorV62 {w : Nat} (h : opc w = 0x62) : decode .V w =
    decodeV62 w := by
  rw [decode, decodeV, h]
  rfl
theorem majorV64 {w : Nat} (h : opc w = 0x64) : decode .V w =
    some (Instr.vamul (fld 1 w 24) (fld 6 w 18) (fld 6 w 12) (fld 6 w 6) (fld 1 w 5) (fld 1 w 4) (fld 2 w 2) (fld 2 w 0)) := by
  rw [decode, decodeV, h]
  rfl
theorem majorV65 {w : Nat} (h : opc w = 0x65) : decode .V w =
    if fix w 1 0 = 0 ∧ fix w 4 4 = 0 ∧ fix w 11 6 = 0 then some (Instr.vconj (fld 1 w 24) (fld 6 w 18) (fld 6 w 12) (fld 1 w 5) (fld 2 w 2)) else none := by
  rw [decode, decodeV, h]
  rfl
theorem majorV66 {w : Nat} (h : opc w = 0x66) : decode .V w =
    if fix w 4 0 = 0 ∧ fix w 11 6 = 0 then some (Instr.vnorm (fld 1 w 24) (fld 6 w 18) (fld 6 w 12) (fld 1 w 5)) else none := by
  rw [decode, decodeV, h]
  rfl
theorem majorV68 {w : Nat} (h : opc w = 0x68) : decode .V w =
    if fix w 6 0 = 0 ∧ fix w 22 18 = 0 then some (Instr.vaw (fld 2 w 23) (fld 6 w 12) (fld 5 w 7)) else none := by
  rw [decode, decodeV, h]
  rfl
theorem majorV69 {w : Nat} (h : opc w = 0x69) : decode .V w =
    if fix w 5 5 = 0 then some (Instr.vsrnd (fld 1 w 24) (fld 6 w 18) (fld 6 w 12) (fld 4 w 8) (fld 2 w 6) (fld 5 w 0)) else none := by
  rw [decode, decodeV, h]
  rfl
theorem majorV6A {w : Nat} (h : opc w = 0x6A) : decode .V w =
    if fix w 11 0 = 0 ∧ fix w 24 18 = 0 then some (Instr.chadd (fld 6 w 12)) else none := by
  rw [decode, decodeV, h]
  rfl
theorem majorV70 {w : Nat} (h : opc w = 0x70) : decode .V w =
    if fix w 10 0 = 0 ∧ fix w 24 24 = 0 then some (Instr.vtcfg (fld 3 w 21) (fld 4 w 17) (fld 4 w 13) (fld 2 w 11)) else none := by
  rw [decode, decodeV, h]
  rfl
theorem majorV71 {w : Nat} (h : opc w = 0x71) : decode .V w =
    if fix w 20 0 = 0 ∧ fix w 24 24 = 0 then some (Instr.vtrel (fld 3 w 21)) else none := by
  rw [decode, decodeV, h]
  rfl
theorem majorV72 {w : Nat} (h : opc w = 0x72) : decode .V w =
    if fix w 8 0 = 0 ∧ fix w 24 24 = 0 then some (Instr.vtrow (fld 6 w 18) (fld 3 w 15) (fld 4 w 11) (fld 2 w 9)) else none := by
  rw [decode, decodeV, h]
  rfl
theorem majorV73 {w : Nat} (h : opc w = 0x73) : decode .V w =
    if fix w 8 0 = 0 then some (Instr.vtrowr (fld 1 w 24) (fld 6 w 18) (fld 3 w 15) (fld 4 w 11) (fld 2 w 9)) else none := by
  rw [decode, decodeV, h]
  rfl
theorem majorV74 {w : Nat} (h : opc w = 0x74) : decode .V w =
    if fix w 8 0 = 0 then some (Instr.vtcol (fld 1 w 24) (fld 6 w 18) (fld 3 w 15) (fld 4 w 11) (fld 2 w 9)) else none := by
  rw [decode, decodeV, h]
  rfl
theorem majorV75 {w : Nat} (h : opc w = 0x75) : decode .V w =
    if fix w 8 0 = 0 ∧ fix w 24 24 = 0 then some (Instr.vtcolw (fld 6 w 18) (fld 3 w 15) (fld 4 w 11) (fld 2 w 9)) else none := by
  rw [decode, decodeV, h]
  rfl
theorem majorV76 {w : Nat} (h : opc w = 0x76) : decode .V w =
    if fix w 15 5 = 0 ∧ fix w 24 24 = 0 then some (Instr.vtsave (fld 8 w 16) (fld 5 w 0)) else none := by
  rw [decode, decodeV, h]
  rfl
theorem majorV77 {w : Nat} (h : opc w = 0x77) : decode .V w =
    if fix w 15 5 = 0 ∧ fix w 24 24 = 0 then some (Instr.vtload (fld 8 w 16) (fld 5 w 0)) else none := by
  rw [decode, decodeV, h]
  rfl
theorem majorV7F {w : Nat} (h : opc w = 0x7F) : decode .V w = decodeShared w := by
  rw [decode, decodeV, h]
  rfl
theorem majorM01 {w : Nat} (h : opc w = 0x01) : decode .M w =
    decodeM01 w := by
  rw [decode, decodeM, h]
  rfl
theorem majorM02 {w : Nat} (h : opc w = 0x02) : decode .M w =
    some (Instr.maddi (fld 4 w 21) (fld 4 w 17) (fld 17 w 0)) := by
  rw [decode, decodeM, h]
  rfl
theorem majorM03 {w : Nat} (h : opc w = 0x03) : decode .M w =
    if fix w 18 16 = 0 then some (Instr.mmovk (fld 4 w 21) (fld 2 w 19) (fld 16 w 0)) else none := by
  rw [decode, decodeM, h]
  rfl
theorem majorM04 {w : Nat} (h : opc w = 0x04) : decode .M w =
    if fix w 15 0 = 0 then some (Instr.mmovx (fld 4 w 21) (fld 5 w 16)) else none := by
  rw [decode, decodeM, h]
  rfl
theorem majorM05 {w : Nat} (h : opc w = 0x05) : decode .M w =
    if fix w 20 17 = 0 then some (Instr.mmovi (fld 4 w 21) (fld 17 w 0)) else none := by
  rw [decode, decodeM, h]
  rfl
theorem majorM08 {w : Nat} (h : opc w = 0x08) : decode .M w =
    some (Instr.mbeq (fld 4 w 21) (fld 4 w 17) (fld 17 w 0)) := by
  rw [decode, decodeM, h]
  rfl
theorem majorM09 {w : Nat} (h : opc w = 0x09) : decode .M w =
    some (Instr.mbne (fld 4 w 21) (fld 4 w 17) (fld 17 w 0)) := by
  rw [decode, decodeM, h]
  rfl
theorem majorM0A {w : Nat} (h : opc w = 0x0A) : decode .M w =
    some (Instr.mbltu (fld 4 w 21) (fld 4 w 17) (fld 17 w 0)) := by
  rw [decode, decodeM, h]
  rfl
theorem majorM10 {w : Nat} (h : opc w = 0x10) : decode .M w =
    decodeM10 w := by
  rw [decode, decodeM, h]
  rfl
theorem majorM11 {w : Nat} (h : opc w = 0x11) : decode .M w =
    decodeM11 w := by
  rw [decode, decodeM, h]
  rfl
theorem majorM12 {w : Nat} (h : opc w = 0x12) : decode .M w =
    if fix w 18 0 = 0 then some (Instr.mzero (fld 3 w 22) (fld 3 w 19)) else none := by
  rw [decode, decodeM, h]
  rfl
theorem majorM13 {w : Nat} (h : opc w = 0x13) : decode .M w =
    if fix w 24 0 = 0 then some (Instr.mswap) else none := by
  rw [decode, decodeM, h]
  rfl
theorem majorM7F {w : Nat} (h : opc w = 0x7F) : decode .M w = decodeShared w := by
  rw [decode, decodeM, h]
  rfl
theorem majorC01 {w : Nat} (h : opc w = 0x01) : decode .C w =
    decodeC01 w := by
  rw [decode, decodeC, h]
  rfl
theorem majorC02 {w : Nat} (h : opc w = 0x02) : decode .C w =
    some (Instr.caddi (fld 4 w 21) (fld 4 w 17) (fld 17 w 0)) := by
  rw [decode, decodeC, h]
  rfl
theorem majorC03 {w : Nat} (h : opc w = 0x03) : decode .C w =
    if fix w 18 16 = 0 then some (Instr.cmovk (fld 4 w 21) (fld 2 w 19) (fld 16 w 0)) else none := by
  rw [decode, decodeC, h]
  rfl
theorem majorC04 {w : Nat} (h : opc w = 0x04) : decode .C w =
    if fix w 15 0 = 0 then some (Instr.cmovx (fld 4 w 21) (fld 5 w 16)) else none := by
  rw [decode, decodeC, h]
  rfl
theorem majorC05 {w : Nat} (h : opc w = 0x05) : decode .C w =
    if fix w 20 17 = 0 then some (Instr.cmovi (fld 4 w 21) (fld 17 w 0)) else none := by
  rw [decode, decodeC, h]
  rfl
theorem majorC08 {w : Nat} (h : opc w = 0x08) : decode .C w =
    some (Instr.cbeq (fld 4 w 21) (fld 4 w 17) (fld 17 w 0)) := by
  rw [decode, decodeC, h]
  rfl
theorem majorC09 {w : Nat} (h : opc w = 0x09) : decode .C w =
    some (Instr.cbne (fld 4 w 21) (fld 4 w 17) (fld 17 w 0)) := by
  rw [decode, decodeC, h]
  rfl
theorem majorC0A {w : Nat} (h : opc w = 0x0A) : decode .C w =
    some (Instr.cbltu (fld 4 w 21) (fld 4 w 17) (fld 17 w 0)) := by
  rw [decode, decodeC, h]
  rfl
theorem majorC10 {w : Nat} (h : opc w = 0x10) : decode .C w =
    if fix w 1 0 = 0 then some (Instr.cpy (fld 2 w 23) (fld 4 w 19) (fld 4 w 15) (fld 4 w 11) (fld 4 w 7) (fld 1 w 6) (fld 1 w 5) (fld 3 w 2)) else none := by
  rw [decode, decodeC, h]
  rfl
theorem majorC11 {w : Nat} (h : opc w = 0x11) : decode .C w =
    if fix w 9 0 = 0 then some (Instr.ctens (fld 2 w 23) (fld 4 w 19) (fld 4 w 15) (fld 1 w 14) (fld 1 w 13) (fld 3 w 10)) else none := by
  rw [decode, decodeC, h]
  rfl
theorem majorC12 {w : Nat} (h : opc w = 0x12) : decode .C w =
    some (Instr.cgath (fld 2 w 23) (fld 4 w 19) (fld 4 w 15) (fld 4 w 11) (fld 4 w 7) (fld 4 w 3) (fld 1 w 2) (fld 2 w 0)) := by
  rw [decode, decodeC, h]
  rfl
theorem majorC13 {w : Nat} (h : opc w = 0x13) : decode .C w =
    some (Instr.cscat (fld 2 w 23) (fld 4 w 19) (fld 4 w 15) (fld 4 w 11) (fld 4 w 7) (fld 4 w 3) (fld 1 w 2) (fld 2 w 0)) := by
  rw [decode, decodeC, h]
  rfl
theorem majorC14 {w : Nat} (h : opc w = 0x14) : decode .C w =
    if fix w 6 0 = 0 then some (Instr.cscl (fld 2 w 23) (fld 6 w 17) (fld 9 w 8) (fld 1 w 7)) else none := by
  rw [decode, decodeC, h]
  rfl
theorem majorC15 {w : Nat} (h : opc w = 0x15) : decode .C w =
    if fix w 7 0 = 0 then some (Instr.cldlct (fld 2 w 23) (fld 6 w 17) (fld 9 w 8)) else none := by
  rw [decode, decodeC, h]
  rfl
theorem majorC16 {w : Nat} (h : opc w = 0x16) : decode .C w =
    if fix w 7 0 = 0 then some (Instr.cldalg (fld 2 w 23) (fld 6 w 17) (fld 9 w 8)) else none := by
  rw [decode, decodeC, h]
  rfl
theorem majorC17 {w : Nat} (h : opc w = 0x17) : decode .C w =
    if fix w 8 0 = 0 then some (Instr.caw (fld 2 w 23) (fld 4 w 19) (fld 4 w 15) (fld 4 w 11) (fld 2 w 9)) else none := by
  rw [decode, decodeC, h]
  rfl
theorem majorC18 {w : Nat} (h : opc w = 0x18) : decode .C w =
    if fix w 1 0 = 0 then some (Instr.cver (fld 2 w 23) (fld 4 w 19) (fld 4 w 15) (fld 4 w 11) (fld 4 w 7) (fld 4 w 3) (fld 1 w 2)) else none := by
  rw [decode, decodeC, h]
  rfl
theorem majorC19 {w : Nat} (h : opc w = 0x19) : decode .C w =
    decodeC19 w := by
  rw [decode, decodeC, h]
  rfl
theorem majorC1A {w : Nat} (h : opc w = 0x1A) : decode .C w =
    if fix w 22 16 = 0 then some (Instr.cwb (fld 2 w 23) (fld 16 w 0)) else none := by
  rw [decode, decodeC, h]
  rfl
theorem majorC1B {w : Nat} (h : opc w = 0x1B) : decode .C w =
    if fix w 2 0 = 0 then some (Instr.cput (fld 2 w 23) (fld 3 w 20) (fld 4 w 16) (fld 4 w 12) (fld 4 w 8) (fld 4 w 4) (fld 1 w 3)) else none := by
  rw [decode, decodeC, h]
  rfl
theorem majorC1C {w : Nat} (h : opc w = 0x1C) : decode .C w =
    if fix w 2 0 = 0 then some (Instr.cget (fld 2 w 23) (fld 3 w 20) (fld 4 w 16) (fld 4 w 12) (fld 4 w 8) (fld 4 w 4) (fld 1 w 3)) else none := by
  rw [decode, decodeC, h]
  rfl
theorem majorC1D {w : Nat} (h : opc w = 0x1D) : decode .C w =
    if fix w 5 0 = 0 then some (Instr.cbcast (fld 2 w 23) (fld 4 w 19) (fld 4 w 15) (fld 4 w 11) (fld 4 w 7) (fld 1 w 6)) else none := by
  rw [decode, decodeC, h]
  rfl
theorem majorC1E {w : Nat} (h : opc w = 0x1E) : decode .C w =
    some (Instr.csendT (fld 2 w 23) (fld 3 w 20) (fld 4 w 16) (fld 4 w 12) (fld 4 w 8) (fld 4 w 4) (fld 4 w 0)) := by
  rw [decode, decodeC, h]
  rfl
theorem majorC1F {w : Nat} (h : opc w = 0x1F) : decode .C w =
    if fix w 18 0 = 0 then some (Instr.tready (fld 2 w 23) (fld 4 w 19)) else none := by
  rw [decode, decodeC, h]
  rfl
theorem majorC20 {w : Nat} (h : opc w = 0x20) : decode .C w =
    if fix w 14 0 = 0 then some (Instr.cbbarm (fld 2 w 23) (fld 4 w 19) (fld 4 w 15)) else none := by
  rw [decode, decodeC, h]
  rfl
theorem majorC21 {w : Nat} (h : opc w = 0x21) : decode .C w =
    if fix w 14 0 = 0 then some (Instr.cbbadd (fld 2 w 23) (fld 4 w 19) (fld 4 w 15)) else none := by
  rw [decode, decodeC, h]
  rfl
theorem majorC22 {w : Nat} (h : opc w = 0x22) : decode .C w =
    if fix w 13 0 = 0 ∧ fix w 18 15 = 0 then some (Instr.cbbwait (fld 2 w 23) (fld 4 w 19) (fld 1 w 14)) else none := by
  rw [decode, decodeC, h]
  rfl
theorem majorC23 {w : Nat} (h : opc w = 0x23) : decode .C w =
    if fix w 24 0 = 0 then some (Instr.rcfence) else none := by
  rw [decode, decodeC, h]
  rfl
theorem majorC24 {w : Nat} (h : opc w = 0x24) : decode .C w =
    if fix w 5 0 = 0 then some (Instr.cpya (fld 2 w 23) (fld 4 w 19) (fld 4 w 15) (fld 4 w 11) (fld 4 w 7) (fld 1 w 6)) else none := by
  rw [decode, decodeC, h]
  rfl
theorem majorC7F {w : Nat} (h : opc w = 0x7F) : decode .C w = decodeShared w := by
  rw [decode, decodeC, h]
  rfl
theorem shared {w : Nat} (q : SeqId) (g : opc w = 0x7F) : decode q w = decodeShared w := by
  cases q
  · exact majorS7F g
  · exact majorV7F g
  · exact majorM7F g
  · exact majorC7F g
theorem layout0 {m v0 v1 : Nat} (hm : m = v0 * 2 ^ 25 + v1 * 2 ^ 0) (_ : v0 < 128) (_ : v1 < 64) (f0 : BitVec 1) (f1 : BitVec 6) (f2 : BitVec 6) (f3 : BitVec 6) :
    (wd m [sh f0 24, sh f1 18, sh f2 12, sh f3 6]) < 2 ^ 32 ∧ fld 1 (wd m [sh f0 24, sh f1 18, sh f2 12, sh f3 6]) 24 = f0 ∧ fld 6 (wd m [sh f0 24, sh f1 18, sh f2 12, sh f3 6]) 18 = f1 ∧ fld 6 (wd m [sh f0 24, sh f1 18, sh f2 12, sh f3 6]) 12 = f2 ∧ fld 6 (wd m [sh f0 24, sh f1 18, sh f2 12, sh f3 6]) 6 = f3 ∧ opc (wd m [sh f0 24, sh f1 18, sh f2 12, sh f3 6]) = v0 ∧ fix (wd m [sh f0 24, sh f1 18, sh f2 12, sh f3 6]) 5 0 = v1 := by
  have := f0.isLt
  have := f1.isLt
  have := f2.isLt
  have := f3.isLt
  generalize hw : wd _ _ = w
  simp only [wd, sh] at hw
  refine ⟨by omega, fld_eq (by omega), fld_eq (by omega), fld_eq (by omega), fld_eq (by omega), by simp only [opc, fix]; omega, by simp only [fix]; omega⟩
theorem layout1 {m v0 : Nat} (hm : m = v0 * 2 ^ 25) (_ : v0 < 128) (f0 : BitVec 1) (f1 : BitVec 6) (f2 : BitVec 6) (f3 : BitVec 12) :
    (wd m [sh f0 24, sh f1 18, sh f2 12, sh f3 0]) < 2 ^ 32 ∧ fld 1 (wd m [sh f0 24, sh f1 18, sh f2 12, sh f3 0]) 24 = f0 ∧ fld 6 (wd m [sh f0 24, sh f1 18, sh f2 12, sh f3 0]) 18 = f1 ∧ fld 6 (wd m [sh f0 24, sh f1 18, sh f2 12, sh f3 0]) 12 = f2 ∧ fld 12 (wd m [sh f0 24, sh f1 18, sh f2 12, sh f3 0]) 0 = f3 ∧ opc (wd m [sh f0 24, sh f1 18, sh f2 12, sh f3 0]) = v0 := by
  have := f0.isLt
  have := f1.isLt
  have := f2.isLt
  have := f3.isLt
  generalize hw : wd _ _ = w
  simp only [wd, sh] at hw
  refine ⟨by omega, fld_eq (by omega), fld_eq (by omega), fld_eq (by omega), fld_eq (by omega), by simp only [opc, fix]; omega⟩
theorem layout2 {m v0 v1 : Nat} (hm : m = v0 * 2 ^ 25 + v1 * 2 ^ 6) (_ : v0 < 128) (_ : v1 < 64) (f0 : BitVec 1) (f1 : BitVec 6) (f2 : BitVec 6) (f3 : BitVec 6) :
    (wd m [sh f0 24, sh f1 18, sh f2 12, sh f3 0]) < 2 ^ 32 ∧ fld 1 (wd m [sh f0 24, sh f1 18, sh f2 12, sh f3 0]) 24 = f0 ∧ fld 6 (wd m [sh f0 24, sh f1 18, sh f2 12, sh f3 0]) 18 = f1 ∧ fld 6 (wd m [sh f0 24, sh f1 18, sh f2 12, sh f3 0]) 12 = f2 ∧ fld 6 (wd m [sh f0 24, sh f1 18, sh f2 12, sh f3 0]) 0 = f3 ∧ opc (wd m [sh f0 24, sh f1 18, sh f2 12, sh f3 0]) = v0 ∧ fix (wd m [sh f0 24, sh f1 18, sh f2 12, sh f3 0]) 11 6 = v1 := by
  have := f0.isLt
  have := f1.isLt
  have := f2.isLt
  have := f3.isLt
  generalize hw : wd _ _ = w
  simp only [wd, sh] at hw
  refine ⟨by omega, fld_eq (by omega), fld_eq (by omega), fld_eq (by omega), fld_eq (by omega), by simp only [opc, fix]; omega, by simp only [fix]; omega⟩
theorem layout3 {m v0 : Nat} (hm : m = v0 * 2 ^ 25) (_ : v0 < 128) (f0 : BitVec 1) (f1 : BitVec 6) (f2 : BitVec 18) :
    (wd m [sh f0 24, sh f1 18, sh f2 0]) < 2 ^ 32 ∧ fld 1 (wd m [sh f0 24, sh f1 18, sh f2 0]) 24 = f0 ∧ fld 6 (wd m [sh f0 24, sh f1 18, sh f2 0]) 18 = f1 ∧ fld 18 (wd m [sh f0 24, sh f1 18, sh f2 0]) 0 = f2 ∧ opc (wd m [sh f0 24, sh f1 18, sh f2 0]) = v0 := by
  have := f0.isLt
  have := f1.isLt
  have := f2.isLt
  generalize hw : wd _ _ = w
  simp only [wd, sh] at hw
  refine ⟨by omega, fld_eq (by omega), fld_eq (by omega), fld_eq (by omega), by simp only [opc, fix]; omega⟩
theorem layout4 {m v0 : Nat} (hm : m = v0 * 2 ^ 25) (_ : v0 < 128) (f0 : BitVec 1) (f1 : BitVec 6) (f2 : BitVec 2) (f3 : BitVec 16) :
    (wd m [sh f0 24, sh f1 18, sh f2 16, sh f3 0]) < 2 ^ 32 ∧ fld 1 (wd m [sh f0 24, sh f1 18, sh f2 16, sh f3 0]) 24 = f0 ∧ fld 6 (wd m [sh f0 24, sh f1 18, sh f2 16, sh f3 0]) 18 = f1 ∧ fld 2 (wd m [sh f0 24, sh f1 18, sh f2 16, sh f3 0]) 16 = f2 ∧ fld 16 (wd m [sh f0 24, sh f1 18, sh f2 16, sh f3 0]) 0 = f3 ∧ opc (wd m [sh f0 24, sh f1 18, sh f2 16, sh f3 0]) = v0 := by
  have := f0.isLt
  have := f1.isLt
  have := f2.isLt
  have := f3.isLt
  generalize hw : wd _ _ = w
  simp only [wd, sh] at hw
  refine ⟨by omega, fld_eq (by omega), fld_eq (by omega), fld_eq (by omega), fld_eq (by omega), by simp only [opc, fix]; omega⟩
theorem layout5 {m v0 : Nat} (hm : m = v0 * 2 ^ 25) (_ : v0 < 128) (f0 : BitVec 1) (f1 : BitVec 6) (f2 : BitVec 6) (f3 : BitVec 6) (f4 : BitVec 6) :
    (wd m [sh f0 24, sh f1 18, sh f2 12, sh f3 6, sh f4 0]) < 2 ^ 32 ∧ fld 1 (wd m [sh f0 24, sh f1 18, sh f2 12, sh f3 6, sh f4 0]) 24 = f0 ∧ fld 6 (wd m [sh f0 24, sh f1 18, sh f2 12, sh f3 6, sh f4 0]) 18 = f1 ∧ fld 6 (wd m [sh f0 24, sh f1 18, sh f2 12, sh f3 6, sh f4 0]) 12 = f2 ∧ fld 6 (wd m [sh f0 24, sh f1 18, sh f2 12, sh f3 6, sh f4 0]) 6 = f3 ∧ fld 6 (wd m [sh f0 24, sh f1 18, sh f2 12, sh f3 6, sh f4 0]) 0 = f4 ∧ opc (wd m [sh f0 24, sh f1 18, sh f2 12, sh f3 6, sh f4 0]) = v0 := by
  have := f0.isLt
  have := f1.isLt
  have := f2.isLt
  have := f3.isLt
  have := f4.isLt
  generalize hw : wd _ _ = w
  simp only [wd, sh] at hw
  refine ⟨by omega, fld_eq (by omega), fld_eq (by omega), fld_eq (by omega), fld_eq (by omega), fld_eq (by omega), by simp only [opc, fix]; omega⟩
theorem layout6 {m v0 v1 : Nat} (hm : m = v0 * 2 ^ 25 + v1 * 2 ^ 3) (_ : v0 < 128) (_ : v1 < 8) (f0 : BitVec 1) (f1 : BitVec 6) (f2 : BitVec 6) (f3 : BitVec 6) (f4 : BitVec 3) :
    (wd m [sh f0 24, sh f1 18, sh f2 12, sh f3 6, sh f4 0]) < 2 ^ 32 ∧ fld 1 (wd m [sh f0 24, sh f1 18, sh f2 12, sh f3 6, sh f4 0]) 24 = f0 ∧ fld 6 (wd m [sh f0 24, sh f1 18, sh f2 12, sh f3 6, sh f4 0]) 18 = f1 ∧ fld 6 (wd m [sh f0 24, sh f1 18, sh f2 12, sh f3 6, sh f4 0]) 12 = f2 ∧ fld 6 (wd m [sh f0 24, sh f1 18, sh f2 12, sh f3 6, sh f4 0]) 6 = f3 ∧ fld 3 (wd m [sh f0 24, sh f1 18, sh f2 12, sh f3 6, sh f4 0]) 0 = f4 ∧ opc (wd m [sh f0 24, sh f1 18, sh f2 12, sh f3 6, sh f4 0]) = v0 ∧ fix (wd m [sh f0 24, sh f1 18, sh f2 12, sh f3 6, sh f4 0]) 5 3 = v1 := by
  have := f0.isLt
  have := f1.isLt
  have := f2.isLt
  have := f3.isLt
  have := f4.isLt
  generalize hw : wd _ _ = w
  simp only [wd, sh] at hw
  refine ⟨by omega, fld_eq (by omega), fld_eq (by omega), fld_eq (by omega), fld_eq (by omega), fld_eq (by omega), by simp only [opc, fix]; omega, by simp only [fix]; omega⟩
theorem layout7 {m v0 v1 : Nat} (hm : m = v0 * 2 ^ 25 + v1 * 2 ^ 3) (_ : v0 < 128) (_ : v1 < 512) (f0 : BitVec 1) (f1 : BitVec 6) (f2 : BitVec 6) (f3 : BitVec 3) :
    (wd m [sh f0 24, sh f1 18, sh f2 12, sh f3 0]) < 2 ^ 32 ∧ fld 1 (wd m [sh f0 24, sh f1 18, sh f2 12, sh f3 0]) 24 = f0 ∧ fld 6 (wd m [sh f0 24, sh f1 18, sh f2 12, sh f3 0]) 18 = f1 ∧ fld 6 (wd m [sh f0 24, sh f1 18, sh f2 12, sh f3 0]) 12 = f2 ∧ fld 3 (wd m [sh f0 24, sh f1 18, sh f2 12, sh f3 0]) 0 = f3 ∧ opc (wd m [sh f0 24, sh f1 18, sh f2 12, sh f3 0]) = v0 ∧ fix (wd m [sh f0 24, sh f1 18, sh f2 12, sh f3 0]) 11 3 = v1 := by
  have := f0.isLt
  have := f1.isLt
  have := f2.isLt
  have := f3.isLt
  generalize hw : wd _ _ = w
  simp only [wd, sh] at hw
  refine ⟨by omega, fld_eq (by omega), fld_eq (by omega), fld_eq (by omega), fld_eq (by omega), by simp only [opc, fix]; omega, by simp only [fix]; omega⟩
theorem layout8 {m v0 v1 : Nat} (hm : m = v0 * 2 ^ 25 + v1 * 2 ^ 24) (_ : v0 < 128) (_ : v1 < 2) (f0 : BitVec 6) (f1 : BitVec 6) (f2 : BitVec 12) :
    (wd m [sh f0 18, sh f1 12, sh f2 0]) < 2 ^ 32 ∧ fld 6 (wd m [sh f0 18, sh f1 12, sh f2 0]) 18 = f0 ∧ fld 6 (wd m [sh f0 18, sh f1 12, sh f2 0]) 12 = f1 ∧ fld 12 (wd m [sh f0 18, sh f1 12, sh f2 0]) 0 = f2 ∧ opc (wd m [sh f0 18, sh f1 12, sh f2 0]) = v0 ∧ fix (wd m [sh f0 18, sh f1 12, sh f2 0]) 24 24 = v1 := by
  have := f0.isLt
  have := f1.isLt
  have := f2.isLt
  generalize hw : wd _ _ = w
  simp only [wd, sh] at hw
  refine ⟨by omega, fld_eq (by omega), fld_eq (by omega), fld_eq (by omega), by simp only [opc, fix]; omega, by simp only [fix]; omega⟩
theorem layout9 {m v0 v1 : Nat} (hm : m = v0 * 2 ^ 25 + v1 * 2 ^ 3) (_ : v0 < 128) (_ : v1 < 4194304) (f0 : BitVec 3) :
    (wd m [sh f0 0]) < 2 ^ 32 ∧ fld 3 (wd m [sh f0 0]) 0 = f0 ∧ opc (wd m [sh f0 0]) = v0 ∧ fix (wd m [sh f0 0]) 24 3 = v1 := by
  have := f0.isLt
  generalize hw : wd _ _ = w
  simp only [wd, sh] at hw
  refine ⟨by omega, fld_eq (by omega), by simp only [opc, fix]; omega, by simp only [fix]; omega⟩
theorem layout10 {m v0 v1 v2 : Nat} (hm : m = v0 * 2 ^ 25 + v1 * 2 ^ 0 + v2 * 2 ^ 18) (_ : v0 < 128) (_ : v1 < 4096) (_ : v2 < 128) (f0 : BitVec 6) :
    (wd m [sh f0 12]) < 2 ^ 32 ∧ fld 6 (wd m [sh f0 12]) 12 = f0 ∧ opc (wd m [sh f0 12]) = v0 ∧ fix (wd m [sh f0 12]) 11 0 = v1 ∧ fix (wd m [sh f0 12]) 24 18 = v2 := by
  have := f0.isLt
  generalize hw : wd _ _ = w
  simp only [wd, sh] at hw
  refine ⟨by omega, fld_eq (by omega), by simp only [opc, fix]; omega, by simp only [fix]; omega, by simp only [fix]; omega⟩
theorem layout11 {m v0 : Nat} (hm : m = v0 * 2 ^ 25) (_ : v0 < 128) (f0 : BitVec 6) (f1 : BitVec 6) (f2 : BitVec 13) :
    (wd m [sh f0 19, sh f1 13, sh f2 0]) < 2 ^ 32 ∧ fld 6 (wd m [sh f0 19, sh f1 13, sh f2 0]) 19 = f0 ∧ fld 6 (wd m [sh f0 19, sh f1 13, sh f2 0]) 13 = f1 ∧ fld 13 (wd m [sh f0 19, sh f1 13, sh f2 0]) 0 = f2 ∧ opc (wd m [sh f0 19, sh f1 13, sh f2 0]) = v0 := by
  have := f0.isLt
  have := f1.isLt
  have := f2.isLt
  generalize hw : wd _ _ = w
  simp only [wd, sh] at hw
  refine ⟨by omega, fld_eq (by omega), fld_eq (by omega), fld_eq (by omega), by simp only [opc, fix]; omega⟩
theorem layout12 {m v0 v1 : Nat} (hm : m = v0 * 2 ^ 25 + v1 * 2 ^ 13) (_ : v0 < 128) (_ : v1 < 32) (f0 : BitVec 1) (f1 : BitVec 6) (f2 : BitVec 13) :
    (wd m [sh f0 24, sh f1 18, sh f2 0]) < 2 ^ 32 ∧ fld 1 (wd m [sh f0 24, sh f1 18, sh f2 0]) 24 = f0 ∧ fld 6 (wd m [sh f0 24, sh f1 18, sh f2 0]) 18 = f1 ∧ fld 13 (wd m [sh f0 24, sh f1 18, sh f2 0]) 0 = f2 ∧ opc (wd m [sh f0 24, sh f1 18, sh f2 0]) = v0 ∧ fix (wd m [sh f0 24, sh f1 18, sh f2 0]) 17 13 = v1 := by
  have := f0.isLt
  have := f1.isLt
  have := f2.isLt
  generalize hw : wd _ _ = w
  simp only [wd, sh] at hw
  refine ⟨by omega, fld_eq (by omega), fld_eq (by omega), fld_eq (by omega), by simp only [opc, fix]; omega, by simp only [fix]; omega⟩
theorem layout13 {m v0 v1 v2 : Nat} (hm : m = v0 * 2 ^ 25 + v1 * 2 ^ 13 + v2 * 2 ^ 24) (_ : v0 < 128) (_ : v1 < 32) (_ : v2 < 2) (f0 : BitVec 6) (f1 : BitVec 13) :
    (wd m [sh f0 18, sh f1 0]) < 2 ^ 32 ∧ fld 6 (wd m [sh f0 18, sh f1 0]) 18 = f0 ∧ fld 13 (wd m [sh f0 18, sh f1 0]) 0 = f1 ∧ opc (wd m [sh f0 18, sh f1 0]) = v0 ∧ fix (wd m [sh f0 18, sh f1 0]) 17 13 = v1 ∧ fix (wd m [sh f0 18, sh f1 0]) 24 24 = v2 := by
  have := f0.isLt
  have := f1.isLt
  generalize hw : wd _ _ = w
  simp only [wd, sh] at hw
  refine ⟨by omega, fld_eq (by omega), fld_eq (by omega), by simp only [opc, fix]; omega, by simp only [fix]; omega, by simp only [fix]; omega⟩
theorem layout14 {m v0 v1 : Nat} (hm : m = v0 * 2 ^ 25 + v1 * 2 ^ 0) (_ : v0 < 128) (_ : v1 < 33554432) :
    (wd m []) < 2 ^ 32 ∧ opc (wd m []) = v0 ∧ fix (wd m []) 24 0 = v1 := by
  generalize hw : wd _ _ = w
  simp only [wd] at hw
  refine ⟨by omega, by simp only [opc, fix]; omega, by simp only [fix]; omega⟩
theorem layout15 {m v0 v1 v2 : Nat} (hm : m = v0 * 2 ^ 25 + v1 * 2 ^ 0 + v2 * 2 ^ 24) (_ : v0 < 128) (_ : v1 < 262144) (_ : v2 < 2) (f0 : BitVec 6) :
    (wd m [sh f0 18]) < 2 ^ 32 ∧ fld 6 (wd m [sh f0 18]) 18 = f0 ∧ opc (wd m [sh f0 18]) = v0 ∧ fix (wd m [sh f0 18]) 17 0 = v1 ∧ fix (wd m [sh f0 18]) 24 24 = v2 := by
  have := f0.isLt
  generalize hw : wd _ _ = w
  simp only [wd, sh] at hw
  refine ⟨by omega, fld_eq (by omega), by simp only [opc, fix]; omega, by simp only [fix]; omega, by simp only [fix]; omega⟩
theorem layout16 {m v0 v1 : Nat} (hm : m = v0 * 2 ^ 25 + v1 * 2 ^ 2) (_ : v0 < 128) (_ : v1 < 8388608) (f0 : BitVec 2) :
    (wd m [sh f0 0]) < 2 ^ 32 ∧ fld 2 (wd m [sh f0 0]) 0 = f0 ∧ opc (wd m [sh f0 0]) = v0 ∧ fix (wd m [sh f0 0]) 24 2 = v1 := by
  have := f0.isLt
  generalize hw : wd _ _ = w
  simp only [wd, sh] at hw
  refine ⟨by omega, fld_eq (by omega), by simp only [opc, fix]; omega, by simp only [fix]; omega⟩
theorem layout17 {m v0 : Nat} (hm : m = v0 * 2 ^ 25) (_ : v0 < 128) (f0 : BitVec 1) (f1 : BitVec 6) (f2 : BitVec 6) (f3 : BitVec 6) (f4 : BitVec 5) (f5 : BitVec 1) :
    (wd m [sh f0 24, sh f1 18, sh f2 12, sh f3 6, sh f4 1, sh f5 0]) < 2 ^ 32 ∧ fld 1 (wd m [sh f0 24, sh f1 18, sh f2 12, sh f3 6, sh f4 1, sh f5 0]) 24 = f0 ∧ fld 6 (wd m [sh f0 24, sh f1 18, sh f2 12, sh f3 6, sh f4 1, sh f5 0]) 18 = f1 ∧ fld 6 (wd m [sh f0 24, sh f1 18, sh f2 12, sh f3 6, sh f4 1, sh f5 0]) 12 = f2 ∧ fld 6 (wd m [sh f0 24, sh f1 18, sh f2 12, sh f3 6, sh f4 1, sh f5 0]) 6 = f3 ∧ fld 5 (wd m [sh f0 24, sh f1 18, sh f2 12, sh f3 6, sh f4 1, sh f5 0]) 1 = f4 ∧ fld 1 (wd m [sh f0 24, sh f1 18, sh f2 12, sh f3 6, sh f4 1, sh f5 0]) 0 = f5 ∧ opc (wd m [sh f0 24, sh f1 18, sh f2 12, sh f3 6, sh f4 1, sh f5 0]) = v0 := by
  have := f0.isLt
  have := f1.isLt
  have := f2.isLt
  have := f3.isLt
  have := f4.isLt
  have := f5.isLt
  generalize hw : wd _ _ = w
  simp only [wd, sh] at hw
  refine ⟨by omega, fld_eq (by omega), fld_eq (by omega), fld_eq (by omega), fld_eq (by omega), fld_eq (by omega), fld_eq (by omega), by simp only [opc, fix]; omega⟩
theorem layout18 {m v0 v1 : Nat} (hm : m = v0 * 2 ^ 25 + v1 * 2 ^ 6) (_ : v0 < 128) (_ : v1 < 64) (f0 : BitVec 1) (f1 : BitVec 6) (f2 : BitVec 6) (f3 : BitVec 5) (f4 : BitVec 1) :
    (wd m [sh f0 24, sh f1 18, sh f2 12, sh f3 1, sh f4 0]) < 2 ^ 32 ∧ fld 1 (wd m [sh f0 24, sh f1 18, sh f2 12, sh f3 1, sh f4 0]) 24 = f0 ∧ fld 6 (wd m [sh f0 24, sh f1 18, sh f2 12, sh f3 1, sh f4 0]) 18 = f1 ∧ fld 6 (wd m [sh f0 24, sh f1 18, sh f2 12, sh f3 1, sh f4 0]) 12 = f2 ∧ fld 5 (wd m [sh f0 24, sh f1 18, sh f2 12, sh f3 1, sh f4 0]) 1 = f3 ∧ fld 1 (wd m [sh f0 24, sh f1 18, sh f2 12, sh f3 1, sh f4 0]) 0 = f4 ∧ opc (wd m [sh f0 24, sh f1 18, sh f2 12, sh f3 1, sh f4 0]) = v0 ∧ fix (wd m [sh f0 24, sh f1 18, sh f2 12, sh f3 1, sh f4 0]) 11 6 = v1 := by
  have := f0.isLt
  have := f1.isLt
  have := f2.isLt
  have := f3.isLt
  have := f4.isLt
  generalize hw : wd _ _ = w
  simp only [wd, sh] at hw
  refine ⟨by omega, fld_eq (by omega), fld_eq (by omega), fld_eq (by omega), fld_eq (by omega), fld_eq (by omega), by simp only [opc, fix]; omega, by simp only [fix]; omega⟩
theorem layout19 {m v0 : Nat} (hm : m = v0 * 2 ^ 25) (_ : v0 < 128) (f0 : BitVec 4) (f1 : BitVec 3) (f2 : BitVec 6) (f3 : BitVec 6) (f4 : BitVec 5) (f5 : BitVec 1) :
    (wd m [sh f0 21, sh f1 18, sh f2 12, sh f3 6, sh f4 1, sh f5 0]) < 2 ^ 32 ∧ fld 4 (wd m [sh f0 21, sh f1 18, sh f2 12, sh f3 6, sh f4 1, sh f5 0]) 21 = f0 ∧ fld 3 (wd m [sh f0 21, sh f1 18, sh f2 12, sh f3 6, sh f4 1, sh f5 0]) 18 = f1 ∧ fld 6 (wd m [sh f0 21, sh f1 18, sh f2 12, sh f3 6, sh f4 1, sh f5 0]) 12 = f2 ∧ fld 6 (wd m [sh f0 21, sh f1 18, sh f2 12, sh f3 6, sh f4 1, sh f5 0]) 6 = f3 ∧ fld 5 (wd m [sh f0 21, sh f1 18, sh f2 12, sh f3 6, sh f4 1, sh f5 0]) 1 = f4 ∧ fld 1 (wd m [sh f0 21, sh f1 18, sh f2 12, sh f3 6, sh f4 1, sh f5 0]) 0 = f5 ∧ opc (wd m [sh f0 21, sh f1 18, sh f2 12, sh f3 6, sh f4 1, sh f5 0]) = v0 := by
  have := f0.isLt
  have := f1.isLt
  have := f2.isLt
  have := f3.isLt
  have := f4.isLt
  have := f5.isLt
  generalize hw : wd _ _ = w
  simp only [wd, sh] at hw
  refine ⟨by omega, fld_eq (by omega), fld_eq (by omega), fld_eq (by omega), fld_eq (by omega), fld_eq (by omega), fld_eq (by omega), by simp only [opc, fix]; omega⟩
theorem layout20 {m v0 v1 : Nat} (hm : m = v0 * 2 ^ 25 + v1 * 2 ^ 0) (_ : v0 < 128) (_ : v1 < 2) (f0 : BitVec 1) (f1 : BitVec 6) (f2 : BitVec 6) (f3 : BitVec 4) (f4 : BitVec 4) (f5 : BitVec 3) :
    (wd m [sh f0 24, sh f1 18, sh f2 12, sh f3 8, sh f4 4, sh f5 1]) < 2 ^ 32 ∧ fld 1 (wd m [sh f0 24, sh f1 18, sh f2 12, sh f3 8, sh f4 4, sh f5 1]) 24 = f0 ∧ fld 6 (wd m [sh f0 24, sh f1 18, sh f2 12, sh f3 8, sh f4 4, sh f5 1]) 18 = f1 ∧ fld 6 (wd m [sh f0 24, sh f1 18, sh f2 12, sh f3 8, sh f4 4, sh f5 1]) 12 = f2 ∧ fld 4 (wd m [sh f0 24, sh f1 18, sh f2 12, sh f3 8, sh f4 4, sh f5 1]) 8 = f3 ∧ fld 4 (wd m [sh f0 24, sh f1 18, sh f2 12, sh f3 8, sh f4 4, sh f5 1]) 4 = f4 ∧ fld 3 (wd m [sh f0 24, sh f1 18, sh f2 12, sh f3 8, sh f4 4, sh f5 1]) 1 = f5 ∧ opc (wd m [sh f0 24, sh f1 18, sh f2 12, sh f3 8, sh f4 4, sh f5 1]) = v0 ∧ fix (wd m [sh f0 24, sh f1 18, sh f2 12, sh f3 8, sh f4 4, sh f5 1]) 0 0 = v1 := by
  have := f0.isLt
  have := f1.isLt
  have := f2.isLt
  have := f3.isLt
  have := f4.isLt
  have := f5.isLt
  generalize hw : wd _ _ = w
  simp only [wd, sh] at hw
  refine ⟨by omega, fld_eq (by omega), fld_eq (by omega), fld_eq (by omega), fld_eq (by omega), fld_eq (by omega), fld_eq (by omega), by simp only [opc, fix]; omega, by simp only [fix]; omega⟩
theorem layout21 {m v0 v1 : Nat} (hm : m = v0 * 2 ^ 25 + v1 * 2 ^ 0) (_ : v0 < 128) (_ : v1 < 2) (f0 : BitVec 1) (f1 : BitVec 6) (f2 : BitVec 6) (f3 : BitVec 6) (f4 : BitVec 5) :
    (wd m [sh f0 24, sh f1 18, sh f2 12, sh f3 6, sh f4 1]) < 2 ^ 32 ∧ fld 1 (wd m [sh f0 24, sh f1 18, sh f2 12, sh f3 6, sh f4 1]) 24 = f0 ∧ fld 6 (wd m [sh f0 24, sh f1 18, sh f2 12, sh f3 6, sh f4 1]) 18 = f1 ∧ fld 6 (wd m [sh f0 24, sh f1 18, sh f2 12, sh f3 6, sh f4 1]) 12 = f2 ∧ fld 6 (wd m [sh f0 24, sh f1 18, sh f2 12, sh f3 6, sh f4 1]) 6 = f3 ∧ fld 5 (wd m [sh f0 24, sh f1 18, sh f2 12, sh f3 6, sh f4 1]) 1 = f4 ∧ opc (wd m [sh f0 24, sh f1 18, sh f2 12, sh f3 6, sh f4 1]) = v0 ∧ fix (wd m [sh f0 24, sh f1 18, sh f2 12, sh f3 6, sh f4 1]) 0 0 = v1 := by
  have := f0.isLt
  have := f1.isLt
  have := f2.isLt
  have := f3.isLt
  have := f4.isLt
  generalize hw : wd _ _ = w
  simp only [wd, sh] at hw
  refine ⟨by omega, fld_eq (by omega), fld_eq (by omega), fld_eq (by omega), fld_eq (by omega), fld_eq (by omega), by simp only [opc, fix]; omega, by simp only [fix]; omega⟩
theorem layout22 {m v0 v1 : Nat} (hm : m = v0 * 2 ^ 25 + v1 * 2 ^ 12) (_ : v0 < 128) (_ : v1 < 64) (f0 : BitVec 1) (f1 : BitVec 6) (f2 : BitVec 12) :
    (wd m [sh f0 24, sh f1 18, sh f2 0]) < 2 ^ 32 ∧ fld 1 (wd m [sh f0 24, sh f1 18, sh f2 0]) 24 = f0 ∧ fld 6 (wd m [sh f0 24, sh f1 18, sh f2 0]) 18 = f1 ∧ fld 12 (wd m [sh f0 24, sh f1 18, sh f2 0]) 0 = f2 ∧ opc (wd m [sh f0 24, sh f1 18, sh f2 0]) = v0 ∧ fix (wd m [sh f0 24, sh f1 18, sh f2 0]) 17 12 = v1 := by
  have := f0.isLt
  have := f1.isLt
  have := f2.isLt
  generalize hw : wd _ _ = w
  simp only [wd, sh] at hw
  refine ⟨by omega, fld_eq (by omega), fld_eq (by omega), fld_eq (by omega), by simp only [opc, fix]; omega, by simp only [fix]; omega⟩
theorem layout23 {m v0 v1 v2 : Nat} (hm : m = v0 * 2 ^ 25 + v1 * 2 ^ 0 + v2 * 2 ^ 21) (_ : v0 < 128) (_ : v1 < 4096) (_ : v2 < 16) (f0 : BitVec 3) (f1 : BitVec 3) (f2 : BitVec 3) :
    (wd m [sh f0 18, sh f1 15, sh f2 12]) < 2 ^ 32 ∧ fld 3 (wd m [sh f0 18, sh f1 15, sh f2 12]) 18 = f0 ∧ fld 3 (wd m [sh f0 18, sh f1 15, sh f2 12]) 15 = f1 ∧ fld 3 (wd m [sh f0 18, sh f1 15, sh f2 12]) 12 = f2 ∧ opc (wd m [sh f0 18, sh f1 15, sh f2 12]) = v0 ∧ fix (wd m [sh f0 18, sh f1 15, sh f2 12]) 11 0 = v1 ∧ fix (wd m [sh f0 18, sh f1 15, sh f2 12]) 24 21 = v2 := by
  have := f0.isLt
  have := f1.isLt
  have := f2.isLt
  generalize hw : wd _ _ = w
  simp only [wd, sh] at hw
  refine ⟨by omega, fld_eq (by omega), fld_eq (by omega), fld_eq (by omega), by simp only [opc, fix]; omega, by simp only [fix]; omega, by simp only [fix]; omega⟩
theorem layout24 {m v0 v1 : Nat} (hm : m = v0 * 2 ^ 25 + v1 * 2 ^ 0) (_ : v0 < 128) (_ : v1 < 131072) (f0 : BitVec 2) (f1 : BitVec 3) (f2 : BitVec 2) (f3 : BitVec 1) :
    (wd m [sh f0 23, sh f1 20, sh f2 18, sh f3 17]) < 2 ^ 32 ∧ fld 2 (wd m [sh f0 23, sh f1 20, sh f2 18, sh f3 17]) 23 = f0 ∧ fld 3 (wd m [sh f0 23, sh f1 20, sh f2 18, sh f3 17]) 20 = f1 ∧ fld 2 (wd m [sh f0 23, sh f1 20, sh f2 18, sh f3 17]) 18 = f2 ∧ fld 1 (wd m [sh f0 23, sh f1 20, sh f2 18, sh f3 17]) 17 = f3 ∧ opc (wd m [sh f0 23, sh f1 20, sh f2 18, sh f3 17]) = v0 ∧ fix (wd m [sh f0 23, sh f1 20, sh f2 18, sh f3 17]) 16 0 = v1 := by
  have := f0.isLt
  have := f1.isLt
  have := f2.isLt
  have := f3.isLt
  generalize hw : wd _ _ = w
  simp only [wd, sh] at hw
  refine ⟨by omega, fld_eq (by omega), fld_eq (by omega), fld_eq (by omega), fld_eq (by omega), by simp only [opc, fix]; omega, by simp only [fix]; omega⟩
theorem layout25 {m v0 v1 : Nat} (hm : m = v0 * 2 ^ 25 + v1 * 2 ^ 17) (_ : v0 < 128) (_ : v1 < 2) (f0 : BitVec 1) (f1 : BitVec 6) (f2 : BitVec 5) (f3 : BitVec 12) :
    (wd m [sh f0 24, sh f1 18, sh f2 12, sh f3 0]) < 2 ^ 32 ∧ fld 1 (wd m [sh f0 24, sh f1 18, sh f2 12, sh f3 0]) 24 = f0 ∧ fld 6 (wd m [sh f0 24, sh f1 18, sh f2 12, sh f3 0]) 18 = f1 ∧ fld 5 (wd m [sh f0 24, sh f1 18, sh f2 12, sh f3 0]) 12 = f2 ∧ fld 12 (wd m [sh f0 24, sh f1 18, sh f2 12, sh f3 0]) 0 = f3 ∧ opc (wd m [sh f0 24, sh f1 18, sh f2 12, sh f3 0]) = v0 ∧ fix (wd m [sh f0 24, sh f1 18, sh f2 12, sh f3 0]) 17 17 = v1 := by
  have := f0.isLt
  have := f1.isLt
  have := f2.isLt
  have := f3.isLt
  generalize hw : wd _ _ = w
  simp only [wd, sh] at hw
  refine ⟨by omega, fld_eq (by omega), fld_eq (by omega), fld_eq (by omega), fld_eq (by omega), by simp only [opc, fix]; omega, by simp only [fix]; omega⟩
theorem layout26 {m v0 v1 v2 : Nat} (hm : m = v0 * 2 ^ 25 + v1 * 2 ^ 17 + v2 * 2 ^ 24) (_ : v0 < 128) (_ : v1 < 2) (_ : v2 < 2) (f0 : BitVec 6) (f1 : BitVec 5) (f2 : BitVec 12) :
    (wd m [sh f0 18, sh f1 12, sh f2 0]) < 2 ^ 32 ∧ fld 6 (wd m [sh f0 18, sh f1 12, sh f2 0]) 18 = f0 ∧ fld 5 (wd m [sh f0 18, sh f1 12, sh f2 0]) 12 = f1 ∧ fld 12 (wd m [sh f0 18, sh f1 12, sh f2 0]) 0 = f2 ∧ opc (wd m [sh f0 18, sh f1 12, sh f2 0]) = v0 ∧ fix (wd m [sh f0 18, sh f1 12, sh f2 0]) 17 17 = v1 ∧ fix (wd m [sh f0 18, sh f1 12, sh f2 0]) 24 24 = v2 := by
  have := f0.isLt
  have := f1.isLt
  have := f2.isLt
  generalize hw : wd _ _ = w
  simp only [wd, sh] at hw
  refine ⟨by omega, fld_eq (by omega), fld_eq (by omega), fld_eq (by omega), by simp only [opc, fix]; omega, by simp only [fix]; omega, by simp only [fix]; omega⟩
theorem layout27 {m v0 v1 : Nat} (hm : m = v0 * 2 ^ 25 + v1 * 2 ^ 1) (_ : v0 < 128) (_ : v1 < 16) (f0 : BitVec 1) (f1 : BitVec 6) (f2 : BitVec 5) (f3 : BitVec 5) (f4 : BitVec 2) (f5 : BitVec 1) (f6 : BitVec 1) :
    (wd m [sh f0 24, sh f1 18, sh f2 13, sh f3 8, sh f4 6, sh f5 5, sh f6 0]) < 2 ^ 32 ∧ fld 1 (wd m [sh f0 24, sh f1 18, sh f2 13, sh f3 8, sh f4 6, sh f5 5, sh f6 0]) 24 = f0 ∧ fld 6 (wd m [sh f0 24, sh f1 18, sh f2 13, sh f3 8, sh f4 6, sh f5 5, sh f6 0]) 18 = f1 ∧ fld 5 (wd m [sh f0 24, sh f1 18, sh f2 13, sh f3 8, sh f4 6, sh f5 5, sh f6 0]) 13 = f2 ∧ fld 5 (wd m [sh f0 24, sh f1 18, sh f2 13, sh f3 8, sh f4 6, sh f5 5, sh f6 0]) 8 = f3 ∧ fld 2 (wd m [sh f0 24, sh f1 18, sh f2 13, sh f3 8, sh f4 6, sh f5 5, sh f6 0]) 6 = f4 ∧ fld 1 (wd m [sh f0 24, sh f1 18, sh f2 13, sh f3 8, sh f4 6, sh f5 5, sh f6 0]) 5 = f5 ∧ fld 1 (wd m [sh f0 24, sh f1 18, sh f2 13, sh f3 8, sh f4 6, sh f5 5, sh f6 0]) 0 = f6 ∧ opc (wd m [sh f0 24, sh f1 18, sh f2 13, sh f3 8, sh f4 6, sh f5 5, sh f6 0]) = v0 ∧ fix (wd m [sh f0 24, sh f1 18, sh f2 13, sh f3 8, sh f4 6, sh f5 5, sh f6 0]) 4 1 = v1 := by
  have := f0.isLt
  have := f1.isLt
  have := f2.isLt
  have := f3.isLt
  have := f4.isLt
  have := f5.isLt
  have := f6.isLt
  generalize hw : wd _ _ = w
  simp only [wd, sh] at hw
  refine ⟨by omega, fld_eq (by omega), fld_eq (by omega), fld_eq (by omega), fld_eq (by omega), fld_eq (by omega), fld_eq (by omega), fld_eq (by omega), by simp only [opc, fix]; omega, by simp only [fix]; omega⟩
theorem layout28 {m v0 v1 v2 : Nat} (hm : m = v0 * 2 ^ 25 + v1 * 2 ^ 1 + v2 * 2 ^ 24) (_ : v0 < 128) (_ : v1 < 16) (_ : v2 < 2) (f0 : BitVec 6) (f1 : BitVec 5) (f2 : BitVec 5) (f3 : BitVec 2) (f4 : BitVec 1) (f5 : BitVec 1) :
    (wd m [sh f0 18, sh f1 13, sh f2 8, sh f3 6, sh f4 5, sh f5 0]) < 2 ^ 32 ∧ fld 6 (wd m [sh f0 18, sh f1 13, sh f2 8, sh f3 6, sh f4 5, sh f5 0]) 18 = f0 ∧ fld 5 (wd m [sh f0 18, sh f1 13, sh f2 8, sh f3 6, sh f4 5, sh f5 0]) 13 = f1 ∧ fld 5 (wd m [sh f0 18, sh f1 13, sh f2 8, sh f3 6, sh f4 5, sh f5 0]) 8 = f2 ∧ fld 2 (wd m [sh f0 18, sh f1 13, sh f2 8, sh f3 6, sh f4 5, sh f5 0]) 6 = f3 ∧ fld 1 (wd m [sh f0 18, sh f1 13, sh f2 8, sh f3 6, sh f4 5, sh f5 0]) 5 = f4 ∧ fld 1 (wd m [sh f0 18, sh f1 13, sh f2 8, sh f3 6, sh f4 5, sh f5 0]) 0 = f5 ∧ opc (wd m [sh f0 18, sh f1 13, sh f2 8, sh f3 6, sh f4 5, sh f5 0]) = v0 ∧ fix (wd m [sh f0 18, sh f1 13, sh f2 8, sh f3 6, sh f4 5, sh f5 0]) 4 1 = v1 ∧ fix (wd m [sh f0 18, sh f1 13, sh f2 8, sh f3 6, sh f4 5, sh f5 0]) 24 24 = v2 := by
  have := f0.isLt
  have := f1.isLt
  have := f2.isLt
  have := f3.isLt
  have := f4.isLt
  have := f5.isLt
  generalize hw : wd _ _ = w
  simp only [wd, sh] at hw
  refine ⟨by omega, fld_eq (by omega), fld_eq (by omega), fld_eq (by omega), fld_eq (by omega), fld_eq (by omega), fld_eq (by omega), by simp only [opc, fix]; omega, by simp only [fix]; omega, by simp only [fix]; omega⟩
theorem layout29 {m v0 v1 v2 : Nat} (hm : m = v0 * 2 ^ 25 + v1 * 2 ^ 1 + v2 * 2 ^ 12) (_ : v0 < 128) (_ : v1 < 4) (_ : v2 < 2) (f0 : BitVec 1) (f1 : BitVec 6) (f2 : BitVec 5) (f3 : BitVec 6) (f4 : BitVec 2) (f5 : BitVec 1) (f6 : BitVec 1) :
    (wd m [sh f0 24, sh f1 18, sh f2 13, sh f3 6, sh f4 4, sh f5 3, sh f6 0]) < 2 ^ 32 ∧ fld 1 (wd m [sh f0 24, sh f1 18, sh f2 13, sh f3 6, sh f4 4, sh f5 3, sh f6 0]) 24 = f0 ∧ fld 6 (wd m [sh f0 24, sh f1 18, sh f2 13, sh f3 6, sh f4 4, sh f5 3, sh f6 0]) 18 = f1 ∧ fld 5 (wd m [sh f0 24, sh f1 18, sh f2 13, sh f3 6, sh f4 4, sh f5 3, sh f6 0]) 13 = f2 ∧ fld 6 (wd m [sh f0 24, sh f1 18, sh f2 13, sh f3 6, sh f4 4, sh f5 3, sh f6 0]) 6 = f3 ∧ fld 2 (wd m [sh f0 24, sh f1 18, sh f2 13, sh f3 6, sh f4 4, sh f5 3, sh f6 0]) 4 = f4 ∧ fld 1 (wd m [sh f0 24, sh f1 18, sh f2 13, sh f3 6, sh f4 4, sh f5 3, sh f6 0]) 3 = f5 ∧ fld 1 (wd m [sh f0 24, sh f1 18, sh f2 13, sh f3 6, sh f4 4, sh f5 3, sh f6 0]) 0 = f6 ∧ opc (wd m [sh f0 24, sh f1 18, sh f2 13, sh f3 6, sh f4 4, sh f5 3, sh f6 0]) = v0 ∧ fix (wd m [sh f0 24, sh f1 18, sh f2 13, sh f3 6, sh f4 4, sh f5 3, sh f6 0]) 2 1 = v1 ∧ fix (wd m [sh f0 24, sh f1 18, sh f2 13, sh f3 6, sh f4 4, sh f5 3, sh f6 0]) 12 12 = v2 := by
  have := f0.isLt
  have := f1.isLt
  have := f2.isLt
  have := f3.isLt
  have := f4.isLt
  have := f5.isLt
  have := f6.isLt
  generalize hw : wd _ _ = w
  simp only [wd, sh] at hw
  refine ⟨by omega, fld_eq (by omega), fld_eq (by omega), fld_eq (by omega), fld_eq (by omega), fld_eq (by omega), fld_eq (by omega), fld_eq (by omega), by simp only [opc, fix]; omega, by simp only [fix]; omega, by simp only [fix]; omega⟩
theorem layout30 {m v0 v1 v2 v3 : Nat} (hm : m = v0 * 2 ^ 25 + v1 * 2 ^ 1 + v2 * 2 ^ 12 + v3 * 2 ^ 24) (_ : v0 < 128) (_ : v1 < 4) (_ : v2 < 2) (_ : v3 < 2) (f0 : BitVec 6) (f1 : BitVec 5) (f2 : BitVec 6) (f3 : BitVec 2) (f4 : BitVec 1) (f5 : BitVec 1) :
    (wd m [sh f0 18, sh f1 13, sh f2 6, sh f3 4, sh f4 3, sh f5 0]) < 2 ^ 32 ∧ fld 6 (wd m [sh f0 18, sh f1 13, sh f2 6, sh f3 4, sh f4 3, sh f5 0]) 18 = f0 ∧ fld 5 (wd m [sh f0 18, sh f1 13, sh f2 6, sh f3 4, sh f4 3, sh f5 0]) 13 = f1 ∧ fld 6 (wd m [sh f0 18, sh f1 13, sh f2 6, sh f3 4, sh f4 3, sh f5 0]) 6 = f2 ∧ fld 2 (wd m [sh f0 18, sh f1 13, sh f2 6, sh f3 4, sh f4 3, sh f5 0]) 4 = f3 ∧ fld 1 (wd m [sh f0 18, sh f1 13, sh f2 6, sh f3 4, sh f4 3, sh f5 0]) 3 = f4 ∧ fld 1 (wd m [sh f0 18, sh f1 13, sh f2 6, sh f3 4, sh f4 3, sh f5 0]) 0 = f5 ∧ opc (wd m [sh f0 18, sh f1 13, sh f2 6, sh f3 4, sh f4 3, sh f5 0]) = v0 ∧ fix (wd m [sh f0 18, sh f1 13, sh f2 6, sh f3 4, sh f4 3, sh f5 0]) 2 1 = v1 ∧ fix (wd m [sh f0 18, sh f1 13, sh f2 6, sh f3 4, sh f4 3, sh f5 0]) 12 12 = v2 ∧ fix (wd m [sh f0 18, sh f1 13, sh f2 6, sh f3 4, sh f4 3, sh f5 0]) 24 24 = v3 := by
  have := f0.isLt
  have := f1.isLt
  have := f2.isLt
  have := f3.isLt
  have := f4.isLt
  have := f5.isLt
  generalize hw : wd _ _ = w
  simp only [wd, sh] at hw
  refine ⟨by omega, fld_eq (by omega), fld_eq (by omega), fld_eq (by omega), fld_eq (by omega), fld_eq (by omega), fld_eq (by omega), by simp only [opc, fix]; omega, by simp only [fix]; omega, by simp only [fix]; omega, by simp only [fix]; omega⟩
theorem layout31 {m v0 v1 v2 v3 : Nat} (hm : m = v0 * 2 ^ 25 + v1 * 2 ^ 0 + v2 * 2 ^ 12 + v3 * 2 ^ 24) (_ : v0 < 128) (_ : v1 < 256) (_ : v2 < 64) (_ : v3 < 2) (f0 : BitVec 6) (f1 : BitVec 4) :
    (wd m [sh f0 18, sh f1 8]) < 2 ^ 32 ∧ fld 6 (wd m [sh f0 18, sh f1 8]) 18 = f0 ∧ fld 4 (wd m [sh f0 18, sh f1 8]) 8 = f1 ∧ opc (wd m [sh f0 18, sh f1 8]) = v0 ∧ fix (wd m [sh f0 18, sh f1 8]) 7 0 = v1 ∧ fix (wd m [sh f0 18, sh f1 8]) 17 12 = v2 ∧ fix (wd m [sh f0 18, sh f1 8]) 24 24 = v3 := by
  have := f0.isLt
  have := f1.isLt
  generalize hw : wd _ _ = w
  simp only [wd, sh] at hw
  refine ⟨by omega, fld_eq (by omega), fld_eq (by omega), by simp only [opc, fix]; omega, by simp only [fix]; omega, by simp only [fix]; omega, by simp only [fix]; omega⟩
theorem layout32 {m v0 v1 : Nat} (hm : m = v0 * 2 ^ 25 + v1 * 2 ^ 0) (_ : v0 < 128) (_ : v1 < 262144) (f0 : BitVec 1) (f1 : BitVec 6) :
    (wd m [sh f0 24, sh f1 18]) < 2 ^ 32 ∧ fld 1 (wd m [sh f0 24, sh f1 18]) 24 = f0 ∧ fld 6 (wd m [sh f0 24, sh f1 18]) 18 = f1 ∧ opc (wd m [sh f0 24, sh f1 18]) = v0 ∧ fix (wd m [sh f0 24, sh f1 18]) 17 0 = v1 := by
  have := f0.isLt
  have := f1.isLt
  generalize hw : wd _ _ = w
  simp only [wd, sh] at hw
  refine ⟨by omega, fld_eq (by omega), fld_eq (by omega), by simp only [opc, fix]; omega, by simp only [fix]; omega⟩
theorem layout33 {m v0 v1 : Nat} (hm : m = v0 * 2 ^ 25 + v1 * 2 ^ 8) (_ : v0 < 128) (_ : v1 < 1024) (f0 : BitVec 1) (f1 : BitVec 6) (f2 : BitVec 8) :
    (wd m [sh f0 24, sh f1 18, sh f2 0]) < 2 ^ 32 ∧ fld 1 (wd m [sh f0 24, sh f1 18, sh f2 0]) 24 = f0 ∧ fld 6 (wd m [sh f0 24, sh f1 18, sh f2 0]) 18 = f1 ∧ fld 8 (wd m [sh f0 24, sh f1 18, sh f2 0]) 0 = f2 ∧ opc (wd m [sh f0 24, sh f1 18, sh f2 0]) = v0 ∧ fix (wd m [sh f0 24, sh f1 18, sh f2 0]) 17 8 = v1 := by
  have := f0.isLt
  have := f1.isLt
  have := f2.isLt
  generalize hw : wd _ _ = w
  simp only [wd, sh] at hw
  refine ⟨by omega, fld_eq (by omega), fld_eq (by omega), fld_eq (by omega), by simp only [opc, fix]; omega, by simp only [fix]; omega⟩
theorem layout34 {m v0 : Nat} (hm : m = v0 * 2 ^ 25) (_ : v0 < 128) (f0 : BitVec 1) (f1 : BitVec 6) (f2 : BitVec 6) (f3 : BitVec 6) (f4 : BitVec 1) (f5 : BitVec 1) (f6 : BitVec 2) (f7 : BitVec 2) :
    (wd m [sh f0 24, sh f1 18, sh f2 12, sh f3 6, sh f4 5, sh f5 4, sh f6 2, sh f7 0]) < 2 ^ 32 ∧ fld 1 (wd m [sh f0 24, sh f1 18, sh f2 12, sh f3 6, sh f4 5, sh f5 4, sh f6 2, sh f7 0]) 24 = f0 ∧ fld 6 (wd m [sh f0 24, sh f1 18, sh f2 12, sh f3 6, sh f4 5, sh f5 4, sh f6 2, sh f7 0]) 18 = f1 ∧ fld 6 (wd m [sh f0 24, sh f1 18, sh f2 12, sh f3 6, sh f4 5, sh f5 4, sh f6 2, sh f7 0]) 12 = f2 ∧ fld 6 (wd m [sh f0 24, sh f1 18, sh f2 12, sh f3 6, sh f4 5, sh f5 4, sh f6 2, sh f7 0]) 6 = f3 ∧ fld 1 (wd m [sh f0 24, sh f1 18, sh f2 12, sh f3 6, sh f4 5, sh f5 4, sh f6 2, sh f7 0]) 5 = f4 ∧ fld 1 (wd m [sh f0 24, sh f1 18, sh f2 12, sh f3 6, sh f4 5, sh f5 4, sh f6 2, sh f7 0]) 4 = f5 ∧ fld 2 (wd m [sh f0 24, sh f1 18, sh f2 12, sh f3 6, sh f4 5, sh f5 4, sh f6 2, sh f7 0]) 2 = f6 ∧ fld 2 (wd m [sh f0 24, sh f1 18, sh f2 12, sh f3 6, sh f4 5, sh f5 4, sh f6 2, sh f7 0]) 0 = f7 ∧ opc (wd m [sh f0 24, sh f1 18, sh f2 12, sh f3 6, sh f4 5, sh f5 4, sh f6 2, sh f7 0]) = v0 := by
  have := f0.isLt
  have := f1.isLt
  have := f2.isLt
  have := f3.isLt
  have := f4.isLt
  have := f5.isLt
  have := f6.isLt
  have := f7.isLt
  generalize hw : wd _ _ = w
  simp only [wd, sh] at hw
  refine ⟨by omega, fld_eq (by omega), fld_eq (by omega), fld_eq (by omega), fld_eq (by omega), fld_eq (by omega), fld_eq (by omega), fld_eq (by omega), fld_eq (by omega), by simp only [opc, fix]; omega⟩
theorem layout35 {m v0 v1 v2 v3 : Nat} (hm : m = v0 * 2 ^ 25 + v1 * 2 ^ 0 + v2 * 2 ^ 4 + v3 * 2 ^ 6) (_ : v0 < 128) (_ : v1 < 4) (_ : v2 < 2) (_ : v3 < 64) (f0 : BitVec 1) (f1 : BitVec 6) (f2 : BitVec 6) (f3 : BitVec 1) (f4 : BitVec 2) :
    (wd m [sh f0 24, sh f1 18, sh f2 12, sh f3 5, sh f4 2]) < 2 ^ 32 ∧ fld 1 (wd m [sh f0 24, sh f1 18, sh f2 12, sh f3 5, sh f4 2]) 24 = f0 ∧ fld 6 (wd m [sh f0 24, sh f1 18, sh f2 12, sh f3 5, sh f4 2]) 18 = f1 ∧ fld 6 (wd m [sh f0 24, sh f1 18, sh f2 12, sh f3 5, sh f4 2]) 12 = f2 ∧ fld 1 (wd m [sh f0 24, sh f1 18, sh f2 12, sh f3 5, sh f4 2]) 5 = f3 ∧ fld 2 (wd m [sh f0 24, sh f1 18, sh f2 12, sh f3 5, sh f4 2]) 2 = f4 ∧ opc (wd m [sh f0 24, sh f1 18, sh f2 12, sh f3 5, sh f4 2]) = v0 ∧ fix (wd m [sh f0 24, sh f1 18, sh f2 12, sh f3 5, sh f4 2]) 1 0 = v1 ∧ fix (wd m [sh f0 24, sh f1 18, sh f2 12, sh f3 5, sh f4 2]) 4 4 = v2 ∧ fix (wd m [sh f0 24, sh f1 18, sh f2 12, sh f3 5, sh f4 2]) 11 6 = v3 := by
  have := f0.isLt
  have := f1.isLt
  have := f2.isLt
  have := f3.isLt
  have := f4.isLt
  generalize hw : wd _ _ = w
  simp only [wd, sh] at hw
  refine ⟨by omega, fld_eq (by omega), fld_eq (by omega), fld_eq (by omega), fld_eq (by omega), fld_eq (by omega), by simp only [opc, fix]; omega, by simp only [fix]; omega, by simp only [fix]; omega, by simp only [fix]; omega⟩
theorem layout36 {m v0 v1 v2 : Nat} (hm : m = v0 * 2 ^ 25 + v1 * 2 ^ 0 + v2 * 2 ^ 6) (_ : v0 < 128) (_ : v1 < 32) (_ : v2 < 64) (f0 : BitVec 1) (f1 : BitVec 6) (f2 : BitVec 6) (f3 : BitVec 1) :
    (wd m [sh f0 24, sh f1 18, sh f2 12, sh f3 5]) < 2 ^ 32 ∧ fld 1 (wd m [sh f0 24, sh f1 18, sh f2 12, sh f3 5]) 24 = f0 ∧ fld 6 (wd m [sh f0 24, sh f1 18, sh f2 12, sh f3 5]) 18 = f1 ∧ fld 6 (wd m [sh f0 24, sh f1 18, sh f2 12, sh f3 5]) 12 = f2 ∧ fld 1 (wd m [sh f0 24, sh f1 18, sh f2 12, sh f3 5]) 5 = f3 ∧ opc (wd m [sh f0 24, sh f1 18, sh f2 12, sh f3 5]) = v0 ∧ fix (wd m [sh f0 24, sh f1 18, sh f2 12, sh f3 5]) 4 0 = v1 ∧ fix (wd m [sh f0 24, sh f1 18, sh f2 12, sh f3 5]) 11 6 = v2 := by
  have := f0.isLt
  have := f1.isLt
  have := f2.isLt
  have := f3.isLt
  generalize hw : wd _ _ = w
  simp only [wd, sh] at hw
  refine ⟨by omega, fld_eq (by omega), fld_eq (by omega), fld_eq (by omega), fld_eq (by omega), by simp only [opc, fix]; omega, by simp only [fix]; omega, by simp only [fix]; omega⟩
theorem layout37 {m v0 v1 v2 : Nat} (hm : m = v0 * 2 ^ 25 + v1 * 2 ^ 0 + v2 * 2 ^ 18) (_ : v0 < 128) (_ : v1 < 128) (_ : v2 < 32) (f0 : BitVec 2) (f1 : BitVec 6) (f2 : BitVec 5) :
    (wd m [sh f0 23, sh f1 12, sh f2 7]) < 2 ^ 32 ∧ fld 2 (wd m [sh f0 23, sh f1 12, sh f2 7]) 23 = f0 ∧ fld 6 (wd m [sh f0 23, sh f1 12, sh f2 7]) 12 = f1 ∧ fld 5 (wd m [sh f0 23, sh f1 12, sh f2 7]) 7 = f2 ∧ opc (wd m [sh f0 23, sh f1 12, sh f2 7]) = v0 ∧ fix (wd m [sh f0 23, sh f1 12, sh f2 7]) 6 0 = v1 ∧ fix (wd m [sh f0 23, sh f1 12, sh f2 7]) 22 18 = v2 := by
  have := f0.isLt
  have := f1.isLt
  have := f2.isLt
  generalize hw : wd _ _ = w
  simp only [wd, sh] at hw
  refine ⟨by omega, fld_eq (by omega), fld_eq (by omega), fld_eq (by omega), by simp only [opc, fix]; omega, by simp only [fix]; omega, by simp only [fix]; omega⟩
theorem layout38 {m v0 v1 v2 : Nat} (hm : m = v0 * 2 ^ 25 + v1 * 2 ^ 0 + v2 * 2 ^ 24) (_ : v0 < 128) (_ : v1 < 2048) (_ : v2 < 2) (f0 : BitVec 3) (f1 : BitVec 4) (f2 : BitVec 4) (f3 : BitVec 2) :
    (wd m [sh f0 21, sh f1 17, sh f2 13, sh f3 11]) < 2 ^ 32 ∧ fld 3 (wd m [sh f0 21, sh f1 17, sh f2 13, sh f3 11]) 21 = f0 ∧ fld 4 (wd m [sh f0 21, sh f1 17, sh f2 13, sh f3 11]) 17 = f1 ∧ fld 4 (wd m [sh f0 21, sh f1 17, sh f2 13, sh f3 11]) 13 = f2 ∧ fld 2 (wd m [sh f0 21, sh f1 17, sh f2 13, sh f3 11]) 11 = f3 ∧ opc (wd m [sh f0 21, sh f1 17, sh f2 13, sh f3 11]) = v0 ∧ fix (wd m [sh f0 21, sh f1 17, sh f2 13, sh f3 11]) 10 0 = v1 ∧ fix (wd m [sh f0 21, sh f1 17, sh f2 13, sh f3 11]) 24 24 = v2 := by
  have := f0.isLt
  have := f1.isLt
  have := f2.isLt
  have := f3.isLt
  generalize hw : wd _ _ = w
  simp only [wd, sh] at hw
  refine ⟨by omega, fld_eq (by omega), fld_eq (by omega), fld_eq (by omega), fld_eq (by omega), by simp only [opc, fix]; omega, by simp only [fix]; omega, by simp only [fix]; omega⟩
theorem layout39 {m v0 v1 v2 : Nat} (hm : m = v0 * 2 ^ 25 + v1 * 2 ^ 0 + v2 * 2 ^ 24) (_ : v0 < 128) (_ : v1 < 2097152) (_ : v2 < 2) (f0 : BitVec 3) :
    (wd m [sh f0 21]) < 2 ^ 32 ∧ fld 3 (wd m [sh f0 21]) 21 = f0 ∧ opc (wd m [sh f0 21]) = v0 ∧ fix (wd m [sh f0 21]) 20 0 = v1 ∧ fix (wd m [sh f0 21]) 24 24 = v2 := by
  have := f0.isLt
  generalize hw : wd _ _ = w
  simp only [wd, sh] at hw
  refine ⟨by omega, fld_eq (by omega), by simp only [opc, fix]; omega, by simp only [fix]; omega, by simp only [fix]; omega⟩
theorem layout40 {m v0 v1 v2 : Nat} (hm : m = v0 * 2 ^ 25 + v1 * 2 ^ 0 + v2 * 2 ^ 24) (_ : v0 < 128) (_ : v1 < 512) (_ : v2 < 2) (f0 : BitVec 6) (f1 : BitVec 3) (f2 : BitVec 4) (f3 : BitVec 2) :
    (wd m [sh f0 18, sh f1 15, sh f2 11, sh f3 9]) < 2 ^ 32 ∧ fld 6 (wd m [sh f0 18, sh f1 15, sh f2 11, sh f3 9]) 18 = f0 ∧ fld 3 (wd m [sh f0 18, sh f1 15, sh f2 11, sh f3 9]) 15 = f1 ∧ fld 4 (wd m [sh f0 18, sh f1 15, sh f2 11, sh f3 9]) 11 = f2 ∧ fld 2 (wd m [sh f0 18, sh f1 15, sh f2 11, sh f3 9]) 9 = f3 ∧ opc (wd m [sh f0 18, sh f1 15, sh f2 11, sh f3 9]) = v0 ∧ fix (wd m [sh f0 18, sh f1 15, sh f2 11, sh f3 9]) 8 0 = v1 ∧ fix (wd m [sh f0 18, sh f1 15, sh f2 11, sh f3 9]) 24 24 = v2 := by
  have := f0.isLt
  have := f1.isLt
  have := f2.isLt
  have := f3.isLt
  generalize hw : wd _ _ = w
  simp only [wd, sh] at hw
  refine ⟨by omega, fld_eq (by omega), fld_eq (by omega), fld_eq (by omega), fld_eq (by omega), by simp only [opc, fix]; omega, by simp only [fix]; omega, by simp only [fix]; omega⟩
theorem layout41 {m v0 v1 : Nat} (hm : m = v0 * 2 ^ 25 + v1 * 2 ^ 0) (_ : v0 < 128) (_ : v1 < 512) (f0 : BitVec 1) (f1 : BitVec 6) (f2 : BitVec 3) (f3 : BitVec 4) (f4 : BitVec 2) :
    (wd m [sh f0 24, sh f1 18, sh f2 15, sh f3 11, sh f4 9]) < 2 ^ 32 ∧ fld 1 (wd m [sh f0 24, sh f1 18, sh f2 15, sh f3 11, sh f4 9]) 24 = f0 ∧ fld 6 (wd m [sh f0 24, sh f1 18, sh f2 15, sh f3 11, sh f4 9]) 18 = f1 ∧ fld 3 (wd m [sh f0 24, sh f1 18, sh f2 15, sh f3 11, sh f4 9]) 15 = f2 ∧ fld 4 (wd m [sh f0 24, sh f1 18, sh f2 15, sh f3 11, sh f4 9]) 11 = f3 ∧ fld 2 (wd m [sh f0 24, sh f1 18, sh f2 15, sh f3 11, sh f4 9]) 9 = f4 ∧ opc (wd m [sh f0 24, sh f1 18, sh f2 15, sh f3 11, sh f4 9]) = v0 ∧ fix (wd m [sh f0 24, sh f1 18, sh f2 15, sh f3 11, sh f4 9]) 8 0 = v1 := by
  have := f0.isLt
  have := f1.isLt
  have := f2.isLt
  have := f3.isLt
  have := f4.isLt
  generalize hw : wd _ _ = w
  simp only [wd, sh] at hw
  refine ⟨by omega, fld_eq (by omega), fld_eq (by omega), fld_eq (by omega), fld_eq (by omega), fld_eq (by omega), by simp only [opc, fix]; omega, by simp only [fix]; omega⟩
theorem layout42 {m v0 v1 v2 : Nat} (hm : m = v0 * 2 ^ 25 + v1 * 2 ^ 5 + v2 * 2 ^ 24) (_ : v0 < 128) (_ : v1 < 2048) (_ : v2 < 2) (f0 : BitVec 8) (f1 : BitVec 5) :
    (wd m [sh f0 16, sh f1 0]) < 2 ^ 32 ∧ fld 8 (wd m [sh f0 16, sh f1 0]) 16 = f0 ∧ fld 5 (wd m [sh f0 16, sh f1 0]) 0 = f1 ∧ opc (wd m [sh f0 16, sh f1 0]) = v0 ∧ fix (wd m [sh f0 16, sh f1 0]) 15 5 = v1 ∧ fix (wd m [sh f0 16, sh f1 0]) 24 24 = v2 := by
  have := f0.isLt
  have := f1.isLt
  generalize hw : wd _ _ = w
  simp only [wd, sh] at hw
  refine ⟨by omega, fld_eq (by omega), fld_eq (by omega), by simp only [opc, fix]; omega, by simp only [fix]; omega, by simp only [fix]; omega⟩
theorem layout43 {m v0 v1 : Nat} (hm : m = v0 * 2 ^ 25 + v1 * 2 ^ 5) (_ : v0 < 128) (_ : v1 < 2) (f0 : BitVec 1) (f1 : BitVec 6) (f2 : BitVec 6) (f3 : BitVec 4) (f4 : BitVec 2) (f5 : BitVec 5) :
    (wd m [sh f0 24, sh f1 18, sh f2 12, sh f3 8, sh f4 6, sh f5 0]) < 2 ^ 32 ∧ fld 1 (wd m [sh f0 24, sh f1 18, sh f2 12, sh f3 8, sh f4 6, sh f5 0]) 24 = f0 ∧ fld 6 (wd m [sh f0 24, sh f1 18, sh f2 12, sh f3 8, sh f4 6, sh f5 0]) 18 = f1 ∧ fld 6 (wd m [sh f0 24, sh f1 18, sh f2 12, sh f3 8, sh f4 6, sh f5 0]) 12 = f2 ∧ fld 4 (wd m [sh f0 24, sh f1 18, sh f2 12, sh f3 8, sh f4 6, sh f5 0]) 8 = f3 ∧ fld 2 (wd m [sh f0 24, sh f1 18, sh f2 12, sh f3 8, sh f4 6, sh f5 0]) 6 = f4 ∧ fld 5 (wd m [sh f0 24, sh f1 18, sh f2 12, sh f3 8, sh f4 6, sh f5 0]) 0 = f5 ∧ opc (wd m [sh f0 24, sh f1 18, sh f2 12, sh f3 8, sh f4 6, sh f5 0]) = v0 ∧ fix (wd m [sh f0 24, sh f1 18, sh f2 12, sh f3 8, sh f4 6, sh f5 0]) 5 5 = v1 := by
  have := f0.isLt
  have := f1.isLt
  have := f2.isLt
  have := f3.isLt
  have := f4.isLt
  have := f5.isLt
  generalize hw : wd _ _ = w
  simp only [wd, sh] at hw
  refine ⟨by omega, fld_eq (by omega), fld_eq (by omega), fld_eq (by omega), fld_eq (by omega), fld_eq (by omega), fld_eq (by omega), by simp only [opc, fix]; omega, by simp only [fix]; omega⟩
theorem layout44 {m v0 v1 v2 : Nat} (hm : m = v0 * 2 ^ 25 + v1 * 2 ^ 0 + v2 * 2 ^ 21) (_ : v0 < 128) (_ : v1 < 512) (_ : v2 < 16) (f0 : BitVec 4) (f1 : BitVec 4) (f2 : BitVec 4) :
    (wd m [sh f0 17, sh f1 13, sh f2 9]) < 2 ^ 32 ∧ fld 4 (wd m [sh f0 17, sh f1 13, sh f2 9]) 17 = f0 ∧ fld 4 (wd m [sh f0 17, sh f1 13, sh f2 9]) 13 = f1 ∧ fld 4 (wd m [sh f0 17, sh f1 13, sh f2 9]) 9 = f2 ∧ opc (wd m [sh f0 17, sh f1 13, sh f2 9]) = v0 ∧ fix (wd m [sh f0 17, sh f1 13, sh f2 9]) 8 0 = v1 ∧ fix (wd m [sh f0 17, sh f1 13, sh f2 9]) 24 21 = v2 := by
  have := f0.isLt
  have := f1.isLt
  have := f2.isLt
  generalize hw : wd _ _ = w
  simp only [wd, sh] at hw
  refine ⟨by omega, fld_eq (by omega), fld_eq (by omega), fld_eq (by omega), by simp only [opc, fix]; omega, by simp only [fix]; omega, by simp only [fix]; omega⟩
theorem layout45 {m v0 : Nat} (hm : m = v0 * 2 ^ 25) (_ : v0 < 128) (f0 : BitVec 4) (f1 : BitVec 4) (f2 : BitVec 17) :
    (wd m [sh f0 21, sh f1 17, sh f2 0]) < 2 ^ 32 ∧ fld 4 (wd m [sh f0 21, sh f1 17, sh f2 0]) 21 = f0 ∧ fld 4 (wd m [sh f0 21, sh f1 17, sh f2 0]) 17 = f1 ∧ fld 17 (wd m [sh f0 21, sh f1 17, sh f2 0]) 0 = f2 ∧ opc (wd m [sh f0 21, sh f1 17, sh f2 0]) = v0 := by
  have := f0.isLt
  have := f1.isLt
  have := f2.isLt
  generalize hw : wd _ _ = w
  simp only [wd, sh] at hw
  refine ⟨by omega, fld_eq (by omega), fld_eq (by omega), fld_eq (by omega), by simp only [opc, fix]; omega⟩
theorem layout46 {m v0 v1 : Nat} (hm : m = v0 * 2 ^ 25 + v1 * 2 ^ 16) (_ : v0 < 128) (_ : v1 < 8) (f0 : BitVec 4) (f1 : BitVec 2) (f2 : BitVec 16) :
    (wd m [sh f0 21, sh f1 19, sh f2 0]) < 2 ^ 32 ∧ fld 4 (wd m [sh f0 21, sh f1 19, sh f2 0]) 21 = f0 ∧ fld 2 (wd m [sh f0 21, sh f1 19, sh f2 0]) 19 = f1 ∧ fld 16 (wd m [sh f0 21, sh f1 19, sh f2 0]) 0 = f2 ∧ opc (wd m [sh f0 21, sh f1 19, sh f2 0]) = v0 ∧ fix (wd m [sh f0 21, sh f1 19, sh f2 0]) 18 16 = v1 := by
  have := f0.isLt
  have := f1.isLt
  have := f2.isLt
  generalize hw : wd _ _ = w
  simp only [wd, sh] at hw
  refine ⟨by omega, fld_eq (by omega), fld_eq (by omega), fld_eq (by omega), by simp only [opc, fix]; omega, by simp only [fix]; omega⟩
theorem layout47 {m v0 v1 : Nat} (hm : m = v0 * 2 ^ 25 + v1 * 2 ^ 0) (_ : v0 < 128) (_ : v1 < 65536) (f0 : BitVec 4) (f1 : BitVec 5) :
    (wd m [sh f0 21, sh f1 16]) < 2 ^ 32 ∧ fld 4 (wd m [sh f0 21, sh f1 16]) 21 = f0 ∧ fld 5 (wd m [sh f0 21, sh f1 16]) 16 = f1 ∧ opc (wd m [sh f0 21, sh f1 16]) = v0 ∧ fix (wd m [sh f0 21, sh f1 16]) 15 0 = v1 := by
  have := f0.isLt
  have := f1.isLt
  generalize hw : wd _ _ = w
  simp only [wd, sh] at hw
  refine ⟨by omega, fld_eq (by omega), fld_eq (by omega), by simp only [opc, fix]; omega, by simp only [fix]; omega⟩
theorem layout48 {m v0 v1 : Nat} (hm : m = v0 * 2 ^ 25 + v1 * 2 ^ 17) (_ : v0 < 128) (_ : v1 < 16) (f0 : BitVec 4) (f1 : BitVec 17) :
    (wd m [sh f0 21, sh f1 0]) < 2 ^ 32 ∧ fld 4 (wd m [sh f0 21, sh f1 0]) 21 = f0 ∧ fld 17 (wd m [sh f0 21, sh f1 0]) 0 = f1 ∧ opc (wd m [sh f0 21, sh f1 0]) = v0 ∧ fix (wd m [sh f0 21, sh f1 0]) 20 17 = v1 := by
  have := f0.isLt
  have := f1.isLt
  generalize hw : wd _ _ = w
  simp only [wd, sh] at hw
  refine ⟨by omega, fld_eq (by omega), fld_eq (by omega), by simp only [opc, fix]; omega, by simp only [fix]; omega⟩
theorem layout49 {m v0 v1 : Nat} (hm : m = v0 * 2 ^ 25 + v1 * 2 ^ 11) (_ : v0 < 128) (_ : v1 < 2) (f0 : BitVec 3) (f1 : BitVec 3) (f2 : BitVec 3) (f3 : BitVec 4) (f4 : BitVec 11) :
    (wd m [sh f0 22, sh f1 19, sh f2 16, sh f3 12, sh f4 0]) < 2 ^ 32 ∧ fld 3 (wd m [sh f0 22, sh f1 19, sh f2 16, sh f3 12, sh f4 0]) 22 = f0 ∧ fld 3 (wd m [sh f0 22, sh f1 19, sh f2 16, sh f3 12, sh f4 0]) 19 = f1 ∧ fld 3 (wd m [sh f0 22, sh f1 19, sh f2 16, sh f3 12, sh f4 0]) 16 = f2 ∧ fld 4 (wd m [sh f0 22, sh f1 19, sh f2 16, sh f3 12, sh f4 0]) 12 = f3 ∧ fld 11 (wd m [sh f0 22, sh f1 19, sh f2 16, sh f3 12, sh f4 0]) 0 = f4 ∧ opc (wd m [sh f0 22, sh f1 19, sh f2 16, sh f3 12, sh f4 0]) = v0 ∧ fix (wd m [sh f0 22, sh f1 19, sh f2 16, sh f3 12, sh f4 0]) 11 11 = v1 := by
  have := f0.isLt
  have := f1.isLt
  have := f2.isLt
  have := f3.isLt
  have := f4.isLt
  generalize hw : wd _ _ = w
  simp only [wd, sh] at hw
  refine ⟨by omega, fld_eq (by omega), fld_eq (by omega), fld_eq (by omega), fld_eq (by omega), fld_eq (by omega), by simp only [opc, fix]; omega, by simp only [fix]; omega⟩
theorem layout50 {m v0 v1 v2 : Nat} (hm : m = v0 * 2 ^ 25 + v1 * 2 ^ 11 + v2 * 2 ^ 15) (_ : v0 < 128) (_ : v1 < 2) (_ : v2 < 2) (f0 : BitVec 3) (f1 : BitVec 3) (f2 : BitVec 3) (f3 : BitVec 3) (f4 : BitVec 11) :
    (wd m [sh f0 22, sh f1 19, sh f2 16, sh f3 12, sh f4 0]) < 2 ^ 32 ∧ fld 3 (wd m [sh f0 22, sh f1 19, sh f2 16, sh f3 12, sh f4 0]) 22 = f0 ∧ fld 3 (wd m [sh f0 22, sh f1 19, sh f2 16, sh f3 12, sh f4 0]) 19 = f1 ∧ fld 3 (wd m [sh f0 22, sh f1 19, sh f2 16, sh f3 12, sh f4 0]) 16 = f2 ∧ fld 3 (wd m [sh f0 22, sh f1 19, sh f2 16, sh f3 12, sh f4 0]) 12 = f3 ∧ fld 11 (wd m [sh f0 22, sh f1 19, sh f2 16, sh f3 12, sh f4 0]) 0 = f4 ∧ opc (wd m [sh f0 22, sh f1 19, sh f2 16, sh f3 12, sh f4 0]) = v0 ∧ fix (wd m [sh f0 22, sh f1 19, sh f2 16, sh f3 12, sh f4 0]) 11 11 = v1 ∧ fix (wd m [sh f0 22, sh f1 19, sh f2 16, sh f3 12, sh f4 0]) 15 15 = v2 := by
  have := f0.isLt
  have := f1.isLt
  have := f2.isLt
  have := f3.isLt
  have := f4.isLt
  generalize hw : wd _ _ = w
  simp only [wd, sh] at hw
  refine ⟨by omega, fld_eq (by omega), fld_eq (by omega), fld_eq (by omega), fld_eq (by omega), fld_eq (by omega), by simp only [opc, fix]; omega, by simp only [fix]; omega, by simp only [fix]; omega⟩
theorem layout51 {m v0 v1 : Nat} (hm : m = v0 * 2 ^ 25 + v1 * 2 ^ 0) (_ : v0 < 128) (_ : v1 < 524288) (f0 : BitVec 3) (f1 : BitVec 3) :
    (wd m [sh f0 22, sh f1 19]) < 2 ^ 32 ∧ fld 3 (wd m [sh f0 22, sh f1 19]) 22 = f0 ∧ fld 3 (wd m [sh f0 22, sh f1 19]) 19 = f1 ∧ opc (wd m [sh f0 22, sh f1 19]) = v0 ∧ fix (wd m [sh f0 22, sh f1 19]) 18 0 = v1 := by
  have := f0.isLt
  have := f1.isLt
  generalize hw : wd _ _ = w
  simp only [wd, sh] at hw
  refine ⟨by omega, fld_eq (by omega), fld_eq (by omega), by simp only [opc, fix]; omega, by simp only [fix]; omega⟩
theorem layout52 {m v0 v1 : Nat} (hm : m = v0 * 2 ^ 25 + v1 * 2 ^ 0) (_ : v0 < 128) (_ : v1 < 4) (f0 : BitVec 2) (f1 : BitVec 4) (f2 : BitVec 4) (f3 : BitVec 4) (f4 : BitVec 4) (f5 : BitVec 1) (f6 : BitVec 1) (f7 : BitVec 3) :
    (wd m [sh f0 23, sh f1 19, sh f2 15, sh f3 11, sh f4 7, sh f5 6, sh f6 5, sh f7 2]) < 2 ^ 32 ∧ fld 2 (wd m [sh f0 23, sh f1 19, sh f2 15, sh f3 11, sh f4 7, sh f5 6, sh f6 5, sh f7 2]) 23 = f0 ∧ fld 4 (wd m [sh f0 23, sh f1 19, sh f2 15, sh f3 11, sh f4 7, sh f5 6, sh f6 5, sh f7 2]) 19 = f1 ∧ fld 4 (wd m [sh f0 23, sh f1 19, sh f2 15, sh f3 11, sh f4 7, sh f5 6, sh f6 5, sh f7 2]) 15 = f2 ∧ fld 4 (wd m [sh f0 23, sh f1 19, sh f2 15, sh f3 11, sh f4 7, sh f5 6, sh f6 5, sh f7 2]) 11 = f3 ∧ fld 4 (wd m [sh f0 23, sh f1 19, sh f2 15, sh f3 11, sh f4 7, sh f5 6, sh f6 5, sh f7 2]) 7 = f4 ∧ fld 1 (wd m [sh f0 23, sh f1 19, sh f2 15, sh f3 11, sh f4 7, sh f5 6, sh f6 5, sh f7 2]) 6 = f5 ∧ fld 1 (wd m [sh f0 23, sh f1 19, sh f2 15, sh f3 11, sh f4 7, sh f5 6, sh f6 5, sh f7 2]) 5 = f6 ∧ fld 3 (wd m [sh f0 23, sh f1 19, sh f2 15, sh f3 11, sh f4 7, sh f5 6, sh f6 5, sh f7 2]) 2 = f7 ∧ opc (wd m [sh f0 23, sh f1 19, sh f2 15, sh f3 11, sh f4 7, sh f5 6, sh f6 5, sh f7 2]) = v0 ∧ fix (wd m [sh f0 23, sh f1 19, sh f2 15, sh f3 11, sh f4 7, sh f5 6, sh f6 5, sh f7 2]) 1 0 = v1 := by
  have := f0.isLt
  have := f1.isLt
  have := f2.isLt
  have := f3.isLt
  have := f4.isLt
  have := f5.isLt
  have := f6.isLt
  have := f7.isLt
  generalize hw : wd _ _ = w
  simp only [wd, sh] at hw
  refine ⟨by omega, fld_eq (by omega), fld_eq (by omega), fld_eq (by omega), fld_eq (by omega), fld_eq (by omega), fld_eq (by omega), fld_eq (by omega), fld_eq (by omega), by simp only [opc, fix]; omega, by simp only [fix]; omega⟩
theorem layout53 {m v0 v1 : Nat} (hm : m = v0 * 2 ^ 25 + v1 * 2 ^ 0) (_ : v0 < 128) (_ : v1 < 1024) (f0 : BitVec 2) (f1 : BitVec 4) (f2 : BitVec 4) (f3 : BitVec 1) (f4 : BitVec 1) (f5 : BitVec 3) :
    (wd m [sh f0 23, sh f1 19, sh f2 15, sh f3 14, sh f4 13, sh f5 10]) < 2 ^ 32 ∧ fld 2 (wd m [sh f0 23, sh f1 19, sh f2 15, sh f3 14, sh f4 13, sh f5 10]) 23 = f0 ∧ fld 4 (wd m [sh f0 23, sh f1 19, sh f2 15, sh f3 14, sh f4 13, sh f5 10]) 19 = f1 ∧ fld 4 (wd m [sh f0 23, sh f1 19, sh f2 15, sh f3 14, sh f4 13, sh f5 10]) 15 = f2 ∧ fld 1 (wd m [sh f0 23, sh f1 19, sh f2 15, sh f3 14, sh f4 13, sh f5 10]) 14 = f3 ∧ fld 1 (wd m [sh f0 23, sh f1 19, sh f2 15, sh f3 14, sh f4 13, sh f5 10]) 13 = f4 ∧ fld 3 (wd m [sh f0 23, sh f1 19, sh f2 15, sh f3 14, sh f4 13, sh f5 10]) 10 = f5 ∧ opc (wd m [sh f0 23, sh f1 19, sh f2 15, sh f3 14, sh f4 13, sh f5 10]) = v0 ∧ fix (wd m [sh f0 23, sh f1 19, sh f2 15, sh f3 14, sh f4 13, sh f5 10]) 9 0 = v1 := by
  have := f0.isLt
  have := f1.isLt
  have := f2.isLt
  have := f3.isLt
  have := f4.isLt
  have := f5.isLt
  generalize hw : wd _ _ = w
  simp only [wd, sh] at hw
  refine ⟨by omega, fld_eq (by omega), fld_eq (by omega), fld_eq (by omega), fld_eq (by omega), fld_eq (by omega), fld_eq (by omega), by simp only [opc, fix]; omega, by simp only [fix]; omega⟩
theorem layout54 {m v0 : Nat} (hm : m = v0 * 2 ^ 25) (_ : v0 < 128) (f0 : BitVec 2) (f1 : BitVec 4) (f2 : BitVec 4) (f3 : BitVec 4) (f4 : BitVec 4) (f5 : BitVec 4) (f6 : BitVec 1) (f7 : BitVec 2) :
    (wd m [sh f0 23, sh f1 19, sh f2 15, sh f3 11, sh f4 7, sh f5 3, sh f6 2, sh f7 0]) < 2 ^ 32 ∧ fld 2 (wd m [sh f0 23, sh f1 19, sh f2 15, sh f3 11, sh f4 7, sh f5 3, sh f6 2, sh f7 0]) 23 = f0 ∧ fld 4 (wd m [sh f0 23, sh f1 19, sh f2 15, sh f3 11, sh f4 7, sh f5 3, sh f6 2, sh f7 0]) 19 = f1 ∧ fld 4 (wd m [sh f0 23, sh f1 19, sh f2 15, sh f3 11, sh f4 7, sh f5 3, sh f6 2, sh f7 0]) 15 = f2 ∧ fld 4 (wd m [sh f0 23, sh f1 19, sh f2 15, sh f3 11, sh f4 7, sh f5 3, sh f6 2, sh f7 0]) 11 = f3 ∧ fld 4 (wd m [sh f0 23, sh f1 19, sh f2 15, sh f3 11, sh f4 7, sh f5 3, sh f6 2, sh f7 0]) 7 = f4 ∧ fld 4 (wd m [sh f0 23, sh f1 19, sh f2 15, sh f3 11, sh f4 7, sh f5 3, sh f6 2, sh f7 0]) 3 = f5 ∧ fld 1 (wd m [sh f0 23, sh f1 19, sh f2 15, sh f3 11, sh f4 7, sh f5 3, sh f6 2, sh f7 0]) 2 = f6 ∧ fld 2 (wd m [sh f0 23, sh f1 19, sh f2 15, sh f3 11, sh f4 7, sh f5 3, sh f6 2, sh f7 0]) 0 = f7 ∧ opc (wd m [sh f0 23, sh f1 19, sh f2 15, sh f3 11, sh f4 7, sh f5 3, sh f6 2, sh f7 0]) = v0 := by
  have := f0.isLt
  have := f1.isLt
  have := f2.isLt
  have := f3.isLt
  have := f4.isLt
  have := f5.isLt
  have := f6.isLt
  have := f7.isLt
  generalize hw : wd _ _ = w
  simp only [wd, sh] at hw
  refine ⟨by omega, fld_eq (by omega), fld_eq (by omega), fld_eq (by omega), fld_eq (by omega), fld_eq (by omega), fld_eq (by omega), fld_eq (by omega), fld_eq (by omega), by simp only [opc, fix]; omega⟩
theorem layout55 {m v0 v1 : Nat} (hm : m = v0 * 2 ^ 25 + v1 * 2 ^ 0) (_ : v0 < 128) (_ : v1 < 128) (f0 : BitVec 2) (f1 : BitVec 6) (f2 : BitVec 9) (f3 : BitVec 1) :
    (wd m [sh f0 23, sh f1 17, sh f2 8, sh f3 7]) < 2 ^ 32 ∧ fld 2 (wd m [sh f0 23, sh f1 17, sh f2 8, sh f3 7]) 23 = f0 ∧ fld 6 (wd m [sh f0 23, sh f1 17, sh f2 8, sh f3 7]) 17 = f1 ∧ fld 9 (wd m [sh f0 23, sh f1 17, sh f2 8, sh f3 7]) 8 = f2 ∧ fld 1 (wd m [sh f0 23, sh f1 17, sh f2 8, sh f3 7]) 7 = f3 ∧ opc (wd m [sh f0 23, sh f1 17, sh f2 8, sh f3 7]) = v0 ∧ fix (wd m [sh f0 23, sh f1 17, sh f2 8, sh f3 7]) 6 0 = v1 := by
  have := f0.isLt
  have := f1.isLt
  have := f2.isLt
  have := f3.isLt
  generalize hw : wd _ _ = w
  simp only [wd, sh] at hw
  refine ⟨by omega, fld_eq (by omega), fld_eq (by omega), fld_eq (by omega), fld_eq (by omega), by simp only [opc, fix]; omega, by simp only [fix]; omega⟩
theorem layout56 {m v0 v1 : Nat} (hm : m = v0 * 2 ^ 25 + v1 * 2 ^ 0) (_ : v0 < 128) (_ : v1 < 256) (f0 : BitVec 2) (f1 : BitVec 6) (f2 : BitVec 9) :
    (wd m [sh f0 23, sh f1 17, sh f2 8]) < 2 ^ 32 ∧ fld 2 (wd m [sh f0 23, sh f1 17, sh f2 8]) 23 = f0 ∧ fld 6 (wd m [sh f0 23, sh f1 17, sh f2 8]) 17 = f1 ∧ fld 9 (wd m [sh f0 23, sh f1 17, sh f2 8]) 8 = f2 ∧ opc (wd m [sh f0 23, sh f1 17, sh f2 8]) = v0 ∧ fix (wd m [sh f0 23, sh f1 17, sh f2 8]) 7 0 = v1 := by
  have := f0.isLt
  have := f1.isLt
  have := f2.isLt
  generalize hw : wd _ _ = w
  simp only [wd, sh] at hw
  refine ⟨by omega, fld_eq (by omega), fld_eq (by omega), fld_eq (by omega), by simp only [opc, fix]; omega, by simp only [fix]; omega⟩
theorem layout57 {m v0 v1 : Nat} (hm : m = v0 * 2 ^ 25 + v1 * 2 ^ 0) (_ : v0 < 128) (_ : v1 < 512) (f0 : BitVec 2) (f1 : BitVec 4) (f2 : BitVec 4) (f3 : BitVec 4) (f4 : BitVec 2) :
    (wd m [sh f0 23, sh f1 19, sh f2 15, sh f3 11, sh f4 9]) < 2 ^ 32 ∧ fld 2 (wd m [sh f0 23, sh f1 19, sh f2 15, sh f3 11, sh f4 9]) 23 = f0 ∧ fld 4 (wd m [sh f0 23, sh f1 19, sh f2 15, sh f3 11, sh f4 9]) 19 = f1 ∧ fld 4 (wd m [sh f0 23, sh f1 19, sh f2 15, sh f3 11, sh f4 9]) 15 = f2 ∧ fld 4 (wd m [sh f0 23, sh f1 19, sh f2 15, sh f3 11, sh f4 9]) 11 = f3 ∧ fld 2 (wd m [sh f0 23, sh f1 19, sh f2 15, sh f3 11, sh f4 9]) 9 = f4 ∧ opc (wd m [sh f0 23, sh f1 19, sh f2 15, sh f3 11, sh f4 9]) = v0 ∧ fix (wd m [sh f0 23, sh f1 19, sh f2 15, sh f3 11, sh f4 9]) 8 0 = v1 := by
  have := f0.isLt
  have := f1.isLt
  have := f2.isLt
  have := f3.isLt
  have := f4.isLt
  generalize hw : wd _ _ = w
  simp only [wd, sh] at hw
  refine ⟨by omega, fld_eq (by omega), fld_eq (by omega), fld_eq (by omega), fld_eq (by omega), fld_eq (by omega), by simp only [opc, fix]; omega, by simp only [fix]; omega⟩
theorem layout58 {m v0 v1 : Nat} (hm : m = v0 * 2 ^ 25 + v1 * 2 ^ 0) (_ : v0 < 128) (_ : v1 < 4) (f0 : BitVec 2) (f1 : BitVec 4) (f2 : BitVec 4) (f3 : BitVec 4) (f4 : BitVec 4) (f5 : BitVec 4) (f6 : BitVec 1) :
    (wd m [sh f0 23, sh f1 19, sh f2 15, sh f3 11, sh f4 7, sh f5 3, sh f6 2]) < 2 ^ 32 ∧ fld 2 (wd m [sh f0 23, sh f1 19, sh f2 15, sh f3 11, sh f4 7, sh f5 3, sh f6 2]) 23 = f0 ∧ fld 4 (wd m [sh f0 23, sh f1 19, sh f2 15, sh f3 11, sh f4 7, sh f5 3, sh f6 2]) 19 = f1 ∧ fld 4 (wd m [sh f0 23, sh f1 19, sh f2 15, sh f3 11, sh f4 7, sh f5 3, sh f6 2]) 15 = f2 ∧ fld 4 (wd m [sh f0 23, sh f1 19, sh f2 15, sh f3 11, sh f4 7, sh f5 3, sh f6 2]) 11 = f3 ∧ fld 4 (wd m [sh f0 23, sh f1 19, sh f2 15, sh f3 11, sh f4 7, sh f5 3, sh f6 2]) 7 = f4 ∧ fld 4 (wd m [sh f0 23, sh f1 19, sh f2 15, sh f3 11, sh f4 7, sh f5 3, sh f6 2]) 3 = f5 ∧ fld 1 (wd m [sh f0 23, sh f1 19, sh f2 15, sh f3 11, sh f4 7, sh f5 3, sh f6 2]) 2 = f6 ∧ opc (wd m [sh f0 23, sh f1 19, sh f2 15, sh f3 11, sh f4 7, sh f5 3, sh f6 2]) = v0 ∧ fix (wd m [sh f0 23, sh f1 19, sh f2 15, sh f3 11, sh f4 7, sh f5 3, sh f6 2]) 1 0 = v1 := by
  have := f0.isLt
  have := f1.isLt
  have := f2.isLt
  have := f3.isLt
  have := f4.isLt
  have := f5.isLt
  have := f6.isLt
  generalize hw : wd _ _ = w
  simp only [wd, sh] at hw
  refine ⟨by omega, fld_eq (by omega), fld_eq (by omega), fld_eq (by omega), fld_eq (by omega), fld_eq (by omega), fld_eq (by omega), fld_eq (by omega), by simp only [opc, fix]; omega, by simp only [fix]; omega⟩
theorem layout59 {m v0 v1 v2 : Nat} (hm : m = v0 * 2 ^ 25 + v1 * 2 ^ 0 + v2 * 2 ^ 22) (_ : v0 < 128) (_ : v1 < 64) (_ : v2 < 2) (f0 : BitVec 2) (f1 : BitVec 4) (f2 : BitVec 4) (f3 : BitVec 4) (f4 : BitVec 4) :
    (wd m [sh f0 23, sh f1 18, sh f2 14, sh f3 10, sh f4 6]) < 2 ^ 32 ∧ fld 2 (wd m [sh f0 23, sh f1 18, sh f2 14, sh f3 10, sh f4 6]) 23 = f0 ∧ fld 4 (wd m [sh f0 23, sh f1 18, sh f2 14, sh f3 10, sh f4 6]) 18 = f1 ∧ fld 4 (wd m [sh f0 23, sh f1 18, sh f2 14, sh f3 10, sh f4 6]) 14 = f2 ∧ fld 4 (wd m [sh f0 23, sh f1 18, sh f2 14, sh f3 10, sh f4 6]) 10 = f3 ∧ fld 4 (wd m [sh f0 23, sh f1 18, sh f2 14, sh f3 10, sh f4 6]) 6 = f4 ∧ opc (wd m [sh f0 23, sh f1 18, sh f2 14, sh f3 10, sh f4 6]) = v0 ∧ fix (wd m [sh f0 23, sh f1 18, sh f2 14, sh f3 10, sh f4 6]) 5 0 = v1 ∧ fix (wd m [sh f0 23, sh f1 18, sh f2 14, sh f3 10, sh f4 6]) 22 22 = v2 := by
  have := f0.isLt
  have := f1.isLt
  have := f2.isLt
  have := f3.isLt
  have := f4.isLt
  generalize hw : wd _ _ = w
  simp only [wd, sh] at hw
  refine ⟨by omega, fld_eq (by omega), fld_eq (by omega), fld_eq (by omega), fld_eq (by omega), fld_eq (by omega), by simp only [opc, fix]; omega, by simp only [fix]; omega, by simp only [fix]; omega⟩
theorem layout60 {m v0 v1 : Nat} (hm : m = v0 * 2 ^ 25 + v1 * 2 ^ 16) (_ : v0 < 128) (_ : v1 < 128) (f0 : BitVec 2) (f1 : BitVec 16) :
    (wd m [sh f0 23, sh f1 0]) < 2 ^ 32 ∧ fld 2 (wd m [sh f0 23, sh f1 0]) 23 = f0 ∧ fld 16 (wd m [sh f0 23, sh f1 0]) 0 = f1 ∧ opc (wd m [sh f0 23, sh f1 0]) = v0 ∧ fix (wd m [sh f0 23, sh f1 0]) 22 16 = v1 := by
  have := f0.isLt
  have := f1.isLt
  generalize hw : wd _ _ = w
  simp only [wd, sh] at hw
  refine ⟨by omega, fld_eq (by omega), fld_eq (by omega), by simp only [opc, fix]; omega, by simp only [fix]; omega⟩
theorem layout61 {m v0 v1 : Nat} (hm : m = v0 * 2 ^ 25 + v1 * 2 ^ 0) (_ : v0 < 128) (_ : v1 < 8) (f0 : BitVec 2) (f1 : BitVec 3) (f2 : BitVec 4) (f3 : BitVec 4) (f4 : BitVec 4) (f5 : BitVec 4) (f6 : BitVec 1) :
    (wd m [sh f0 23, sh f1 20, sh f2 16, sh f3 12, sh f4 8, sh f5 4, sh f6 3]) < 2 ^ 32 ∧ fld 2 (wd m [sh f0 23, sh f1 20, sh f2 16, sh f3 12, sh f4 8, sh f5 4, sh f6 3]) 23 = f0 ∧ fld 3 (wd m [sh f0 23, sh f1 20, sh f2 16, sh f3 12, sh f4 8, sh f5 4, sh f6 3]) 20 = f1 ∧ fld 4 (wd m [sh f0 23, sh f1 20, sh f2 16, sh f3 12, sh f4 8, sh f5 4, sh f6 3]) 16 = f2 ∧ fld 4 (wd m [sh f0 23, sh f1 20, sh f2 16, sh f3 12, sh f4 8, sh f5 4, sh f6 3]) 12 = f3 ∧ fld 4 (wd m [sh f0 23, sh f1 20, sh f2 16, sh f3 12, sh f4 8, sh f5 4, sh f6 3]) 8 = f4 ∧ fld 4 (wd m [sh f0 23, sh f1 20, sh f2 16, sh f3 12, sh f4 8, sh f5 4, sh f6 3]) 4 = f5 ∧ fld 1 (wd m [sh f0 23, sh f1 20, sh f2 16, sh f3 12, sh f4 8, sh f5 4, sh f6 3]) 3 = f6 ∧ opc (wd m [sh f0 23, sh f1 20, sh f2 16, sh f3 12, sh f4 8, sh f5 4, sh f6 3]) = v0 ∧ fix (wd m [sh f0 23, sh f1 20, sh f2 16, sh f3 12, sh f4 8, sh f5 4, sh f6 3]) 2 0 = v1 := by
  have := f0.isLt
  have := f1.isLt
  have := f2.isLt
  have := f3.isLt
  have := f4.isLt
  have := f5.isLt
  have := f6.isLt
  generalize hw : wd _ _ = w
  simp only [wd, sh] at hw
  refine ⟨by omega, fld_eq (by omega), fld_eq (by omega), fld_eq (by omega), fld_eq (by omega), fld_eq (by omega), fld_eq (by omega), fld_eq (by omega), by simp only [opc, fix]; omega, by simp only [fix]; omega⟩
theorem layout62 {m v0 v1 : Nat} (hm : m = v0 * 2 ^ 25 + v1 * 2 ^ 0) (_ : v0 < 128) (_ : v1 < 64) (f0 : BitVec 2) (f1 : BitVec 4) (f2 : BitVec 4) (f3 : BitVec 4) (f4 : BitVec 4) (f5 : BitVec 1) :
    (wd m [sh f0 23, sh f1 19, sh f2 15, sh f3 11, sh f4 7, sh f5 6]) < 2 ^ 32 ∧ fld 2 (wd m [sh f0 23, sh f1 19, sh f2 15, sh f3 11, sh f4 7, sh f5 6]) 23 = f0 ∧ fld 4 (wd m [sh f0 23, sh f1 19, sh f2 15, sh f3 11, sh f4 7, sh f5 6]) 19 = f1 ∧ fld 4 (wd m [sh f0 23, sh f1 19, sh f2 15, sh f3 11, sh f4 7, sh f5 6]) 15 = f2 ∧ fld 4 (wd m [sh f0 23, sh f1 19, sh f2 15, sh f3 11, sh f4 7, sh f5 6]) 11 = f3 ∧ fld 4 (wd m [sh f0 23, sh f1 19, sh f2 15, sh f3 11, sh f4 7, sh f5 6]) 7 = f4 ∧ fld 1 (wd m [sh f0 23, sh f1 19, sh f2 15, sh f3 11, sh f4 7, sh f5 6]) 6 = f5 ∧ opc (wd m [sh f0 23, sh f1 19, sh f2 15, sh f3 11, sh f4 7, sh f5 6]) = v0 ∧ fix (wd m [sh f0 23, sh f1 19, sh f2 15, sh f3 11, sh f4 7, sh f5 6]) 5 0 = v1 := by
  have := f0.isLt
  have := f1.isLt
  have := f2.isLt
  have := f3.isLt
  have := f4.isLt
  have := f5.isLt
  generalize hw : wd _ _ = w
  simp only [wd, sh] at hw
  refine ⟨by omega, fld_eq (by omega), fld_eq (by omega), fld_eq (by omega), fld_eq (by omega), fld_eq (by omega), fld_eq (by omega), by simp only [opc, fix]; omega, by simp only [fix]; omega⟩
theorem layout63 {m v0 : Nat} (hm : m = v0 * 2 ^ 25) (_ : v0 < 128) (f0 : BitVec 2) (f1 : BitVec 3) (f2 : BitVec 4) (f3 : BitVec 4) (f4 : BitVec 4) (f5 : BitVec 4) (f6 : BitVec 4) :
    (wd m [sh f0 23, sh f1 20, sh f2 16, sh f3 12, sh f4 8, sh f5 4, sh f6 0]) < 2 ^ 32 ∧ fld 2 (wd m [sh f0 23, sh f1 20, sh f2 16, sh f3 12, sh f4 8, sh f5 4, sh f6 0]) 23 = f0 ∧ fld 3 (wd m [sh f0 23, sh f1 20, sh f2 16, sh f3 12, sh f4 8, sh f5 4, sh f6 0]) 20 = f1 ∧ fld 4 (wd m [sh f0 23, sh f1 20, sh f2 16, sh f3 12, sh f4 8, sh f5 4, sh f6 0]) 16 = f2 ∧ fld 4 (wd m [sh f0 23, sh f1 20, sh f2 16, sh f3 12, sh f4 8, sh f5 4, sh f6 0]) 12 = f3 ∧ fld 4 (wd m [sh f0 23, sh f1 20, sh f2 16, sh f3 12, sh f4 8, sh f5 4, sh f6 0]) 8 = f4 ∧ fld 4 (wd m [sh f0 23, sh f1 20, sh f2 16, sh f3 12, sh f4 8, sh f5 4, sh f6 0]) 4 = f5 ∧ fld 4 (wd m [sh f0 23, sh f1 20, sh f2 16, sh f3 12, sh f4 8, sh f5 4, sh f6 0]) 0 = f6 ∧ opc (wd m [sh f0 23, sh f1 20, sh f2 16, sh f3 12, sh f4 8, sh f5 4, sh f6 0]) = v0 := by
  have := f0.isLt
  have := f1.isLt
  have := f2.isLt
  have := f3.isLt
  have := f4.isLt
  have := f5.isLt
  have := f6.isLt
  generalize hw : wd _ _ = w
  simp only [wd, sh] at hw
  refine ⟨by omega, fld_eq (by omega), fld_eq (by omega), fld_eq (by omega), fld_eq (by omega), fld_eq (by omega), fld_eq (by omega), fld_eq (by omega), by simp only [opc, fix]; omega⟩
theorem layout64 {m v0 v1 : Nat} (hm : m = v0 * 2 ^ 25 + v1 * 2 ^ 0) (_ : v0 < 128) (_ : v1 < 524288) (f0 : BitVec 2) (f1 : BitVec 4) :
    (wd m [sh f0 23, sh f1 19]) < 2 ^ 32 ∧ fld 2 (wd m [sh f0 23, sh f1 19]) 23 = f0 ∧ fld 4 (wd m [sh f0 23, sh f1 19]) 19 = f1 ∧ opc (wd m [sh f0 23, sh f1 19]) = v0 ∧ fix (wd m [sh f0 23, sh f1 19]) 18 0 = v1 := by
  have := f0.isLt
  have := f1.isLt
  generalize hw : wd _ _ = w
  simp only [wd, sh] at hw
  refine ⟨by omega, fld_eq (by omega), fld_eq (by omega), by simp only [opc, fix]; omega, by simp only [fix]; omega⟩
theorem layout65 {m v0 v1 : Nat} (hm : m = v0 * 2 ^ 25 + v1 * 2 ^ 0) (_ : v0 < 128) (_ : v1 < 32768) (f0 : BitVec 2) (f1 : BitVec 4) (f2 : BitVec 4) :
    (wd m [sh f0 23, sh f1 19, sh f2 15]) < 2 ^ 32 ∧ fld 2 (wd m [sh f0 23, sh f1 19, sh f2 15]) 23 = f0 ∧ fld 4 (wd m [sh f0 23, sh f1 19, sh f2 15]) 19 = f1 ∧ fld 4 (wd m [sh f0 23, sh f1 19, sh f2 15]) 15 = f2 ∧ opc (wd m [sh f0 23, sh f1 19, sh f2 15]) = v0 ∧ fix (wd m [sh f0 23, sh f1 19, sh f2 15]) 14 0 = v1 := by
  have := f0.isLt
  have := f1.isLt
  have := f2.isLt
  generalize hw : wd _ _ = w
  simp only [wd, sh] at hw
  refine ⟨by omega, fld_eq (by omega), fld_eq (by omega), fld_eq (by omega), by simp only [opc, fix]; omega, by simp only [fix]; omega⟩
theorem layout66 {m v0 v1 v2 : Nat} (hm : m = v0 * 2 ^ 25 + v1 * 2 ^ 0 + v2 * 2 ^ 15) (_ : v0 < 128) (_ : v1 < 16384) (_ : v2 < 16) (f0 : BitVec 2) (f1 : BitVec 4) (f2 : BitVec 1) :
    (wd m [sh f0 23, sh f1 19, sh f2 14]) < 2 ^ 32 ∧ fld 2 (wd m [sh f0 23, sh f1 19, sh f2 14]) 23 = f0 ∧ fld 4 (wd m [sh f0 23, sh f1 19, sh f2 14]) 19 = f1 ∧ fld 1 (wd m [sh f0 23, sh f1 19, sh f2 14]) 14 = f2 ∧ opc (wd m [sh f0 23, sh f1 19, sh f2 14]) = v0 ∧ fix (wd m [sh f0 23, sh f1 19, sh f2 14]) 13 0 = v1 ∧ fix (wd m [sh f0 23, sh f1 19, sh f2 14]) 18 15 = v2 := by
  have := f0.isLt
  have := f1.isLt
  have := f2.isLt
  generalize hw : wd _ _ = w
  simp only [wd, sh] at hw
  refine ⟨by omega, fld_eq (by omega), fld_eq (by omega), fld_eq (by omega), by simp only [opc, fix]; omega, by simp only [fix]; omega, by simp only [fix]; omega⟩
theorem add (t : BitVec 1) (d : BitVec 6) (a : BitVec 6) (b : BitVec 6) : Statement (.add t d a b) := by
  intro q hq
  obtain rfl := one (p := .S) rfl hq
  obtain ⟨hb, e0, e1, e2, e3, g, c0⟩ := layout0 (m := 0x02000000) (v0 := 1) (v1 := 0) rfl (by decide) (by decide) t d a b
  refine of_word rfl hb ?_
  rw [majorS01 g, decodeS01, c0, e0, e1, e2, e3]
  rfl
theorem sub (t : BitVec 1) (d : BitVec 6) (a : BitVec 6) (b : BitVec 6) : Statement (.sub t d a b) := by
  intro q hq
  obtain rfl := one (p := .S) rfl hq
  obtain ⟨hb, e0, e1, e2, e3, g, c0⟩ := layout0 (m := 0x02000001) (v0 := 1) (v1 := 1) rfl (by decide) (by decide) t d a b
  refine of_word rfl hb ?_
  rw [majorS01 g, decodeS01, c0, e0, e1, e2, e3]
  rfl
theorem and (t : BitVec 1) (d : BitVec 6) (a : BitVec 6) (b : BitVec 6) : Statement (.and t d a b) := by
  intro q hq
  obtain rfl := one (p := .S) rfl hq
  obtain ⟨hb, e0, e1, e2, e3, g, c0⟩ := layout0 (m := 0x02000002) (v0 := 1) (v1 := 2) rfl (by decide) (by decide) t d a b
  refine of_word rfl hb ?_
  rw [majorS01 g, decodeS01, c0, e0, e1, e2, e3]
  rfl
theorem or (t : BitVec 1) (d : BitVec 6) (a : BitVec 6) (b : BitVec 6) : Statement (.or t d a b) := by
  intro q hq
  obtain rfl := one (p := .S) rfl hq
  obtain ⟨hb, e0, e1, e2, e3, g, c0⟩ := layout0 (m := 0x02000003) (v0 := 1) (v1 := 3) rfl (by decide) (by decide) t d a b
  refine of_word rfl hb ?_
  rw [majorS01 g, decodeS01, c0, e0, e1, e2, e3]
  rfl
theorem xor (t : BitVec 1) (d : BitVec 6) (a : BitVec 6) (b : BitVec 6) : Statement (.xor t d a b) := by
  intro q hq
  obtain rfl := one (p := .S) rfl hq
  obtain ⟨hb, e0, e1, e2, e3, g, c0⟩ := layout0 (m := 0x02000004) (v0 := 1) (v1 := 4) rfl (by decide) (by decide) t d a b
  refine of_word rfl hb ?_
  rw [majorS01 g, decodeS01, c0, e0, e1, e2, e3]
  rfl
theorem sll (t : BitVec 1) (d : BitVec 6) (a : BitVec 6) (b : BitVec 6) : Statement (.sll t d a b) := by
  intro q hq
  obtain rfl := one (p := .S) rfl hq
  obtain ⟨hb, e0, e1, e2, e3, g, c0⟩ := layout0 (m := 0x02000005) (v0 := 1) (v1 := 5) rfl (by decide) (by decide) t d a b
  refine of_word rfl hb ?_
  rw [majorS01 g, decodeS01, c0, e0, e1, e2, e3]
  rfl
theorem srl (t : BitVec 1) (d : BitVec 6) (a : BitVec 6) (b : BitVec 6) : Statement (.srl t d a b) := by
  intro q hq
  obtain rfl := one (p := .S) rfl hq
  obtain ⟨hb, e0, e1, e2, e3, g, c0⟩ := layout0 (m := 0x02000006) (v0 := 1) (v1 := 6) rfl (by decide) (by decide) t d a b
  refine of_word rfl hb ?_
  rw [majorS01 g, decodeS01, c0, e0, e1, e2, e3]
  rfl
theorem sra (t : BitVec 1) (d : BitVec 6) (a : BitVec 6) (b : BitVec 6) : Statement (.sra t d a b) := by
  intro q hq
  obtain rfl := one (p := .S) rfl hq
  obtain ⟨hb, e0, e1, e2, e3, g, c0⟩ := layout0 (m := 0x02000007) (v0 := 1) (v1 := 7) rfl (by decide) (by decide) t d a b
  refine of_word rfl hb ?_
  rw [majorS01 g, decodeS01, c0, e0, e1, e2, e3]
  rfl
theorem slt (t : BitVec 1) (d : BitVec 6) (a : BitVec 6) (b : BitVec 6) : Statement (.slt t d a b) := by
  intro q hq
  obtain rfl := one (p := .S) rfl hq
  obtain ⟨hb, e0, e1, e2, e3, g, c0⟩ := layout0 (m := 0x02000008) (v0 := 1) (v1 := 8) rfl (by decide) (by decide) t d a b
  refine of_word rfl hb ?_
  rw [majorS01 g, decodeS01, c0, e0, e1, e2, e3]
  rfl
theorem sltu (t : BitVec 1) (d : BitVec 6) (a : BitVec 6) (b : BitVec 6) : Statement (.sltu t d a b) := by
  intro q hq
  obtain rfl := one (p := .S) rfl hq
  obtain ⟨hb, e0, e1, e2, e3, g, c0⟩ := layout0 (m := 0x02000009) (v0 := 1) (v1 := 9) rfl (by decide) (by decide) t d a b
  refine of_word rfl hb ?_
  rw [majorS01 g, decodeS01, c0, e0, e1, e2, e3]
  rfl
theorem seq (t : BitVec 1) (d : BitVec 6) (a : BitVec 6) (b : BitVec 6) : Statement (.seq t d a b) := by
  intro q hq
  obtain rfl := one (p := .S) rfl hq
  obtain ⟨hb, e0, e1, e2, e3, g, c0⟩ := layout0 (m := 0x0200000A) (v0 := 1) (v1 := 10) rfl (by decide) (by decide) t d a b
  refine of_word rfl hb ?_
  rw [majorS01 g, decodeS01, c0, e0, e1, e2, e3]
  rfl
theorem min (t : BitVec 1) (d : BitVec 6) (a : BitVec 6) (b : BitVec 6) : Statement (.min t d a b) := by
  intro q hq
  obtain rfl := one (p := .S) rfl hq
  obtain ⟨hb, e0, e1, e2, e3, g, c0⟩ := layout0 (m := 0x0200000B) (v0 := 1) (v1 := 11) rfl (by decide) (by decide) t d a b
  refine of_word rfl hb ?_
  rw [majorS01 g, decodeS01, c0, e0, e1, e2, e3]
  rfl
theorem max (t : BitVec 1) (d : BitVec 6) (a : BitVec 6) (b : BitVec 6) : Statement (.max t d a b) := by
  intro q hq
  obtain rfl := one (p := .S) rfl hq
  obtain ⟨hb, e0, e1, e2, e3, g, c0⟩ := layout0 (m := 0x0200000C) (v0 := 1) (v1 := 12) rfl (by decide) (by decide) t d a b
  refine of_word rfl hb ?_
  rw [majorS01 g, decodeS01, c0, e0, e1, e2, e3]
  rfl
theorem minu (t : BitVec 1) (d : BitVec 6) (a : BitVec 6) (b : BitVec 6) : Statement (.minu t d a b) := by
  intro q hq
  obtain rfl := one (p := .S) rfl hq
  obtain ⟨hb, e0, e1, e2, e3, g, c0⟩ := layout0 (m := 0x0200000D) (v0 := 1) (v1 := 13) rfl (by decide) (by decide) t d a b
  refine of_word rfl hb ?_
  rw [majorS01 g, decodeS01, c0, e0, e1, e2, e3]
  rfl
theorem maxu (t : BitVec 1) (d : BitVec 6) (a : BitVec 6) (b : BitVec 6) : Statement (.maxu t d a b) := by
  intro q hq
  obtain rfl := one (p := .S) rfl hq
  obtain ⟨hb, e0, e1, e2, e3, g, c0⟩ := layout0 (m := 0x0200000E) (v0 := 1) (v1 := 14) rfl (by decide) (by decide) t d a b
  refine of_word rfl hb ?_
  rw [majorS01 g, decodeS01, c0, e0, e1, e2, e3]
  rfl
theorem adds (t : BitVec 1) (d : BitVec 6) (a : BitVec 6) (b : BitVec 6) : Statement (.adds t d a b) := by
  intro q hq
  obtain rfl := one (p := .S) rfl hq
  obtain ⟨hb, e0, e1, e2, e3, g, c0⟩ := layout0 (m := 0x0200000F) (v0 := 1) (v1 := 15) rfl (by decide) (by decide) t d a b
  refine of_word rfl hb ?_
  rw [majorS01 g, decodeS01, c0, e0, e1, e2, e3]
  rfl
theorem subs (t : BitVec 1) (d : BitVec 6) (a : BitVec 6) (b : BitVec 6) : Statement (.subs t d a b) := by
  intro q hq
  obtain rfl := one (p := .S) rfl hq
  obtain ⟨hb, e0, e1, e2, e3, g, c0⟩ := layout0 (m := 0x02000010) (v0 := 1) (v1 := 16) rfl (by decide) (by decide) t d a b
  refine of_word rfl hb ?_
  rw [majorS01 g, decodeS01, c0, e0, e1, e2, e3]
  rfl
theorem addsu (t : BitVec 1) (d : BitVec 6) (a : BitVec 6) (b : BitVec 6) : Statement (.addsu t d a b) := by
  intro q hq
  obtain rfl := one (p := .S) rfl hq
  obtain ⟨hb, e0, e1, e2, e3, g, c0⟩ := layout0 (m := 0x02000011) (v0 := 1) (v1 := 17) rfl (by decide) (by decide) t d a b
  refine of_word rfl hb ?_
  rw [majorS01 g, decodeS01, c0, e0, e1, e2, e3]
  rfl
theorem subsu (t : BitVec 1) (d : BitVec 6) (a : BitVec 6) (b : BitVec 6) : Statement (.subsu t d a b) := by
  intro q hq
  obtain rfl := one (p := .S) rfl hq
  obtain ⟨hb, e0, e1, e2, e3, g, c0⟩ := layout0 (m := 0x02000012) (v0 := 1) (v1 := 18) rfl (by decide) (by decide) t d a b
  refine of_word rfl hb ?_
  rw [majorS01 g, decodeS01, c0, e0, e1, e2, e3]
  rfl
theorem mul (t : BitVec 1) (d : BitVec 6) (a : BitVec 6) (b : BitVec 6) : Statement (.mul t d a b) := by
  intro q hq
  obtain rfl := one (p := .S) rfl hq
  obtain ⟨hb, e0, e1, e2, e3, g, c0⟩ := layout0 (m := 0x02000013) (v0 := 1) (v1 := 19) rfl (by decide) (by decide) t d a b
  refine of_word rfl hb ?_
  rw [majorS01 g, decodeS01, c0, e0, e1, e2, e3]
  rfl
theorem mulh (t : BitVec 1) (d : BitVec 6) (a : BitVec 6) (b : BitVec 6) : Statement (.mulh t d a b) := by
  intro q hq
  obtain rfl := one (p := .S) rfl hq
  obtain ⟨hb, e0, e1, e2, e3, g, c0⟩ := layout0 (m := 0x02000014) (v0 := 1) (v1 := 20) rfl (by decide) (by decide) t d a b
  refine of_word rfl hb ?_
  rw [majorS01 g, decodeS01, c0, e0, e1, e2, e3]
  rfl
theorem mulhu (t : BitVec 1) (d : BitVec 6) (a : BitVec 6) (b : BitVec 6) : Statement (.mulhu t d a b) := by
  intro q hq
  obtain rfl := one (p := .S) rfl hq
  obtain ⟨hb, e0, e1, e2, e3, g, c0⟩ := layout0 (m := 0x02000015) (v0 := 1) (v1 := 21) rfl (by decide) (by decide) t d a b
  refine of_word rfl hb ?_
  rw [majorS01 g, decodeS01, c0, e0, e1, e2, e3]
  rfl
theorem div (t : BitVec 1) (d : BitVec 6) (a : BitVec 6) (b : BitVec 6) : Statement (.div t d a b) := by
  intro q hq
  obtain rfl := one (p := .S) rfl hq
  obtain ⟨hb, e0, e1, e2, e3, g, c0⟩ := layout0 (m := 0x02000016) (v0 := 1) (v1 := 22) rfl (by decide) (by decide) t d a b
  refine of_word rfl hb ?_
  rw [majorS01 g, decodeS01, c0, e0, e1, e2, e3]
  rfl
theorem divu (t : BitVec 1) (d : BitVec 6) (a : BitVec 6) (b : BitVec 6) : Statement (.divu t d a b) := by
  intro q hq
  obtain rfl := one (p := .S) rfl hq
  obtain ⟨hb, e0, e1, e2, e3, g, c0⟩ := layout0 (m := 0x02000017) (v0 := 1) (v1 := 23) rfl (by decide) (by decide) t d a b
  refine of_word rfl hb ?_
  rw [majorS01 g, decodeS01, c0, e0, e1, e2, e3]
  rfl
theorem rem (t : BitVec 1) (d : BitVec 6) (a : BitVec 6) (b : BitVec 6) : Statement (.rem t d a b) := by
  intro q hq
  obtain rfl := one (p := .S) rfl hq
  obtain ⟨hb, e0, e1, e2, e3, g, c0⟩ := layout0 (m := 0x02000018) (v0 := 1) (v1 := 24) rfl (by decide) (by decide) t d a b
  refine of_word rfl hb ?_
  rw [majorS01 g, decodeS01, c0, e0, e1, e2, e3]
  rfl
theorem remu (t : BitVec 1) (d : BitVec 6) (a : BitVec 6) (b : BitVec 6) : Statement (.remu t d a b) := by
  intro q hq
  obtain rfl := one (p := .S) rfl hq
  obtain ⟨hb, e0, e1, e2, e3, g, c0⟩ := layout0 (m := 0x02000019) (v0 := 1) (v1 := 25) rfl (by decide) (by decide) t d a b
  refine of_word rfl hb ?_
  rw [majorS01 g, decodeS01, c0, e0, e1, e2, e3]
  rfl
theorem andn (t : BitVec 1) (d : BitVec 6) (a : BitVec 6) (b : BitVec 6) : Statement (.andn t d a b) := by
  intro q hq
  obtain rfl := one (p := .S) rfl hq
  obtain ⟨hb, e0, e1, e2, e3, g, c0⟩ := layout0 (m := 0x0200001A) (v0 := 1) (v1 := 26) rfl (by decide) (by decide) t d a b
  refine of_word rfl hb ?_
  rw [majorS01 g, decodeS01, c0, e0, e1, e2, e3]
  rfl
theorem clz (t : BitVec 1) (d : BitVec 6) (a : BitVec 6) : Statement (.clz t d a) := by
  intro q hq
  obtain rfl := one (p := .S) rfl hq
  have h0 := t.isLt
  have h1 := d.isLt
  have h2 := a.isLt
  refine of_word rfl ?_ ?_
  · simp only [wd, sh]; omega
  · generalize hw : wd _ _ = w
    simp only [wd, sh] at hw
    have e0 : fld 1 w 24 = t := fld_eq (by omega)
    have e1 : fld 6 w 18 = d := fld_eq (by omega)
    have e2 : fld 6 w 12 = a := fld_eq (by omega)
    have g : opc w = 0x01 := by simp only [opc, fix]; omega
    have c0 : fix w 5 0 = 27 := by simp only [fix]; omega
    have c1 : fix w 11 0 = 27 := by simp only [fix]; omega
    rw [majorS01 g]; simp only [decodeS01, e0, e1, e2, c0, c1, reduceIte, Nat.reduceEqDiff, and_true, true_and, false_and, and_false, and_self]
theorem popc (t : BitVec 1) (d : BitVec 6) (a : BitVec 6) : Statement (.popc t d a) := by
  intro q hq
  obtain rfl := one (p := .S) rfl hq
  have h0 := t.isLt
  have h1 := d.isLt
  have h2 := a.isLt
  refine of_word rfl ?_ ?_
  · simp only [wd, sh]; omega
  · generalize hw : wd _ _ = w
    simp only [wd, sh] at hw
    have e0 : fld 1 w 24 = t := fld_eq (by omega)
    have e1 : fld 6 w 18 = d := fld_eq (by omega)
    have e2 : fld 6 w 12 = a := fld_eq (by omega)
    have g : opc w = 0x01 := by simp only [opc, fix]; omega
    have c0 : fix w 5 0 = 28 := by simp only [fix]; omega
    have c1 : fix w 11 0 = 28 := by simp only [fix]; omega
    rw [majorS01 g]; simp only [decodeS01, e0, e1, e2, c0, c1, reduceIte, Nat.reduceEqDiff, and_true, true_and, false_and, and_false, and_self]
theorem addi (t : BitVec 1) (d : BitVec 6) (a : BitVec 6) (i : BitVec 12) : Statement (.addi t d a i) := by
  intro q hq
  obtain rfl := one (p := .S) rfl hq
  obtain ⟨hb, e0, e1, e2, e3, g⟩ := layout1 (m := 0x04000000) (v0 := 2) rfl (by decide) t d a i
  refine of_word rfl hb ?_
  rw [majorS02 g, e0, e1, e2, e3]
theorem andi (t : BitVec 1) (d : BitVec 6) (a : BitVec 6) (i : BitVec 12) : Statement (.andi t d a i) := by
  intro q hq
  obtain rfl := one (p := .S) rfl hq
  obtain ⟨hb, e0, e1, e2, e3, g⟩ := layout1 (m := 0x06000000) (v0 := 3) rfl (by decide) t d a i
  refine of_word rfl hb ?_
  rw [majorS03 g, e0, e1, e2, e3]
theorem ori (t : BitVec 1) (d : BitVec 6) (a : BitVec 6) (i : BitVec 12) : Statement (.ori t d a i) := by
  intro q hq
  obtain rfl := one (p := .S) rfl hq
  obtain ⟨hb, e0, e1, e2, e3, g⟩ := layout1 (m := 0x08000000) (v0 := 4) rfl (by decide) t d a i
  refine of_word rfl hb ?_
  rw [majorS04 g, e0, e1, e2, e3]
theorem xori (t : BitVec 1) (d : BitVec 6) (a : BitVec 6) (i : BitVec 12) : Statement (.xori t d a i) := by
  intro q hq
  obtain rfl := one (p := .S) rfl hq
  obtain ⟨hb, e0, e1, e2, e3, g⟩ := layout1 (m := 0x0A000000) (v0 := 5) rfl (by decide) t d a i
  refine of_word rfl hb ?_
  rw [majorS05 g, e0, e1, e2, e3]
theorem slli (t : BitVec 1) (d : BitVec 6) (a : BitVec 6) (n : BitVec 6) : Statement (.slli t d a n) := by
  intro q hq
  obtain rfl := one (p := .S) rfl hq
  obtain ⟨hb, e0, e1, e2, e3, g, c0⟩ := layout2 (m := 0x0C000000) (v0 := 6) (v1 := 0) rfl (by decide) (by decide) t d a n
  refine of_word rfl hb ?_
  rw [majorS06 g, decodeS06, c0, e0, e1, e2, e3]
  rfl
theorem srli (t : BitVec 1) (d : BitVec 6) (a : BitVec 6) (n : BitVec 6) : Statement (.srli t d a n) := by
  intro q hq
  obtain rfl := one (p := .S) rfl hq
  obtain ⟨hb, e0, e1, e2, e3, g, c0⟩ := layout2 (m := 0x0C000040) (v0 := 6) (v1 := 1) rfl (by decide) (by decide) t d a n
  refine of_word rfl hb ?_
  rw [majorS06 g, decodeS06, c0, e0, e1, e2, e3]
  rfl
theorem srai (t : BitVec 1) (d : BitVec 6) (a : BitVec 6) (n : BitVec 6) : Statement (.srai t d a n) := by
  intro q hq
  obtain rfl := one (p := .S) rfl hq
  obtain ⟨hb, e0, e1, e2, e3, g, c0⟩ := layout2 (m := 0x0C000080) (v0 := 6) (v1 := 2) rfl (by decide) (by decide) t d a n
  refine of_word rfl hb ?_
  rw [majorS06 g, decodeS06, c0, e0, e1, e2, e3]
  rfl
theorem slti (t : BitVec 1) (d : BitVec 6) (a : BitVec 6) (i : BitVec 12) : Statement (.slti t d a i) := by
  intro q hq
  obtain rfl := one (p := .S) rfl hq
  obtain ⟨hb, e0, e1, e2, e3, g⟩ := layout1 (m := 0x0E000000) (v0 := 7) rfl (by decide) t d a i
  refine of_word rfl hb ?_
  rw [majorS07 g, e0, e1, e2, e3]
theorem sltiu (t : BitVec 1) (d : BitVec 6) (a : BitVec 6) (i : BitVec 12) : Statement (.sltiu t d a i) := by
  intro q hq
  obtain rfl := one (p := .S) rfl hq
  obtain ⟨hb, e0, e1, e2, e3, g⟩ := layout1 (m := 0x10000000) (v0 := 8) rfl (by decide) t d a i
  refine of_word rfl hb ?_
  rw [majorS08 g, e0, e1, e2, e3]
theorem seqi (t : BitVec 1) (d : BitVec 6) (a : BitVec 6) (i : BitVec 12) : Statement (.seqi t d a i) := by
  intro q hq
  obtain rfl := one (p := .S) rfl hq
  obtain ⟨hb, e0, e1, e2, e3, g⟩ := layout1 (m := 0x12000000) (v0 := 9) rfl (by decide) t d a i
  refine of_word rfl hb ?_
  rw [majorS09 g, e0, e1, e2, e3]
theorem movi (t : BitVec 1) (d : BitVec 6) (i : BitVec 18) : Statement (.movi t d i) := by
  intro q hq
  obtain rfl := one (p := .S) rfl hq
  obtain ⟨hb, e0, e1, e2, g⟩ := layout3 (m := 0x14000000) (v0 := 10) rfl (by decide) t d i
  refine of_word rfl hb ?_
  rw [majorS0A g, e0, e1, e2]
theorem movk (t : BitVec 1) (d : BitVec 6) (h : BitVec 2) (i : BitVec 16) : Statement (.movk t d h i) := by
  intro q hq
  obtain rfl := one (p := .S) rfl hq
  obtain ⟨hb, e0, e1, e2, e3, g⟩ := layout4 (m := 0x16000000) (v0 := 11) rfl (by decide) t d h i
  refine of_word rfl hb ?_
  rw [majorS0B g, e0, e1, e2, e3]
theorem adr (t : BitVec 1) (d : BitVec 6) (i : BitVec 18) : Statement (.adr t d i) := by
  intro q hq
  obtain rfl := one (p := .S) rfl hq
  obtain ⟨hb, e0, e1, e2, g⟩ := layout3 (m := 0x18000000) (v0 := 12) rfl (by decide) t d i
  refine of_word rfl hb ?_
  rw [majorS0C g, e0, e1, e2]
theorem sel (t : BitVec 1) (d : BitVec 6) (a : BitVec 6) (b : BitVec 6) (c : BitVec 6) : Statement (.sel t d a b c) := by
  intro q hq
  obtain rfl := one (p := .S) rfl hq
  obtain ⟨hb, e0, e1, e2, e3, e4, g⟩ := layout5 (m := 0x1A000000) (v0 := 13) rfl (by decide) t d a b c
  refine of_word rfl hb ?_
  rw [majorS0D g, e0, e1, e2, e3, e4]
theorem faddF32 (t : BitVec 1) (d : BitVec 6) (a : BitVec 6) (b : BitVec 6) (m : BitVec 3) : Statement (.faddF32 t d a b m) := by
  intro q hq
  obtain rfl := one (p := .S) rfl hq
  obtain ⟨hb, e0, e1, e2, e3, e4, g, c0⟩ := layout6 (m := 0x20000000) (v0 := 16) (v1 := 0) rfl (by decide) (by decide) t d a b m
  refine of_word rfl hb ?_
  rw [majorS10 g, decodeS10, c0, e0, e1, e2, e3, e4]
  rfl
theorem fsubF32 (t : BitVec 1) (d : BitVec 6) (a : BitVec 6) (b : BitVec 6) (m : BitVec 3) : Statement (.fsubF32 t d a b m) := by
  intro q hq
  obtain rfl := one (p := .S) rfl hq
  obtain ⟨hb, e0, e1, e2, e3, e4, g, c0⟩ := layout6 (m := 0x20000008) (v0 := 16) (v1 := 1) rfl (by decide) (by decide) t d a b m
  refine of_word rfl hb ?_
  rw [majorS10 g, decodeS10, c0, e0, e1, e2, e3, e4]
  rfl
theorem fmulF32 (t : BitVec 1) (d : BitVec 6) (a : BitVec 6) (b : BitVec 6) (m : BitVec 3) : Statement (.fmulF32 t d a b m) := by
  intro q hq
  obtain rfl := one (p := .S) rfl hq
  obtain ⟨hb, e0, e1, e2, e3, e4, g, c0⟩ := layout6 (m := 0x20000010) (v0 := 16) (v1 := 2) rfl (by decide) (by decide) t d a b m
  refine of_word rfl hb ?_
  rw [majorS10 g, decodeS10, c0, e0, e1, e2, e3, e4]
  rfl
theorem fminF32 (t : BitVec 1) (d : BitVec 6) (a : BitVec 6) (b : BitVec 6) : Statement (.fminF32 t d a b) := by
  intro q hq
  obtain rfl := one (p := .S) rfl hq
  have h0 := t.isLt
  have h1 := d.isLt
  have h2 := a.isLt
  have h3 := b.isLt
  refine of_word rfl ?_ ?_
  · simp only [wd, sh]; omega
  · generalize hw : wd _ _ = w
    simp only [wd, sh] at hw
    have e0 : fld 1 w 24 = t := fld_eq (by omega)
    have e1 : fld 6 w 18 = d := fld_eq (by omega)
    have e2 : fld 6 w 12 = a := fld_eq (by omega)
    have e3 : fld 6 w 6 = b := fld_eq (by omega)
    have g : opc w = 0x10 := by simp only [opc, fix]; omega
    have c0 : fix w 5 3 = 3 := by simp only [fix]; omega
    have c1 : fix w 5 0 = 24 := by simp only [fix]; omega
    rw [majorS10 g]; simp only [decodeS10, e0, e1, e2, e3, c0, c1, reduceIte, Nat.reduceEqDiff, and_true, true_and, false_and, and_false, and_self]
theorem fmaxF32 (t : BitVec 1) (d : BitVec 6) (a : BitVec 6) (b : BitVec 6) : Statement (.fmaxF32 t d a b) := by
  intro q hq
  obtain rfl := one (p := .S) rfl hq
  have h0 := t.isLt
  have h1 := d.isLt
  have h2 := a.isLt
  have h3 := b.isLt
  refine of_word rfl ?_ ?_
  · simp only [wd, sh]; omega
  · generalize hw : wd _ _ = w
    simp only [wd, sh] at hw
    have e0 : fld 1 w 24 = t := fld_eq (by omega)
    have e1 : fld 6 w 18 = d := fld_eq (by omega)
    have e2 : fld 6 w 12 = a := fld_eq (by omega)
    have e3 : fld 6 w 6 = b := fld_eq (by omega)
    have g : opc w = 0x10 := by simp only [opc, fix]; omega
    have c0 : fix w 5 3 = 4 := by simp only [fix]; omega
    have c1 : fix w 5 0 = 32 := by simp only [fix]; omega
    rw [majorS10 g]; simp only [decodeS10, e0, e1, e2, e3, c0, c1, reduceIte, Nat.reduceEqDiff, and_true, true_and, false_and, and_false, and_self]
theorem fnegF32 (t : BitVec 1) (d : BitVec 6) (a : BitVec 6) : Statement (.fnegF32 t d a) := by
  intro q hq
  obtain rfl := one (p := .S) rfl hq
  have h0 := t.isLt
  have h1 := d.isLt
  have h2 := a.isLt
  refine of_word rfl ?_ ?_
  · simp only [wd, sh]; omega
  · generalize hw : wd _ _ = w
    simp only [wd, sh] at hw
    have e0 : fld 1 w 24 = t := fld_eq (by omega)
    have e1 : fld 6 w 18 = d := fld_eq (by omega)
    have e2 : fld 6 w 12 = a := fld_eq (by omega)
    have g : opc w = 0x10 := by simp only [opc, fix]; omega
    have c0 : fix w 5 3 = 5 := by simp only [fix]; omega
    have c1 : fix w 5 0 = 40 := by simp only [fix]; omega
    have c2 : fix w 11 0 = 40 := by simp only [fix]; omega
    rw [majorS10 g]; simp only [decodeS10, e0, e1, e2, c0, c1, c2, reduceIte, Nat.reduceEqDiff, and_true, true_and, false_and, and_false, and_self]
theorem fabsF32 (t : BitVec 1) (d : BitVec 6) (a : BitVec 6) : Statement (.fabsF32 t d a) := by
  intro q hq
  obtain rfl := one (p := .S) rfl hq
  have h0 := t.isLt
  have h1 := d.isLt
  have h2 := a.isLt
  refine of_word rfl ?_ ?_
  · simp only [wd, sh]; omega
  · generalize hw : wd _ _ = w
    simp only [wd, sh] at hw
    have e0 : fld 1 w 24 = t := fld_eq (by omega)
    have e1 : fld 6 w 18 = d := fld_eq (by omega)
    have e2 : fld 6 w 12 = a := fld_eq (by omega)
    have g : opc w = 0x10 := by simp only [opc, fix]; omega
    have c0 : fix w 5 3 = 6 := by simp only [fix]; omega
    have c1 : fix w 5 0 = 48 := by simp only [fix]; omega
    have c2 : fix w 11 0 = 48 := by simp only [fix]; omega
    rw [majorS10 g]; simp only [decodeS10, e0, e1, e2, c0, c1, c2, reduceIte, Nat.reduceEqDiff, and_true, true_and, false_and, and_false, and_self]
theorem feqF32 (t : BitVec 1) (d : BitVec 6) (a : BitVec 6) (b : BitVec 6) : Statement (.feqF32 t d a b) := by
  intro q hq
  obtain rfl := one (p := .S) rfl hq
  obtain ⟨hb, e0, e1, e2, e3, g, c0⟩ := layout0 (m := 0x22000000) (v0 := 17) (v1 := 0) rfl (by decide) (by decide) t d a b
  refine of_word rfl hb ?_
  rw [majorS11 g, decodeS11, c0, e0, e1, e2, e3]
  rfl
theorem fltF32 (t : BitVec 1) (d : BitVec 6) (a : BitVec 6) (b : BitVec 6) : Statement (.fltF32 t d a b) := by
  intro q hq
  obtain rfl := one (p := .S) rfl hq
  obtain ⟨hb, e0, e1, e2, e3, g, c0⟩ := layout0 (m := 0x22000001) (v0 := 17) (v1 := 1) rfl (by decide) (by decide) t d a b
  refine of_word rfl hb ?_
  rw [majorS11 g, decodeS11, c0, e0, e1, e2, e3]
  rfl
theorem fleF32 (t : BitVec 1) (d : BitVec 6) (a : BitVec 6) (b : BitVec 6) : Statement (.fleF32 t d a b) := by
  intro q hq
  obtain rfl := one (p := .S) rfl hq
  obtain ⟨hb, e0, e1, e2, e3, g, c0⟩ := layout0 (m := 0x22000002) (v0 := 17) (v1 := 2) rfl (by decide) (by decide) t d a b
  refine of_word rfl hb ?_
  rw [majorS11 g, decodeS11, c0, e0, e1, e2, e3]
  rfl
theorem fcvtF32S64 (t : BitVec 1) (d : BitVec 6) (a : BitVec 6) (m : BitVec 3) : Statement (.fcvtF32S64 t d a m) := by
  intro q hq
  obtain rfl := one (p := .S) rfl hq
  obtain ⟨hb, e0, e1, e2, e3, g, c0⟩ := layout7 (m := 0x24000000) (v0 := 18) (v1 := 0) rfl (by decide) (by decide) t d a m
  refine of_word rfl hb ?_
  rw [majorS12 g, decodeS12, c0, e0, e1, e2, e3]
  rfl
theorem fcvtF32B64 (t : BitVec 1) (d : BitVec 6) (a : BitVec 6) (m : BitVec 3) : Statement (.fcvtF32B64 t d a m) := by
  intro q hq
  obtain rfl := one (p := .S) rfl hq
  obtain ⟨hb, e0, e1, e2, e3, g, c0⟩ := layout7 (m := 0x24000008) (v0 := 18) (v1 := 1) rfl (by decide) (by decide) t d a m
  refine of_word rfl hb ?_
  rw [majorS12 g, decodeS12, c0, e0, e1, e2, e3]
  rfl
theorem fcvtS64F32 (t : BitVec 1) (d : BitVec 6) (a : BitVec 6) (m : BitVec 3) : Statement (.fcvtS64F32 t d a m) := by
  intro q hq
  obtain rfl := one (p := .S) rfl hq
  obtain ⟨hb, e0, e1, e2, e3, g, c0⟩ := layout7 (m := 0x24000010) (v0 := 18) (v1 := 2) rfl (by decide) (by decide) t d a m
  refine of_word rfl hb ?_
  rw [majorS12 g, decodeS12, c0, e0, e1, e2, e3]
  rfl
theorem fcvtB64F32 (t : BitVec 1) (d : BitVec 6) (a : BitVec 6) (m : BitVec 3) : Statement (.fcvtB64F32 t d a m) := by
  intro q hq
  obtain rfl := one (p := .S) rfl hq
  obtain ⟨hb, e0, e1, e2, e3, g, c0⟩ := layout7 (m := 0x24000018) (v0 := 18) (v1 := 3) rfl (by decide) (by decide) t d a m
  refine of_word rfl hb ?_
  rw [majorS12 g, decodeS12, c0, e0, e1, e2, e3]
  rfl
theorem fcvtS32F32 (t : BitVec 1) (d : BitVec 6) (a : BitVec 6) (m : BitVec 3) : Statement (.fcvtS32F32 t d a m) := by
  intro q hq
  obtain rfl := one (p := .S) rfl hq
  obtain ⟨hb, e0, e1, e2, e3, g, c0⟩ := layout7 (m := 0x24000020) (v0 := 18) (v1 := 4) rfl (by decide) (by decide) t d a m
  refine of_word rfl hb ?_
  rw [majorS12 g, decodeS12, c0, e0, e1, e2, e3]
  rfl
theorem fcvtB32F32 (t : BitVec 1) (d : BitVec 6) (a : BitVec 6) (m : BitVec 3) : Statement (.fcvtB32F32 t d a m) := by
  intro q hq
  obtain rfl := one (p := .S) rfl hq
  obtain ⟨hb, e0, e1, e2, e3, g, c0⟩ := layout7 (m := 0x24000028) (v0 := 18) (v1 := 5) rfl (by decide) (by decide) t d a m
  refine of_word rfl hb ?_
  rw [majorS12 g, decodeS12, c0, e0, e1, e2, e3]
  rfl
theorem fcvtF32Bf16 (t : BitVec 1) (d : BitVec 6) (a : BitVec 6) : Statement (.fcvtF32Bf16 t d a) := by
  intro q hq
  obtain rfl := one (p := .S) rfl hq
  have h0 := t.isLt
  have h1 := d.isLt
  have h2 := a.isLt
  refine of_word rfl ?_ ?_
  · simp only [wd, sh]; omega
  · generalize hw : wd _ _ = w
    simp only [wd, sh] at hw
    have e0 : fld 1 w 24 = t := fld_eq (by omega)
    have e1 : fld 6 w 18 = d := fld_eq (by omega)
    have e2 : fld 6 w 12 = a := fld_eq (by omega)
    have g : opc w = 0x12 := by simp only [opc, fix]; omega
    have c0 : fix w 11 3 = 6 := by simp only [fix]; omega
    have c1 : fix w 11 0 = 48 := by simp only [fix]; omega
    rw [majorS12 g]; simp only [decodeS12, e0, e1, e2, c0, c1, reduceIte, Nat.reduceEqDiff, and_true, true_and, false_and, and_false, and_self]
theorem fcvtBf16F32 (t : BitVec 1) (d : BitVec 6) (a : BitVec 6) (m : BitVec 3) : Statement (.fcvtBf16F32 t d a m) := by
  intro q hq
  obtain rfl := one (p := .S) rfl hq
  have h0 := t.isLt
  have h1 := d.isLt
  have h2 := a.isLt
  have h3 := m.isLt
  refine of_word rfl ?_ ?_
  · simp only [wd, sh]; omega
  · generalize hw : wd _ _ = w
    simp only [wd, sh] at hw
    have e0 : fld 1 w 24 = t := fld_eq (by omega)
    have e1 : fld 6 w 18 = d := fld_eq (by omega)
    have e2 : fld 6 w 12 = a := fld_eq (by omega)
    have e3 : fld 3 w 0 = m := fld_eq (by omega)
    have g : opc w = 0x12 := by simp only [opc, fix]; omega
    have c0 : fix w 11 3 = 7 := by simp only [fix]; omega
    have c1 : ¬ fix w 11 0 = 48 := by simp only [fix]; omega
    rw [majorS12 g]; simp only [decodeS12, e0, e1, e2, e3, c0, c1, reduceIte, Nat.reduceEqDiff, and_true, true_and, false_and, and_false, and_self]
theorem fmaF32 (m : BitVec 2) (t : BitVec 1) (d : BitVec 6) (a : BitVec 6) (b : BitVec 6) (c : BitVec 6) : Statement (.fmaF32 m t d a b c) := by
  intro q hq
  obtain rfl := one (p := .S) rfl hq
  have h0 := m.isLt
  have h1 := t.isLt
  have h2 := d.isLt
  have h3 := a.isLt
  have h4 := b.isLt
  have h5 := c.isLt
  refine of_word rfl ?_ ?_
  · simp only [wd, sh]; omega
  · generalize hw : wd _ _ = w
    simp only [wd, sh] at hw
    have e0 : fld 2 w 25 = m := fld_eq (by omega)
    have e1 : fld 1 w 24 = t := fld_eq (by omega)
    have e2 : fld 6 w 18 = d := fld_eq (by omega)
    have e3 : fld 6 w 12 = a := fld_eq (by omega)
    have e4 : fld 6 w 6 = b := fld_eq (by omega)
    have e5 : fld 6 w 0 = c := fld_eq (by omega)
    have g : opc w = 0x14 + m.toNat := by simp only [opc, fix]; omega
    have k : decode .S w = some (Instr.fmaF32 (fld 2 w 25) (fld 1 w 24) (fld 6 w 18) (fld 6 w 12) (fld 6 w 6) (fld 6 w 0)) := by
      rcases fourMajors h0 g with g | g | g | g
      · exact majorS14 g
      · exact majorS15 g
      · exact majorS16 g
      · exact majorS17 g
    rw [k, e0, e1, e2, e3, e4, e5]
theorem ldS8 (t : BitVec 1) (d : BitVec 6) (a : BitVec 6) (i : BitVec 12) : Statement (.ldS8 t d a i) := by
  intro q hq
  obtain rfl := one (p := .S) rfl hq
  obtain ⟨hb, e0, e1, e2, e3, g⟩ := layout1 (m := 0x40000000) (v0 := 32) rfl (by decide) t d a i
  refine of_word rfl hb ?_
  rw [majorS20 g, e0, e1, e2, e3]
theorem ldB8 (t : BitVec 1) (d : BitVec 6) (a : BitVec 6) (i : BitVec 12) : Statement (.ldB8 t d a i) := by
  intro q hq
  obtain rfl := one (p := .S) rfl hq
  obtain ⟨hb, e0, e1, e2, e3, g⟩ := layout1 (m := 0x42000000) (v0 := 33) rfl (by decide) t d a i
  refine of_word rfl hb ?_
  rw [majorS21 g, e0, e1, e2, e3]
theorem ldS16 (t : BitVec 1) (d : BitVec 6) (a : BitVec 6) (i : BitVec 12) : Statement (.ldS16 t d a i) := by
  intro q hq
  obtain rfl := one (p := .S) rfl hq
  obtain ⟨hb, e0, e1, e2, e3, g⟩ := layout1 (m := 0x44000000) (v0 := 34) rfl (by decide) t d a i
  refine of_word rfl hb ?_
  rw [majorS22 g, e0, e1, e2, e3]
theorem ldB16 (t : BitVec 1) (d : BitVec 6) (a : BitVec 6) (i : BitVec 12) : Statement (.ldB16 t d a i) := by
  intro q hq
  obtain rfl := one (p := .S) rfl hq
  obtain ⟨hb, e0, e1, e2, e3, g⟩ := layout1 (m := 0x46000000) (v0 := 35) rfl (by decide) t d a i
  refine of_word rfl hb ?_
  rw [majorS23 g, e0, e1, e2, e3]
theorem ldS32 (t : BitVec 1) (d : BitVec 6) (a : BitVec 6) (i : BitVec 12) : Statement (.ldS32 t d a i) := by
  intro q hq
  obtain rfl := one (p := .S) rfl hq
  obtain ⟨hb, e0, e1, e2, e3, g⟩ := layout1 (m := 0x48000000) (v0 := 36) rfl (by decide) t d a i
  refine of_word rfl hb ?_
  rw [majorS24 g, e0, e1, e2, e3]
theorem ldB32 (t : BitVec 1) (d : BitVec 6) (a : BitVec 6) (i : BitVec 12) : Statement (.ldB32 t d a i) := by
  intro q hq
  obtain rfl := one (p := .S) rfl hq
  obtain ⟨hb, e0, e1, e2, e3, g⟩ := layout1 (m := 0x4A000000) (v0 := 37) rfl (by decide) t d a i
  refine of_word rfl hb ?_
  rw [majorS25 g, e0, e1, e2, e3]
theorem ldB64 (t : BitVec 1) (d : BitVec 6) (a : BitVec 6) (i : BitVec 12) : Statement (.ldB64 t d a i) := by
  intro q hq
  obtain rfl := one (p := .S) rfl hq
  obtain ⟨hb, e0, e1, e2, e3, g⟩ := layout1 (m := 0x4C000000) (v0 := 38) rfl (by decide) t d a i
  refine of_word rfl hb ?_
  rw [majorS26 g, e0, e1, e2, e3]
theorem stB8 (d : BitVec 6) (b : BitVec 6) (i : BitVec 12) : Statement (.stB8 d b i) := by
  intro q hq
  obtain rfl := one (p := .S) rfl hq
  obtain ⟨hb, e0, e1, e2, g, c0⟩ := layout8 (m := 0x50000000) (v0 := 40) (v1 := 0) rfl (by decide) (by decide) d b i
  refine of_word rfl hb ?_
  rw [majorS28 g, c0, e0, e1, e2]
  rfl
theorem stB16 (d : BitVec 6) (b : BitVec 6) (i : BitVec 12) : Statement (.stB16 d b i) := by
  intro q hq
  obtain rfl := one (p := .S) rfl hq
  obtain ⟨hb, e0, e1, e2, g, c0⟩ := layout8 (m := 0x52000000) (v0 := 41) (v1 := 0) rfl (by decide) (by decide) d b i
  refine of_word rfl hb ?_
  rw [majorS29 g, c0, e0, e1, e2]
  rfl
theorem stB32 (d : BitVec 6) (b : BitVec 6) (i : BitVec 12) : Statement (.stB32 d b i) := by
  intro q hq
  obtain rfl := one (p := .S) rfl hq
  obtain ⟨hb, e0, e1, e2, g, c0⟩ := layout8 (m := 0x54000000) (v0 := 42) (v1 := 0) rfl (by decide) (by decide) d b i
  refine of_word rfl hb ?_
  rw [majorS2A g, c0, e0, e1, e2]
  rfl
theorem stB64 (d : BitVec 6) (b : BitVec 6) (i : BitVec 12) : Statement (.stB64 d b i) := by
  intro q hq
  obtain rfl := one (p := .S) rfl hq
  obtain ⟨hb, e0, e1, e2, g, c0⟩ := layout8 (m := 0x56000000) (v0 := 43) (v1 := 0) rfl (by decide) (by decide) d b i
  refine of_word rfl hb ?_
  rw [majorS2B g, c0, e0, e1, e2]
  rfl
theorem amoAdd (s : BitVec 3) (t : BitVec 1) (d : BitVec 6) (a : BitVec 6) (b : BitVec 6) (z : BitVec 1) : Statement (.amoAdd s t d a b z) := by
  intro q hq
  obtain rfl := one (p := .S) rfl hq
  have hs : s.toNat ≤ 4 := of_decide_eq_true (within hq)
  have h0 := s.isLt
  have h1 := t.isLt
  have h2 := d.isLt
  have h3 := a.isLt
  have h4 := b.isLt
  have h5 := z.isLt
  refine of_word rfl ?_ ?_
  · simp only [wd, sh]; omega
  · generalize hw : wd _ _ = w
    simp only [wd, sh] at hw
    have e0 : fld 3 w 25 = s := fld_eq (by omega)
    have e1 : fld 1 w 24 = t := fld_eq (by omega)
    have e2 : fld 6 w 18 = d := fld_eq (by omega)
    have e3 : fld 6 w 12 = a := fld_eq (by omega)
    have e4 : fld 6 w 6 = b := fld_eq (by omega)
    have e5 : fld 1 w 5 = z := fld_eq (by omega)
    have g : opc w = 0x30 + s.toNat := by simp only [opc, fix]; omega
    have k : decode .S w = decodeAmo w := by
      rcases amoMajor hs g with g | g | g | g | g
      · exact majorS30 g
      · exact majorS31 g
      · exact majorS32 g
      · exact majorS33 g
      · exact majorS34 g
    have c0 : fix w 4 0 = 0 := by simp only [fix]; omega
    rw [k]; simp only [decodeAmo, e0, e1, e2, e3, e4, e5, c0, reduceIte, Nat.reduceEqDiff, and_true, true_and, false_and, and_false, and_self]
theorem amoAnd (s : BitVec 3) (t : BitVec 1) (d : BitVec 6) (a : BitVec 6) (b : BitVec 6) (z : BitVec 1) : Statement (.amoAnd s t d a b z) := by
  intro q hq
  obtain rfl := one (p := .S) rfl hq
  have hs : s.toNat ≤ 4 := of_decide_eq_true (within hq)
  have h0 := s.isLt
  have h1 := t.isLt
  have h2 := d.isLt
  have h3 := a.isLt
  have h4 := b.isLt
  have h5 := z.isLt
  refine of_word rfl ?_ ?_
  · simp only [wd, sh]; omega
  · generalize hw : wd _ _ = w
    simp only [wd, sh] at hw
    have e0 : fld 3 w 25 = s := fld_eq (by omega)
    have e1 : fld 1 w 24 = t := fld_eq (by omega)
    have e2 : fld 6 w 18 = d := fld_eq (by omega)
    have e3 : fld 6 w 12 = a := fld_eq (by omega)
    have e4 : fld 6 w 6 = b := fld_eq (by omega)
    have e5 : fld 1 w 5 = z := fld_eq (by omega)
    have g : opc w = 0x30 + s.toNat := by simp only [opc, fix]; omega
    have k : decode .S w = decodeAmo w := by
      rcases amoMajor hs g with g | g | g | g | g
      · exact majorS30 g
      · exact majorS31 g
      · exact majorS32 g
      · exact majorS33 g
      · exact majorS34 g
    have c0 : fix w 4 0 = 2 := by simp only [fix]; omega
    rw [k]; simp only [decodeAmo, e0, e1, e2, e3, e4, e5, c0, reduceIte, Nat.reduceEqDiff, and_true, true_and, false_and, and_false, and_self]
theorem amoOr (s : BitVec 3) (t : BitVec 1) (d : BitVec 6) (a : BitVec 6) (b : BitVec 6) (z : BitVec 1) : Statement (.amoOr s t d a b z) := by
  intro q hq
  obtain rfl := one (p := .S) rfl hq
  have hs : s.toNat ≤ 4 := of_decide_eq_true (within hq)
  have h0 := s.isLt
  have h1 := t.isLt
  have h2 := d.isLt
  have h3 := a.isLt
  have h4 := b.isLt
  have h5 := z.isLt
  refine of_word rfl ?_ ?_
  · simp only [wd, sh]; omega
  · generalize hw : wd _ _ = w
    simp only [wd, sh] at hw
    have e0 : fld 3 w 25 = s := fld_eq (by omega)
    have e1 : fld 1 w 24 = t := fld_eq (by omega)
    have e2 : fld 6 w 18 = d := fld_eq (by omega)
    have e3 : fld 6 w 12 = a := fld_eq (by omega)
    have e4 : fld 6 w 6 = b := fld_eq (by omega)
    have e5 : fld 1 w 5 = z := fld_eq (by omega)
    have g : opc w = 0x30 + s.toNat := by simp only [opc, fix]; omega
    have k : decode .S w = decodeAmo w := by
      rcases amoMajor hs g with g | g | g | g | g
      · exact majorS30 g
      · exact majorS31 g
      · exact majorS32 g
      · exact majorS33 g
      · exact majorS34 g
    have c0 : fix w 4 0 = 4 := by simp only [fix]; omega
    rw [k]; simp only [decodeAmo, e0, e1, e2, e3, e4, e5, c0, reduceIte, Nat.reduceEqDiff, and_true, true_and, false_and, and_false, and_self]
theorem amoXor (s : BitVec 3) (t : BitVec 1) (d : BitVec 6) (a : BitVec 6) (b : BitVec 6) (z : BitVec 1) : Statement (.amoXor s t d a b z) := by
  intro q hq
  obtain rfl := one (p := .S) rfl hq
  have hs : s.toNat ≤ 4 := of_decide_eq_true (within hq)
  have h0 := s.isLt
  have h1 := t.isLt
  have h2 := d.isLt
  have h3 := a.isLt
  have h4 := b.isLt
  have h5 := z.isLt
  refine of_word rfl ?_ ?_
  · simp only [wd, sh]; omega
  · generalize hw : wd _ _ = w
    simp only [wd, sh] at hw
    have e0 : fld 3 w 25 = s := fld_eq (by omega)
    have e1 : fld 1 w 24 = t := fld_eq (by omega)
    have e2 : fld 6 w 18 = d := fld_eq (by omega)
    have e3 : fld 6 w 12 = a := fld_eq (by omega)
    have e4 : fld 6 w 6 = b := fld_eq (by omega)
    have e5 : fld 1 w 5 = z := fld_eq (by omega)
    have g : opc w = 0x30 + s.toNat := by simp only [opc, fix]; omega
    have k : decode .S w = decodeAmo w := by
      rcases amoMajor hs g with g | g | g | g | g
      · exact majorS30 g
      · exact majorS31 g
      · exact majorS32 g
      · exact majorS33 g
      · exact majorS34 g
    have c0 : fix w 4 0 = 6 := by simp only [fix]; omega
    rw [k]; simp only [decodeAmo, e0, e1, e2, e3, e4, e5, c0, reduceIte, Nat.reduceEqDiff, and_true, true_and, false_and, and_false, and_self]
theorem amoSwap (s : BitVec 3) (t : BitVec 1) (d : BitVec 6) (a : BitVec 6) (b : BitVec 6) (z : BitVec 1) : Statement (.amoSwap s t d a b z) := by
  intro q hq
  obtain rfl := one (p := .S) rfl hq
  have hs : s.toNat ≤ 4 := of_decide_eq_true (within hq)
  have h0 := s.isLt
  have h1 := t.isLt
  have h2 := d.isLt
  have h3 := a.isLt
  have h4 := b.isLt
  have h5 := z.isLt
  refine of_word rfl ?_ ?_
  · simp only [wd, sh]; omega
  · generalize hw : wd _ _ = w
    simp only [wd, sh] at hw
    have e0 : fld 3 w 25 = s := fld_eq (by omega)
    have e1 : fld 1 w 24 = t := fld_eq (by omega)
    have e2 : fld 6 w 18 = d := fld_eq (by omega)
    have e3 : fld 6 w 12 = a := fld_eq (by omega)
    have e4 : fld 6 w 6 = b := fld_eq (by omega)
    have e5 : fld 1 w 5 = z := fld_eq (by omega)
    have g : opc w = 0x30 + s.toNat := by simp only [opc, fix]; omega
    have k : decode .S w = decodeAmo w := by
      rcases amoMajor hs g with g | g | g | g | g
      · exact majorS30 g
      · exact majorS31 g
      · exact majorS32 g
      · exact majorS33 g
      · exact majorS34 g
    have c0 : fix w 4 0 = 8 := by simp only [fix]; omega
    rw [k]; simp only [decodeAmo, e0, e1, e2, e3, e4, e5, c0, reduceIte, Nat.reduceEqDiff, and_true, true_and, false_and, and_false, and_self]
theorem amoSmin (s : BitVec 3) (t : BitVec 1) (d : BitVec 6) (a : BitVec 6) (b : BitVec 6) (z : BitVec 1) : Statement (.amoSmin s t d a b z) := by
  intro q hq
  obtain rfl := one (p := .S) rfl hq
  have hs : s.toNat ≤ 4 := of_decide_eq_true (within hq)
  have h0 := s.isLt
  have h1 := t.isLt
  have h2 := d.isLt
  have h3 := a.isLt
  have h4 := b.isLt
  have h5 := z.isLt
  refine of_word rfl ?_ ?_
  · simp only [wd, sh]; omega
  · generalize hw : wd _ _ = w
    simp only [wd, sh] at hw
    have e0 : fld 3 w 25 = s := fld_eq (by omega)
    have e1 : fld 1 w 24 = t := fld_eq (by omega)
    have e2 : fld 6 w 18 = d := fld_eq (by omega)
    have e3 : fld 6 w 12 = a := fld_eq (by omega)
    have e4 : fld 6 w 6 = b := fld_eq (by omega)
    have e5 : fld 1 w 5 = z := fld_eq (by omega)
    have g : opc w = 0x30 + s.toNat := by simp only [opc, fix]; omega
    have k : decode .S w = decodeAmo w := by
      rcases amoMajor hs g with g | g | g | g | g
      · exact majorS30 g
      · exact majorS31 g
      · exact majorS32 g
      · exact majorS33 g
      · exact majorS34 g
    have c0 : fix w 4 0 = 10 := by simp only [fix]; omega
    rw [k]; simp only [decodeAmo, e0, e1, e2, e3, e4, e5, c0, reduceIte, Nat.reduceEqDiff, and_true, true_and, false_and, and_false, and_self]
theorem amoSmax (s : BitVec 3) (t : BitVec 1) (d : BitVec 6) (a : BitVec 6) (b : BitVec 6) (z : BitVec 1) : Statement (.amoSmax s t d a b z) := by
  intro q hq
  obtain rfl := one (p := .S) rfl hq
  have hs : s.toNat ≤ 4 := of_decide_eq_true (within hq)
  have h0 := s.isLt
  have h1 := t.isLt
  have h2 := d.isLt
  have h3 := a.isLt
  have h4 := b.isLt
  have h5 := z.isLt
  refine of_word rfl ?_ ?_
  · simp only [wd, sh]; omega
  · generalize hw : wd _ _ = w
    simp only [wd, sh] at hw
    have e0 : fld 3 w 25 = s := fld_eq (by omega)
    have e1 : fld 1 w 24 = t := fld_eq (by omega)
    have e2 : fld 6 w 18 = d := fld_eq (by omega)
    have e3 : fld 6 w 12 = a := fld_eq (by omega)
    have e4 : fld 6 w 6 = b := fld_eq (by omega)
    have e5 : fld 1 w 5 = z := fld_eq (by omega)
    have g : opc w = 0x30 + s.toNat := by simp only [opc, fix]; omega
    have k : decode .S w = decodeAmo w := by
      rcases amoMajor hs g with g | g | g | g | g
      · exact majorS30 g
      · exact majorS31 g
      · exact majorS32 g
      · exact majorS33 g
      · exact majorS34 g
    have c0 : fix w 4 0 = 12 := by simp only [fix]; omega
    rw [k]; simp only [decodeAmo, e0, e1, e2, e3, e4, e5, c0, reduceIte, Nat.reduceEqDiff, and_true, true_and, false_and, and_false, and_self]
theorem amoUmin (s : BitVec 3) (t : BitVec 1) (d : BitVec 6) (a : BitVec 6) (b : BitVec 6) (z : BitVec 1) : Statement (.amoUmin s t d a b z) := by
  intro q hq
  obtain rfl := one (p := .S) rfl hq
  have hs : s.toNat ≤ 4 := of_decide_eq_true (within hq)
  have h0 := s.isLt
  have h1 := t.isLt
  have h2 := d.isLt
  have h3 := a.isLt
  have h4 := b.isLt
  have h5 := z.isLt
  refine of_word rfl ?_ ?_
  · simp only [wd, sh]; omega
  · generalize hw : wd _ _ = w
    simp only [wd, sh] at hw
    have e0 : fld 3 w 25 = s := fld_eq (by omega)
    have e1 : fld 1 w 24 = t := fld_eq (by omega)
    have e2 : fld 6 w 18 = d := fld_eq (by omega)
    have e3 : fld 6 w 12 = a := fld_eq (by omega)
    have e4 : fld 6 w 6 = b := fld_eq (by omega)
    have e5 : fld 1 w 5 = z := fld_eq (by omega)
    have g : opc w = 0x30 + s.toNat := by simp only [opc, fix]; omega
    have k : decode .S w = decodeAmo w := by
      rcases amoMajor hs g with g | g | g | g | g
      · exact majorS30 g
      · exact majorS31 g
      · exact majorS32 g
      · exact majorS33 g
      · exact majorS34 g
    have c0 : fix w 4 0 = 14 := by simp only [fix]; omega
    rw [k]; simp only [decodeAmo, e0, e1, e2, e3, e4, e5, c0, reduceIte, Nat.reduceEqDiff, and_true, true_and, false_and, and_false, and_self]
theorem amoUmax (s : BitVec 3) (t : BitVec 1) (d : BitVec 6) (a : BitVec 6) (b : BitVec 6) (z : BitVec 1) : Statement (.amoUmax s t d a b z) := by
  intro q hq
  obtain rfl := one (p := .S) rfl hq
  have hs : s.toNat ≤ 4 := of_decide_eq_true (within hq)
  have h0 := s.isLt
  have h1 := t.isLt
  have h2 := d.isLt
  have h3 := a.isLt
  have h4 := b.isLt
  have h5 := z.isLt
  refine of_word rfl ?_ ?_
  · simp only [wd, sh]; omega
  · generalize hw : wd _ _ = w
    simp only [wd, sh] at hw
    have e0 : fld 3 w 25 = s := fld_eq (by omega)
    have e1 : fld 1 w 24 = t := fld_eq (by omega)
    have e2 : fld 6 w 18 = d := fld_eq (by omega)
    have e3 : fld 6 w 12 = a := fld_eq (by omega)
    have e4 : fld 6 w 6 = b := fld_eq (by omega)
    have e5 : fld 1 w 5 = z := fld_eq (by omega)
    have g : opc w = 0x30 + s.toNat := by simp only [opc, fix]; omega
    have k : decode .S w = decodeAmo w := by
      rcases amoMajor hs g with g | g | g | g | g
      · exact majorS30 g
      · exact majorS31 g
      · exact majorS32 g
      · exact majorS33 g
      · exact majorS34 g
    have c0 : fix w 4 0 = 16 := by simp only [fix]; omega
    rw [k]; simp only [decodeAmo, e0, e1, e2, e3, e4, e5, c0, reduceIte, Nat.reduceEqDiff, and_true, true_and, false_and, and_false, and_self]
theorem amoCas (s : BitVec 3) (t : BitVec 1) (d : BitVec 6) (a : BitVec 6) (b : BitVec 6) (z : BitVec 1) : Statement (.amoCas s t d a b z) := by
  intro q hq
  obtain rfl := one (p := .S) rfl hq
  have hs : s.toNat ≤ 4 := of_decide_eq_true (within hq)
  have h0 := s.isLt
  have h1 := t.isLt
  have h2 := d.isLt
  have h3 := a.isLt
  have h4 := b.isLt
  have h5 := z.isLt
  refine of_word rfl ?_ ?_
  · simp only [wd, sh]; omega
  · generalize hw : wd _ _ = w
    simp only [wd, sh] at hw
    have e0 : fld 3 w 25 = s := fld_eq (by omega)
    have e1 : fld 1 w 24 = t := fld_eq (by omega)
    have e2 : fld 6 w 18 = d := fld_eq (by omega)
    have e3 : fld 6 w 12 = a := fld_eq (by omega)
    have e4 : fld 6 w 6 = b := fld_eq (by omega)
    have e5 : fld 1 w 5 = z := fld_eq (by omega)
    have g : opc w = 0x30 + s.toNat := by simp only [opc, fix]; omega
    have k : decode .S w = decodeAmo w := by
      rcases amoMajor hs g with g | g | g | g | g
      · exact majorS30 g
      · exact majorS31 g
      · exact majorS32 g
      · exact majorS33 g
      · exact majorS34 g
    have c0 : fix w 4 0 = 18 := by simp only [fix]; omega
    rw [k]; simp only [decodeAmo, e0, e1, e2, e3, e4, e5, c0, reduceIte, Nat.reduceEqDiff, and_true, true_and, false_and, and_false, and_self]
theorem fence (s : BitVec 3) : Statement (.fence s) := by
  intro q hq
  obtain rfl := one (p := .S) rfl hq
  obtain ⟨hb, e0, g, c0⟩ := layout9 (m := 0x70000000) (v0 := 56) (v1 := 0) rfl (by decide) (by decide) s
  refine of_word rfl hb ?_
  rw [majorS38 g, c0, e0]
  rfl
theorem bar (l : BitVec 3) : Statement (.bar l) := by
  intro q hq
  obtain rfl := one (p := .S) rfl hq
  obtain ⟨hb, e0, g, c0⟩ := layout9 (m := 0x72000000) (v0 := 57) (v1 := 0) rfl (by decide) (by decide) l
  refine of_word rfl hb ?_
  rw [majorS39 g, decodeS39, c0, e0]
  rfl
theorem barSw (v : BitVec 2) (l : BitVec 3) : Statement (.barSw v l) := by
  intro q hq
  obtain rfl := one (p := .S) rfl hq
  have h0 := v.isLt
  have h1 := l.isLt
  refine of_word rfl ?_ ?_
  · simp only [wd, sh]; omega
  · generalize hw : wd _ _ = w
    simp only [wd, sh] at hw
    have e0 : fld 2 w 3 = v := fld_eq (by omega)
    have e1 : fld 3 w 0 = l := fld_eq (by omega)
    have g : opc w = 0x39 := by simp only [opc, fix]; omega
    have c0 : ¬ fix w 24 3 = 0 := by simp only [fix]; omega
    have c1 : fix w 24 5 = 1 := by simp only [fix]; omega
    rw [majorS39 g]; simp only [decodeS39, e0, e1, c0, c1, reduceIte, Nat.reduceEqDiff, and_true, true_and, false_and, and_false, and_self]
theorem waitt (a : BitVec 6) : Statement (.waitt a) := by
  intro q hq
  obtain rfl := one (p := .S) rfl hq
  obtain ⟨hb, e0, g, c0, c1⟩ := layout10 (m := 0x74000000) (v0 := 58) (v1 := 0) (v2 := 0) rfl (by decide) (by decide) (by decide) a
  refine of_word rfl hb ?_
  rw [majorS3A g, c0, c1, e0]
  rfl
theorem fpush (a : BitVec 6) : Statement (.fpush a) := by
  intro q hq
  obtain rfl := one (p := .S) rfl hq
  obtain ⟨hb, e0, g, c0, c1⟩ := layout10 (m := 0x76000000) (v0 := 59) (v1 := 0) (v2 := 0) rfl (by decide) (by decide) (by decide) a
  refine of_word rfl hb ?_
  rw [majorS3B g, c0, c1, e0]
  rfl
theorem beq (a : BitVec 6) (b : BitVec 6) (o : BitVec 13) : Statement (.beq a b o) := by
  intro q hq
  obtain rfl := one (p := .S) rfl hq
  obtain ⟨hb, e0, e1, e2, g⟩ := layout11 (m := 0x80000000) (v0 := 64) rfl (by decide) a b o
  refine of_word rfl hb ?_
  rw [majorS40 g, e0, e1, e2]
theorem bne (a : BitVec 6) (b : BitVec 6) (o : BitVec 13) : Statement (.bne a b o) := by
  intro q hq
  obtain rfl := one (p := .S) rfl hq
  obtain ⟨hb, e0, e1, e2, g⟩ := layout11 (m := 0x82000000) (v0 := 65) rfl (by decide) a b o
  refine of_word rfl hb ?_
  rw [majorS41 g, e0, e1, e2]
theorem blt (a : BitVec 6) (b : BitVec 6) (o : BitVec 13) : Statement (.blt a b o) := by
  intro q hq
  obtain rfl := one (p := .S) rfl hq
  obtain ⟨hb, e0, e1, e2, g⟩ := layout11 (m := 0x84000000) (v0 := 66) rfl (by decide) a b o
  refine of_word rfl hb ?_
  rw [majorS42 g, e0, e1, e2]
theorem bge (a : BitVec 6) (b : BitVec 6) (o : BitVec 13) : Statement (.bge a b o) := by
  intro q hq
  obtain rfl := one (p := .S) rfl hq
  obtain ⟨hb, e0, e1, e2, g⟩ := layout11 (m := 0x86000000) (v0 := 67) rfl (by decide) a b o
  refine of_word rfl hb ?_
  rw [majorS43 g, e0, e1, e2]
theorem bltu (a : BitVec 6) (b : BitVec 6) (o : BitVec 13) : Statement (.bltu a b o) := by
  intro q hq
  obtain rfl := one (p := .S) rfl hq
  obtain ⟨hb, e0, e1, e2, g⟩ := layout11 (m := 0x88000000) (v0 := 68) rfl (by decide) a b o
  refine of_word rfl hb ?_
  rw [majorS44 g, e0, e1, e2]
theorem bgeu (a : BitVec 6) (b : BitVec 6) (o : BitVec 13) : Statement (.bgeu a b o) := by
  intro q hq
  obtain rfl := one (p := .S) rfl hq
  obtain ⟨hb, e0, e1, e2, g⟩ := layout11 (m := 0x8A000000) (v0 := 69) rfl (by decide) a b o
  refine of_word rfl hb ?_
  rw [majorS45 g, e0, e1, e2]
theorem call (t : BitVec 1) (d : BitVec 6) (i : BitVec 18) : Statement (.call t d i) := by
  intro q hq
  obtain rfl := one (p := .S) rfl hq
  obtain ⟨hb, e0, e1, e2, g⟩ := layout3 (m := 0x8C000000) (v0 := 70) rfl (by decide) t d i
  refine of_word rfl hb ?_
  rw [majorS46 g, e0, e1, e2]
theorem callr (t : BitVec 1) (d : BitVec 6) (a : BitVec 6) (i : BitVec 12) : Statement (.callr t d a i) := by
  intro q hq
  obtain rfl := one (p := .S) rfl hq
  obtain ⟨hb, e0, e1, e2, e3, g⟩ := layout1 (m := 0x8E000000) (v0 := 71) rfl (by decide) t d a i
  refine of_word rfl hb ?_
  rw [majorS47 g, e0, e1, e2, e3]
theorem csrr (t : BitVec 1) (d : BitVec 6) (i : BitVec 13) : Statement (.csrr t d i) := by
  intro q hq
  obtain rfl := one (p := .S) rfl hq
  obtain ⟨hb, e0, e1, e2, g, c0⟩ := layout12 (m := 0xA0000000) (v0 := 80) (v1 := 0) rfl (by decide) (by decide) t d i
  refine of_word rfl hb ?_
  rw [majorS50 g, c0, e0, e1, e2]
  rfl
theorem csrw (a : BitVec 6) (i : BitVec 13) : Statement (.csrw a i) := by
  intro q hq
  obtain rfl := one (p := .S) rfl hq
  obtain ⟨hb, e0, e1, g, c0, c1⟩ := layout13 (m := 0xA2000000) (v0 := 81) (v1 := 0) (v2 := 0) rfl (by decide) (by decide) (by decide) a i
  refine of_word rfl hb ?_
  rw [majorS51 g, c0, c1, e0, e1]
  rfl
theorem nop : Statement (.nop) := by
  intro q hq
  obtain ⟨hb, g, c0⟩ := layout14 (m := 0xFE000000) (v0 := 127) (v1 := 0) rfl (by decide) (by decide)
  refine of_word rfl hb ?_
  rw [shared q g, decodeShared, c0]
  rfl
theorem sig (k : BitVec 2) (n : BitVec 6) : Statement (.sig k n) := by
  intro q hq
  have h0 := k.isLt
  have h1 := n.isLt
  refine of_word rfl ?_ ?_
  · simp only [wd, sh]; omega
  · generalize hw : wd _ _ = w
    simp only [wd, sh] at hw
    have e0 : fld 2 w 19 = k := fld_eq (by omega)
    have e1 : fld 6 w 13 = n := fld_eq (by omega)
    have g : opc w = 0x7F := by simp only [opc, fix]; omega
    have c0 : ¬ fix w 24 0 = 0 := by simp only [fix]; omega
    have c1 : fix w 12 0 = 0 := by simp only [fix]; omega
    have c2 : fix w 24 21 = 1 := by simp only [fix]; omega
    have k : decode q w = decodeShared w := shared q g
    rw [k]; simp only [decodeShared, e0, e1, c0, c1, c2, reduceIte, Nat.reduceEqDiff, and_true, true_and, false_and, and_false, and_self]
theorem wait (k : BitVec 2) (n : BitVec 6) : Statement (.wait k n) := by
  intro q hq
  have h0 := k.isLt
  have h1 := n.isLt
  refine of_word rfl ?_ ?_
  · simp only [wd, sh]; omega
  · generalize hw : wd _ _ = w
    simp only [wd, sh] at hw
    have e0 : fld 2 w 19 = k := fld_eq (by omega)
    have e1 : fld 6 w 13 = n := fld_eq (by omega)
    have g : opc w = 0x7F := by simp only [opc, fix]; omega
    have c0 : ¬ fix w 24 0 = 0 := by simp only [fix]; omega
    have c1 : fix w 12 0 = 0 := by simp only [fix]; omega
    have c2 : fix w 24 21 = 2 := by simp only [fix]; omega
    have k : decode q w = decodeShared w := shared q g
    rw [k]; simp only [decodeShared, e0, e1, c0, c1, c2, reduceIte, Nat.reduceEqDiff, and_true, true_and, false_and, and_false, and_self]
theorem tmark (n : BitVec 21) : Statement (.tmark n) := by
  intro q hq
  have h0 := n.isLt
  refine of_word rfl ?_ ?_
  · simp only [wd, sh]; omega
  · generalize hw : wd _ _ = w
    simp only [wd, sh] at hw
    have e0 : fld 21 w 0 = n := fld_eq (by omega)
    have g : opc w = 0x7F := by simp only [opc, fix]; omega
    have c0 : ¬ fix w 24 0 = 0 := by simp only [fix]; omega
    have c1 : fix w 24 21 = 3 := by simp only [fix]; omega
    have k : decode q w = decodeShared w := shared q g
    rw [k]; simp only [decodeShared, e0, c0, c1, reduceIte, Nat.reduceEqDiff, and_true, true_and, false_and, and_false, and_self]
theorem beacon : Statement (.beacon) := by
  intro q hq
  refine of_word rfl ?_ ?_
  · decide
  · generalize hw : wd _ _ = w
    simp only [wd] at hw
    have g : opc w = 0x7F := by simp only [opc, fix]; omega
    have c0 : fix w 24 0 = 8388608 := by simp only [fix]; omega
    have c1 : fix w 12 0 = 0 := by simp only [fix]; omega
    have c2 : fix w 24 21 = 4 := by simp only [fix]; omega
    have k : decode q w = decodeShared w := shared q g
    rw [k]; simp only [decodeShared, c0, c1, c2, reduceIte, Nat.reduceEqDiff, and_true, true_and, false_and, and_false, and_self]
theorem beaconW : Statement (.beaconW) := by
  intro q hq
  refine of_word rfl ?_ ?_
  · decide
  · generalize hw : wd _ _ = w
    simp only [wd] at hw
    have g : opc w = 0x7F := by simp only [opc, fix]; omega
    have c0 : fix w 24 0 = 9437184 := by simp only [fix]; omega
    have c1 : fix w 12 0 = 0 := by simp only [fix]; omega
    have c2 : fix w 24 21 = 4 := by simp only [fix]; omega
    have k : decode q w = decodeShared w := shared q g
    rw [k]; simp only [decodeShared, c0, c1, c2, reduceIte, Nat.reduceEqDiff, and_true, true_and, false_and, and_false, and_self]
theorem brk (n : BitVec 16) : Statement (.brk n) := by
  intro q hq
  have h0 := n.isLt
  refine of_word rfl ?_ ?_
  · simp only [wd, sh]; omega
  · generalize hw : wd _ _ = w
    simp only [wd, sh] at hw
    have e0 : fld 16 w 0 = n := fld_eq (by omega)
    have g : opc w = 0x7F := by simp only [opc, fix]; omega
    have c0 : ¬ fix w 24 0 = 0 := by simp only [fix]; omega
    have c1 : ¬ fix w 24 0 = 8388608 := by simp only [fix]; omega
    have c2 : ¬ fix w 24 0 = 9437184 := by simp only [fix]; omega
    have c3 : fix w 24 21 = 5 := by simp only [fix]; omega
    have c4 : fix w 24 16 = 160 := by simp only [fix]; omega
    have k : decode q w = decodeShared w := shared q g
    rw [k]; simp only [decodeShared, e0, c0, c1, c2, c3, c4, reduceIte, Nat.reduceEqDiff, and_true, true_and, false_and, and_false, and_self]
theorem trap (n : BitVec 16) : Statement (.trap n) := by
  intro q hq
  have h0 := n.isLt
  refine of_word rfl ?_ ?_
  · simp only [wd, sh]; omega
  · generalize hw : wd _ _ = w
    simp only [wd, sh] at hw
    have e0 : fld 16 w 0 = n := fld_eq (by omega)
    have g : opc w = 0x7F := by simp only [opc, fix]; omega
    have c0 : ¬ fix w 24 0 = 0 := by simp only [fix]; omega
    have c1 : ¬ fix w 24 0 = 8388608 := by simp only [fix]; omega
    have c2 : ¬ fix w 24 0 = 9437184 := by simp only [fix]; omega
    have c3 : fix w 24 21 = 6 := by simp only [fix]; omega
    have c4 : fix w 24 16 = 192 := by simp only [fix]; omega
    have k : decode q w = decodeShared w := shared q g
    rw [k]; simp only [decodeShared, e0, c0, c1, c2, c3, c4, reduceIte, Nat.reduceEqDiff, and_true, true_and, false_and, and_false, and_self]
theorem halt : Statement (.halt) := by
  intro q hq
  refine of_word rfl ?_ ?_
  · decide
  · generalize hw : wd _ _ = w
    simp only [wd] at hw
    have g : opc w = 0x7F := by simp only [opc, fix]; omega
    have c0 : fix w 24 0 = 14680064 := by simp only [fix]; omega
    have c1 : fix w 12 0 = 0 := by simp only [fix]; omega
    have c2 : fix w 24 21 = 7 := by simp only [fix]; omega
    have c3 : fix w 24 16 = 224 := by simp only [fix]; omega
    have k : decode q w = decodeShared w := shared q g
    rw [k]; simp only [decodeShared, c0, c1, c2, c3, reduceIte, Nat.reduceEqDiff, and_true, true_and, false_and, and_false, and_self]
theorem zloop (l : BitVec 1) (c : BitVec 8) (o : BitVec 11) : Statement (.zloop l c o) := by
  intro q hq
  have h0 := l.isLt
  have h1 := c.isLt
  have h2 := o.isLt
  refine of_word rfl ?_ ?_
  · simp only [wd, sh]; omega
  · generalize hw : wd _ _ = w
    simp only [wd, sh] at hw
    have e0 : fld 1 w 20 = l := fld_eq (by omega)
    have e1 : fld 8 w 11 = c := fld_eq (by omega)
    have e2 : fld 11 w 0 = o := fld_eq (by omega)
    have g : opc w = 0x7F := by simp only [opc, fix]; omega
    have c0 : ¬ fix w 24 0 = 0 := by simp only [fix]; omega
    have c1 : ¬ fix w 24 0 = 8388608 := by simp only [fix]; omega
    have c2 : ¬ fix w 24 0 = 9437184 := by simp only [fix]; omega
    have c3 : ¬ fix w 24 0 = 14680064 := by simp only [fix]; omega
    have c4 : fix w 24 21 = 8 := by simp only [fix]; omega
    have c5 : ¬ fix w 24 16 = 160 := by simp only [fix]; omega
    have c6 : ¬ fix w 24 16 = 192 := by simp only [fix]; omega
    have c7 : fix w 19 19 = 0 := by simp only [fix]; omega
    have k : decode q w = decodeShared w := shared q g
    rw [k]; simp only [decodeShared, e0, e1, e2, c0, c1, c2, c3, c4, c5, c6, c7, reduceIte, Nat.reduceEqDiff, and_true, true_and, false_and, and_false, and_self]
theorem zloopReg (l : BitVec 1) (r : BitVec 6) (o : BitVec 11) : Statement (.zloopReg l r o) := by
  intro q hq
  have h0 := l.isLt
  have h1 := r.isLt
  have h2 := o.isLt
  refine of_word rfl ?_ ?_
  · simp only [wd, sh]; omega
  · generalize hw : wd _ _ = w
    simp only [wd, sh] at hw
    have e0 : fld 1 w 20 = l := fld_eq (by omega)
    have e1 : fld 6 w 13 = r := fld_eq (by omega)
    have e2 : fld 11 w 0 = o := fld_eq (by omega)
    have g : opc w = 0x7F := by simp only [opc, fix]; omega
    have c0 : ¬ fix w 24 0 = 0 := by simp only [fix]; omega
    have c1 : ¬ fix w 24 0 = 8388608 := by simp only [fix]; omega
    have c2 : ¬ fix w 24 0 = 9437184 := by simp only [fix]; omega
    have c3 : ¬ fix w 24 0 = 14680064 := by simp only [fix]; omega
    have c4 : fix w 24 21 = 8 := by simp only [fix]; omega
    have c5 : ¬ fix w 24 16 = 160 := by simp only [fix]; omega
    have c6 : ¬ fix w 24 16 = 192 := by simp only [fix]; omega
    have c7 : fix w 19 19 = 1 := by simp only [fix]; omega
    have c8 : fix w 12 11 = 0 := by simp only [fix]; omega
    have k : decode q w = decodeShared w := shared q g
    rw [k]; simp only [decodeShared, e0, e1, e2, c0, c1, c2, c3, c4, c5, c6, c7, c8, reduceIte, Nat.reduceEqDiff, and_true, true_and, false_and, and_false, and_self]
theorem jmp (o : BitVec 20) : Statement (.jmp o) := by
  intro q hq
  have h0 := o.isLt
  refine of_word rfl ?_ ?_
  · simp only [wd, sh]; omega
  · generalize hw : wd _ _ = w
    simp only [wd, sh] at hw
    have e0 : fld 20 w 0 = o := fld_eq (by omega)
    have g : opc w = 0x7F := by simp only [opc, fix]; omega
    have c0 : ¬ fix w 24 0 = 0 := by simp only [fix]; omega
    have c1 : ¬ fix w 24 0 = 8388608 := by simp only [fix]; omega
    have c2 : ¬ fix w 24 0 = 9437184 := by simp only [fix]; omega
    have c3 : ¬ fix w 24 0 = 14680064 := by simp only [fix]; omega
    have c4 : fix w 24 21 = 9 := by simp only [fix]; omega
    have c5 : ¬ fix w 24 16 = 160 := by simp only [fix]; omega
    have c6 : ¬ fix w 24 16 = 192 := by simp only [fix]; omega
    have c7 : fix w 24 20 = 18 := by simp only [fix]; omega
    have k : decode q w = decodeShared w := shared q g
    rw [k]; simp only [decodeShared, e0, c0, c1, c2, c3, c4, c5, c6, c7, reduceIte, Nat.reduceEqDiff, and_true, true_and, false_and, and_false, and_self]
theorem jmpReg (r : BitVec 6) : Statement (.jmpReg r) := by
  intro q hq
  have h0 := r.isLt
  refine of_word rfl ?_ ?_
  · simp only [wd, sh]; omega
  · generalize hw : wd _ _ = w
    simp only [wd, sh] at hw
    have e0 : fld 6 w 13 = r := fld_eq (by omega)
    have g : opc w = 0x7F := by simp only [opc, fix]; omega
    have c0 : ¬ fix w 24 0 = 0 := by simp only [fix]; omega
    have c1 : ¬ fix w 24 0 = 8388608 := by simp only [fix]; omega
    have c2 : ¬ fix w 24 0 = 9437184 := by simp only [fix]; omega
    have c3 : ¬ fix w 24 0 = 14680064 := by simp only [fix]; omega
    have c4 : fix w 12 0 = 0 := by simp only [fix]; omega
    have c5 : fix w 24 21 = 9 := by simp only [fix]; omega
    have c6 : ¬ fix w 24 16 = 160 := by simp only [fix]; omega
    have c7 : ¬ fix w 24 16 = 192 := by simp only [fix]; omega
    have c8 : fix w 19 19 = 0 := by simp only [fix]; omega
    have c9 : fix w 12 11 = 0 := by simp only [fix]; omega
    have c10 : fix w 24 20 = 19 := by simp only [fix]; omega
    have c11 : fix w 24 19 = 38 := by simp only [fix]; omega
    have k : decode q w = decodeShared w := shared q g
    rw [k]; simp only [decodeShared, e0, c0, c1, c2, c3, c4, c5, c6, c7, c8, c9, c10, c11, reduceIte, Nat.reduceEqDiff, and_true, true_and, false_and, and_false, and_self]
theorem bkwait (d : BitVec 6) : Statement (.bkwait d) := by
  intro q hq
  obtain rfl := one (p := .S) rfl hq
  obtain ⟨hb, e0, g, c0, c1⟩ := layout15 (m := 0xC0000000) (v0 := 96) (v1 := 0) (v2 := 0) rfl (by decide) (by decide) (by decide) d
  refine of_word rfl hb ?_
  rw [majorS60 g, c0, c1, e0]
  rfl
theorem bkopen (a : BitVec 6) : Statement (.bkopen a) := by
  intro q hq
  obtain rfl := one (p := .S) rfl hq
  obtain ⟨hb, e0, g, c0, c1⟩ := layout10 (m := 0xC2000000) (v0 := 97) (v1 := 0) (v2 := 0) rfl (by decide) (by decide) (by decide) a
  refine of_word rfl hb ?_
  rw [majorS61 g, c0, c1, e0]
  rfl
theorem bkclose (a : BitVec 6) : Statement (.bkclose a) := by
  intro q hq
  obtain rfl := one (p := .S) rfl hq
  obtain ⟨hb, e0, g, c0, c1⟩ := layout10 (m := 0xC4000000) (v0 := 98) (v1 := 0) (v2 := 0) rfl (by decide) (by decide) (by decide) a
  refine of_word rfl hb ?_
  rw [majorS62 g, c0, c1, e0]
  rfl
theorem hold (a : BitVec 6) : Statement (.hold a) := by
  intro q hq
  obtain rfl := one (p := .S) rfl hq
  obtain ⟨hb, e0, g, c0, c1⟩ := layout10 (m := 0xC6000000) (v0 := 99) (v1 := 0) (v2 := 0) rfl (by decide) (by decide) (by decide) a
  refine of_word rfl hb ?_
  rw [majorS63 g, c0, c1, e0]
  rfl
theorem release (a : BitVec 6) : Statement (.release a) := by
  intro q hq
  obtain rfl := one (p := .S) rfl hq
  obtain ⟨hb, e0, g, c0, c1⟩ := layout10 (m := 0xC8000000) (v0 := 100) (v1 := 0) (v2 := 0) rfl (by decide) (by decide) (by decide) a
  refine of_word rfl hb ?_
  rw [majorS64 g, c0, c1, e0]
  rfl
theorem pub : Statement (.pub) := by
  intro q hq
  obtain rfl := one (p := .S) rfl hq
  obtain ⟨hb, g, c0⟩ := layout14 (m := 0xCA000000) (v0 := 101) (v1 := 0) rfl (by decide) (by decide)
  refine of_word rfl hb ?_
  rw [majorS65 g, c0]
  rfl
theorem xrd (t : BitVec 1) (d : BitVec 6) (a : BitVec 6) (i : BitVec 12) : Statement (.xrd t d a i) := by
  intro q hq
  obtain rfl := one (p := .S) rfl hq
  obtain ⟨hb, e0, e1, e2, e3, g⟩ := layout1 (m := 0xB0000000) (v0 := 88) rfl (by decide) t d a i
  refine of_word rfl hb ?_
  rw [majorS58 g, e0, e1, e2, e3]
theorem xwr (d : BitVec 6) (b : BitVec 6) (i : BitVec 12) : Statement (.xwr d b i) := by
  intro q hq
  obtain rfl := one (p := .S) rfl hq
  obtain ⟨hb, e0, e1, e2, g, c0⟩ := layout8 (m := 0xB2000000) (v0 := 89) (v1 := 0) rfl (by decide) (by decide) d b i
  refine of_word rfl hb ?_
  rw [majorS59 g, c0, e0, e1, e2]
  rfl
theorem hret : Statement (.hret) := by
  intro q hq
  obtain rfl := one (p := .S) rfl hq
  obtain ⟨hb, g, c0⟩ := layout14 (m := 0xB4000000) (v0 := 90) (v1 := 0) rfl (by decide) (by decide)
  refine of_word rfl hb ?_
  rw [majorS5A g, c0]
  rfl
theorem cdrop (c : BitVec 2) : Statement (.cdrop c) := by
  intro q hq
  obtain rfl := one (p := .S) rfl hq
  obtain ⟨hb, e0, g, c0⟩ := layout16 (m := 0xB6000000) (v0 := 91) (v1 := 0) rfl (by decide) (by decide) c
  refine of_word rfl hb ?_
  rw [majorS5B g, c0, e0]
  rfl
theorem xkill (a : BitVec 6) : Statement (.xkill a) := by
  intro q hq
  obtain rfl := one (p := .S) rfl hq
  obtain ⟨hb, e0, g, c0, c1⟩ := layout10 (m := 0xB8000000) (v0 := 92) (v1 := 0) (v2 := 0) rfl (by decide) (by decide) (by decide) a
  refine of_word rfl hb ?_
  rw [majorS5C g, c0, c1, e0]
  rfl
theorem xpost (a : BitVec 6) : Statement (.xpost a) := by
  intro q hq
  obtain rfl := one (p := .S) rfl hq
  obtain ⟨hb, e0, g, c0, c1⟩ := layout10 (m := 0xBA000000) (v0 := 93) (v1 := 0) (v2 := 0) rfl (by decide) (by decide) (by decide) a
  refine of_word rfl hb ?_
  rw [majorS5D g, c0, c1, e0]
  rfl
theorem vaddS32 (t : BitVec 1) (d : BitVec 6) (a : BitVec 6) (b : BitVec 6) (x : BitVec 5) (m : BitVec 1) : Statement (.vaddS32 t d a b x m) := by
  intro q hq
  obtain rfl := one (p := .V) rfl hq
  obtain ⟨hb, e0, e1, e2, e3, e4, e5, g⟩ := layout17 (m := 0x02000000) (v0 := 1) rfl (by decide) t d a b x m
  refine of_word rfl hb ?_
  rw [majorV01 g, e0, e1, e2, e3, e4, e5]
theorem vsubS32 (t : BitVec 1) (d : BitVec 6) (a : BitVec 6) (b : BitVec 6) (x : BitVec 5) (m : BitVec 1) : Statement (.vsubS32 t d a b x m) := by
  intro q hq
  obtain rfl := one (p := .V) rfl hq
  obtain ⟨hb, e0, e1, e2, e3, e4, e5, g⟩ := layout17 (m := 0x04000000) (v0 := 2) rfl (by decide) t d a b x m
  refine of_word rfl hb ?_
  rw [majorV02 g, e0, e1, e2, e3, e4, e5]
theorem vmulS32 (t : BitVec 1) (d : BitVec 6) (a : BitVec 6) (b : BitVec 6) (x : BitVec 5) (m : BitVec 1) : Statement (.vmulS32 t d a b x m) := by
  intro q hq
  obtain rfl := one (p := .V) rfl hq
  obtain ⟨hb, e0, e1, e2, e3, e4, e5, g⟩ := layout17 (m := 0x06000000) (v0 := 3) rfl (by decide) t d a b x m
  refine of_word rfl hb ?_
  rw [majorV03 g, e0, e1, e2, e3, e4, e5]
theorem vmulhS32 (t : BitVec 1) (d : BitVec 6) (a : BitVec 6) (b : BitVec 6) (x : BitVec 5) (m : BitVec 1) : Statement (.vmulhS32 t d a b x m) := by
  intro q hq
  obtain rfl := one (p := .V) rfl hq
  obtain ⟨hb, e0, e1, e2, e3, e4, e5, g⟩ := layout17 (m := 0x08000000) (v0 := 4) rfl (by decide) t d a b x m
  refine of_word rfl hb ?_
  rw [majorV04 g, e0, e1, e2, e3, e4, e5]
theorem vmulhB32 (t : BitVec 1) (d : BitVec 6) (a : BitVec 6) (b : BitVec 6) (x : BitVec 5) (m : BitVec 1) : Statement (.vmulhB32 t d a b x m) := by
  intro q hq
  obtain rfl := one (p := .V) rfl hq
  obtain ⟨hb, e0, e1, e2, e3, e4, e5, g⟩ := layout17 (m := 0x0A000000) (v0 := 5) rfl (by decide) t d a b x m
  refine of_word rfl hb ?_
  rw [majorV05 g, e0, e1, e2, e3, e4, e5]
theorem vminS32 (t : BitVec 1) (d : BitVec 6) (a : BitVec 6) (b : BitVec 6) (x : BitVec 5) (m : BitVec 1) : Statement (.vminS32 t d a b x m) := by
  intro q hq
  obtain rfl := one (p := .V) rfl hq
  obtain ⟨hb, e0, e1, e2, e3, e4, e5, g⟩ := layout17 (m := 0x0C000000) (v0 := 6) rfl (by decide) t d a b x m
  refine of_word rfl hb ?_
  rw [majorV06 g, e0, e1, e2, e3, e4, e5]
theorem vmaxS32 (t : BitVec 1) (d : BitVec 6) (a : BitVec 6) (b : BitVec 6) (x : BitVec 5) (m : BitVec 1) : Statement (.vmaxS32 t d a b x m) := by
  intro q hq
  obtain rfl := one (p := .V) rfl hq
  obtain ⟨hb, e0, e1, e2, e3, e4, e5, g⟩ := layout17 (m := 0x0E000000) (v0 := 7) rfl (by decide) t d a b x m
  refine of_word rfl hb ?_
  rw [majorV07 g, e0, e1, e2, e3, e4, e5]
theorem vminB32 (t : BitVec 1) (d : BitVec 6) (a : BitVec 6) (b : BitVec 6) (x : BitVec 5) (m : BitVec 1) : Statement (.vminB32 t d a b x m) := by
  intro q hq
  obtain rfl := one (p := .V) rfl hq
  obtain ⟨hb, e0, e1, e2, e3, e4, e5, g⟩ := layout17 (m := 0x10000000) (v0 := 8) rfl (by decide) t d a b x m
  refine of_word rfl hb ?_
  rw [majorV08 g, e0, e1, e2, e3, e4, e5]
theorem vmaxB32 (t : BitVec 1) (d : BitVec 6) (a : BitVec 6) (b : BitVec 6) (x : BitVec 5) (m : BitVec 1) : Statement (.vmaxB32 t d a b x m) := by
  intro q hq
  obtain rfl := one (p := .V) rfl hq
  obtain ⟨hb, e0, e1, e2, e3, e4, e5, g⟩ := layout17 (m := 0x12000000) (v0 := 9) rfl (by decide) t d a b x m
  refine of_word rfl hb ?_
  rw [majorV09 g, e0, e1, e2, e3, e4, e5]
theorem vaddsS32 (t : BitVec 1) (d : BitVec 6) (a : BitVec 6) (b : BitVec 6) (x : BitVec 5) (m : BitVec 1) : Statement (.vaddsS32 t d a b x m) := by
  intro q hq
  obtain rfl := one (p := .V) rfl hq
  obtain ⟨hb, e0, e1, e2, e3, e4, e5, g⟩ := layout17 (m := 0x14000000) (v0 := 10) rfl (by decide) t d a b x m
  refine of_word rfl hb ?_
  rw [majorV0A g, e0, e1, e2, e3, e4, e5]
theorem vsubsS32 (t : BitVec 1) (d : BitVec 6) (a : BitVec 6) (b : BitVec 6) (x : BitVec 5) (m : BitVec 1) : Statement (.vsubsS32 t d a b x m) := by
  intro q hq
  obtain rfl := one (p := .V) rfl hq
  obtain ⟨hb, e0, e1, e2, e3, e4, e5, g⟩ := layout17 (m := 0x16000000) (v0 := 11) rfl (by decide) t d a b x m
  refine of_word rfl hb ?_
  rw [majorV0B g, e0, e1, e2, e3, e4, e5]
theorem vaddsB32 (t : BitVec 1) (d : BitVec 6) (a : BitVec 6) (b : BitVec 6) (x : BitVec 5) (m : BitVec 1) : Statement (.vaddsB32 t d a b x m) := by
  intro q hq
  obtain rfl := one (p := .V) rfl hq
  obtain ⟨hb, e0, e1, e2, e3, e4, e5, g⟩ := layout17 (m := 0x18000000) (v0 := 12) rfl (by decide) t d a b x m
  refine of_word rfl hb ?_
  rw [majorV0C g, e0, e1, e2, e3, e4, e5]
theorem vsubsB32 (t : BitVec 1) (d : BitVec 6) (a : BitVec 6) (b : BitVec 6) (x : BitVec 5) (m : BitVec 1) : Statement (.vsubsB32 t d a b x m) := by
  intro q hq
  obtain rfl := one (p := .V) rfl hq
  obtain ⟨hb, e0, e1, e2, e3, e4, e5, g⟩ := layout17 (m := 0x1A000000) (v0 := 13) rfl (by decide) t d a b x m
  refine of_word rfl hb ?_
  rw [majorV0D g, e0, e1, e2, e3, e4, e5]
theorem vandB32 (t : BitVec 1) (d : BitVec 6) (a : BitVec 6) (b : BitVec 6) (x : BitVec 5) (m : BitVec 1) : Statement (.vandB32 t d a b x m) := by
  intro q hq
  obtain rfl := one (p := .V) rfl hq
  obtain ⟨hb, e0, e1, e2, e3, e4, e5, g⟩ := layout17 (m := 0x1C000000) (v0 := 14) rfl (by decide) t d a b x m
  refine of_word rfl hb ?_
  rw [majorV0E g, e0, e1, e2, e3, e4, e5]
theorem vorB32 (t : BitVec 1) (d : BitVec 6) (a : BitVec 6) (b : BitVec 6) (x : BitVec 5) (m : BitVec 1) : Statement (.vorB32 t d a b x m) := by
  intro q hq
  obtain rfl := one (p := .V) rfl hq
  obtain ⟨hb, e0, e1, e2, e3, e4, e5, g⟩ := layout17 (m := 0x1E000000) (v0 := 15) rfl (by decide) t d a b x m
  refine of_word rfl hb ?_
  rw [majorV0F g, e0, e1, e2, e3, e4, e5]
theorem vxorB32 (t : BitVec 1) (d : BitVec 6) (a : BitVec 6) (b : BitVec 6) (x : BitVec 5) (m : BitVec 1) : Statement (.vxorB32 t d a b x m) := by
  intro q hq
  obtain rfl := one (p := .V) rfl hq
  obtain ⟨hb, e0, e1, e2, e3, e4, e5, g⟩ := layout17 (m := 0x20000000) (v0 := 16) rfl (by decide) t d a b x m
  refine of_word rfl hb ?_
  rw [majorV10 g, e0, e1, e2, e3, e4, e5]
theorem vandnB32 (t : BitVec 1) (d : BitVec 6) (a : BitVec 6) (b : BitVec 6) (x : BitVec 5) (m : BitVec 1) : Statement (.vandnB32 t d a b x m) := by
  intro q hq
  obtain rfl := one (p := .V) rfl hq
  obtain ⟨hb, e0, e1, e2, e3, e4, e5, g⟩ := layout17 (m := 0x22000000) (v0 := 17) rfl (by decide) t d a b x m
  refine of_word rfl hb ?_
  rw [majorV11 g, e0, e1, e2, e3, e4, e5]
theorem vsllB32 (t : BitVec 1) (d : BitVec 6) (a : BitVec 6) (b : BitVec 6) (x : BitVec 5) (m : BitVec 1) : Statement (.vsllB32 t d a b x m) := by
  intro q hq
  obtain rfl := one (p := .V) rfl hq
  obtain ⟨hb, e0, e1, e2, e3, e4, e5, g⟩ := layout17 (m := 0x24000000) (v0 := 18) rfl (by decide) t d a b x m
  refine of_word rfl hb ?_
  rw [majorV12 g, e0, e1, e2, e3, e4, e5]
theorem vsrlB32 (t : BitVec 1) (d : BitVec 6) (a : BitVec 6) (b : BitVec 6) (x : BitVec 5) (m : BitVec 1) : Statement (.vsrlB32 t d a b x m) := by
  intro q hq
  obtain rfl := one (p := .V) rfl hq
  obtain ⟨hb, e0, e1, e2, e3, e4, e5, g⟩ := layout17 (m := 0x26000000) (v0 := 19) rfl (by decide) t d a b x m
  refine of_word rfl hb ?_
  rw [majorV13 g, e0, e1, e2, e3, e4, e5]
theorem vsraS32 (t : BitVec 1) (d : BitVec 6) (a : BitVec 6) (b : BitVec 6) (x : BitVec 5) (m : BitVec 1) : Statement (.vsraS32 t d a b x m) := by
  intro q hq
  obtain rfl := one (p := .V) rfl hq
  obtain ⟨hb, e0, e1, e2, e3, e4, e5, g⟩ := layout17 (m := 0x28000000) (v0 := 20) rfl (by decide) t d a b x m
  refine of_word rfl hb ?_
  rw [majorV14 g, e0, e1, e2, e3, e4, e5]
theorem vaddS16 (t : BitVec 1) (d : BitVec 6) (a : BitVec 6) (b : BitVec 6) (x : BitVec 5) (m : BitVec 1) : Statement (.vaddS16 t d a b x m) := by
  intro q hq
  obtain rfl := one (p := .V) rfl hq
  obtain ⟨hb, e0, e1, e2, e3, e4, e5, g⟩ := layout17 (m := 0x30000000) (v0 := 24) rfl (by decide) t d a b x m
  refine of_word rfl hb ?_
  rw [majorV18 g, e0, e1, e2, e3, e4, e5]
theorem vsubS16 (t : BitVec 1) (d : BitVec 6) (a : BitVec 6) (b : BitVec 6) (x : BitVec 5) (m : BitVec 1) : Statement (.vsubS16 t d a b x m) := by
  intro q hq
  obtain rfl := one (p := .V) rfl hq
  obtain ⟨hb, e0, e1, e2, e3, e4, e5, g⟩ := layout17 (m := 0x32000000) (v0 := 25) rfl (by decide) t d a b x m
  refine of_word rfl hb ?_
  rw [majorV19 g, e0, e1, e2, e3, e4, e5]
theorem vaddsS16 (t : BitVec 1) (d : BitVec 6) (a : BitVec 6) (b : BitVec 6) (x : BitVec 5) (m : BitVec 1) : Statement (.vaddsS16 t d a b x m) := by
  intro q hq
  obtain rfl := one (p := .V) rfl hq
  obtain ⟨hb, e0, e1, e2, e3, e4, e5, g⟩ := layout17 (m := 0x34000000) (v0 := 26) rfl (by decide) t d a b x m
  refine of_word rfl hb ?_
  rw [majorV1A g, e0, e1, e2, e3, e4, e5]
theorem vsubsS16 (t : BitVec 1) (d : BitVec 6) (a : BitVec 6) (b : BitVec 6) (x : BitVec 5) (m : BitVec 1) : Statement (.vsubsS16 t d a b x m) := by
  intro q hq
  obtain rfl := one (p := .V) rfl hq
  obtain ⟨hb, e0, e1, e2, e3, e4, e5, g⟩ := layout17 (m := 0x36000000) (v0 := 27) rfl (by decide) t d a b x m
  refine of_word rfl hb ?_
  rw [majorV1B g, e0, e1, e2, e3, e4, e5]
theorem vaddsB16 (t : BitVec 1) (d : BitVec 6) (a : BitVec 6) (b : BitVec 6) (x : BitVec 5) (m : BitVec 1) : Statement (.vaddsB16 t d a b x m) := by
  intro q hq
  obtain rfl := one (p := .V) rfl hq
  obtain ⟨hb, e0, e1, e2, e3, e4, e5, g⟩ := layout17 (m := 0x38000000) (v0 := 28) rfl (by decide) t d a b x m
  refine of_word rfl hb ?_
  rw [majorV1C g, e0, e1, e2, e3, e4, e5]
theorem vsubsB16 (t : BitVec 1) (d : BitVec 6) (a : BitVec 6) (b : BitVec 6) (x : BitVec 5) (m : BitVec 1) : Statement (.vsubsB16 t d a b x m) := by
  intro q hq
  obtain rfl := one (p := .V) rfl hq
  obtain ⟨hb, e0, e1, e2, e3, e4, e5, g⟩ := layout17 (m := 0x3A000000) (v0 := 29) rfl (by decide) t d a b x m
  refine of_word rfl hb ?_
  rw [majorV1D g, e0, e1, e2, e3, e4, e5]
theorem vmulS16 (t : BitVec 1) (d : BitVec 6) (a : BitVec 6) (b : BitVec 6) (x : BitVec 5) (m : BitVec 1) : Statement (.vmulS16 t d a b x m) := by
  intro q hq
  obtain rfl := one (p := .V) rfl hq
  obtain ⟨hb, e0, e1, e2, e3, e4, e5, g⟩ := layout17 (m := 0x3C000000) (v0 := 30) rfl (by decide) t d a b x m
  refine of_word rfl hb ?_
  rw [majorV1E g, e0, e1, e2, e3, e4, e5]
theorem vaddS8 (t : BitVec 1) (d : BitVec 6) (a : BitVec 6) (b : BitVec 6) (x : BitVec 5) (m : BitVec 1) : Statement (.vaddS8 t d a b x m) := by
  intro q hq
  obtain rfl := one (p := .V) rfl hq
  obtain ⟨hb, e0, e1, e2, e3, e4, e5, g⟩ := layout17 (m := 0x40000000) (v0 := 32) rfl (by decide) t d a b x m
  refine of_word rfl hb ?_
  rw [majorV20 g, e0, e1, e2, e3, e4, e5]
theorem vsubS8 (t : BitVec 1) (d : BitVec 6) (a : BitVec 6) (b : BitVec 6) (x : BitVec 5) (m : BitVec 1) : Statement (.vsubS8 t d a b x m) := by
  intro q hq
  obtain rfl := one (p := .V) rfl hq
  obtain ⟨hb, e0, e1, e2, e3, e4, e5, g⟩ := layout17 (m := 0x42000000) (v0 := 33) rfl (by decide) t d a b x m
  refine of_word rfl hb ?_
  rw [majorV21 g, e0, e1, e2, e3, e4, e5]
theorem vaddsS8 (t : BitVec 1) (d : BitVec 6) (a : BitVec 6) (b : BitVec 6) (x : BitVec 5) (m : BitVec 1) : Statement (.vaddsS8 t d a b x m) := by
  intro q hq
  obtain rfl := one (p := .V) rfl hq
  obtain ⟨hb, e0, e1, e2, e3, e4, e5, g⟩ := layout17 (m := 0x44000000) (v0 := 34) rfl (by decide) t d a b x m
  refine of_word rfl hb ?_
  rw [majorV22 g, e0, e1, e2, e3, e4, e5]
theorem vsubsS8 (t : BitVec 1) (d : BitVec 6) (a : BitVec 6) (b : BitVec 6) (x : BitVec 5) (m : BitVec 1) : Statement (.vsubsS8 t d a b x m) := by
  intro q hq
  obtain rfl := one (p := .V) rfl hq
  obtain ⟨hb, e0, e1, e2, e3, e4, e5, g⟩ := layout17 (m := 0x46000000) (v0 := 35) rfl (by decide) t d a b x m
  refine of_word rfl hb ?_
  rw [majorV23 g, e0, e1, e2, e3, e4, e5]
theorem vaddsB8 (t : BitVec 1) (d : BitVec 6) (a : BitVec 6) (b : BitVec 6) (x : BitVec 5) (m : BitVec 1) : Statement (.vaddsB8 t d a b x m) := by
  intro q hq
  obtain rfl := one (p := .V) rfl hq
  obtain ⟨hb, e0, e1, e2, e3, e4, e5, g⟩ := layout17 (m := 0x48000000) (v0 := 36) rfl (by decide) t d a b x m
  refine of_word rfl hb ?_
  rw [majorV24 g, e0, e1, e2, e3, e4, e5]
theorem vsubsB8 (t : BitVec 1) (d : BitVec 6) (a : BitVec 6) (b : BitVec 6) (x : BitVec 5) (m : BitVec 1) : Statement (.vsubsB8 t d a b x m) := by
  intro q hq
  obtain rfl := one (p := .V) rfl hq
  obtain ⟨hb, e0, e1, e2, e3, e4, e5, g⟩ := layout17 (m := 0x4A000000) (v0 := 37) rfl (by decide) t d a b x m
  refine of_word rfl hb ?_
  rw [majorV25 g, e0, e1, e2, e3, e4, e5]
theorem vfaddF32 (t : BitVec 1) (d : BitVec 6) (a : BitVec 6) (b : BitVec 6) (x : BitVec 5) (m : BitVec 1) : Statement (.vfaddF32 t d a b x m) := by
  intro q hq
  obtain rfl := one (p := .V) rfl hq
  obtain ⟨hb, e0, e1, e2, e3, e4, e5, g⟩ := layout17 (m := 0x50000000) (v0 := 40) rfl (by decide) t d a b x m
  refine of_word rfl hb ?_
  rw [majorV28 g, e0, e1, e2, e3, e4, e5]
theorem vfsubF32 (t : BitVec 1) (d : BitVec 6) (a : BitVec 6) (b : BitVec 6) (x : BitVec 5) (m : BitVec 1) : Statement (.vfsubF32 t d a b x m) := by
  intro q hq
  obtain rfl := one (p := .V) rfl hq
  obtain ⟨hb, e0, e1, e2, e3, e4, e5, g⟩ := layout17 (m := 0x52000000) (v0 := 41) rfl (by decide) t d a b x m
  refine of_word rfl hb ?_
  rw [majorV29 g, e0, e1, e2, e3, e4, e5]
theorem vfmulF32 (t : BitVec 1) (d : BitVec 6) (a : BitVec 6) (b : BitVec 6) (x : BitVec 5) (m : BitVec 1) : Statement (.vfmulF32 t d a b x m) := by
  intro q hq
  obtain rfl := one (p := .V) rfl hq
  obtain ⟨hb, e0, e1, e2, e3, e4, e5, g⟩ := layout17 (m := 0x54000000) (v0 := 42) rfl (by decide) t d a b x m
  refine of_word rfl hb ?_
  rw [majorV2A g, e0, e1, e2, e3, e4, e5]
theorem vfminF32 (t : BitVec 1) (d : BitVec 6) (a : BitVec 6) (b : BitVec 6) (x : BitVec 5) (m : BitVec 1) : Statement (.vfminF32 t d a b x m) := by
  intro q hq
  obtain rfl := one (p := .V) rfl hq
  obtain ⟨hb, e0, e1, e2, e3, e4, e5, g⟩ := layout17 (m := 0x56000000) (v0 := 43) rfl (by decide) t d a b x m
  refine of_word rfl hb ?_
  rw [majorV2B g, e0, e1, e2, e3, e4, e5]
theorem vfmaxF32 (t : BitVec 1) (d : BitVec 6) (a : BitVec 6) (b : BitVec 6) (x : BitVec 5) (m : BitVec 1) : Statement (.vfmaxF32 t d a b x m) := by
  intro q hq
  obtain rfl := one (p := .V) rfl hq
  obtain ⟨hb, e0, e1, e2, e3, e4, e5, g⟩ := layout17 (m := 0x58000000) (v0 := 44) rfl (by decide) t d a b x m
  refine of_word rfl hb ?_
  rw [majorV2C g, e0, e1, e2, e3, e4, e5]
theorem vfmaF32 (t : BitVec 1) (d : BitVec 6) (a : BitVec 6) (b : BitVec 6) (x : BitVec 5) (m : BitVec 1) : Statement (.vfmaF32 t d a b x m) := by
  intro q hq
  obtain rfl := one (p := .V) rfl hq
  obtain ⟨hb, e0, e1, e2, e3, e4, e5, g⟩ := layout17 (m := 0x5A000000) (v0 := 45) rfl (by decide) t d a b x m
  refine of_word rfl hb ?_
  rw [majorV2D g, e0, e1, e2, e3, e4, e5]
theorem vfaddBf16 (t : BitVec 1) (d : BitVec 6) (a : BitVec 6) (b : BitVec 6) (x : BitVec 5) (m : BitVec 1) : Statement (.vfaddBf16 t d a b x m) := by
  intro q hq
  obtain rfl := one (p := .V) rfl hq
  obtain ⟨hb, e0, e1, e2, e3, e4, e5, g⟩ := layout17 (m := 0x60000000) (v0 := 48) rfl (by decide) t d a b x m
  refine of_word rfl hb ?_
  rw [majorV30 g, e0, e1, e2, e3, e4, e5]
theorem vfsubBf16 (t : BitVec 1) (d : BitVec 6) (a : BitVec 6) (b : BitVec 6) (x : BitVec 5) (m : BitVec 1) : Statement (.vfsubBf16 t d a b x m) := by
  intro q hq
  obtain rfl := one (p := .V) rfl hq
  obtain ⟨hb, e0, e1, e2, e3, e4, e5, g⟩ := layout17 (m := 0x62000000) (v0 := 49) rfl (by decide) t d a b x m
  refine of_word rfl hb ?_
  rw [majorV31 g, e0, e1, e2, e3, e4, e5]
theorem vfmulBf16 (t : BitVec 1) (d : BitVec 6) (a : BitVec 6) (b : BitVec 6) (x : BitVec 5) (m : BitVec 1) : Statement (.vfmulBf16 t d a b x m) := by
  intro q hq
  obtain rfl := one (p := .V) rfl hq
  obtain ⟨hb, e0, e1, e2, e3, e4, e5, g⟩ := layout17 (m := 0x64000000) (v0 := 50) rfl (by decide) t d a b x m
  refine of_word rfl hb ?_
  rw [majorV32 g, e0, e1, e2, e3, e4, e5]
theorem vfminBf16 (t : BitVec 1) (d : BitVec 6) (a : BitVec 6) (b : BitVec 6) (x : BitVec 5) (m : BitVec 1) : Statement (.vfminBf16 t d a b x m) := by
  intro q hq
  obtain rfl := one (p := .V) rfl hq
  obtain ⟨hb, e0, e1, e2, e3, e4, e5, g⟩ := layout17 (m := 0x66000000) (v0 := 51) rfl (by decide) t d a b x m
  refine of_word rfl hb ?_
  rw [majorV33 g, e0, e1, e2, e3, e4, e5]
theorem vfmaxBf16 (t : BitVec 1) (d : BitVec 6) (a : BitVec 6) (b : BitVec 6) (x : BitVec 5) (m : BitVec 1) : Statement (.vfmaxBf16 t d a b x m) := by
  intro q hq
  obtain rfl := one (p := .V) rfl hq
  obtain ⟨hb, e0, e1, e2, e3, e4, e5, g⟩ := layout17 (m := 0x68000000) (v0 := 52) rfl (by decide) t d a b x m
  refine of_word rfl hb ?_
  rw [majorV34 g, e0, e1, e2, e3, e4, e5]
theorem vfmaBf16 (t : BitVec 1) (d : BitVec 6) (a : BitVec 6) (b : BitVec 6) (x : BitVec 5) (m : BitVec 1) : Statement (.vfmaBf16 t d a b x m) := by
  intro q hq
  obtain rfl := one (p := .V) rfl hq
  obtain ⟨hb, e0, e1, e2, e3, e4, e5, g⟩ := layout17 (m := 0x6A000000) (v0 := 53) rfl (by decide) t d a b x m
  refine of_word rfl hb ?_
  rw [majorV35 g, e0, e1, e2, e3, e4, e5]
theorem vexp2F32 (t : BitVec 1) (d : BitVec 6) (a : BitVec 6) (x : BitVec 5) (m : BitVec 1) : Statement (.vexp2F32 t d a x m) := by
  intro q hq
  obtain rfl := one (p := .V) rfl hq
  obtain ⟨hb, e0, e1, e2, e3, e4, g, c0⟩ := layout18 (m := 0x70000000) (v0 := 56) (v1 := 0) rfl (by decide) (by decide) t d a x m
  refine of_word rfl hb ?_
  rw [majorV38 g, c0, e0, e1, e2, e3, e4]
  rfl
theorem vlog2F32 (t : BitVec 1) (d : BitVec 6) (a : BitVec 6) (x : BitVec 5) (m : BitVec 1) : Statement (.vlog2F32 t d a x m) := by
  intro q hq
  obtain rfl := one (p := .V) rfl hq
  obtain ⟨hb, e0, e1, e2, e3, e4, g, c0⟩ := layout18 (m := 0x72000000) (v0 := 57) (v1 := 0) rfl (by decide) (by decide) t d a x m
  refine of_word rfl hb ?_
  rw [majorV39 g, c0, e0, e1, e2, e3, e4]
  rfl
theorem vrcpF32 (t : BitVec 1) (d : BitVec 6) (a : BitVec 6) (x : BitVec 5) (m : BitVec 1) : Statement (.vrcpF32 t d a x m) := by
  intro q hq
  obtain rfl := one (p := .V) rfl hq
  obtain ⟨hb, e0, e1, e2, e3, e4, g, c0⟩ := layout18 (m := 0x74000000) (v0 := 58) (v1 := 0) rfl (by decide) (by decide) t d a x m
  refine of_word rfl hb ?_
  rw [majorV3A g, c0, e0, e1, e2, e3, e4]
  rfl
theorem vrsqrtF32 (t : BitVec 1) (d : BitVec 6) (a : BitVec 6) (x : BitVec 5) (m : BitVec 1) : Statement (.vrsqrtF32 t d a x m) := by
  intro q hq
  obtain rfl := one (p := .V) rfl hq
  obtain ⟨hb, e0, e1, e2, e3, e4, g, c0⟩ := layout18 (m := 0x76000000) (v0 := 59) (v1 := 0) rfl (by decide) (by decide) t d a x m
  refine of_word rfl hb ?_
  rw [majorV3B g, c0, e0, e1, e2, e3, e4]
  rfl
theorem vcmpS32 (c : BitVec 4) (k : BitVec 3) (a : BitVec 6) (b : BitVec 6) (x : BitVec 5) (m : BitVec 1) : Statement (.vcmpS32 c k a b x m) := by
  intro q hq
  obtain rfl := one (p := .V) rfl hq
  obtain ⟨hb, e0, e1, e2, e3, e4, e5, g⟩ := layout19 (m := 0x78000000) (v0 := 60) rfl (by decide) c k a b x m
  refine of_word rfl hb ?_
  rw [majorV3C g, e0, e1, e2, e3, e4, e5]
theorem vcmpB32 (c : BitVec 4) (k : BitVec 3) (a : BitVec 6) (b : BitVec 6) (x : BitVec 5) (m : BitVec 1) : Statement (.vcmpB32 c k a b x m) := by
  intro q hq
  obtain rfl := one (p := .V) rfl hq
  obtain ⟨hb, e0, e1, e2, e3, e4, e5, g⟩ := layout19 (m := 0x7A000000) (v0 := 61) rfl (by decide) c k a b x m
  refine of_word rfl hb ?_
  rw [majorV3D g, e0, e1, e2, e3, e4, e5]
theorem vcmpF32 (c : BitVec 4) (k : BitVec 3) (a : BitVec 6) (b : BitVec 6) (x : BitVec 5) (m : BitVec 1) : Statement (.vcmpF32 c k a b x m) := by
  intro q hq
  obtain rfl := one (p := .V) rfl hq
  obtain ⟨hb, e0, e1, e2, e3, e4, e5, g⟩ := layout19 (m := 0x7C000000) (v0 := 62) rfl (by decide) c k a b x m
  refine of_word rfl hb ?_
  rw [majorV3E g, e0, e1, e2, e3, e4, e5]
theorem vcmpBf16 (c : BitVec 4) (k : BitVec 3) (a : BitVec 6) (b : BitVec 6) (x : BitVec 5) (m : BitVec 1) : Statement (.vcmpBf16 c k a b x m) := by
  intro q hq
  obtain rfl := one (p := .V) rfl hq
  obtain ⟨hb, e0, e1, e2, e3, e4, e5, g⟩ := layout19 (m := 0x7E000000) (v0 := 63) rfl (by decide) c k a b x m
  refine of_word rfl hb ?_
  rw [majorV3F g, e0, e1, e2, e3, e4, e5]
theorem vcvt (p : BitVec 2) (t : BitVec 1) (d : BitVec 6) (a : BitVec 6) (f : BitVec 4) (g : BitVec 4) (r : BitVec 3) (m : BitVec 1) : Statement (.vcvt p t d a f g r m) := by
  intro q hq
  obtain rfl := one (p := .V) rfl hq
  have h0 := p.isLt
  have h1 := t.isLt
  have h2 := d.isLt
  have h3 := a.isLt
  have h4 := f.isLt
  have h5 := g.isLt
  have h6 := r.isLt
  have h7 := m.isLt
  refine of_word rfl ?_ ?_
  · simp only [wd, sh]; omega
  · generalize hw : wd _ _ = w
    simp only [wd, sh] at hw
    have e0 : fld 2 w 25 = p := fld_eq (by omega)
    have e1 : fld 1 w 24 = t := fld_eq (by omega)
    have e2 : fld 6 w 18 = d := fld_eq (by omega)
    have e3 : fld 6 w 12 = a := fld_eq (by omega)
    have e4 : fld 4 w 8 = f := fld_eq (by omega)
    have e5 : fld 4 w 4 = g := fld_eq (by omega)
    have e6 : fld 3 w 1 = r := fld_eq (by omega)
    have e7 : fld 1 w 0 = m := fld_eq (by omega)
    have g : opc w = 0x40 + p.toNat := by simp only [opc, fix]; omega
    have k : decode .V w = some (Instr.vcvt (fld 2 w 25) (fld 1 w 24) (fld 6 w 18) (fld 6 w 12) (fld 4 w 8) (fld 4 w 4) (fld 3 w 1) (fld 1 w 0)) := by
      rcases fourMajors h0 g with g | g | g | g
      · exact majorV40 g
      · exact majorV41 g
      · exact majorV42 g
      · exact majorV43 g
    rw [k, e0, e1, e2, e3, e4, e5, e6, e7]
theorem vmxpk (t : BitVec 1) (d : BitVec 6) (a : BitVec 6) (f : BitVec 4) (g : BitVec 4) (r : BitVec 3) : Statement (.vmxpk t d a f g r) := by
  intro q hq
  obtain rfl := one (p := .V) rfl hq
  obtain ⟨hb, e0, e1, e2, e3, e4, e5, g, c0⟩ := layout20 (m := 0x88000000) (v0 := 68) (v1 := 0) rfl (by decide) (by decide) t d a f g r
  refine of_word rfl hb ?_
  rw [majorV44 g, c0, e0, e1, e2, e3, e4, e5]
  rfl
theorem vredAddS32 (t : BitVec 1) (d : BitVec 6) (a : BitVec 6) (x : BitVec 5) (m : BitVec 1) : Statement (.vredAddS32 t d a x m) := by
  intro q hq
  obtain rfl := one (p := .V) rfl hq
  obtain ⟨hb, e0, e1, e2, e3, e4, g, c0⟩ := layout18 (m := 0x90000000) (v0 := 72) (v1 := 0) rfl (by decide) (by decide) t d a x m
  refine of_word rfl hb ?_
  rw [majorV48 g, decodeV48, c0, e0, e1, e2, e3, e4]
  rfl
theorem vredAddsS32 (t : BitVec 1) (d : BitVec 6) (a : BitVec 6) (x : BitVec 5) (m : BitVec 1) : Statement (.vredAddsS32 t d a x m) := by
  intro q hq
  obtain rfl := one (p := .V) rfl hq
  obtain ⟨hb, e0, e1, e2, e3, e4, g, c0⟩ := layout18 (m := 0x90000040) (v0 := 72) (v1 := 1) rfl (by decide) (by decide) t d a x m
  refine of_word rfl hb ?_
  rw [majorV48 g, decodeV48, c0, e0, e1, e2, e3, e4]
  rfl
theorem vredMinS32 (t : BitVec 1) (d : BitVec 6) (a : BitVec 6) (x : BitVec 5) (m : BitVec 1) : Statement (.vredMinS32 t d a x m) := by
  intro q hq
  obtain rfl := one (p := .V) rfl hq
  obtain ⟨hb, e0, e1, e2, e3, e4, g, c0⟩ := layout18 (m := 0x90000080) (v0 := 72) (v1 := 2) rfl (by decide) (by decide) t d a x m
  refine of_word rfl hb ?_
  rw [majorV48 g, decodeV48, c0, e0, e1, e2, e3, e4]
  rfl
theorem vredMaxS32 (t : BitVec 1) (d : BitVec 6) (a : BitVec 6) (x : BitVec 5) (m : BitVec 1) : Statement (.vredMaxS32 t d a x m) := by
  intro q hq
  obtain rfl := one (p := .V) rfl hq
  obtain ⟨hb, e0, e1, e2, e3, e4, g, c0⟩ := layout18 (m := 0x900000C0) (v0 := 72) (v1 := 3) rfl (by decide) (by decide) t d a x m
  refine of_word rfl hb ?_
  rw [majorV48 g, decodeV48, c0, e0, e1, e2, e3, e4]
  rfl
theorem vredMinB32 (t : BitVec 1) (d : BitVec 6) (a : BitVec 6) (x : BitVec 5) (m : BitVec 1) : Statement (.vredMinB32 t d a x m) := by
  intro q hq
  obtain rfl := one (p := .V) rfl hq
  obtain ⟨hb, e0, e1, e2, e3, e4, g, c0⟩ := layout18 (m := 0x90000100) (v0 := 72) (v1 := 4) rfl (by decide) (by decide) t d a x m
  refine of_word rfl hb ?_
  rw [majorV48 g, decodeV48, c0, e0, e1, e2, e3, e4]
  rfl
theorem vredMaxB32 (t : BitVec 1) (d : BitVec 6) (a : BitVec 6) (x : BitVec 5) (m : BitVec 1) : Statement (.vredMaxB32 t d a x m) := by
  intro q hq
  obtain rfl := one (p := .V) rfl hq
  obtain ⟨hb, e0, e1, e2, e3, e4, g, c0⟩ := layout18 (m := 0x90000140) (v0 := 72) (v1 := 5) rfl (by decide) (by decide) t d a x m
  refine of_word rfl hb ?_
  rw [majorV48 g, decodeV48, c0, e0, e1, e2, e3, e4]
  rfl
theorem vredAndB32 (t : BitVec 1) (d : BitVec 6) (a : BitVec 6) (x : BitVec 5) (m : BitVec 1) : Statement (.vredAndB32 t d a x m) := by
  intro q hq
  obtain rfl := one (p := .V) rfl hq
  obtain ⟨hb, e0, e1, e2, e3, e4, g, c0⟩ := layout18 (m := 0x90000180) (v0 := 72) (v1 := 6) rfl (by decide) (by decide) t d a x m
  refine of_word rfl hb ?_
  rw [majorV48 g, decodeV48, c0, e0, e1, e2, e3, e4]
  rfl
theorem vredOrB32 (t : BitVec 1) (d : BitVec 6) (a : BitVec 6) (x : BitVec 5) (m : BitVec 1) : Statement (.vredOrB32 t d a x m) := by
  intro q hq
  obtain rfl := one (p := .V) rfl hq
  obtain ⟨hb, e0, e1, e2, e3, e4, g, c0⟩ := layout18 (m := 0x900001C0) (v0 := 72) (v1 := 7) rfl (by decide) (by decide) t d a x m
  refine of_word rfl hb ?_
  rw [majorV48 g, decodeV48, c0, e0, e1, e2, e3, e4]
  rfl
theorem vredXorB32 (t : BitVec 1) (d : BitVec 6) (a : BitVec 6) (x : BitVec 5) (m : BitVec 1) : Statement (.vredXorB32 t d a x m) := by
  intro q hq
  obtain rfl := one (p := .V) rfl hq
  obtain ⟨hb, e0, e1, e2, e3, e4, g, c0⟩ := layout18 (m := 0x90000200) (v0 := 72) (v1 := 8) rfl (by decide) (by decide) t d a x m
  refine of_word rfl hb ?_
  rw [majorV48 g, decodeV48, c0, e0, e1, e2, e3, e4]
  rfl
theorem vredAddF32 (t : BitVec 1) (d : BitVec 6) (a : BitVec 6) (x : BitVec 5) (m : BitVec 1) : Statement (.vredAddF32 t d a x m) := by
  intro q hq
  obtain rfl := one (p := .V) rfl hq
  obtain ⟨hb, e0, e1, e2, e3, e4, g, c0⟩ := layout18 (m := 0x90000240) (v0 := 72) (v1 := 9) rfl (by decide) (by decide) t d a x m
  refine of_word rfl hb ?_
  rw [majorV48 g, decodeV48, c0, e0, e1, e2, e3, e4]
  rfl
theorem vredMinF32 (t : BitVec 1) (d : BitVec 6) (a : BitVec 6) (x : BitVec 5) (m : BitVec 1) : Statement (.vredMinF32 t d a x m) := by
  intro q hq
  obtain rfl := one (p := .V) rfl hq
  obtain ⟨hb, e0, e1, e2, e3, e4, g, c0⟩ := layout18 (m := 0x90000280) (v0 := 72) (v1 := 10) rfl (by decide) (by decide) t d a x m
  refine of_word rfl hb ?_
  rw [majorV48 g, decodeV48, c0, e0, e1, e2, e3, e4]
  rfl
theorem vredMaxF32 (t : BitVec 1) (d : BitVec 6) (a : BitVec 6) (x : BitVec 5) (m : BitVec 1) : Statement (.vredMaxF32 t d a x m) := by
  intro q hq
  obtain rfl := one (p := .V) rfl hq
  obtain ⟨hb, e0, e1, e2, e3, e4, g, c0⟩ := layout18 (m := 0x900002C0) (v0 := 72) (v1 := 11) rfl (by decide) (by decide) t d a x m
  refine of_word rfl hb ?_
  rw [majorV48 g, decodeV48, c0, e0, e1, e2, e3, e4]
  rfl
theorem vredAddBf16 (t : BitVec 1) (d : BitVec 6) (a : BitVec 6) (x : BitVec 5) (m : BitVec 1) : Statement (.vredAddBf16 t d a x m) := by
  intro q hq
  obtain rfl := one (p := .V) rfl hq
  obtain ⟨hb, e0, e1, e2, e3, e4, g, c0⟩ := layout18 (m := 0x90000300) (v0 := 72) (v1 := 12) rfl (by decide) (by decide) t d a x m
  refine of_word rfl hb ?_
  rw [majorV48 g, decodeV48, c0, e0, e1, e2, e3, e4]
  rfl
theorem vpermB32 (t : BitVec 1) (d : BitVec 6) (a : BitVec 6) (b : BitVec 6) (x : BitVec 5) (m : BitVec 1) : Statement (.vpermB32 t d a b x m) := by
  intro q hq
  obtain rfl := one (p := .V) rfl hq
  obtain ⟨hb, e0, e1, e2, e3, e4, e5, g⟩ := layout17 (m := 0x98000000) (v0 := 76) rfl (by decide) t d a b x m
  refine of_word rfl hb ?_
  rw [majorV4C g, e0, e1, e2, e3, e4, e5]
theorem vpermB8 (t : BitVec 1) (d : BitVec 6) (a : BitVec 6) (b : BitVec 6) (x : BitVec 5) (m : BitVec 1) : Statement (.vpermB8 t d a b x m) := by
  intro q hq
  obtain rfl := one (p := .V) rfl hq
  obtain ⟨hb, e0, e1, e2, e3, e4, e5, g⟩ := layout17 (m := 0x9A000000) (v0 := 77) rfl (by decide) t d a b x m
  refine of_word rfl hb ?_
  rw [majorV4D g, e0, e1, e2, e3, e4, e5]
theorem vrotB32 (t : BitVec 1) (d : BitVec 6) (a : BitVec 6) (i : BitVec 6) : Statement (.vrotB32 t d a i) := by
  intro q hq
  obtain rfl := one (p := .V) rfl hq
  obtain ⟨hb, e0, e1, e2, e3, g, c0⟩ := layout2 (m := 0x9C000000) (v0 := 78) (v1 := 0) rfl (by decide) (by decide) t d a i
  refine of_word rfl hb ?_
  rw [majorV4E g, c0, e0, e1, e2, e3]
  rfl
theorem vselB32 (t : BitVec 1) (d : BitVec 6) (a : BitVec 6) (b : BitVec 6) (x : BitVec 5) : Statement (.vselB32 t d a b x) := by
  intro q hq
  obtain rfl := one (p := .V) rfl hq
  obtain ⟨hb, e0, e1, e2, e3, e4, g, c0⟩ := layout21 (m := 0x9E000000) (v0 := 79) (v1 := 0) rfl (by decide) (by decide) t d a b x
  refine of_word rfl hb ?_
  rw [majorV4F g, c0, e0, e1, e2, e3, e4]
  rfl
theorem vmovi (t : BitVec 1) (d : BitVec 6) (i : BitVec 12) : Statement (.vmovi t d i) := by
  intro q hq
  obtain rfl := one (p := .V) rfl hq
  obtain ⟨hb, e0, e1, e2, g, c0⟩ := layout22 (m := 0xA0000000) (v0 := 80) (v1 := 0) rfl (by decide) (by decide) t d i
  refine of_word rfl hb ?_
  rw [majorV50 g, c0, e0, e1, e2]
  rfl
theorem vmand (d : BitVec 3) (a : BitVec 3) (b : BitVec 3) : Statement (.vmand d a b) := by
  intro q hq
  obtain rfl := one (p := .V) rfl hq
  obtain ⟨hb, e0, e1, e2, g, c0, c1⟩ := layout23 (m := 0xA4000000) (v0 := 82) (v1 := 0) (v2 := 0) rfl (by decide) (by decide) (by decide) d a b
  refine of_word rfl hb ?_
  rw [majorV52 g, decodeV52, c0, c1, e0, e1, e2]
  rfl
theorem vmor (d : BitVec 3) (a : BitVec 3) (b : BitVec 3) : Statement (.vmor d a b) := by
  intro q hq
  obtain rfl := one (p := .V) rfl hq
  obtain ⟨hb, e0, e1, e2, g, c0, c1⟩ := layout23 (m := 0xA4200000) (v0 := 82) (v1 := 0) (v2 := 1) rfl (by decide) (by decide) (by decide) d a b
  refine of_word rfl hb ?_
  rw [majorV52 g, decodeV52, c0, c1, e0, e1, e2]
  rfl
theorem vmxor (d : BitVec 3) (a : BitVec 3) (b : BitVec 3) : Statement (.vmxor d a b) := by
  intro q hq
  obtain rfl := one (p := .V) rfl hq
  obtain ⟨hb, e0, e1, e2, g, c0, c1⟩ := layout23 (m := 0xA4400000) (v0 := 82) (v1 := 0) (v2 := 2) rfl (by decide) (by decide) (by decide) d a b
  refine of_word rfl hb ?_
  rw [majorV52 g, decodeV52, c0, c1, e0, e1, e2]
  rfl
theorem vmandn (d : BitVec 3) (a : BitVec 3) (b : BitVec 3) : Statement (.vmandn d a b) := by
  intro q hq
  obtain rfl := one (p := .V) rfl hq
  obtain ⟨hb, e0, e1, e2, g, c0, c1⟩ := layout23 (m := 0xA4600000) (v0 := 82) (v1 := 0) (v2 := 3) rfl (by decide) (by decide) (by decide) d a b
  refine of_word rfl hb ?_
  rw [majorV52 g, decodeV52, c0, c1, e0, e1, e2]
  rfl
theorem vmnot (d : BitVec 3) (a : BitVec 3) : Statement (.vmnot d a) := by
  intro q hq
  obtain rfl := one (p := .V) rfl hq
  have h0 := d.isLt
  have h1 := a.isLt
  refine of_word rfl ?_ ?_
  · simp only [wd, sh]; omega
  · generalize hw : wd _ _ = w
    simp only [wd, sh] at hw
    have e0 : fld 3 w 18 = d := fld_eq (by omega)
    have e1 : fld 3 w 15 = a := fld_eq (by omega)
    have g : opc w = 0x52 := by simp only [opc, fix]; omega
    have c0 : fix w 11 0 = 0 := by simp only [fix]; omega
    have c1 : fix w 24 21 = 4 := by simp only [fix]; omega
    have c2 : fix w 14 0 = 0 := by simp only [fix]; omega
    rw [majorV52 g]; simp only [decodeV52, e0, e1, c0, c1, c2, reduceIte, Nat.reduceEqDiff, and_true, true_and, false_and, and_false, and_self]
theorem vmset (d : BitVec 3) : Statement (.vmset d) := by
  intro q hq
  obtain rfl := one (p := .V) rfl hq
  have h0 := d.isLt
  refine of_word rfl ?_ ?_
  · simp only [wd, sh]; omega
  · generalize hw : wd _ _ = w
    simp only [wd, sh] at hw
    have e0 : fld 3 w 18 = d := fld_eq (by omega)
    have g : opc w = 0x52 := by simp only [opc, fix]; omega
    have c0 : fix w 11 0 = 0 := by simp only [fix]; omega
    have c1 : fix w 24 21 = 5 := by simp only [fix]; omega
    have c2 : fix w 14 0 = 0 := by simp only [fix]; omega
    have c3 : fix w 17 0 = 0 := by simp only [fix]; omega
    rw [majorV52 g]; simp only [decodeV52, e0, c0, c1, c2, c3, reduceIte, Nat.reduceEqDiff, and_true, true_and, false_and, and_false, and_self]
theorem vmclr (d : BitVec 3) : Statement (.vmclr d) := by
  intro q hq
  obtain rfl := one (p := .V) rfl hq
  have h0 := d.isLt
  refine of_word rfl ?_ ?_
  · simp only [wd, sh]; omega
  · generalize hw : wd _ _ = w
    simp only [wd, sh] at hw
    have e0 : fld 3 w 18 = d := fld_eq (by omega)
    have g : opc w = 0x52 := by simp only [opc, fix]; omega
    have c0 : fix w 11 0 = 0 := by simp only [fix]; omega
    have c1 : fix w 24 21 = 6 := by simp only [fix]; omega
    have c2 : fix w 14 0 = 0 := by simp only [fix]; omega
    have c3 : fix w 17 0 = 0 := by simp only [fix]; omega
    rw [majorV52 g]; simp only [decodeV52, e0, c0, c1, c2, c3, reduceIte, Nat.reduceEqDiff, and_true, true_and, false_and, and_false, and_self]
theorem vmmov (d : BitVec 3) (a : BitVec 3) : Statement (.vmmov d a) := by
  intro q hq
  obtain rfl := one (p := .V) rfl hq
  have h0 := d.isLt
  have h1 := a.isLt
  refine of_word rfl ?_ ?_
  · simp only [wd, sh]; omega
  · generalize hw : wd _ _ = w
    simp only [wd, sh] at hw
    have e0 : fld 3 w 18 = d := fld_eq (by omega)
    have e1 : fld 3 w 15 = a := fld_eq (by omega)
    have g : opc w = 0x52 := by simp only [opc, fix]; omega
    have c0 : fix w 11 0 = 0 := by simp only [fix]; omega
    have c1 : fix w 24 21 = 7 := by simp only [fix]; omega
    have c2 : fix w 14 0 = 0 := by simp only [fix]; omega
    rw [majorV52 g]; simp only [decodeV52, e0, e1, c0, c1, c2, reduceIte, Nat.reduceEqDiff, and_true, true_and, false_and, and_false, and_self]
theorem vflag (s : BitVec 2) (k : BitVec 3) (w : BitVec 2) (m : BitVec 1) : Statement (.vflag s k w m) := by
  intro q hq
  obtain rfl := one (p := .V) rfl hq
  obtain ⟨hb, e0, e1, e2, e3, g, c0⟩ := layout24 (m := 0xA6000000) (v0 := 83) (v1 := 0) rfl (by decide) (by decide) s k w m
  refine of_word rfl hb ?_
  rw [majorV53 g, c0, e0, e1, e2, e3]
  rfl
theorem vld (t : BitVec 1) (r : BitVec 6) (x : BitVec 5) (i : BitVec 12) : Statement (.vld t r x i) := by
  intro q hq
  obtain rfl := one (p := .V) rfl hq
  obtain ⟨hb, e0, e1, e2, e3, g, c0⟩ := layout25 (m := 0xB0000000) (v0 := 88) (v1 := 0) rfl (by decide) (by decide) t r x i
  refine of_word rfl hb ?_
  rw [majorV58 g, c0, e0, e1, e2, e3]
  rfl
theorem vst (r : BitVec 6) (x : BitVec 5) (i : BitVec 12) : Statement (.vst r x i) := by
  intro q hq
  obtain rfl := one (p := .V) rfl hq
  obtain ⟨hb, e0, e1, e2, g, c0, c1⟩ := layout26 (m := 0xB2000000) (v0 := 89) (v1 := 0) (v2 := 0) rfl (by decide) (by decide) (by decide) r x i
  refine of_word rfl hb ?_
  rw [majorV59 g, c0, c1, e0, e1, e2]
  rfl
theorem vlds (t : BitVec 1) (r : BitVec 6) (b : BitVec 5) (c : BitVec 5) (z : BitVec 2) (s : BitVec 1) (m : BitVec 1) : Statement (.vlds t r b c z s m) := by
  intro q hq
  obtain rfl := one (p := .V) rfl hq
  obtain ⟨hb, e0, e1, e2, e3, e4, e5, e6, g, c0⟩ := layout27 (m := 0xB4000000) (v0 := 90) (v1 := 0) rfl (by decide) (by decide) t r b c z s m
  refine of_word rfl hb ?_
  rw [majorV5A g, c0, e0, e1, e2, e3, e4, e5, e6]
  rfl
theorem vsts (r : BitVec 6) (b : BitVec 5) (c : BitVec 5) (z : BitVec 2) (s : BitVec 1) (m : BitVec 1) : Statement (.vsts r b c z s m) := by
  intro q hq
  obtain rfl := one (p := .V) rfl hq
  obtain ⟨hb, e0, e1, e2, e3, e4, e5, g, c0, c1⟩ := layout28 (m := 0xB6000000) (v0 := 91) (v1 := 0) (v2 := 0) rfl (by decide) (by decide) (by decide) r b c z s m
  refine of_word rfl hb ?_
  rw [majorV5B g, c0, c1, e0, e1, e2, e3, e4, e5]
  rfl
theorem vldx (t : BitVec 1) (r : BitVec 6) (b : BitVec 5) (i : BitVec 6) (z : BitVec 2) (s : BitVec 1) (m : BitVec 1) : Statement (.vldx t r b i z s m) := by
  intro q hq
  obtain rfl := one (p := .V) rfl hq
  obtain ⟨hb, e0, e1, e2, e3, e4, e5, e6, g, c0, c1⟩ := layout29 (m := 0xB8000000) (v0 := 92) (v1 := 0) (v2 := 0) rfl (by decide) (by decide) (by decide) t r b i z s m
  refine of_word rfl hb ?_
  rw [majorV5C g, c0, c1, e0, e1, e2, e3, e4, e5, e6]
  rfl
theorem vstx (r : BitVec 6) (b : BitVec 5) (i : BitVec 6) (z : BitVec 2) (s : BitVec 1) (m : BitVec 1) : Statement (.vstx r b i z s m) := by
  intro q hq
  obtain rfl := one (p := .V) rfl hq
  obtain ⟨hb, e0, e1, e2, e3, e4, e5, g, c0, c1, c2⟩ := layout30 (m := 0xBA000000) (v0 := 93) (v1 := 0) (v2 := 0) (v3 := 0) rfl (by decide) (by decide) (by decide) (by decide) r b i z s m
  refine of_word rfl hb ?_
  rw [majorV5D g, c0, c1, c2, e0, e1, e2, e3, e4, e5]
  rfl
theorem vgld (t : BitVec 1) (r : BitVec 6) (x : BitVec 5) (i : BitVec 12) : Statement (.vgld t r x i) := by
  intro q hq
  obtain rfl := one (p := .V) rfl hq
  obtain ⟨hb, e0, e1, e2, e3, g, c0⟩ := layout25 (m := 0xBC000000) (v0 := 94) (v1 := 0) rfl (by decide) (by decide) t r x i
  refine of_word rfl hb ?_
  rw [majorV5E g, c0, e0, e1, e2, e3]
  rfl
theorem vgst (r : BitVec 6) (x : BitVec 5) (i : BitVec 12) : Statement (.vgst r x i) := by
  intro q hq
  obtain rfl := one (p := .V) rfl hq
  obtain ⟨hb, e0, e1, e2, g, c0, c1⟩ := layout26 (m := 0xBE000000) (v0 := 95) (v1 := 0) (v2 := 0) rfl (by decide) (by decide) (by decide) r x i
  refine of_word rfl hb ?_
  rw [majorV5F g, c0, c1, e0, e1, e2]
  rfl
theorem vsend (r : BitVec 6) (k : BitVec 4) : Statement (.vsend r k) := by
  intro q hq
  obtain rfl := one (p := .V) rfl hq
  obtain ⟨hb, e0, e1, g, c0, c1, c2⟩ := layout31 (m := 0xC0000000) (v0 := 96) (v1 := 0) (v2 := 0) (v3 := 0) rfl (by decide) (by decide) (by decide) (by decide) r k
  refine of_word rfl hb ?_
  rw [majorV60 g, c0, c1, c2, e0, e1]
  rfl
theorem vrecv (t : BitVec 1) (r : BitVec 6) : Statement (.vrecv t r) := by
  intro q hq
  obtain rfl := one (p := .V) rfl hq
  obtain ⟨hb, e0, e1, g, c0⟩ := layout32 (m := 0xC2000000) (v0 := 97) (v1 := 0) rfl (by decide) (by decide) t r
  refine of_word rfl hb ?_
  rw [majorV61 g, c0, e0, e1]
  rfl
theorem vacc (t : BitVec 1) (d : BitVec 6) (i : BitVec 8) : Statement (.vacc t d i) := by
  intro q hq
  obtain rfl := one (p := .V) rfl hq
  obtain ⟨hb, e0, e1, e2, g, c0⟩ := layout33 (m := 0xC4000000) (v0 := 98) (v1 := 0) rfl (by decide) (by decide) t d i
  refine of_word rfl hb ?_
  rw [majorV62 g, decodeV62, c0, e0, e1, e2]
  rfl
theorem vaccX (t : BitVec 1) (d : BitVec 6) (x : BitVec 5) (i : BitVec 8) : Statement (.vaccX t d x i) := by
  intro q hq
  obtain rfl := one (p := .V) rfl hq
  have h0 := t.isLt
  have h1 := d.isLt
  have h2 := x.isLt
  have h3 := i.isLt
  refine of_word rfl ?_ ?_
  · simp only [wd, sh]; omega
  · generalize hw : wd _ _ = w
    simp only [wd, sh] at hw
    have e0 : fld 1 w 24 = t := fld_eq (by omega)
    have e1 : fld 6 w 18 = d := fld_eq (by omega)
    have e2 : fld 5 w 8 = x := fld_eq (by omega)
    have e3 : fld 8 w 0 = i := fld_eq (by omega)
    have g : opc w = 0x62 := by simp only [opc, fix]; omega
    have c0 : ¬ fix w 17 8 = 0 := by simp only [fix]; omega
    have c1 : fix w 17 13 = 1 := by simp only [fix]; omega
    rw [majorV62 g]; simp only [decodeV62, e0, e1, e2, e3, c0, c1, reduceIte, Nat.reduceEqDiff, and_true, true_and, false_and, and_false, and_self]
theorem vamul (t : BitVec 1) (d : BitVec 6) (a : BitVec 6) (b : BitVec 6) (l : BitVec 1) (o : BitVec 1) (i : BitVec 2) (j : BitVec 2) : Statement (.vamul t d a b l o i j) := by
  intro q hq
  obtain rfl := one (p := .V) rfl hq
  obtain ⟨hb, e0, e1, e2, e3, e4, e5, e6, e7, g⟩ := layout34 (m := 0xC8000000) (v0 := 100) rfl (by decide) t d a b l o i j
  refine of_word rfl hb ?_
  rw [majorV64 g, e0, e1, e2, e3, e4, e5, e6, e7]
theorem vconj (t : BitVec 1) (d : BitVec 6) (a : BitVec 6) (l : BitVec 1) (i : BitVec 2) : Statement (.vconj t d a l i) := by
  intro q hq
  obtain rfl := one (p := .V) rfl hq
  obtain ⟨hb, e0, e1, e2, e3, e4, g, c0, c1, c2⟩ := layout35 (m := 0xCA000000) (v0 := 101) (v1 := 0) (v2 := 0) (v3 := 0) rfl (by decide) (by decide) (by decide) (by decide) t d a l i
  refine of_word rfl hb ?_
  rw [majorV65 g, c0, c1, c2, e0, e1, e2, e3, e4]
  rfl
theorem vnorm (t : BitVec 1) (d : BitVec 6) (a : BitVec 6) (l : BitVec 1) : Statement (.vnorm t d a l) := by
  intro q hq
  obtain rfl := one (p := .V) rfl hq
  obtain ⟨hb, e0, e1, e2, e3, g, c0, c1⟩ := layout36 (m := 0xCC000000) (v0 := 102) (v1 := 0) (v2 := 0) rfl (by decide) (by decide) (by decide) t d a l
  refine of_word rfl hb ?_
  rw [majorV66 g, c0, c1, e0, e1, e2, e3]
  rfl
theorem vaw (y : BitVec 2) (a : BitVec 6) (x : BitVec 5) : Statement (.vaw y a x) := by
  intro q hq
  obtain rfl := one (p := .V) rfl hq
  obtain ⟨hb, e0, e1, e2, g, c0, c1⟩ := layout37 (m := 0xD0000000) (v0 := 104) (v1 := 0) (v2 := 0) rfl (by decide) (by decide) (by decide) y a x
  refine of_word rfl hb ?_
  rw [majorV68 g, c0, c1, e0, e1, e2]
  rfl
theorem vtcfg (t : BitVec 3) (r : BitVec 4) (c : BitVec 4) (w : BitVec 2) : Statement (.vtcfg t r c w) := by
  intro q hq
  obtain rfl := one (p := .V) rfl hq
  obtain ⟨hb, e0, e1, e2, e3, g, c0, c1⟩ := layout38 (m := 0xE0000000) (v0 := 112) (v1 := 0) (v2 := 0) rfl (by decide) (by decide) (by decide) t r c w
  refine of_word rfl hb ?_
  rw [majorV70 g, c0, c1, e0, e1, e2, e3]
  rfl
theorem vtrel (t : BitVec 3) : Statement (.vtrel t) := by
  intro q hq
  obtain rfl := one (p := .V) rfl hq
  obtain ⟨hb, e0, g, c0, c1⟩ := layout39 (m := 0xE2000000) (v0 := 113) (v1 := 0) (v2 := 0) rfl (by decide) (by decide) (by decide) t
  refine of_word rfl hb ?_
  rw [majorV71 g, c0, c1, e0]
  rfl
theorem vtrow (r : BitVec 6) (t : BitVec 3) (i : BitVec 4) (q : BitVec 2) : Statement (.vtrow r t i q) := by
  intro q hq
  obtain rfl := one (p := .V) rfl hq
  obtain ⟨hb, e0, e1, e2, e3, g, c0, c1⟩ := layout40 (m := 0xE4000000) (v0 := 114) (v1 := 0) (v2 := 0) rfl (by decide) (by decide) (by decide) r t i q
  refine of_word rfl hb ?_
  rw [majorV72 g, c0, c1, e0, e1, e2, e3]
  rfl
theorem vtrowr (t : BitVec 1) (r : BitVec 6) (n : BitVec 3) (i : BitVec 4) (q : BitVec 2) : Statement (.vtrowr t r n i q) := by
  intro q hq
  obtain rfl := one (p := .V) rfl hq
  obtain ⟨hb, e0, e1, e2, e3, e4, g, c0⟩ := layout41 (m := 0xE6000000) (v0 := 115) (v1 := 0) rfl (by decide) (by decide) t r n i q
  refine of_word rfl hb ?_
  rw [majorV73 g, c0, e0, e1, e2, e3, e4]
  rfl
theorem vtcol (t : BitVec 1) (r : BitVec 6) (n : BitVec 3) (i : BitVec 4) (q : BitVec 2) : Statement (.vtcol t r n i q) := by
  intro q hq
  obtain rfl := one (p := .V) rfl hq
  obtain ⟨hb, e0, e1, e2, e3, e4, g, c0⟩ := layout41 (m := 0xE8000000) (v0 := 116) (v1 := 0) rfl (by decide) (by decide) t r n i q
  refine of_word rfl hb ?_
  rw [majorV74 g, c0, e0, e1, e2, e3, e4]
  rfl
theorem vtcolw (r : BitVec 6) (t : BitVec 3) (i : BitVec 4) (q : BitVec 2) : Statement (.vtcolw r t i q) := by
  intro q hq
  obtain rfl := one (p := .V) rfl hq
  obtain ⟨hb, e0, e1, e2, e3, g, c0, c1⟩ := layout40 (m := 0xEA000000) (v0 := 117) (v1 := 0) (v2 := 0) rfl (by decide) (by decide) (by decide) r t i q
  refine of_word rfl hb ?_
  rw [majorV75 g, c0, c1, e0, e1, e2, e3]
  rfl
theorem vtsave (m : BitVec 8) (x : BitVec 5) : Statement (.vtsave m x) := by
  intro q hq
  obtain rfl := one (p := .V) rfl hq
  obtain ⟨hb, e0, e1, g, c0, c1⟩ := layout42 (m := 0xEC000000) (v0 := 118) (v1 := 0) (v2 := 0) rfl (by decide) (by decide) (by decide) m x
  refine of_word rfl hb ?_
  rw [majorV76 g, c0, c1, e0, e1]
  rfl
theorem vtload (m : BitVec 8) (x : BitVec 5) : Statement (.vtload m x) := by
  intro q hq
  obtain rfl := one (p := .V) rfl hq
  obtain ⟨hb, e0, e1, g, c0, c1⟩ := layout42 (m := 0xEE000000) (v0 := 119) (v1 := 0) (v2 := 0) rfl (by decide) (by decide) (by decide) m x
  refine of_word rfl hb ?_
  rw [majorV77 g, c0, c1, e0, e1]
  rfl
theorem vsrnd (t : BitVec 1) (d : BitVec 6) (a : BitVec 6) (g : BitVec 4) (p : BitVec 2) (x : BitVec 5) : Statement (.vsrnd t d a g p x) := by
  intro q hq
  obtain rfl := one (p := .V) rfl hq
  obtain ⟨hb, e0, e1, e2, e3, e4, e5, g, c0⟩ := layout43 (m := 0xD2000000) (v0 := 105) (v1 := 0) rfl (by decide) (by decide) t d a g p x
  refine of_word rfl hb ?_
  rw [majorV69 g, c0, e0, e1, e2, e3, e4, e5]
  rfl
theorem chadd (a : BitVec 6) : Statement (.chadd a) := by
  intro q hq
  obtain rfl := one (p := .V) rfl hq
  obtain ⟨hb, e0, g, c0, c1⟩ := layout10 (m := 0xD4000000) (v0 := 106) (v1 := 0) (v2 := 0) rfl (by decide) (by decide) (by decide) a
  refine of_word rfl hb ?_
  rw [majorV6A g, c0, c1, e0]
  rfl
theorem madd (d : BitVec 4) (a : BitVec 4) (b : BitVec 4) : Statement (.madd d a b) := by
  intro q hq
  obtain rfl := one (p := .M) rfl hq
  obtain ⟨hb, e0, e1, e2, g, c0, c1⟩ := layout44 (m := 0x02000000) (v0 := 1) (v1 := 0) (v2 := 0) rfl (by decide) (by decide) (by decide) d a b
  refine of_word rfl hb ?_
  rw [majorM01 g, decodeM01, c0, c1, e0, e1, e2]
  rfl
theorem msub (d : BitVec 4) (a : BitVec 4) (b : BitVec 4) : Statement (.msub d a b) := by
  intro q hq
  obtain rfl := one (p := .M) rfl hq
  obtain ⟨hb, e0, e1, e2, g, c0, c1⟩ := layout44 (m := 0x02200000) (v0 := 1) (v1 := 0) (v2 := 1) rfl (by decide) (by decide) (by decide) d a b
  refine of_word rfl hb ?_
  rw [majorM01 g, decodeM01, c0, c1, e0, e1, e2]
  rfl
theorem mand (d : BitVec 4) (a : BitVec 4) (b : BitVec 4) : Statement (.mand d a b) := by
  intro q hq
  obtain rfl := one (p := .M) rfl hq
  obtain ⟨hb, e0, e1, e2, g, c0, c1⟩ := layout44 (m := 0x02400000) (v0 := 1) (v1 := 0) (v2 := 2) rfl (by decide) (by decide) (by decide) d a b
  refine of_word rfl hb ?_
  rw [majorM01 g, decodeM01, c0, c1, e0, e1, e2]
  rfl
theorem mor (d : BitVec 4) (a : BitVec 4) (b : BitVec 4) : Statement (.mor d a b) := by
  intro q hq
  obtain rfl := one (p := .M) rfl hq
  obtain ⟨hb, e0, e1, e2, g, c0, c1⟩ := layout44 (m := 0x02600000) (v0 := 1) (v1 := 0) (v2 := 3) rfl (by decide) (by decide) (by decide) d a b
  refine of_word rfl hb ?_
  rw [majorM01 g, decodeM01, c0, c1, e0, e1, e2]
  rfl
theorem mxor (d : BitVec 4) (a : BitVec 4) (b : BitVec 4) : Statement (.mxor d a b) := by
  intro q hq
  obtain rfl := one (p := .M) rfl hq
  obtain ⟨hb, e0, e1, e2, g, c0, c1⟩ := layout44 (m := 0x02800000) (v0 := 1) (v1 := 0) (v2 := 4) rfl (by decide) (by decide) (by decide) d a b
  refine of_word rfl hb ?_
  rw [majorM01 g, decodeM01, c0, c1, e0, e1, e2]
  rfl
theorem msll (d : BitVec 4) (a : BitVec 4) (b : BitVec 4) : Statement (.msll d a b) := by
  intro q hq
  obtain rfl := one (p := .M) rfl hq
  obtain ⟨hb, e0, e1, e2, g, c0, c1⟩ := layout44 (m := 0x02A00000) (v0 := 1) (v1 := 0) (v2 := 5) rfl (by decide) (by decide) (by decide) d a b
  refine of_word rfl hb ?_
  rw [majorM01 g, decodeM01, c0, c1, e0, e1, e2]
  rfl
theorem msrl (d : BitVec 4) (a : BitVec 4) (b : BitVec 4) : Statement (.msrl d a b) := by
  intro q hq
  obtain rfl := one (p := .M) rfl hq
  obtain ⟨hb, e0, e1, e2, g, c0, c1⟩ := layout44 (m := 0x02C00000) (v0 := 1) (v1 := 0) (v2 := 6) rfl (by decide) (by decide) (by decide) d a b
  refine of_word rfl hb ?_
  rw [majorM01 g, decodeM01, c0, c1, e0, e1, e2]
  rfl
theorem mminu (d : BitVec 4) (a : BitVec 4) (b : BitVec 4) : Statement (.mminu d a b) := by
  intro q hq
  obtain rfl := one (p := .M) rfl hq
  obtain ⟨hb, e0, e1, e2, g, c0, c1⟩ := layout44 (m := 0x02E00000) (v0 := 1) (v1 := 0) (v2 := 7) rfl (by decide) (by decide) (by decide) d a b
  refine of_word rfl hb ?_
  rw [majorM01 g, decodeM01, c0, c1, e0, e1, e2]
  rfl
theorem maddi (d : BitVec 4) (a : BitVec 4) (i : BitVec 17) : Statement (.maddi d a i) := by
  intro q hq
  obtain rfl := one (p := .M) rfl hq
  obtain ⟨hb, e0, e1, e2, g⟩ := layout45 (m := 0x04000000) (v0 := 2) rfl (by decide) d a i
  refine of_word rfl hb ?_
  rw [majorM02 g, e0, e1, e2]
theorem mmovk (d : BitVec 4) (h : BitVec 2) (i : BitVec 16) : Statement (.mmovk d h i) := by
  intro q hq
  obtain rfl := one (p := .M) rfl hq
  obtain ⟨hb, e0, e1, e2, g, c0⟩ := layout46 (m := 0x06000000) (v0 := 3) (v1 := 0) rfl (by decide) (by decide) d h i
  refine of_word rfl hb ?_
  rw [majorM03 g, c0, e0, e1, e2]
  rfl
theorem mmovx (d : BitVec 4) (x : BitVec 5) : Statement (.mmovx d x) := by
  intro q hq
  obtain rfl := one (p := .M) rfl hq
  obtain ⟨hb, e0, e1, g, c0⟩ := layout47 (m := 0x08000000) (v0 := 4) (v1 := 0) rfl (by decide) (by decide) d x
  refine of_word rfl hb ?_
  rw [majorM04 g, c0, e0, e1]
  rfl
theorem mmovi (d : BitVec 4) (i : BitVec 17) : Statement (.mmovi d i) := by
  intro q hq
  obtain rfl := one (p := .M) rfl hq
  obtain ⟨hb, e0, e1, g, c0⟩ := layout48 (m := 0x0A000000) (v0 := 5) (v1 := 0) rfl (by decide) (by decide) d i
  refine of_word rfl hb ?_
  rw [majorM05 g, c0, e0, e1]
  rfl
theorem mbeq (a : BitVec 4) (b : BitVec 4) (o : BitVec 17) : Statement (.mbeq a b o) := by
  intro q hq
  obtain rfl := one (p := .M) rfl hq
  obtain ⟨hb, e0, e1, e2, g⟩ := layout45 (m := 0x10000000) (v0 := 8) rfl (by decide) a b o
  refine of_word rfl hb ?_
  rw [majorM08 g, e0, e1, e2]
theorem mbne (a : BitVec 4) (b : BitVec 4) (o : BitVec 17) : Statement (.mbne a b o) := by
  intro q hq
  obtain rfl := one (p := .M) rfl hq
  obtain ⟨hb, e0, e1, e2, g⟩ := layout45 (m := 0x12000000) (v0 := 9) rfl (by decide) a b o
  refine of_word rfl hb ?_
  rw [majorM09 g, e0, e1, e2]
theorem mbltu (a : BitVec 4) (b : BitVec 4) (o : BitVec 17) : Statement (.mbltu a b o) := by
  intro q hq
  obtain rfl := one (p := .M) rfl hq
  obtain ⟨hb, e0, e1, e2, g⟩ := layout45 (m := 0x14000000) (v0 := 10) rfl (by decide) a b o
  refine of_word rfl hb ?_
  rw [majorM0A g, e0, e1, e2]
theorem mma (u : BitVec 3) (a : BitVec 3) (b : BitVec 3) (s : BitVec 4) (k : BitVec 11) : Statement (.mma u a b s k) := by
  intro q hq
  obtain rfl := one (p := .M) rfl hq
  obtain ⟨hb, e0, e1, e2, e3, e4, g, c0⟩ := layout49 (m := 0x20000000) (v0 := 16) (v1 := 0) rfl (by decide) (by decide) u a b s k
  refine of_word rfl hb ?_
  rw [majorM10 g, decodeM10, c0, e0, e1, e2, e3, e4]
  rfl
theorem mmaReg (u : BitVec 3) (a : BitVec 3) (b : BitVec 3) (s : BitVec 4) (r : BitVec 4) : Statement (.mmaReg u a b s r) := by
  intro q hq
  obtain rfl := one (p := .M) rfl hq
  have h0 := u.isLt
  have h1 := a.isLt
  have h2 := b.isLt
  have h3 := s.isLt
  have h4 := r.isLt
  refine of_word rfl ?_ ?_
  · simp only [wd, sh]; omega
  · generalize hw : wd _ _ = w
    simp only [wd, sh] at hw
    have e0 : fld 3 w 22 = u := fld_eq (by omega)
    have e1 : fld 3 w 19 = a := fld_eq (by omega)
    have e2 : fld 3 w 16 = b := fld_eq (by omega)
    have e3 : fld 4 w 12 = s := fld_eq (by omega)
    have e4 : fld 4 w 0 = r := fld_eq (by omega)
    have g : opc w = 0x10 := by simp only [opc, fix]; omega
    have c0 : fix w 11 11 = 1 := by simp only [fix]; omega
    have c1 : fix w 11 4 = 128 := by simp only [fix]; omega
    rw [majorM10 g]; simp only [decodeM10, e0, e1, e2, e3, e4, c0, c1, reduceIte, Nat.reduceEqDiff, and_true, true_and, false_and, and_false, and_self]
theorem mstage (u : BitVec 3) (a : BitVec 3) (b : BitVec 3) (l : BitVec 3) (k : BitVec 11) : Statement (.mstage u a b l k) := by
  intro q hq
  obtain rfl := one (p := .M) rfl hq
  obtain ⟨hb, e0, e1, e2, e3, e4, g, c0, c1⟩ := layout50 (m := 0x22000000) (v0 := 17) (v1 := 0) (v2 := 0) rfl (by decide) (by decide) (by decide) u a b l k
  refine of_word rfl hb ?_
  rw [majorM11 g, decodeM11, c0, c1, e0, e1, e2, e3, e4]
  rfl
theorem mstageReg (u : BitVec 3) (a : BitVec 3) (b : BitVec 3) (l : BitVec 3) (r : BitVec 4) : Statement (.mstageReg u a b l r) := by
  intro q hq
  obtain rfl := one (p := .M) rfl hq
  have h0 := u.isLt
  have h1 := a.isLt
  have h2 := b.isLt
  have h3 := l.isLt
  have h4 := r.isLt
  refine of_word rfl ?_ ?_
  · simp only [wd, sh]; omega
  · generalize hw : wd _ _ = w
    simp only [wd, sh] at hw
    have e0 : fld 3 w 22 = u := fld_eq (by omega)
    have e1 : fld 3 w 19 = a := fld_eq (by omega)
    have e2 : fld 3 w 16 = b := fld_eq (by omega)
    have e3 : fld 3 w 12 = l := fld_eq (by omega)
    have e4 : fld 4 w 0 = r := fld_eq (by omega)
    have g : opc w = 0x11 := by simp only [opc, fix]; omega
    have c0 : fix w 11 11 = 1 := by simp only [fix]; omega
    have c1 : fix w 15 15 = 0 := by simp only [fix]; omega
    have c2 : fix w 11 4 = 128 := by simp only [fix]; omega
    rw [majorM11 g]; simp only [decodeM11, e0, e1, e2, e3, e4, c0, c1, c2, reduceIte, Nat.reduceEqDiff, and_true, true_and, false_and, and_false, and_self]
theorem mzero (u : BitVec 3) (n : BitVec 3) : Statement (.mzero u n) := by
  intro q hq
  obtain rfl := one (p := .M) rfl hq
  obtain ⟨hb, e0, e1, g, c0⟩ := layout51 (m := 0x24000000) (v0 := 18) (v1 := 0) rfl (by decide) (by decide) u n
  refine of_word rfl hb ?_
  rw [majorM12 g, c0, e0, e1]
  rfl
theorem mswap : Statement (.mswap) := by
  intro q hq
  obtain rfl := one (p := .M) rfl hq
  obtain ⟨hb, g, c0⟩ := layout14 (m := 0x26000000) (v0 := 19) (v1 := 0) rfl (by decide) (by decide)
  refine of_word rfl hb ?_
  rw [majorM13 g, c0]
  rfl
theorem cadd (d : BitVec 4) (a : BitVec 4) (b : BitVec 4) : Statement (.cadd d a b) := by
  intro q hq
  obtain rfl := one (p := .C) rfl hq
  obtain ⟨hb, e0, e1, e2, g, c0, c1⟩ := layout44 (m := 0x02000000) (v0 := 1) (v1 := 0) (v2 := 0) rfl (by decide) (by decide) (by decide) d a b
  refine of_word rfl hb ?_
  rw [majorC01 g, decodeC01, c0, c1, e0, e1, e2]
  rfl
theorem csub (d : BitVec 4) (a : BitVec 4) (b : BitVec 4) : Statement (.csub d a b) := by
  intro q hq
  obtain rfl := one (p := .C) rfl hq
  obtain ⟨hb, e0, e1, e2, g, c0, c1⟩ := layout44 (m := 0x02200000) (v0 := 1) (v1 := 0) (v2 := 1) rfl (by decide) (by decide) (by decide) d a b
  refine of_word rfl hb ?_
  rw [majorC01 g, decodeC01, c0, c1, e0, e1, e2]
  rfl
theorem cand (d : BitVec 4) (a : BitVec 4) (b : BitVec 4) : Statement (.cand d a b) := by
  intro q hq
  obtain rfl := one (p := .C) rfl hq
  obtain ⟨hb, e0, e1, e2, g, c0, c1⟩ := layout44 (m := 0x02400000) (v0 := 1) (v1 := 0) (v2 := 2) rfl (by decide) (by decide) (by decide) d a b
  refine of_word rfl hb ?_
  rw [majorC01 g, decodeC01, c0, c1, e0, e1, e2]
  rfl
theorem cor (d : BitVec 4) (a : BitVec 4) (b : BitVec 4) : Statement (.cor d a b) := by
  intro q hq
  obtain rfl := one (p := .C) rfl hq
  obtain ⟨hb, e0, e1, e2, g, c0, c1⟩ := layout44 (m := 0x02600000) (v0 := 1) (v1 := 0) (v2 := 3) rfl (by decide) (by decide) (by decide) d a b
  refine of_word rfl hb ?_
  rw [majorC01 g, decodeC01, c0, c1, e0, e1, e2]
  rfl
theorem cxor (d : BitVec 4) (a : BitVec 4) (b : BitVec 4) : Statement (.cxor d a b) := by
  intro q hq
  obtain rfl := one (p := .C) rfl hq
  obtain ⟨hb, e0, e1, e2, g, c0, c1⟩ := layout44 (m := 0x02800000) (v0 := 1) (v1 := 0) (v2 := 4) rfl (by decide) (by decide) (by decide) d a b
  refine of_word rfl hb ?_
  rw [majorC01 g, decodeC01, c0, c1, e0, e1, e2]
  rfl
theorem csll (d : BitVec 4) (a : BitVec 4) (b : BitVec 4) : Statement (.csll d a b) := by
  intro q hq
  obtain rfl := one (p := .C) rfl hq
  obtain ⟨hb, e0, e1, e2, g, c0, c1⟩ := layout44 (m := 0x02A00000) (v0 := 1) (v1 := 0) (v2 := 5) rfl (by decide) (by decide) (by decide) d a b
  refine of_word rfl hb ?_
  rw [majorC01 g, decodeC01, c0, c1, e0, e1, e2]
  rfl
theorem csrl (d : BitVec 4) (a : BitVec 4) (b : BitVec 4) : Statement (.csrl d a b) := by
  intro q hq
  obtain rfl := one (p := .C) rfl hq
  obtain ⟨hb, e0, e1, e2, g, c0, c1⟩ := layout44 (m := 0x02C00000) (v0 := 1) (v1 := 0) (v2 := 6) rfl (by decide) (by decide) (by decide) d a b
  refine of_word rfl hb ?_
  rw [majorC01 g, decodeC01, c0, c1, e0, e1, e2]
  rfl
theorem cminu (d : BitVec 4) (a : BitVec 4) (b : BitVec 4) : Statement (.cminu d a b) := by
  intro q hq
  obtain rfl := one (p := .C) rfl hq
  obtain ⟨hb, e0, e1, e2, g, c0, c1⟩ := layout44 (m := 0x02E00000) (v0 := 1) (v1 := 0) (v2 := 7) rfl (by decide) (by decide) (by decide) d a b
  refine of_word rfl hb ?_
  rw [majorC01 g, decodeC01, c0, c1, e0, e1, e2]
  rfl
theorem caddi (d : BitVec 4) (a : BitVec 4) (i : BitVec 17) : Statement (.caddi d a i) := by
  intro q hq
  obtain rfl := one (p := .C) rfl hq
  obtain ⟨hb, e0, e1, e2, g⟩ := layout45 (m := 0x04000000) (v0 := 2) rfl (by decide) d a i
  refine of_word rfl hb ?_
  rw [majorC02 g, e0, e1, e2]
theorem cmovk (d : BitVec 4) (h : BitVec 2) (i : BitVec 16) : Statement (.cmovk d h i) := by
  intro q hq
  obtain rfl := one (p := .C) rfl hq
  obtain ⟨hb, e0, e1, e2, g, c0⟩ := layout46 (m := 0x06000000) (v0 := 3) (v1 := 0) rfl (by decide) (by decide) d h i
  refine of_word rfl hb ?_
  rw [majorC03 g, c0, e0, e1, e2]
  rfl
theorem cmovx (d : BitVec 4) (x : BitVec 5) : Statement (.cmovx d x) := by
  intro q hq
  obtain rfl := one (p := .C) rfl hq
  obtain ⟨hb, e0, e1, g, c0⟩ := layout47 (m := 0x08000000) (v0 := 4) (v1 := 0) rfl (by decide) (by decide) d x
  refine of_word rfl hb ?_
  rw [majorC04 g, c0, e0, e1]
  rfl
theorem cmovi (d : BitVec 4) (i : BitVec 17) : Statement (.cmovi d i) := by
  intro q hq
  obtain rfl := one (p := .C) rfl hq
  obtain ⟨hb, e0, e1, g, c0⟩ := layout48 (m := 0x0A000000) (v0 := 5) (v1 := 0) rfl (by decide) (by decide) d i
  refine of_word rfl hb ?_
  rw [majorC05 g, c0, e0, e1]
  rfl
theorem cbeq (a : BitVec 4) (b : BitVec 4) (o : BitVec 17) : Statement (.cbeq a b o) := by
  intro q hq
  obtain rfl := one (p := .C) rfl hq
  obtain ⟨hb, e0, e1, e2, g⟩ := layout45 (m := 0x10000000) (v0 := 8) rfl (by decide) a b o
  refine of_word rfl hb ?_
  rw [majorC08 g, e0, e1, e2]
theorem cbne (a : BitVec 4) (b : BitVec 4) (o : BitVec 17) : Statement (.cbne a b o) := by
  intro q hq
  obtain rfl := one (p := .C) rfl hq
  obtain ⟨hb, e0, e1, e2, g⟩ := layout45 (m := 0x12000000) (v0 := 9) rfl (by decide) a b o
  refine of_word rfl hb ?_
  rw [majorC09 g, e0, e1, e2]
theorem cbltu (a : BitVec 4) (b : BitVec 4) (o : BitVec 17) : Statement (.cbltu a b o) := by
  intro q hq
  obtain rfl := one (p := .C) rfl hq
  obtain ⟨hb, e0, e1, e2, g⟩ := layout45 (m := 0x14000000) (v0 := 10) rfl (by decide) a b o
  refine of_word rfl hb ?_
  rw [majorC0A g, e0, e1, e2]
theorem cpy (c : BitVec 2) (d : BitVec 4) (s : BitVec 4) (n : BitVec 4) (b : BitVec 4) (x : BitVec 1) (f : BitVec 1) (l : BitVec 3) : Statement (.cpy c d s n b x f l) := by
  intro q hq
  obtain rfl := one (p := .C) rfl hq
  obtain ⟨hb, e0, e1, e2, e3, e4, e5, e6, e7, g, c0⟩ := layout52 (m := 0x20000000) (v0 := 16) (v1 := 0) rfl (by decide) (by decide) c d s n b x f l
  refine of_word rfl hb ?_
  rw [majorC10 g, c0, e0, e1, e2, e3, e4, e5, e6, e7]
  rfl
theorem ctens (c : BitVec 2) (r : BitVec 4) (b : BitVec 4) (x : BitVec 1) (f : BitVec 1) (l : BitVec 3) : Statement (.ctens c r b x f l) := by
  intro q hq
  obtain rfl := one (p := .C) rfl hq
  obtain ⟨hb, e0, e1, e2, e3, e4, e5, g, c0⟩ := layout53 (m := 0x22000000) (v0 := 17) (v1 := 0) rfl (by decide) (by decide) c r b x f l
  refine of_word rfl hb ?_
  rw [majorC11 g, c0, e0, e1, e2, e3, e4, e5]
  rfl
theorem cgath (c : BitVec 2) (d : BitVec 4) (s : BitVec 4) (i : BitVec 4) (n : BitVec 4) (b : BitVec 4) (x : BitVec 1) (e : BitVec 2) : Statement (.cgath c d s i n b x e) := by
  intro q hq
  obtain rfl := one (p := .C) rfl hq
  obtain ⟨hb, e0, e1, e2, e3, e4, e5, e6, e7, g⟩ := layout54 (m := 0x24000000) (v0 := 18) rfl (by decide) c d s i n b x e
  refine of_word rfl hb ?_
  rw [majorC12 g, e0, e1, e2, e3, e4, e5, e6, e7]
theorem cscat (c : BitVec 2) (d : BitVec 4) (s : BitVec 4) (i : BitVec 4) (n : BitVec 4) (b : BitVec 4) (x : BitVec 1) (e : BitVec 2) : Statement (.cscat c d s i n b x e) := by
  intro q hq
  obtain rfl := one (p := .C) rfl hq
  obtain ⟨hb, e0, e1, e2, e3, e4, e5, e6, e7, g⟩ := layout54 (m := 0x26000000) (v0 := 19) rfl (by decide) c d s i n b x e
  refine of_word rfl hb ?_
  rw [majorC13 g, e0, e1, e2, e3, e4, e5, e6, e7]
theorem cscl (c : BitVec 2) (r : BitVec 6) (n : BitVec 9) (k : BitVec 1) : Statement (.cscl c r n k) := by
  intro q hq
  obtain rfl := one (p := .C) rfl hq
  obtain ⟨hb, e0, e1, e2, e3, g, c0⟩ := layout55 (m := 0x28000000) (v0 := 20) (v1 := 0) rfl (by decide) (by decide) c r n k
  refine of_word rfl hb ?_
  rw [majorC14 g, c0, e0, e1, e2, e3]
  rfl
theorem cldlct (c : BitVec 2) (r : BitVec 6) (n : BitVec 9) : Statement (.cldlct c r n) := by
  intro q hq
  obtain rfl := one (p := .C) rfl hq
  obtain ⟨hb, e0, e1, e2, g, c0⟩ := layout56 (m := 0x2A000000) (v0 := 21) (v1 := 0) rfl (by decide) (by decide) c r n
  refine of_word rfl hb ?_
  rw [majorC15 g, c0, e0, e1, e2]
  rfl
theorem cldalg (c : BitVec 2) (r : BitVec 6) (n : BitVec 9) : Statement (.cldalg c r n) := by
  intro q hq
  obtain rfl := one (p := .C) rfl hq
  obtain ⟨hb, e0, e1, e2, g, c0⟩ := layout56 (m := 0x2C000000) (v0 := 22) (v1 := 0) rfl (by decide) (by decide) c r n
  refine of_word rfl hb ?_
  rw [majorC16 g, c0, e0, e1, e2]
  rfl
theorem caw (c : BitVec 2) (s : BitVec 4) (q : BitVec 4) (n : BitVec 4) (y : BitVec 2) : Statement (.caw c s q n y) := by
  intro q hq
  obtain rfl := one (p := .C) rfl hq
  obtain ⟨hb, e0, e1, e2, e3, e4, g, c0⟩ := layout57 (m := 0x2E000000) (v0 := 23) (v1 := 0) rfl (by decide) (by decide) c s q n y
  refine of_word rfl hb ?_
  rw [majorC17 g, c0, e0, e1, e2, e3, e4]
  rfl
theorem cver (c : BitVec 2) (d : BitVec 4) (q : BitVec 4) (o : BitVec 4) (n : BitVec 4) (b : BitVec 4) (x : BitVec 1) : Statement (.cver c d q o n b x) := by
  intro q hq
  obtain rfl := one (p := .C) rfl hq
  obtain ⟨hb, e0, e1, e2, e3, e4, e5, e6, g, c0⟩ := layout58 (m := 0x30000000) (v0 := 24) (v1 := 0) rfl (by decide) (by decide) c d q o n b x
  refine of_word rfl hb ?_
  rw [majorC18 g, c0, e0, e1, e2, e3, e4, e5, e6]
  rfl
theorem cmapR (c : BitVec 2) (l : BitVec 4) (o : BitVec 4) (q : BitVec 4) (n : BitVec 4) : Statement (.cmapR c l o q n) := by
  intro q hq
  obtain rfl := one (p := .C) rfl hq
  obtain ⟨hb, e0, e1, e2, e3, e4, g, c0, c1⟩ := layout59 (m := 0x32000000) (v0 := 25) (v1 := 0) (v2 := 0) rfl (by decide) (by decide) (by decide) c l o q n
  refine of_word rfl hb ?_
  rw [majorC19 g, decodeC19, c0, c1, e0, e1, e2, e3, e4]
  rfl
theorem cmapW (c : BitVec 2) (l : BitVec 4) (o : BitVec 4) (q : BitVec 4) (n : BitVec 4) : Statement (.cmapW c l o q n) := by
  intro q hq
  obtain rfl := one (p := .C) rfl hq
  obtain ⟨hb, e0, e1, e2, e3, e4, g, c0, c1⟩ := layout59 (m := 0x32400000) (v0 := 25) (v1 := 0) (v2 := 1) rfl (by decide) (by decide) (by decide) c l o q n
  refine of_word rfl hb ?_
  rw [majorC19 g, decodeC19, c0, c1, e0, e1, e2, e3, e4]
  rfl
theorem cwb (c : BitVec 2) (m : BitVec 16) : Statement (.cwb c m) := by
  intro q hq
  obtain rfl := one (p := .C) rfl hq
  obtain ⟨hb, e0, e1, g, c0⟩ := layout60 (m := 0x34000000) (v0 := 26) (v1 := 0) rfl (by decide) (by decide) c m
  refine of_word rfl hb ?_
  rw [majorC1A g, c0, e0, e1]
  rfl
theorem cput (c : BitVec 2) (w : BitVec 3) (a : BitVec 4) (o : BitVec 4) (n : BitVec 4) (b : BitVec 4) (x : BitVec 1) : Statement (.cput c w a o n b x) := by
  intro q hq
  obtain rfl := one (p := .C) rfl hq
  obtain ⟨hb, e0, e1, e2, e3, e4, e5, e6, g, c0⟩ := layout61 (m := 0x36000000) (v0 := 27) (v1 := 0) rfl (by decide) (by decide) c w a o n b x
  refine of_word rfl hb ?_
  rw [majorC1B g, c0, e0, e1, e2, e3, e4, e5, e6]
  rfl
theorem cget (c : BitVec 2) (w : BitVec 3) (a : BitVec 4) (o : BitVec 4) (n : BitVec 4) (b : BitVec 4) (x : BitVec 1) : Statement (.cget c w a o n b x) := by
  intro q hq
  obtain rfl := one (p := .C) rfl hq
  obtain ⟨hb, e0, e1, e2, e3, e4, e5, e6, g, c0⟩ := layout61 (m := 0x38000000) (v0 := 28) (v1 := 0) rfl (by decide) (by decide) c w a o n b x
  refine of_word rfl hb ?_
  rw [majorC1C g, c0, e0, e1, e2, e3, e4, e5, e6]
  rfl
theorem cbcast (c : BitVec 2) (d : BitVec 4) (s : BitVec 4) (n : BitVec 4) (b : BitVec 4) (x : BitVec 1) : Statement (.cbcast c d s n b x) := by
  intro q hq
  obtain rfl := one (p := .C) rfl hq
  obtain ⟨hb, e0, e1, e2, e3, e4, e5, g, c0⟩ := layout62 (m := 0x3A000000) (v0 := 29) (v1 := 0) rfl (by decide) (by decide) c d s n b x
  refine of_word rfl hb ?_
  rw [majorC1D g, c0, e0, e1, e2, e3, e4, e5]
  rfl
theorem csendT (c : BitVec 2) (w : BitVec 3) (a : BitVec 4) (o : BitVec 4) (n : BitVec 4) (t : BitVec 4) (p : BitVec 4) : Statement (.csendT c w a o n t p) := by
  intro q hq
  obtain rfl := one (p := .C) rfl hq
  obtain ⟨hb, e0, e1, e2, e3, e4, e5, e6, g⟩ := layout63 (m := 0x3C000000) (v0 := 30) rfl (by decide) c w a o n t p
  refine of_word rfl hb ?_
  rw [majorC1E g, e0, e1, e2, e3, e4, e5, e6]
theorem tready (c : BitVec 2) (e : BitVec 4) : Statement (.tready c e) := by
  intro q hq
  obtain rfl := one (p := .C) rfl hq
  obtain ⟨hb, e0, e1, g, c0⟩ := layout64 (m := 0x3E000000) (v0 := 31) (v1 := 0) rfl (by decide) (by decide) c e
  refine of_word rfl hb ?_
  rw [majorC1F g, c0, e0, e1]
  rfl
theorem cbbarm (c : BitVec 2) (b : BitVec 4) (v : BitVec 4) : Statement (.cbbarm c b v) := by
  intro q hq
  obtain rfl := one (p := .C) rfl hq
  obtain ⟨hb, e0, e1, e2, g, c0⟩ := layout65 (m := 0x40000000) (v0 := 32) (v1 := 0) rfl (by decide) (by decide) c b v
  refine of_word rfl hb ?_
  rw [majorC20 g, c0, e0, e1, e2]
  rfl
theorem cbbadd (c : BitVec 2) (b : BitVec 4) (v : BitVec 4) : Statement (.cbbadd c b v) := by
  intro q hq
  obtain rfl := one (p := .C) rfl hq
  obtain ⟨hb, e0, e1, e2, g, c0⟩ := layout65 (m := 0x42000000) (v0 := 33) (v1 := 0) rfl (by decide) (by decide) c b v
  refine of_word rfl hb ?_
  rw [majorC21 g, c0, e0, e1, e2]
  rfl
theorem cbbwait (c : BitVec 2) (b : BitVec 4) (p : BitVec 1) : Statement (.cbbwait c b p) := by
  intro q hq
  obtain rfl := one (p := .C) rfl hq
  obtain ⟨hb, e0, e1, e2, g, c0, c1⟩ := layout66 (m := 0x44000000) (v0 := 34) (v1 := 0) (v2 := 0) rfl (by decide) (by decide) (by decide) c b p
  refine of_word rfl hb ?_
  rw [majorC22 g, c0, c1, e0, e1, e2]
  rfl
theorem rcfence : Statement (.rcfence) := by
  intro q hq
  obtain rfl := one (p := .C) rfl hq
  obtain ⟨hb, g, c0⟩ := layout14 (m := 0x46000000) (v0 := 35) (v1 := 0) rfl (by decide) (by decide)
  refine of_word rfl hb ?_
  rw [majorC23 g, c0]
  rfl
theorem cpya (c : BitVec 2) (d : BitVec 4) (s : BitVec 4) (n : BitVec 4) (b : BitVec 4) (x : BitVec 1) : Statement (.cpya c d s n b x) := by
  intro q hq
  obtain rfl := one (p := .C) rfl hq
  obtain ⟨hb, e0, e1, e2, e3, e4, e5, g, c0⟩ := layout62 (m := 0x48000000) (v0 := 36) (v1 := 0) rfl (by decide) (by decide) c d s n b x
  refine of_word rfl hb ?_
  rw [majorC24 g, c0, e0, e1, e2, e3, e4, e5]
  rfl
theorem packageReset (img : ImageArgs) : Statement (.packageReset img) := fun _ hq => (none_of rfl hq).elim
theorem resultLanding (u : Nat) (q : SeqId) : Statement (.resultLanding u q) := fun _ hq => (none_of rfl hq).elim
theorem loadDataArrival (id : Nat) : Statement (.loadDataArrival id) := fun _ hq => (none_of rfl hq).elim
theorem stallRelease (u : Nat) : Statement (.stallRelease u) := fun _ hq => (none_of rfl hq).elim
theorem swapEnd (u : Nat) : Statement (.swapEnd u) := fun _ hq => (none_of rfl hq).elim
theorem scaleEntryEnter (u : Nat) (ch : Nat) : Statement (.scaleEntryEnter u ch) := fun _ hq => (none_of rfl hq).elim
theorem chunkStart (u : Nat) : Statement (.chunkStart u) := fun _ hq => (none_of rfl hq).elim
theorem chunkCommit (u : Nat) (ch : Nat) : Statement (.chunkCommit u ch) := fun _ hq => (none_of rfl hq).elim
theorem copyCommandComplete (u : Nat) (id : Nat) : Statement (.copyCommandComplete u id) := fun _ hq => (none_of rfl hq).elim
theorem matrixCommandStart (u : Nat) (id : Nat) : Statement (.matrixCommandStart u id) := fun _ hq => (none_of rfl hq).elim
theorem quiescence (u : Nat) (id : Nat) : Statement (.quiescence u id) := fun _ hq => (none_of rfl hq).elim
theorem vsendArrival (u : Nat) : Statement (.vsendArrival u) := fun _ hq => (none_of rfl hq).elim
theorem windowAccess (u : Nat) : Statement (.windowAccess u) := fun _ hq => (none_of rfl hq).elim
theorem multicastWrite (u : Nat) : Statement (.multicastWrite u) := fun _ hq => (none_of rfl hq).elim
theorem awAnswer (id : Nat) (ans : AwAnswer) : Statement (.awAnswer id ans) := fun _ hq => (none_of rfl hq).elim
theorem awResend (id : Nat) : Statement (.awResend id) := fun _ hq => (none_of rfl hq).elim
theorem denialArrival (u : Nat) (q : SeqId) (c : CauseArgs) : Statement (.denialArrival u q c) := fun _ hq => (none_of rfl hq).elim
theorem globalAccessPerform (id : Nat) : Statement (.globalAccessPerform id) := fun _ hq => (none_of rfl hq).elim
theorem sideLogReplay (u : Nat) (q : SeqId) : Statement (.sideLogReplay u q) := fun _ hq => (none_of rfl hq).elim
theorem regionFillEnd (u : Nat) (slot : Nat) (chunk : Nat) : Statement (.regionFillEnd u slot chunk) := fun _ hq => (none_of rfl hq).elim
theorem walkResponse (id : Nat) (resp : BitVec 64) : Statement (.walkResponse id resp) := fun _ hq => (none_of rfl hq).elim
theorem walkTimeout (id : Nat) : Statement (.walkTimeout id) := fun _ hq => (none_of rfl hq).elim
theorem shootdown (die : BitVec 2) (v : BitVec 64) : Statement (.shootdown die v) := fun _ hq => (none_of rfl hq).elim
theorem shootdownComplete (die : BitVec 2) : Statement (.shootdownComplete die) := fun _ hq => (none_of rfl hq).elim
theorem resolve (die : BitVec 2) (v : BitVec 64) : Statement (.resolve die v) := fun _ hq => (none_of rfl hq).elim
theorem tierDemotion (tier : BitVec 2) (asid : BitVec 16) (va : BitVec 64) (size : BitVec 2) (oldPa : BitVec 64) (look : DemotionLook) : Statement (.tierDemotion tier asid va size oldPa look) := fun _ hq => (none_of rfl hq).elim
theorem promotion (asid : BitVec 16) (va : BitVec 64) (size : BitVec 2) (oldPa : Option (BitVec 64)) (look : PromotionLook) : Statement (.promotion asid va size oldPa look) := fun _ hq => (none_of rfl hq).elim
theorem tierRegisterWrite (tier : BitVec 2) (v : BitVec 64) : Statement (.tierRegisterWrite tier v) := fun _ hq => (none_of rfl hq).elim
theorem barrierComplete (lid : Nat) (level : Nat) (dom : Nat) : Statement (.barrierComplete lid level dom) := fun _ hq => (none_of rfl hq).elim
theorem spillEnd (u : Nat) : Statement (.spillEnd u) := fun _ hq => (none_of rfl hq).elim
theorem spillGo (w : SystemWrite) : Statement (.spillGo w) := fun _ hq => (none_of rfl hq).elim
theorem watchdogFire (u : Nat) : Statement (.watchdogFire u) := fun _ hq => (none_of rfl hq).elim
theorem freezeLimit (u : Nat) : Statement (.freezeLimit u) := fun _ hq => (none_of rfl hq).elim
theorem correctableError (u : Nat) : Statement (.correctableError u) := fun _ hq => (none_of rfl hq).elim
theorem uncorrectableError (what : PoisonUnit) : Statement (.uncorrectableError what) := fun _ hq => (none_of rfl hq).elim
theorem notify (queue : BitVec 10) (v : BitVec 64) : Statement (.notify queue v) := fun _ hq => (none_of rfl hq).elim
theorem queueDescriptorWrite (queue : BitVec 10) (word : BitVec 2) (v : BitVec 64) : Statement (.queueDescriptorWrite queue word v) := fun _ hq => (none_of rfl hq).elim
theorem queueBind : Statement (.queueBind) := fun _ hq => (none_of rfl hq).elim
theorem priorityAgeing : Statement (.priorityAgeing) := fun _ hq => (none_of rfl hq).elim
theorem queueEntryTake (queue : BitVec 10) : Statement (.queueEntryTake queue) := fun _ hq => (none_of rfl hq).elim
theorem launchSchedule : Statement (.launchSchedule) := fun _ hq => (none_of rfl hq).elim
theorem launchEnd (lid : Nat) : Statement (.launchEnd lid) := fun _ hq => (none_of rfl hq).elim
theorem qkill (v : BitVec 64) : Statement (.qkill v) := fun _ hq => (none_of rfl hq).elim
theorem powerWindowEnd (meters : List MeterArgs) : Statement (.powerWindowEnd meters) := fun _ hq => (none_of rfl hq).elim
theorem throttleSlot (part : BitVec 3) : Statement (.throttleSlot part) := fun _ hq => (none_of rfl hq).elim
theorem partaWrite (part : BitVec 3) (v : BitVec 64) : Statement (.partaWrite part v) := fun _ hq => (none_of rfl hq).elim
theorem capWrite (part : BitVec 3) (v : BitVec 64) : Statement (.capWrite part v) := fun _ hq => (none_of rfl hq).elim
theorem obsdataRead : Statement (.obsdataRead) := fun _ hq => (none_of rfl hq).elim
theorem frzWrite (v : BitVec 64) : Statement (.frzWrite v) := fun _ hq => (none_of rfl hq).elim
theorem obskeyWrite (v : BitVec 64) (ok : Bool) (chal : BitVec 64) : Statement (.obskeyWrite v ok chal) := fun _ hq => (none_of rfl hq).elim
theorem tamper : Statement (.tamper) := fun _ hq => (none_of rfl hq).elim
theorem managementFrame (recs : List MgmtRecord) : Statement (.managementFrame recs) := fun _ hq => (none_of rfl hq).elim
theorem evqhWrite (queue : Nat) (v : BitVec 64) : Statement (.evqhWrite queue v) := fun _ hq => (none_of rfl hq).elim
theorem lrefresh (stack : BitVec 3) (v : BitVec 64) : Statement (.lrefresh stack v) := fun _ hq => (none_of rfl hq).elim
theorem bucketDescriptorWrite (stack : BitVec 3) (bucket : BitVec 12) (word : BitVec 2) (v : BitVec 64) : Statement (.bucketDescriptorWrite stack bucket word v) := fun _ hq => (none_of rfl hq).elim
theorem jobRecordWrite (stack : BitVec 3) (job : BitVec 8) (word : BitVec 2) (v : BitVec 64) : Statement (.jobRecordWrite stack job word v) := fun _ hq => (none_of rfl hq).elim
theorem awPacket (stack : BitVec 3) (p : Packet) : Statement (.awPacket stack p) := fun _ hq => (none_of rfl hq).elim
theorem roundPublish (job : BitVec 8) (stack : BitVec 3) : Statement (.roundPublish job stack) := fun _ hq => (none_of rfl hq).elim
theorem mdepthWrite (u : Nat) (v : BitVec 64) : Statement (.mdepthWrite u v) := fun _ hq => (none_of rfl hq).elim
theorem tilecfgWrite (u : Nat) (hi : BitVec 1) (v : BitVec 64) : Statement (.tilecfgWrite u hi v) := fun _ hq => (none_of rfl hq).elim
theorem cttWord0Write (cluster : Nat) (entry : BitVec 10) (v : BitVec 64) : Statement (.cttWord0Write cluster entry v) := fun _ hq => (none_of rfl hq).elim
theorem slotmapWrite (port : BitVec 4) (i : BitVec 4) (v : BitVec 64) : Statement (.slotmapWrite port i v) := fun _ hq => (none_of rfl hq).elim
theorem keyInstall (link : Link) (v : BitVec 64) : Statement (.keyInstall link v) := fun _ hq => (none_of rfl hq).elim
theorem portRetrain (port : BitVec 4) : Statement (.portRetrain port) := fun _ hq => (none_of rfl hq).elim
theorem bpcfgWrite (v : BitVec 64) : Statement (.bpcfgWrite v) := fun _ hq => (none_of rfl hq).elim
theorem bpJoin : Statement (.bpJoin) := fun _ hq => (none_of rfl hq).elim
theorem bpviewWrite (v : BitVec 64) : Statement (.bpviewWrite v) := fun _ hq => (none_of rfl hq).elim
theorem scheduledSlot (port : BitVec 4) : Statement (.scheduledSlot port) := fun _ hq => (none_of rfl hq).elim
theorem scheduledData (port : BitVec 4) (f : SchedFlit) : Statement (.scheduledData port f) := fun _ hq => (none_of rfl hq).elim
theorem openRequest (port : BitVec 4) (h : FlitHdr) (r : OpenReq) : Statement (.openRequest port h r) := fun _ hq => (none_of rfl hq).elim
theorem openData (port : BitVec 4) (h : FlitHdr) (lines : List OpenLine) : Statement (.openData port h lines) := fun _ hq => (none_of rfl hq).elim
theorem answer (port : BitVec 4) (h : FlitHdr) (a : LinkAnswer) : Statement (.answer port h a) := fun _ hq => (none_of rfl hq).elim
theorem linkControl (port : BitVec 4) (h : FlitHdr) (c : LinkCtl) : Statement (.linkControl port h c) := fun _ hq => (none_of rfl hq).elim
theorem laneDegrade (port : BitVec 4) (rx : Bool) (upper : Bool) : Statement (.laneDegrade port rx upper) := fun _ hq => (none_of rfl hq).elim
theorem epochEnd (link : Link) : Statement (.epochEnd link) := fun _ hq => (none_of rfl hq).elim
theorem csendDeadlineMiss (u : Nat) (ch : Nat) : Statement (.csendDeadlineMiss u ch) := fun _ hq => (none_of rfl hq).elim
theorem remoteTimeout (u : Nat) (ch : Nat) : Statement (.remoteTimeout u ch) := fun _ hq => (none_of rfl hq).elim
theorem awPacketAbandon (id : Nat) : Statement (.awPacketAbandon id) := fun _ hq => (none_of rfl hq).elim
theorem tokenBurst (h : BurstHdr) (named : BitVec 5) : Statement (.tokenBurst h named) := fun _ hq => (none_of rfl hq).elim
theorem dataBurst (h : BurstHdr) (d : BurstData) : Statement (.dataBurst h d) := fun _ hq => (none_of rfl hq).elim
theorem fenceBurst (h : BurstHdr) (ops : List Nat) : Statement (.fenceBurst h ops) := fun _ hq => (none_of rfl hq).elim
theorem barrierBurst (h : BurstHdr) (group : BitVec 8) : Statement (.barrierBurst h group) := fun _ hq => (none_of rfl hq).elim
theorem proposalBurst (h : BurstHdr) (epoch : BitVec 32) (mask : BitVec 32) : Statement (.proposalBurst h epoch mask) := fun _ hq => (none_of rfl hq).elim
theorem nakBurst (h : BurstHdr) (lost : BitVec 64) : Statement (.nakBurst h lost) := fun _ hq => (none_of rfl hq).elim
theorem timingBurst (h : BurstHdr) (m : TimeMsg) : Statement (.timingBurst h m) := fun _ hq => (none_of rfl hq).elim
theorem tokenTimeout (suspect : BitVec 5) : Statement (.tokenTimeout suspect) := fun _ hq => (none_of rfl hq).elim
theorem sync (m : TimeMsg) : Statement (.sync m) := fun _ hq => (none_of rfl hq).elim
theorem followUp (m : TimeMsg) : Statement (.followUp m) := fun _ hq => (none_of rfl hq).elim
theorem announce (prio1 : BitVec 8) (clockId : BitVec 64) (domain : BitVec 8) (gm : Bool) : Statement (.announce prio1 clockId domain gm) := fun _ hq => (none_of rfl hq).elim
theorem delayReq (m : TimeMsg) : Statement (.delayReq m) := fun _ hq => (none_of rfl hq).elim
theorem delayResp (m : TimeMsg) : Statement (.delayResp m) := fun _ hq => (none_of rfl hq).elim
theorem holdover : Statement (.holdover) := fun _ hq => (none_of rfl hq).elim
theorem freeRun : Statement (.freeRun) := fun _ hq => (none_of rfl hq).elim
theorem registerWrite (off : BitVec 64) (v : BitVec 64) : Statement (.registerWrite off v) := fun _ hq => (none_of rfl hq).elim
theorem illegalInstruction : Statement (.illegalInstruction) := fun _ hq => (none_of rfl hq).elim
theorem walkerTrap (id : Nat) : Statement (.walkerTrap id) := fun _ hq => (none_of rfl hq).elim
theorem domainResume (u : Nat) : Statement (.domainResume u) := fun _ hq => (none_of rfl hq).elim
theorem handlerReload (u : Nat) : Statement (.handlerReload u) := fun _ hq => (none_of rfl hq).elim
theorem rrctlWrite (part : BitVec 3) (v : BitVec 64) : Statement (.rrctlWrite part v) := fun _ hq => (none_of rfl hq).elim
theorem bar2Access (pa : BitVec 64) (w : Option (BitVec 64)) : Statement (.bar2Access pa w) := fun _ hq => (none_of rfl hq).elim
theorem memoryKeyInstall : Statement (.memoryKeyInstall) := fun _ hq => (none_of rfl hq).elim
theorem idleFlit (port : BitVec 4) (h : FlitHdr) (ty : BitVec 4) : Statement (.idleFlit port h ty) := fun _ hq => (none_of rfl hq).elim
theorem uncorrectedFlit (port : BitVec 4) : Statement (.uncorrectedFlit port) := fun _ hq => (none_of rfl hq).elim
theorem uncorrectedBurst (gseq : BitVec 64) : Statement (.uncorrectedBurst gseq) := fun _ hq => (none_of rfl hq).elim
theorem portTrained (port : BitVec 4) (lat : BitVec 16) (depth : BitVec 6) (level : BitVec 2) (rlevel : BitVec 2) : Statement (.portTrained port lat depth level rlevel) := fun _ hq => (none_of rfl hq).elim
theorem controlBurst (h : BurstHdr) (level : BitVec 2) : Statement (.controlBurst h level) := fun _ hq => (none_of rfl hq).elim

end Sys2Proof.Laws.RoundTrip
end

