-- ==== Sys2Proof/Safety.lean ====
section
/-! DEFINITION. What a safe run is, in the terms that claims use: the machine goes on from step to step, and no step is a
fault or a refusal. A cause of the spec is no fault of the machine: its trap is a next state. -/
namespace Sys2Proof.Machine

/-- One step takes s to s'. -/
def Goes (s s' : State) : Prop := step s = .next s'

/-- s' stands after any number of steps from s. -/
inductive Reaches : State → State → Prop where
  | here (s : State) : Reaches s s
  | more (s s' s'' : State) : Reaches s s' → Goes s' s'' → Reaches s s''

/-- A run from s never stops: every state it reaches has a next one. -/
def SafeRun (s : State) : Prop := ∀ s', Reaches s s' → ∃ s'', Goes s' s''

/-- A property that every step keeps. -/
def Kept (p : State → Prop) : Prop := ∀ s s', p s → Goes s s' → p s'

/-- Every memory of the machine is in canonical form: physical memory and each core's scratchpad. -/
def State.memOk (s : State) : Bool := s.mem.wf && s.cores.all fun p => p.2.spad.wf

end Sys2Proof.Machine
end

