-- ==== Sys2Proof/Certificates/Slice0/Obligations.lean ====
section
/-! DEFINITION. The statements for the provers. The tables and predicates of namespace Sys2Proof.Claims write the spec's own
tables out; the statements follow as Obligations. -/
namespace Sys2Proof.Claims
open Sys2Proof Sys2Proof.Machine

/-! The S stream. -/

/-- An illegal instruction: cause 0x01 with the word in INFO (R366). -/
def illegal (s : State) : State := raiseCause ⟨0x01, 0, s.mySeq.pc, 0, s.word.setWidth 64⟩ false s
/-- A cause raised by the current instruction, which has not issued. -/
def raised (s : State) (code : BitVec 8) (addr : Word) : State := raiseCause ⟨code, 0, s.mySeq.pc, addr, 0⟩ false s

/-- 1 where p holds, else 0. -/
def flag (p : Prop) [Decidable p] : Word := if p then 1 else 0
/-- R42: sat_s to 64 bits. -/
def sat64 (v : Int) : Word := BitVec.ofInt 64 (min (max v (-9223372036854775808)) 9223372036854775807)
/-- R42: sat_b to 64 bits. -/
def satU64 (v : Int) : Word := BitVec.ofInt 64 (min (max v 0) 18446744073709551615)

/-- An S instruction of two sources. -/
abbrev SRR := BitVec 1 → BitVec 6 → BitVec 6 → BitVec 6 → Instr
/-- Table 3.4 but for the unary rows and R71: constructor, latency, result. -/
def table34 : List (SRR × Nat × (Word → Word → Word)) := [
  (.add, 1, fun a b => BitVec.ofNat 64 (a.toNat + b.toNat)),
  (.sub, 1, fun a b => BitVec.ofInt 64 ((a.toNat : Int) - b.toNat)),
  (.and, 1, fun a b => a &&& b),
  (.or, 1, fun a b => a ||| b),
  (.xor, 1, fun a b => a ^^^ b),
  (.sll, 1, fun a b => BitVec.ofNat 64 (a.toNat * 2 ^ (b.toNat % 64))),
  (.srl, 1, fun a b => BitVec.ofNat 64 (a.toNat / 2 ^ (b.toNat % 64))),
  (.sra, 1, fun a b => BitVec.ofInt 64 (a.toInt / 2 ^ (b.toNat % 64))),
  (.slt, 1, fun a b => flag (a.toInt < b.toInt)),
  (.sltu, 1, fun a b => flag (a.toNat < b.toNat)),
  (.seq, 1, fun a b => flag (a = b)),
  (.min, 1, fun a b => if a.toInt < b.toInt then a else b),
  (.max, 1, fun a b => if a.toInt < b.toInt then b else a),
  (.minu, 1, fun a b => if a.toNat < b.toNat then a else b),
  (.maxu, 1, fun a b => if a.toNat < b.toNat then b else a),
  (.adds, 1, fun a b => sat64 (a.toInt + b.toInt)),
  (.subs, 1, fun a b => sat64 (a.toInt - b.toInt)),
  (.addsu, 1, fun a b => satU64 ((a.toNat : Int) + b.toNat)),
  (.subsu, 1, fun a b => satU64 ((a.toNat : Int) - b.toNat)),
  (.mul, 3, fun a b => BitVec.ofNat 64 (a.toNat * b.toNat)),
  (.mulh, 3, fun a b => BitVec.ofInt 64 (a.toInt * b.toInt / 18446744073709551616)),
  (.mulhu, 3, fun a b => BitVec.ofNat 64 (a.toNat * b.toNat / 18446744073709551616)),
  (.andn, 1, fun a b => a &&& ~~~b)]
/-- R71: div, rem, divu, remu. -/
def table71 : List (SRR × (Word → Word → Word)) := [
  (.div, fun a b =>
    if b.toInt = 0 then BitVec.ofNat 64 18446744073709551615
    else if a.toInt = -9223372036854775808 ∧ b.toInt = -1 then BitVec.ofNat 64 9223372036854775808
    else BitVec.ofInt 64 (a.toInt.tdiv b.toInt)),
  (.rem, fun a b =>
    if b.toInt = 0 then a
    else if a.toInt = -9223372036854775808 ∧ b.toInt = -1 then 0
    else BitVec.ofInt 64 (a.toInt - b.toInt * a.toInt.tdiv b.toInt)),
  (.divu, fun a b =>
    if b.toNat = 0 then BitVec.ofNat 64 18446744073709551615 else BitVec.ofNat 64 (a.toNat / b.toNat)),
  (.remu, fun a b => if b.toNat = 0 then a else BitVec.ofNat 64 (a.toNat % b.toNat))]

/-- Table 3.5's rows of two sources with their rounding field m, and R77's compares, as functions of the exact values of the
sources; the result in bits [31:0]. -/
def table35 : List ((BitVec 3 → SRR) × (Rm → Ex → Ex → Nat)) := [
  (fun m t d a b => .faddF32 t d a b m, fun rm x y => roundF (exactSum [x, y]) .fp32 rm 0),
  (fun m t d a b => .fsubF32 t d a b m, fun rm x y => roundF (exactSum [x, mulX (.fin (-1) 0) y]) .fp32 rm 0),
  (fun m t d a b => .fmulF32 t d a b m, fun rm x y => roundF (mulX x y) .fp32 rm 0)]
/-- Table 3.5's rows with rm = 0, and R77. -/
def table77 : List (SRR × (Ex → Ex → Nat)) := [
  (.fminF32, fun x y => roundF (fminX x y) .fp32 .rne 0),
  (.fmaxF32, fun x y => roundF (fmaxX x y) .fp32 .rne 0),
  (.feqF32, fun x y => if x.eqv y then 1 else 0),
  (.fltF32, fun x y => if x.lt y then 1 else 0),
  (.fleF32, fun x y => if x.lt y ∨ x.eqv y then 1 else 0)]
/-- Table 3.6's rows with a rounding field. -/
def table36 : List ((BitVec 1 → BitVec 6 → BitVec 6 → BitVec 3 → Instr) × (Rm → Word → Word)) := [
  (.fcvtF32S64, fun rm a => BitVec.ofNat 64 (roundF (exOfInt a.toInt) .fp32 rm 0)),
  (.fcvtF32B64, fun rm a => BitVec.ofNat 64 (roundF (exOfInt a.toNat) .fp32 rm 0)),
  (.fcvtS64F32, fun rm a => BitVec.ofNat 64 (f2i (decodeF .fp32 a.toNat) true 64 rm)),
  (.fcvtB64F32, fun rm a => BitVec.ofNat 64 (f2i (decodeF .fp32 a.toNat) false 64 rm)),
  (.fcvtS32F32, fun rm a => BitVec.ofInt 64 (sext (f2i (decodeF .fp32 a.toNat) true 32 rm) 32)),
  (.fcvtB32F32, fun rm a => BitVec.ofNat 64 (f2i (decodeF .fp32 a.toNat) false 32 rm)),
  (.fcvtBf16F32, fun rm a => BitVec.ofNat 64 (roundF (decodeF .fp32 a.toNat) .bf16 rm 0))]

/-- What an S instruction leaves that has read `srcs` and whose result v lands L cycles later (R17, R27, R394). -/
def sGives (s : State) (srcs : List (BitVec 6)) (t : BitVec 1) (d : BitVec 6) (v : Word) (L : Nat) : State :=
  sawDatum srcs s (advance (s.landS t d v L))
/-- R72 to R75: the S instructions with an immediate, no source or three. -/
def immRows (t : BitVec 1) (d a : BitVec 6) (i : BitVec 12) : List (Instr × (Word → Word)) := [
  (.addi t d a i, fun x => BitVec.ofInt 64 (x.toInt + i.toInt)),
  (.andi t d a i, fun x => x &&& i.signExtend 64),
  (.ori t d a i, fun x => x ||| i.signExtend 64),
  (.xori t d a i, fun x => x ^^^ i.signExtend 64),
  (.slti t d a i, fun x => flag (x.toInt < i.toInt)),
  (.sltiu t d a i, fun x => flag (x.toNat < (i.signExtend 64).toNat)),
  (.seqi t d a i, fun x => flag (x = i.signExtend 64))]
/-- R73. -/
def shiftRows (t : BitVec 1) (d a n : BitVec 6) : List (Instr × (Word → Word)) := [
  (.slli t d a n, fun x => BitVec.ofNat 64 (x.toNat * 2 ^ n.toNat)),
  (.srli t d a n, fun x => BitVec.ofNat 64 (x.toNat / 2 ^ n.toNat)),
  (.srai t d a n, fun x => BitVec.ofInt 64 (x.toInt / 2 ^ n.toNat))]

end Sys2Proof.Claims
open Sys2Proof Sys2Proof.Machine Sys2Proof.Claims

/-- R70, Table 3.4: add, sub, and, or, xor, sll, srl, sra, slt, sltu, seq, min, max, minu, maxu, adds, subs, addsu, subsu, mul,
mulh, mulhu and andn with legal operand codes issue, and their result enters the pipeline with the table's latency. -/
def Sys2Proof.Claims.ScalarTwoSourceResults : Prop :=
  ∀ e ∈ table34, ∀ (t : BitVec 1) (d a b : BitVec 6) (s : State), sOk t d [a, b] = true →
    exec (e.1 t d a b) s = .next (sGives s [a, b] t d (e.2.2 (s.rdS a) (s.rdS b)) e.2.1)

/-- R71: div, rem, divu and remu never trap and give the values of the rule, 18 cycles later. -/
def Obligations.ScalarDivisionNeverTraps : Prop :=
  ∀ e ∈ table71, ∀ (t : BitVec 1) (d a b : BitVec 6) (s : State), sOk t d [a, b] = true →
    exec (e.1 t d a b) s = .next (sGives s [a, b] t d (e.2 (s.rdS a) (s.rdS b)) 18)

/-- R70: clz and popc: the result v of clz says that the v highest bits of a are zero and, where v is below 64, the next is one;
popc counts the ones. -/
def Sys2Proof.Claims.ScalarBitCounts : Prop :=
  ∀ (t : BitVec 1) (d a : BitVec 6) (s : State), sOk t d [a] = true →
    (∃ v : Nat, v ≤ 64 ∧ (∀ j, j < v → (s.rdS a).getLsbD (63 - j) = false) ∧ (v < 64 → (s.rdS a).getLsbD (63 - v) = true) ∧
      exec (.clz t d a) s = .next (sGives s [a] t d (BitVec.ofNat 64 v) 1)) ∧
    exec (.popc t d a) s =
      .next (sGives s [a] t d (BitVec.ofNat 64 ((List.range 64).map fun j => ((s.rdS a).getLsbD j).toNat).sum) 1)

/-- R72 to R75: addi, andi, ori, xori, slti, sltiu, seqi, slli, srli, srai, movi, movk, adr and sel. -/
def Sys2Proof.Claims.ScalarImmediateResults : Prop :=
  ∀ (t : BitVec 1) (d a b c n : BitVec 6) (h : BitVec 2) (i12 : BitVec 12) (i16 : BitVec 16) (i18 : BitVec 18) (s : State),
    (sOk t d [a] = true → ∀ e ∈ immRows t d a i12 ++ shiftRows t d a n,
      exec e.1 s = .next (sGives s [a] t d (e.2 (s.rdS a)) 1)) ∧
    (sOk t d [] = true →
      exec (.movi t d i18) s = .next (sGives s [] t d (BitVec.ofInt 64 i18.toInt) 1) ∧
      exec (.adr t d i18) s = .next (sGives s [] t d (s.mySeq.pc + BitVec.ofInt 64 (4 * i18.toInt)) 1)) ∧
    (sOk t d [d] = true → ∃ v : Word, exec (.movk t d h i16) s = .next (sGives s [d] t d v 1) ∧
      v.extractLsb' (16 * h.toNat) 16 = i16 ∧
      ∀ j, j < 64 → j / 16 ≠ h.toNat → v.getLsbD j = (if d = 59 then 0 else s.rdS d).getLsbD j) ∧
    (sOk t d [a, b, c] = true →
      exec (.sel t d a b c) s = .next (sGives s [a, b, c] t d (if s.rdS c ≠ 0 then s.rdS a else s.rdS b) 1))

/-- R76 to R79: fadd.f32, fsub.f32, fmul.f32, fmin.f32, fmax.f32, fneg.f32, fabs.f32, feq.f32, flt.f32, fle.f32, the eight
conversions and fma.f32, with a rounding field of 0 to 3. -/
def Obligations.ScalarFloatResults : Prop :=
  ∀ (t : BitVec 1) (d a b c : BitVec 6) (m : BitVec 3) (k : BitVec 2) (rm : Rm) (s : State),
    let x := decodeF .fp32 (s.rdS a).toNat
    let y := decodeF .fp32 (s.rdS b).toNat
    let z := decodeF .fp32 (s.rdS c).toNat
    (sOk t d [a, b] = true →
      (m.toNat < 4 → Rm.ofCode m.toNat = some rm → ∀ e ∈ table35,
        exec (e.1 m t d a b) s = .next (sGives s [a, b] t d (BitVec.ofNat 64 (e.2 rm x y)) 4)) ∧
      ∀ e ∈ table77, exec (e.1 t d a b) s = .next (sGives s [a, b] t d (BitVec.ofNat 64 (e.2 x y)) 4)) ∧
    (sOk t d [a] = true →
      (m.toNat < 4 → Rm.ofCode m.toNat = some rm → ∀ e ∈ table36,
        exec (e.1 t d a m) s = .next (sGives s [a] t d (e.2 rm (s.rdS a)) 4)) ∧
      exec (.fcvtF32Bf16 t d a) s =
        .next (sGives s [a] t d (BitVec.ofNat 64 (roundF (decodeF .bf16 (s.rdS a).toNat) .fp32 .rne 0)) 4) ∧
      exec (.fnegF32 t d a) s =
        .next (sGives s [a] t d (((s.rdS a).setWidth 32 ^^^ (0x80000000 : BitVec 32)).setWidth 64) 1) ∧
      exec (.fabsF32 t d a) s =
        .next (sGives s [a] t d (((s.rdS a).setWidth 32 &&& (0x7FFFFFFF : BitVec 32)).setWidth 64) 1)) ∧
    (sOk t d [a, b, c] = true → Rm.ofCode k.toNat = some rm →
      exec (.fmaF32 k t d a b c) s = .next (sGives s [a, b, c] t d (BitVec.ofNat 64 (fmaF x y z .fp32 rm 0)) 4))

namespace Sys2Proof.Claims

/-- Table 1.2: the value of a source code, with the datum of the cycle. -/
def srcMeaning (s : State) (f : BitVec 6) : Word :=
  let c := s.me
  let n := f.toNat
  if n < 32 then vget c.x n 0
  else if n < 40 then vget c.xo (n - 32) 0
  else if n < 56 then vget c.xq (n - 40) 0
  else if n < 59 then vget c.xb (n - 56) 0
  else if n = 60 then BitVec.ofNat 64 s.turn.u
  else if n = 61 then (if c.mode = .timed then BitVec.ofNat 64 c.clk else BitVec.ofNat 64 c.s.live)
  else if n = 62 then s.datumNs
  else 0
/-- R14 to R16, R20: which destination and source codes an S instruction may hold. -/
def codesLegal (t : BitVec 1) (d : BitVec 6) (srcs : List (BitVec 6)) : Prop :=
  (t = 1 → d.toNat = 59) ∧ (t = 0 → d.toNat < 40 ∨ d.toNat = 59) ∧ (∀ f ∈ srcs, f.toNat ≠ 63) ∧
  (srcs.filter fun f => decide (f.toNat < 32)).length ≤ 2
/-- The S instructions that read the given sources and write d: every register-only form. -/
def sRegForms (t : BitVec 1) (d a b c : BitVec 6) (i12 : BitVec 12) (h : BitVec 2) (i16 : BitVec 16) (i18 : BitVec 18)
    (m : BitVec 3) (k : BitVec 2) : List (Instr × List (BitVec 6)) :=
  (table34.map fun e => (e.1 t d a b, [a, b])) ++ (table71.map fun e => (e.1 t d a b, [a, b])) ++
  (table77.map fun e => (e.1 t d a b, [a, b])) ++ (immRows t d a i12).map (fun e => (e.1, [a])) ++
  (shiftRows t d a c).map (fun e => (e.1, [a])) ++
  [(.clz t d a, [a]), (.popc t d a, [a]), (.movi t d i18, []), (.adr t d i18, []), (.movk t d h i16, [d]),
   (.sel t d a b c, [a, b, c]), (.fnegF32 t d a, [a]), (.fabsF32 t d a, [a]), (.fcvtF32Bf16 t d a, [a])] ++
  (if m.toNat < 4 then (table35.map fun e => (e.1 m t d a b, [a, b])) ++ (table36.map fun e => (e.1 t d a m, [a])) else []) ++
  [(.fmaF32 k t d a b c, [a, b, c])]

/-- What the frame of an instruction says that only enters a result into the pipeline of its sequencer: its own ring, PC, loop
registers, next issue and stall mark change, and no register, flag, queue, special register or byte of memory. -/
def OnlyOwnSeq (s t : State) : Prop :=
  (∃ x : Seq, (∃ e : Land, x.ring = s.mySeq.ring ++ [e]) ∧ x.fault = s.mySeq.fault ∧ x.run = s.mySeq.run ∧
    x.live = s.mySeq.live ∧ x.deliver = s.mySeq.deliver ∧ x.idle = s.mySeq.idle ∧ x.woken = s.mySeq.woken ∧
    t = { s.modSelf (fun _ => x) with verdict := .issued }) ∧
  t.me.x = s.me.x ∧ t.me.xo = s.me.xo ∧ t.me.xq = s.me.xq ∧ t.me.xb = s.me.xb ∧
  t.me.vr = s.me.vr ∧ t.me.vo = s.me.vo ∧ t.me.vq = s.me.vq ∧ t.me.vb = s.me.vb ∧ t.me.mkr = s.me.mkr ∧
  t.me.a = s.me.a ∧ t.me.g = s.me.g ∧ t.me.tiles = s.me.tiles ∧ t.me.vflag = s.me.vflag ∧ t.me.vrm = s.me.vrm ∧
  t.me.work = s.me.work ∧ t.me.vis = s.me.vis ∧ t.regs = s.regs ∧
  (∀ q, q ≠ s.turn.q → t.me.seq q = s.me.seq q) ∧ (∀ u, u ≠ s.turn.u → t.core u = s.core u) ∧
  (∀ a, t.mem.rd a = s.mem.rd a) ∧ ∀ u a, (t.core u).spad.rd a = (s.core u).spad.rd a

end Sys2Proof.Claims

/-- R14, Table 1.2: what each operand code means as a source, outside replay (R396), and as a destination. That code 60 of a stack core
reads its unit number 384 to 447 is the model's reading (log 16). -/
def Sys2Proof.Claims.OperandCodesMeanTable12 : Prop :=
  (∀ (s : State) (f : BitVec 6), s.turn.q = .S → s.isReplay s.turn.u = false → s.rdS f = srcMeaning s f) ∧
  ∀ d : BitVec 6, dstOk 0 d = true ↔ d.toNat < 40 ∨ d.toNat = 59

/-- R15, R16, R20: an S register instruction whose codes are not legal raises 0x01 and does nothing else; `sOk` says which are. -/
def Sys2Proof.Claims.IllegalOperandCodesRaise : Prop :=
  (∀ (t : BitVec 1) (d : BitVec 6) (srcs : List (BitVec 6)), sOk t d srcs = true ↔ codesLegal t d srcs) ∧
  ∀ (t : BitVec 1) (d a b c : BitVec 6) (i12 : BitVec 12) (h : BitVec 2) (i16 : BitVec 16) (i18 : BitVec 18) (m : BitVec 3)
    (k : BitVec 2) (s : State), ∀ e ∈ sRegForms t d a b c i12 h i16 i18 m k, ¬ codesLegal t d e.2 →
      exec e.1 s = .next (illegal s)

/-- R17, R18: the frame of every S register instruction that issues in a launch that is neither recorded nor replayed: no
register is written before its result lands, and no byte of memory changes. -/
def Sys2Proof.Claims.ScalarRegisterFrame : Prop :=
  ∀ (t : BitVec 1) (d a b c : BitVec 6) (i12 : BitVec 12) (h : BitVec 2) (i16 : BitVec 16) (i18 : BitVec 18) (m : BitVec 3)
    (k : BitVec 2) (s s' : State), ∀ e ∈ sRegForms t d a b c i12 h i16 i18 m k,
    s.turn.q = .S → s.me.launch ∉ s.misc.recording → s.me.launch ∉ s.misc.replay →
    exec e.1 s = .next s' → s'.verdict = .issued → OnlyOwnSeq s s'

/-- R18 to R20, R158: where a register result of S, V, M or C lands: its register; the newest place of the last-result queue, or of
the bypass window when it is transient; nothing else of the four files changes. -/
def Sys2Proof.Claims.LandedResultPlace : Prop :=
  ∀ (c : Ctx) (l : Land) (v : Word), l.kind = .reg → v = l.val.setWidth 64 →
    (l.t = false → l.dst.toNat < 40 ∨ l.dst.toNat = 59 →
      (∀ r, r < 32 → vget (c.landReg .S l).x r 0 = if l.dst.toNat = r then v else vget c.x r 0) ∧
      (∀ r, r < 8 → vget (c.landReg .S l).xo r 0 = if l.dst.toNat = 32 + r then v else vget c.xo r 0) ∧
      vget (c.landReg .S l).xq 0 0 = v ∧ (∀ r, r < 15 → vget (c.landReg .S l).xq (r + 1) 0 = vget c.xq r 0) ∧
      (c.landReg .S l).xb = c.xb ∧
      (∀ r, r < 32 → vget (c.landReg .V l).vr r 0 = if l.dst.toNat = r then l.val else vget c.vr r 0) ∧
      (∀ r, r < 8 → vget (c.landReg .V l).vo r 0 = if l.dst.toNat = 32 + r then l.val else vget c.vo r 0) ∧
      vget (c.landReg .V l).vq 0 0 = l.val ∧ (∀ r, r < 15 → vget (c.landReg .V l).vq (r + 1) 0 = vget c.vq r 0) ∧
      (c.landReg .V l).vb = c.vb) ∧
    (l.t = true →
      (c.landReg .S l).x = c.x ∧ (c.landReg .S l).xo = c.xo ∧ (c.landReg .S l).xq = c.xq ∧
      vget (c.landReg .S l).xb 0 0 = v ∧ (∀ r, r < 2 → vget (c.landReg .S l).xb (r + 1) 0 = vget c.xb r 0) ∧
      (c.landReg .V l).vr = c.vr ∧ (c.landReg .V l).vo = c.vo ∧ (c.landReg .V l).vq = c.vq ∧
      vget (c.landReg .V l).vb 0 0 = l.val ∧ (∀ r, r < 2 → vget (c.landReg .V l).vb (r + 1) 0 = vget c.vb r 0)) ∧
    (∀ r, r < 16 → vget (c.landReg .M l).a r 0 = (if l.dst.toNat = r then v else vget c.a r 0) ∧
      vget (c.landReg .C l).g r 0 = if l.dst.toNat = r then v else vget c.g r 0)

/-- R17: RESULT_LANDING: on a core that runs and whose domain waits for no data, exactly the results that are due leave the ring
of sequencer q and land in issue order. -/
def Sys2Proof.Claims.ResultsLandWhenDue : Prop :=
  ∀ (u : Nat) (q : SeqId) (s : State), s.runs u = true → s.lateFreeze u = false →
    let ring := ((s.ctx u).seq q).ring
    let due (l : Land) : Bool := decide (l.due ≤ (s.ctx u).clk) && !(l.v && l.wait)
    let s0 := s.modSeq u q fun x => { x with ring := ring.filter fun l => !due l }
    exec (.resultLanding u q) s = .next ((ring.filter due).foldl (fun s l => s.landEnt u q l) s0)

/-- R30: the end check of an instruction at the end of a loop that is not a taken branch. -/
def Obligations.LoopEndCheck : Prop :=
  (∀ s : State, (advance s).mySeq.pc = s.mySeq.endCheck.pc ∧ (advance s).mySeq.lp0 = s.mySeq.endCheck.lp0 ∧
    (advance s).mySeq.lp1 = s.mySeq.endCheck.lp1 ∧ (advance s).mySeq.nextAt = s.me.clk + 1) ∧
  ∀ x : Seq,
    let hit (l : Loop) : Prop := l.act = true ∧ x.pc = l.stop
    let done (l : Loop) : Loop := { l with count := 0, act := false }
    (hit x.lp1 → 1 < x.lp1.count.toNat →
      x.endCheck = { x with pc := x.lp1.start, lp1 := { x.lp1 with count := x.lp1.count - 1 } }) ∧
    (∀ l1, (hit x.lp1 ∧ x.lp1.count.toNat ≤ 1 ∧ l1 = done x.lp1) ∨ (¬ hit x.lp1 ∧ l1 = x.lp1) →
      (hit x.lp0 → 1 < x.lp0.count.toNat →
        x.endCheck = { x with pc := x.lp0.start, lp1 := l1, lp0 := { x.lp0 with count := x.lp0.count - 1 } }) ∧
      (hit x.lp0 → x.lp0.count.toNat ≤ 1 → x.endCheck = { x with pc := x.pc + 4, lp1 := l1, lp0 := done x.lp0 }) ∧
      (¬ hit x.lp0 → x.endCheck = { x with pc := x.pc + 4, lp1 := l1 }))

/-- R27, R31: a taken branch or jump to t: the next issue is at t three cycles on, no count changes, and a loop that t lies
outside of is no longer active. -/
def Sys2Proof.Claims.TakenBranchLeaves : Prop :=
  ∀ (t : Word) (s : State),
    let s' := jumpGo t s
    let out (l : Loop) : Prop := t.toNat < l.start.toNat ∨ l.stop.toNat < t.toNat
    s'.verdict = .issued ∧ s'.mySeq.pc = t ∧ s'.mySeq.nextAt = s.me.clk + 3 ∧
    (∀ l l', (l = s.mySeq.lp0 ∧ l' = s'.mySeq.lp0) ∨ (l = s.mySeq.lp1 ∧ l' = s'.mySeq.lp1) →
      l'.start = l.start ∧ l'.stop = l.stop ∧ l'.count = l.count ∧ (l'.act = true ↔ l.act = true ∧ ¬ out l)) ∧
    s'.mySeq.ring = s.mySeq.ring ∧ (∀ q, q ≠ s.turn.q → s'.me.seq q = s.me.seq q) ∧ s'.me.x = s.me.x ∧
    s'.mem = s.mem ∧ (∀ u, u ≠ s.turn.u → s'.core u = s.core u)

namespace Sys2Proof.Claims

/-- Tables 3.9, 8.3 and 12.1: a branch of S, M or C in state s: the source codes that S reads (none for M and C), whether it is
taken, and its offset in words. -/
noncomputable def branchRows (a b : BitVec 6) (o13 : BitVec 13) (p q : BitVec 4) (o17 : BitVec 17) (s : State) :
    List (Instr × SeqId × List (BitVec 6) × Bool × Word) :=
  let x := s.rdS a
  let y := s.rdS b
  let m := vget s.me.a p.toNat 0
  let n := vget s.me.a q.toNat 0
  let g := vget s.me.g p.toNat 0
  let h := vget s.me.g q.toNat 0
  let d := o13.signExtend 64
  let e := o17.signExtend 64
  [(.beq a b o13, .S, [a, b], decide (x = y), d), (.bne a b o13, .S, [a, b], decide (x ≠ y), d),
   (.blt a b o13, .S, [a, b], decide (x.toInt < y.toInt), d), (.bge a b o13, .S, [a, b], decide (y.toInt ≤ x.toInt), d),
   (.bltu a b o13, .S, [a, b], decide (x.toNat < y.toNat), d), (.bgeu a b o13, .S, [a, b], decide (y.toNat ≤ x.toNat), d),
   (.mbeq p q o17, .M, [], decide (m = n), e), (.mbne p q o17, .M, [], decide (m ≠ n), e),
   (.mbltu p q o17, .M, [], decide (m.toNat < n.toNat), e),
   (.cbeq p q o17, .C, [], decide (g = h), e), (.cbne p q o17, .C, [], decide (g ≠ h), e),
   (.cbltu p q o17, .C, [], decide (g.toNat < h.toNat), e)]

/-- R28: a target that may be jumped to. -/
def targetOk (t : Word) : Prop := t.toNat % 4 = 0 ∧ t.getLsbD 63 = false

/-- R88, R91: the low 64 bits of the register that a shared instruction names in the encoding of the issuing stream. -/
def sharedReg (s : State) (r : BitVec 6) (v : Word) : Prop :=
  (s.turn.q = .S ∧ sSrcOk [r] = true ∧ v = s.rdS r) ∨
  (s.turn.q = .V ∧ r.toNat ≠ 61 ∧ r.toNat ≠ 63 ∧ vBeyond s.me r = false ∧ v = (vVal s.me r 32 0).setWidth 64) ∨
  (s.turn.q = .M ∧ r.toNat < 16 ∧ v = vget s.me.a r.toNat 0) ∨ (s.turn.q = .C ∧ r.toNat < 16 ∧ v = vget s.me.g r.toNat 0)

/-- R29: what `zloop` leaves in loop register l of its sequencer: START, END, COUNT and ACT. -/
def LoopSet (s t : State) (l : BitVec 1) (n : BitVec 32) (o : BitVec 11) : Prop :=
  let pc := s.mySeq.pc
  let x := t.mySeq
  let lp : Loop := if l = 1 then x.lp1 else x.lp0
  lp.start = pc + 4 ∧ lp.stop = pc + BitVec.ofNat 64 (4 * o.toNat) ∧ lp.count = n ∧
  t.verdict = .issued ∧
  (n ≠ 0 → lp.act = true ∧ x.nextAt = s.me.clk + 1) ∧
  (n = 0 → lp.act = false ∧ x.nextAt = s.me.clk + 3 ∧ x.pc = lp.stop + 4)

end Sys2Proof.Claims

/-- R86, R205, R295, R28: the branches of S, M and C: not taken they issue and go on; taken they go to PC + 4 × offset, or raise
0x03 or 0x04 for a target that is no multiple of 4 or has bit 63. -/
def Sys2Proof.Claims.BranchesTakenAndNot : Prop :=
  ∀ (a b : BitVec 6) (o13 : BitVec 13) (p q : BitVec 4) (o17 : BitVec 17) (s : State),
    ∀ e ∈ branchRows a b o13 p q o17 s, s.turn.q = e.2.1 → sSrcOk e.2.2.1 = true →
      let t := s.mySeq.pc + e.2.2.2.2 * 4
      (e.2.2.2.1 = false → exec e.1 s = .next (sawDatum e.2.2.1 s (advance s))) ∧
      (e.2.2.2.1 = true → targetOk t → exec e.1 s = .next (sawDatum e.2.2.1 s (jumpGo t s))) ∧
      (e.2.2.2.1 = true → t.toNat % 4 ≠ 0 →
        exec e.1 s = .next (raiseCause ⟨0x03, 0, s.mySeq.pc, t, 0⟩ false s)) ∧
      (e.2.2.2.1 = true → t.toNat % 4 = 0 → t.getLsbD 63 = true →
        exec e.1 s = .next (raiseCause ⟨0x04, 0, s.mySeq.pc, t, 0⟩ false s))

/-- R87: call and callr deliver PC + 4 one cycle later and are taken. -/
def Sys2Proof.Claims.CallsLinkAndJump : Prop :=
  ∀ (t : BitVec 1) (d a : BitVec 6) (i18 : BitVec 18) (i12 : BitVec 12) (s : State),
    let g := s.mySeq.pc + i18.signExtend 64 * 4
    let h := s.rdS a + i12.signExtend 64
    (sOk t d [] = true → targetOk g →
      exec (.call t d i18) s = .next (sawDatum [] s (jumpGo g (s.landS t d (s.mySeq.pc + 4) 1)))) ∧
    (sOk t d [a] = true → targetOk h →
      exec (.callr t d a i12) s = .next (sawDatum [a] s (jumpGo h (s.landS t d (s.mySeq.pc + 4) 1))))

/-- R88, R91: jmp is always taken, to PC + 4 × off20 or to the value of a register of the issuing stream. -/
def Sys2Proof.Claims.JumpsAreTaken : Prop :=
  ∀ (o : BitVec 20) (r : BitVec 6) (v : Word) (s : State),
    let g := s.mySeq.pc + o.signExtend 64 * 4
    (targetOk g → exec (.jmp o) s = .next (jumpGo g s)) ∧
    (sharedReg s r v → targetOk v → exec (.jmpReg r) s = .next (s.shDone r (jumpGo v s)))

/-- R29, R90: zloop with a count in the word or in a register sets START, END, COUNT and ACT; a count of 0 leaves the loop
inactive and goes on behind END as a taken branch; an end offset of 0 raises 0x01. -/
def Sys2Proof.Claims.ZloopSetsItsLoop : Prop :=
  ∀ (l : BitVec 1) (c : BitVec 8) (r : BitVec 6) (v : Word) (o : BitVec 11) (s : State),
    let ok (n : BitVec 32) : Prop := n = 0 → targetOk (s.mySeq.pc + BitVec.ofNat 64 (4 * o.toNat) + 4)
    (o ≠ 0 → ok (c.setWidth 32) → ∃ t, exec (.zloop l c o) s = .next t ∧ LoopSet s t l (c.setWidth 32) o) ∧
    (o ≠ 0 → sharedReg s r v → ok (v.setWidth 32) →
      ∃ t, exec (.zloopReg l r o) s = .next (s.shDone r t) ∧ LoopSet s t l (v.setWidth 32) o) ∧
    (o = 0 → exec (.zloop l c o) s = .next (illegal s))

namespace Sys2Proof.Claims

/-- The number that the z bytes from a up form, the lowest address first (R7). -/
def leSum (rd : Nat → Byte) (a z : Nat) : Nat := ((List.range z).map fun i => (rd (a + i)).toNat * 256 ^ i).sum
/-- Table 3.7: what a load of z bytes delivers: the sign-extended or the zero-extended bytes. -/
def loaded (z : Nat) (sg : Bool) (x : Nat) : Word :=
  if sg = true ∧ 2 ^ (8 * z - 1) ≤ x then BitVec.ofInt 64 ((x : Int) - 2 ^ (8 * z)) else BitVec.ofNat 64 x
/-- Table 3.7: the loads: size in bytes and sign extension. -/
noncomputable def loadRows : List ((BitVec 1 → BitVec 6 → BitVec 6 → BitVec 12 → Instr) × Nat × Bool) :=
  [(.ldS8, 1, true), (.ldB8, 1, false), (.ldS16, 2, true), (.ldB16, 2, false), (.ldS32, 4, true), (.ldB32, 4, false),
   (.ldB64, 8, false)]
/-- Table 3.7: the stores: size in bytes. -/
noncomputable def storeRows : List ((BitVec 6 → BitVec 6 → BitVec 12 → Instr) × Nat) :=
  [(.stB8, 1), (.stB16, 2), (.stB32, 4), (.stB64, 8)]
/-- Table 3.8: the atomics: the new value from the old value, xb and the compare value, for z bytes. -/
noncomputable def amoRows : List ((BitVec 3 → BitVec 1 → BitVec 6 → BitVec 6 → BitVec 6 → BitVec 1 → Instr) × Nat ×
    (Nat → Nat → Nat → Nat → Nat)) :=
  let sg (z x : Nat) : Int := if x < 2 ^ (8 * z - 1) then x else (x : Int) - 2 ^ (8 * z)
  [(.amoAdd, 0, fun z x y _ => (x + y) % 2 ^ (8 * z)), (.amoAnd, 1, fun _ x y _ => x &&& y),
   (.amoOr, 2, fun _ x y _ => x ||| y), (.amoXor, 3, fun _ x y _ => x ^^^ y), (.amoSwap, 4, fun _ _ y _ => y),
   (.amoSmin, 5, fun z x y _ => if sg z x ≤ sg z y then x else y), (.amoSmax, 6, fun z x y _ => if sg z y ≤ sg z x then x else y),
   (.amoUmin, 7, fun _ x y _ => if x ≤ y then x else y), (.amoUmax, 8, fun _ x y _ => if y ≤ x then x else y),
   (.amoCas, 9, fun _ x y c => if x = c then y else x)]
/-- R80: the effective address. -/
def ea (s : State) (b : BitVec 6) (i : BitVec 12) : Word := BitVec.ofInt 64 ((s.rdS b).toNat + i.toInt)
/-- Tables 1.5 and 13.1: a local address that names byte `off` of the own scratchpad. -/
def isOwn (s : State) (a : Word) (off : Nat) : Prop :=
  a.toNat = 2 ^ 63 + off ∧ off < if isStack s.turn.u = true then 0x40000 else 0x180000
/-- Table 1.5: an address of the multicast window. -/
def isMc (s : State) (a : Word) (off : Nat) : Prop :=
  isStack s.turn.u = false ∧ off < 0x180000 ∧ a.toNat = 2 ^ 63 + 0x4000000 + off
/-- Table 1.5: a local address of a compute core that names byte `off` of the scratchpad of cluster index k. -/
def isWin (s : State) (a : Word) (k off : Nat) : Prop :=
  isStack s.turn.u = false ∧ k < 16 ∧ off < 0x180000 ∧ a.toNat = 2 ^ 63 + 0x1000000 + 0x200000 * k + off
/-- Tables 1.5 and 13.1: a local address that names the control register at offset `off`. -/
def isCsr (a : Word) (off : Nat) : Prop := off < 0x10000 ∧ a.toNat = 2 ^ 63 + 0x8000000 + off
/-- Table 13.1: a local address of a stack core that names the word at offset `off` of its stack's descriptor and job tables. -/
def isTable (s : State) (a : Word) (off : Nat) : Prop :=
  isStack s.turn.u = true ∧ ((off < 0x20000 ∧ a.toNat = 2 ^ 63 + 0xC000000 + off) ∨
    (0x20000 ≤ off ∧ off < 0x22000 ∧ a.toNat = 2 ^ 63 + 0xE000000 + (off - 0x20000)))
/-- The offsets of n bytes from off up. -/
def span (off n : Nat) : List Nat := (List.range n).map (off + ·)
/-- R25: no granule of these offsets belongs to another context. -/
def mine (s : State) (offs : List Nat) : Prop :=
  isStack s.turn.u = true ∧ (∀ o ∈ offs, o < Config.stackSpadBytes) ∨
  isStack s.turn.u = false ∧ ∀ o ∈ offs, o < if s.me.handler = true then Config.spadBytes else s.me.gran * Config.granule
/-- R256, R382: every chunk of these offsets of unit v is there. -/
def present (s : State) (v : Nat) (offs : List Nat) : Prop := s.touch v offs = (true, s)
/-- R282: an access of kind k by the sequencer whose turn it is to these offsets of its scratchpad races with none and leaves s1:
the stamps and histories that record and race detection keep, nothing else. -/
def noRace (s : State) (k : Nat) (offs : List Nat) (s1 : State) : Prop :=
  s.access (s.accOf s.turn.u s.turn.q) k (s.timed s.turn.u) (lineKeys (spadKeyBase s.turn.u) offs) = (none, s1)
/-- The window access record of an element load or an atomic (R119). -/
def winRead (s : State) (k : Nat) (e : Elems) (amo : Option (Nat × Nat × Nat × Nat)) : WinAcc :=
  ⟨s.me.clk + 2 + distance (clusterIdx s.turn.u) k, s.turn.q, coreAt (clusterOf s.turn.u) k, s.uid, some e, amo, [],
    s.mySeq.pc, s.histOf s.me s.turn.u s.turn.q⟩
/-- R83, R277: nothing that its sequencer has sent through the window of its own core is in flight (log 77), and the offsets lie in no
line of a byte barrier, whose value is an input of record and replay. -/
def plainOwn (s : State) (offs : List Nat) : Prop :=
  (∀ w ∈ s.me.wins, w.q = s.turn.q → w.target ≠ s.turn.u) ∧ s.bbLine s.turn.u offs = false
/-- R446, R456: an operation of scope sc, an atomic or a fence, goes on in s1: at once, or once the broadcast plane has carried a
group-scope one. -/
def placed (sc : Nat) (amo : Bool) (s s1 : State) : Prop :=
  ((sc ≠ 4 ∨ s.me.group = 0) ∧ s1 = s) ∨ (sc = 4 ∧ s.me.group ≠ 0 ∧ s.planeOp amo = .done s1)
/-- The registers of a context: the files, the special registers and the tiles. -/
def SameRegs (c d : Ctx) : Prop :=
  d.x = c.x ∧ d.xo = c.xo ∧ d.xq = c.xq ∧ d.xb = c.xb ∧ d.vr = c.vr ∧ d.vo = c.vo ∧ d.vq = c.vq ∧ d.vb = c.vb ∧ d.mkr = c.mkr ∧
  d.a = c.a ∧ d.g = c.g ∧ d.vflag = c.vflag ∧ d.vrm = c.vrm ∧ d.tiles = c.tiles ∧ d.vis = c.vis ∧ d.work = c.work ∧
  d.frzn = c.frzn ∧ d.valloc = c.valloc ∧ d.clk = c.clk

end Sys2Proof.Claims

/-- R26, R80, R81, R83, R119, R135: where the scalar loads complete: from the own scratchpad, which the multicast window reads too, the
extended bytes land 4 cycles on: those of the scratchpad, with what the sequencer has stored through the window of its own core (log 77) and
the value of a byte barrier's line logged; through a window of the cluster the access is made and its result awaited; a control register or
a table word is read whole; a global load leaves the core and its result is awaited. -/
def Sys2Proof.Claims.ScalarLoadsComplete : Prop :=
  ∀ e ∈ loadRows, ∀ (t : BitVec 1) (d a : BitVec 6) (i : BitVec 12) (s : State), sOk t d [a] = true →
    let z := e.2.1
    let A := ea s a i
    let go := exec (e.1 t d a i) s
    A.toNat % z = 0 →
    (∀ off s1, isOwn s A off ∨ isMc s A off → mine s (span off z) → present s s.turn.u (span off z) → noRace s 0 (span off z) s1 →
      (plainOwn s (span off z) → go = .next (sawDatum [a] s (advance (s1.landAcc false t d
        ((loaded z e.2.2 (leSum (s.core s.turn.u).spad.rd off z)).setWidth 2048) 4 0 (s.spadBad s.turn.u (span off z)))))) ∧
      let v := s1.bbLoad s.turn.u s.turn.q s.turn.u (span off z)
        ((loaded z e.2.2 (leSum (s.ownSpad s.turn.u s.turn.q).rd off z)).setWidth 2048)
      go = .next (sawDatum [a] s (advance (v.2.landAcc false t d v.1 4 0 (s.spadBad s.turn.u (span off z)))))) ∧
    (∀ k off, isWin s A k off → mine s (span off z) → present s (coreAt (clusterOf s.turn.u) k) (span off z) →
      go = .next (sawDatum [a] s (advance
        ((({ s with uid := s.uid + 1 } : State).modMe fun c =>
            { c with wins := c.wins ++ [winRead s k ⟨[(0, off)], z, e.2.2, 64, 0⟩ none] }).landAcc
          true t d 0 (4 + distance (clusterIdx s.turn.u) k) s.uid none)))) ∧
    (∀ off v, isCsr A off → z = 8 → csrLogged off = false → s.csrRead s.turn.u off = some v →
      go = .next (sawDatum [a] s (advance (s.landS t d v 4)))) ∧
    (∀ off v, isCsr A off → z = 8 → csrLogged off = true → (s.csrRead s.turn.u off).isSome = true →
      let r := s.sampleOver off
      r.csrRead s.turn.u off = some v →
      go = .next (sawDatum [a] s
        ((advance (r.landS t d (r.inputVal 2 s.turn.u .S v) 4)).inputDone 2 s.turn.u .S v))) ∧
    (∀ off, isTable s A off → z = 8 →
      go = .next (sawDatum [a] s (advance (s.landS t d (s.reg (0x2000000 + 0x100000 * stackOf s.turn.u + off)) 4)))) ∧
    (A.getLsbD 63 = false → s.globalAdm A.toNat z respR = .go →
      go = .next (sawDatum [a] s (advance ((s.sendOut (.load z e.2.2) A.toNat).landAcc true t d 0 40 s.uid none))))

/-- R80: the checks of a scalar load or store, in their order: a misaligned address raises 0x03; a local address that names
nothing, an offset the context does not own, or a global address without permission raises 0x04; a control register or table
word is accessed by 8 bytes only. -/
def Sys2Proof.Claims.ScalarAccessChecks : Prop :=
  ∀ (t : BitVec 1) (d a : BitVec 6) (i : BitVec 12) (s : State),
    let A := ea s a i
    let bad (z : Nat) (ok : Word → Bool) (s' : State) : Prop :=
      (A.toNat % z ≠ 0 → s' = raised s 0x03 A) ∧
      (A.toNat % z = 0 → A.getLsbD 63 = true → locOf s.turn.u A = .bad → s' = raised s 0x04 A) ∧
      (A.toNat % z = 0 → ∀ off, isOwn s A off → owns s.turn.u s.me off = false → s' = raised s 0x04 A) ∧
      (A.toNat % z = 0 → ∀ k off, isWin s A k off → owns s.turn.u s.me off = false → s' = raised s 0x04 A) ∧
      (A.toNat % z = 0 → ∀ off, isCsr A off → z ≠ 8 → s' = raised s 0x03 A) ∧
      (A.toNat % z = 0 → ∀ off, isCsr A off → z = 8 → s.csrRead s.turn.u off = none → s' = raised s 0x04 A) ∧
      (A.toNat % z = 0 → A.getLsbD 63 = false → s.globalAdm A.toNat z ok = .deny → s' = raised s 0x04 A)
    (∀ e ∈ loadRows, sOk t d [a] = true → ∃ s', exec (e.1 t d a i) s = .next s' ∧ bad e.2.1 respR s') ∧
    (∀ e ∈ storeRows, sSrcOk [d, a] = true →
      ∃ s', exec (e.1 d a i) s = .next s' ∧ bad e.2 (fun r => respW r || respDup r) s')

/-- R80, R81, R83, R119, R135, R246: where the scalar stores complete; a store to the own scratchpad stands behind what its sequencer has
stored through the window of its own core (log 77). -/
def Sys2Proof.Claims.ScalarStoresComplete : Prop :=
  ∀ e ∈ storeRows, ∀ (d b : BitVec 6) (i : BitVec 12) (s : State), sSrcOk [d, b] = true →
    let z := e.2
    let u := s.turn.u
    let A := ea s b i
    let go := exec (e.1 d b i) s
    let bytes := natLe z (s.rdS d).toNat
    let hb := s.histOf s.me u s.turn.q
    A.toNat % z = 0 →
    (∀ off s1, isOwn s A off → mine s (span off z) → (s.core u).storeOk (span off z) = true → present s u (span off z) →
      noRace s 1 (span off z) s1 →
      (plainOwn s (span off z) → go = .next (sawDatum [d, b] s (advance (s1.spadWrite u (atAddr off bytes))))) ∧
      go = .next (sawDatum [d, b] s (advance (s1.ownWrite u s.turn.q (atAddr off bytes))))) ∧
    (∀ k off, isWin s A k off → mine s (span off z) → (s.core (coreAt (clusterOf u) k)).storeOk (span off z) = true →
      present s (coreAt (clusterOf u) k) (span off z) →
      go = .next (sawDatum [d, b] s (advance (s.modMe fun c => { c with wins := c.wins ++
        [⟨s.me.clk + 2 + distance (clusterIdx u) k, s.turn.q, coreAt (clusterOf u) k, 0, none, none, atAddr off bytes,
          s.mySeq.pc, hb⟩] })))) ∧
    (∀ off, isMc s A off → s.me.mode = .timed → mine s (span off z) →
      (∀ k, k < 16 → s.me.mcmask.getLsbD k = true → (s.core (coreAt (clusterOf u) k)).storeOk (span off z) = true ∧
        present s (coreAt (clusterOf u) k) (span off z)) →
      go = .next (sawDatum [d, b] s (advance (s.modMe fun c => { c with mcast := c.mcast ++
        [⟨s.me.clk + 12, s.turn.q, s.me.mcmask, atAddr off bytes, s.mySeq.pc, hb⟩] })))) ∧
    (∀ off v, isCsr A off → z = 8 → s.csrRead u off = some v →
      go = .next (sawDatum [d, b] s (advance (s.land .csrw false 0 (BitVec.ofNat 13 (off / 8)) ((s.rdS d).setWidth 2048) 2)))) ∧
    (∀ off, isTable s A off → z = 8 →
      go = .next (sawDatum [d, b] s (advance (s.tableWrite (stackOf u) off (s.rdS d))))) ∧
    (A.getLsbD 63 = false → s.globalAdm A.toNat z (fun r => respW r || respDup r) = .go → (s.core u).slog.length < 256 →
      go = .next (sawDatum [d, b] s (advance ((s.sendOut (.store (atAddr A.toNat bytes)) A.toNat).modCore u fun k =>
        { k with slog := k.slog ++ [⟨s.uid, s.turn.q, s.me.asid, s.mySeq.pc, atAddr A.toNat bytes, false, false, false, false,
          s.me.lid⟩] }))))

/-- R81, R246: the frame of the scalar stores that issue in a launch that is neither recorded nor replayed: no register, flag, queue or
accumulator changes; every byte of memory reads as before; and of the scratchpads only the bytes stored to at the effective address in the
own scratchpad change, which read the stored bytes (a store that goes elsewhere is performed later). Staging memory whose keys are erased
takes no byte (R424). -/
def Sys2Proof.Claims.ScalarStoreFrame : Prop :=
  ∀ e ∈ storeRows, ∀ (d b : BitVec 6) (i : BitVec 12) (s t : State), s.turn.q = .S →
    s.me.launch ∉ s.misc.recording → s.me.launch ∉ s.misc.replay → exec (e.1 d b i) s = .next t → t.verdict = .issued →
    let A := ea s b i
    SameRegs s.me t.me ∧ t.me.frzs = s.me.frzs ∧ (∀ q, q ≠ s.turn.q → t.me.seq q = s.me.seq q) ∧
    (∀ x, t.mem.rd x = s.mem.rd x) ∧
    (∀ off, isOwn s A off →
      (∀ v x, v ≠ s.turn.u ∨ x < off ∨ off + e.2 ≤ x → (t.core v).spad.rd x = (s.core v).spad.rd x) ∧
      (s.padSealed s.turn.u = false →
        ∀ j, j < e.2 → (t.core s.turn.u).spad.rd (off + j) = BitVec.ofNat 8 ((s.rdS d).toNat / 256 ^ j))) ∧
    ((∀ off, ¬ isOwn s A off) → ∀ v x, (t.core v).spad.rd x = (s.core v).spad.rd x)

/-- R84, R85, R274: where the atomics complete: in the own scratchpad they read and write at issue, behind what their sequencer has sent
through the window of its own core (log 77), and the old value lands 40 cycles on; through a window of the cluster and on a global address
the operation is made and its old value awaited. -/
def Obligations.AtomicsComplete : Prop :=
  ∀ e ∈ amoRows, ∀ (sc : BitVec 3) (t : BitVec 1) (d a b : BitVec 6) (zc : BitVec 1) (s sp : State), sc.toNat ≤ 4 →
    sOk t d (if e.2.1 = 9 then [a, b, d] else [a, b]) = true → s.fenceDone s.turn.u sc.toNat = true →
    placed sc.toNat true s sp →
    let z := if zc = 1 then 8 else 4
    let u := s.turn.u
    let A := s.rdS a
    let y := (s.rdS b).toNat % 2 ^ (8 * z)
    let c := if e.2.1 = 9 then (s.rdDst d).toNat % 2 ^ (8 * z) else 0
    let srcs := if e.2.1 = 9 then [a, b, d] else [a, b]
    let go := exec (e.1 sc t d a b zc) s
    let s0 := sp.scFirst sp.me.lid u .S sc.toNat
    A.toNat % z = 0 →
    (∀ off s1, isOwn s A off → mine s (span off z) → (s.core u).storeOk (span off z) = true → present s u (span off z) →
      s0.access (s0.accOf u .S) (2 + sc.toNat) (sp.timed u) (lineKeys (spadKeyBase u) (span off z)) = (none, s1) →
      ((∀ w ∈ s.me.wins, w.q = .S → w.target ≠ u) →
        let x := leSum (s.core u).spad.rd off z
        go = .next (sawDatum srcs s (advance
          (((s1.spadWrite u (atAddr off (natLe z (e.2.2 z x y c)))).scLast sp.me.lid u .S sc.toNat).landAcc false t d
            ((BitVec.ofNat 64 x).setWidth 2048) 40 0 (sp.spadBad u (span off z)))))) ∧
      let x := leSum (sp.ownSpad u .S).rd off z
      go = .next (sawDatum srcs s (advance
        (((s1.ownWrite u .S (atAddr off (natLe z (e.2.2 z x y c)))).scLast sp.me.lid u .S sc.toNat).landAcc false t d
          ((BitVec.ofNat 64 x).setWidth 2048) 40 0 (sp.spadBad u (span off z)))))) ∧
    (∀ k off, isWin s A k off → (coreAt (clusterOf u) k = u ∨ sc ≠ 0) → mine s (span off z) →
      (s.core (coreAt (clusterOf u) k)).storeOk (span off z) = true → present s (coreAt (clusterOf u) k) (span off z) →
      ∃ w : WinAcc, w.amo = some (e.2.1, y, c, sc.toNat) ∧ w.rd = some ⟨[(0, off)], z, false, 64, 0⟩ ∧
        w.target = coreAt (clusterOf u) k ∧ w.due = s0.me.clk + 2 + distance (clusterIdx u) k ∧ w.acc = s0.uid ∧
        go = .next (sawDatum srcs s (advance ((({ s0 with uid := s0.uid + 1 } : State).modMe fun c =>
          { c with wins := c.wins ++ [w] }).landAcc true t d 0 40 s0.uid none)))) ∧
    (A.getLsbD 63 = false → s.globalAdm A.toNat z (fun r => respR r && respW r) = .go →
      go = .next (sawDatum srcs s (advance ((s0.sendOut
        (.amo (BitVec.ofNat 4 e.2.1) z (BitVec.ofNat 64 y) (BitVec.ofNat 64 c) sc) A.toNat).landAcc true t d 0 40 s0.uid none))))

/-- R84: an atomic with a scope code above 4 raises 0x01; a misaligned address raises 0x03; a control register, the
multicast window, a stack's tables (R334) or another core's window at scope core raises 0x04. -/
def Sys2Proof.Claims.AtomicChecks : Prop :=
  ∀ e ∈ amoRows, ∀ (sc : BitVec 3) (t : BitVec 1) (d a b : BitVec 6) (zc : BitVec 1) (s : State),
    sOk t d (if e.2.1 = 9 then [a, b, d] else [a, b]) = true →
    let z := if zc = 1 then 8 else 4
    let A := s.rdS a
    let go := exec (e.1 sc t d a b zc) s
    (4 < sc.toNat → go = .next (illegal s)) ∧
    (sc.toNat ≤ 4 → A.toNat % z ≠ 0 → go = .next (raised s 0x03 A)) ∧
    (sc.toNat ≤ 4 → A.toNat % z = 0 → ∀ off, isCsr A off → go = .next (raised s 0x04 A)) ∧
    (sc.toNat ≤ 4 → A.toNat % z = 0 → ∀ off, isMc s A off ∨ isTable s A off → go = .next (raised s 0x04 A)) ∧
    (sc = 0 → A.toNat % z = 0 → ∀ k off, isWin s A k off → coreAt (clusterOf s.turn.u) k ≠ s.turn.u →
      go = .next (raised s 0x04 A))

namespace Sys2Proof.Claims

/-- R89, R333: a sequencer that a token instruction of the issuing one may name. -/
def tokenPeer (s : State) (k : SeqId) : Prop := k ≠ s.turn.q ∧ (isStack s.turn.u = true → k = .S ∨ k = .V)
/-- R95, R138: a level whose barrier the issuing S may name. -/
def barLevel (s : State) (l : BitVec 3) : Prop :=
  1 ≤ l.toNat ∧ l.toNat ≤ 5 ∧ s.me.members.getLsbD (47 + l.toNat) = true ∧ isStack s.turn.u = false

end Sys2Proof.Claims

/-- R94, R271, R446: a fence that is complete issues, at its place in the order of its scope; one that is not stalls; a scope code
above 4 raises 0x01. -/
def Sys2Proof.Claims.FenceCompletes : Prop :=
  ∀ (sc : BitVec 3) (s sp : State),
    (sc.toNat ≤ 4 → s.fenceDone s.turn.u sc.toNat = true → placed sc.toNat false s sp →
      exec (.fence sc) s = .next (advance (sp.scFirst sp.me.lid s.turn.u .S sc.toNat))) ∧
    (sc.toNat ≤ 4 → s.fenceDone s.turn.u sc.toNat = false → exec (.fence sc) s = .next (stall frzSync s)) ∧
    (4 < sc.toNat → exec (.fence sc) s = .next (illegal s))

/-- R95, R139, R140, R264: bar and bar.sw of a level the core is a member at: the barrier issues once it has completed, and one of
level 1 once the core is drained; a level without membership raises 0x01, and a timed core that issues it alone raises 0x06. -/
def Sys2Proof.Claims.BarriersComplete : Prop :=
  ∀ (l : BitVec 3) (v : BitVec 2) (s : State),
    let past : State := s.modMe fun c => { c with barTry := none, bar := none, barSw := none, barGo := false }
    let at_ := s.me.barTry.getD (s.me.uid0, s.me.clk)
    let tried : State := s.modMe fun c => { c with barTry := some at_ }
    (barLevel s l → s.me.barGo = true →
      exec (.bar l) s = .next (advance past) ∧ exec (.barSw v l) s = .next (advance past)) ∧
    (barLevel s l → l = 1 → s.me.barGo = false → (s.me.mode = .timed → s.barAgrees s.turn.u 1 = true) → s.me.bar = none →
      tried.drained s.turn.u 1 at_ = true →
      exec (.bar l) s = .next (advance (tried.modMe fun c => { c with barTry := none }))) ∧
    (barLevel s l → s.me.barGo = false → s.me.mode = .timed → s.barAgrees s.turn.u l.toNat = false →
      exec (.bar l) s = .next (raiseCause ⟨0x06, 0, s.mySeq.pc, 0, BitVec.ofNat 64 s.me.clk⟩ false s)) ∧
    (¬ barLevel s l → exec (.bar l) s = .next (illegal s) ∧ exec (.barSw v l) s = .next (illegal s))

/-- R96, R97: waitt issues once the datum time has reached its source, and stalls before; fpush appends the low word to the format
queue while it holds fewer than 16. -/
def Sys2Proof.Claims.WaittAndFpushComplete : Prop :=
  ∀ (a : BitVec 6) (s : State), sSrcOk [a] = true →
    ((s.rdS a).toNat ≤ s.datumNs.toNat → (∀ e ∈ s.sched, (s.rdS a).toNat < e.1) →
      exec (.waitt a) s = .next (sawDatum [a] s (advance s))) ∧
    ((s.rdS a).toNat ≤ s.datumNs.toNat →
      ∃ t, exec (.waitt a) s = .next (sawDatum [a] s t) ∧ t.verdict = .issued ∧ t.cores = (advance s).cores ∧ t.mem = s.mem ∧
        t.regs = s.regs) ∧
    (s.datumNs.toNat < (s.rdS a).toNat → exec (.waitt a) s = .next (stall frzDatum s)) ∧
    (isStack s.turn.u = false → s.me.fq.length < 16 →
      exec (.fpush a) s = .next (sawDatum [a] s (advance (s.modMe fun c =>
        { c with fq := c.fq ++ [((s.rdS a).setWidth 32, c.clk)] })))) ∧
    (isStack s.turn.u = true → exec (.fpush a) s = .next (illegal s))

/-- R92, R265, R394: csrr reads the control register whole with latency 2 and csrw writes it 2 cycles on; where no register is assigned
both raise 0x04 with the register's local address (log 23). A read of VARIANT finds OVER as it is then (log 32). -/
def Obligations.ControlRegisterAccess : Prop :=
  ∀ (t : BitVec 1) (d a : BitVec 6) (i : BitVec 13) (s : State),
    let off := 8 * i.toNat
    let A := BitVec.ofNat 64 (0x8000000008000000 + off)
    let r := s.sampleOver off
    (sOk t d [] = true → ∀ v, s.csrRead s.turn.u off = some v → csrLogged off = false →
      exec (.csrr t d i) s = .next (sawDatum [] s (advance (s.landS t d v 2)))) ∧
    (sOk t d [] = true → (s.csrRead s.turn.u off).isSome = true → ∀ v, r.csrRead s.turn.u off = some v → csrLogged off = true →
      exec (.csrr t d i) s = .next (sawDatum [] s
        ((advance (r.landS t d (r.inputVal 2 s.turn.u .S v) 2)).inputDone 2 s.turn.u .S v))) ∧
    (off ≠ 0x610 → r = s) ∧
    (sOk t d [] = true → s.csrRead s.turn.u off = none → exec (.csrr t d i) s = .next (raised s 0x04 A)) ∧
    (sSrcOk [a] = true → ∀ v, s.csrRead s.turn.u off = some v →
      exec (.csrw a i) s = .next (sawDatum [a] s (advance (s.land .csrw false 0 i ((s.rdS a).setWidth 2048) 2)))) ∧
    (sSrcOk [a] = true → s.csrRead s.turn.u off = none → exec (.csrw a i) s = .next (raised s 0x04 A))

/-- R39, R88, R89, R130, R386, R387: nop, tmark, beacon, beacon.w and halt, in any stream. -/
def Obligations.SharedGroup : Prop :=
  ∀ (n : BitVec 21) (s : State),
    exec .nop s = .next (advance s) ∧ (∀ q, decodeBytes q [0x6C, 0x00, 0x60, 0xFE] = some (.tmark 108)) ∧
    (s.me.mode = .timed → s.me.clk % 2 ^ 21 = n.toNat → exec (.tmark n) s = .next (advance s)) ∧
    (s.me.mode = .timed → s.me.clk % 2 ^ 21 ≠ n.toNat →
      exec (.tmark n) s = .next (raiseCause ⟨0x06, 0, s.mySeq.pc, 0, BitVec.ofNat 64 s.me.clk⟩ false s)) ∧
    (s.me.mode ≠ .timed → exec (.tmark n) s = .next (illegal s)) ∧
    exec .beacon s = .next (advance (s.modMe fun c => { c with wdogLeft := c.wdogPer })) ∧
    (s.me.mode = .timed → exec .beaconW s = .next (illegal s)) ∧
    (s.me.mode ≠ .timed → s.isReplay s.turn.u = false → s.mySeq.idle = true → s.mySeq.woken = true →
      ∃ v, exec .beaconW s = .next ((advance ((s.modMe fun c => { c with wdogLeft := c.wdogPer }).modSelf fun x =>
        { x with idle := false, woken := false })).inputDone 4 s.turn.u s.turn.q v)) ∧
    (s.me.mode ≠ .timed → s.isReplay s.turn.u = false → ¬ (s.mySeq.idle = true ∧ s.mySeq.woken = true) →
      ∃ t, exec .beaconW s = .next t ∧ t.verdict = .stalled frzNone ∧ t.mySeq.idle = true ∧ t.me.wdogLeft = s.me.wdogPer) ∧
    ∃ t, exec .halt s = .next t ∧ t.verdict = .issued ∧ t.mySeq.run = false ∧ SameRegs s.me t.me ∧ t.mem = s.mem ∧
      (isStack s.turn.u = true → s.turn.q = .S → (t.core s.turn.u).rows = [])

/-- R104, R105, R122: sig adds tokens at the end of the cycle (those of C become pending) and raises 0x09 where the queue would exceed
63; wait takes tokens that are there; in an elastic core it waits for others unless their sender has halted; naming oneself raises
0x01. -/
def Obligations.TokenInstructions : Prop :=
  ∀ (k : BitVec 2) (n : BitVec 6) (s : State),
    let j := s.turn.q
    let p := seqOfCode k.toNat
    let pend (x y : SeqId) : Nat := if x = .C then s.me.pendTok y else 0
    let soon : Nat := ((s.me.endOps.filterMap fun e =>
      match e with | .token a b m => if a = j ∧ b = p then some m else none | _ => none)).sum
    (¬ tokenPeer s p → exec (.sig k n) s = .next (illegal s) ∧ exec (.wait k n) s = .next (illegal s)) ∧
    (tokenPeer s p → 63 < s.me.tokens j p + pend j p + soon + n.toNat →
      exec (.sig k n) s = .next (raiseCause ⟨0x09, 0, s.mySeq.pc, 0, BitVec.ofNat 64 (seqCode p)⟩ false s)) ∧
    (tokenPeer s p → n = 0 → s.me.tokens j p + pend j p + soon ≤ 63 → exec (.sig k n) s = .next (advance s)) ∧
    (tokenPeer s p → n ≠ 0 → s.me.tokens j p + pend j p + soon + n.toNat ≤ 63 →
      (j ≠ .C → exec (.sig k n) s = .next (advance (s.atEnd (.token j p n.toNat)))) ∧
      (j = .C → exec (.sig k n) s = .next (advance (({ s with uid := s.uid + 1 } : State).modMe fun c =>
        { c with ctok := c.ctok ++ [⟨p, n.toNat, s.uid⟩] })))) ∧
    (tokenPeer s p → n.toNat ≤ s.me.tokens p j →
      exec (.wait k n) s = .next (advance ((s.modMe fun c => c.setTokens p j (s.me.tokens p j - n.toNat)).tokenTake
        s.me.lid s.turn.u p j n.toNat))) ∧
    (tokenPeer s p → s.me.tokens p j < n.toNat → s.me.mode = .timed →
      exec (.wait k n) s = .next (if n.toNat ≤ s.me.tokens p j + pend p j then stall frzWait s
        else raiseCause ⟨0x08, 0, s.mySeq.pc, 0, 0⟩ false s)) ∧
    (tokenPeer s p → s.me.tokens p j < n.toNat → s.me.mode ≠ .timed →
      exec (.wait k n) s = .next (if n.toNat ≤ s.me.tokens p j + pend p j then stall frzWait s
        else if (s.me.seq p).run = false ∧ (s.me.seq p).nextAt ≤ s.me.clk then raiseCause ⟨0x08, 0, s.mySeq.pc, 0, 0⟩ false s
        else stall frzStuck s))

/-- R89, R362: brk and trap issue, take part in the end check, and raise 0x0F and 0x0E with the PC behind them. -/
def Sys2Proof.Claims.BreakAndTrapEnter : Prop :=
  ∀ (n : BitVec 16) (s : State),
    let t := advance s
    exec (.brk n) s = .next (raiseCause ⟨0x0F, n, t.mySeq.pc, 0, 0⟩ true t) ∧
    exec (.trap n) s = .next (raiseCause ⟨0x0E, n, t.mySeq.pc, 0, 0⟩ true t)

/-- R363 to R365, R371, R372: taking a cause in a launch with a handler: the fault record of the sequencer is written, HCAUSE names
it, and every core of the trap domain begins its swap of 64 cycles to the handler on its next cycle (on this one where that is still
to be decided), when every shadow bank is ready; registers, PCs and memory stay as they are. -/
def Sys2Proof.Claims.TakingACause : Prop :=
  ∀ (c : CauseArgs) (iss : Bool) (s : State), s.me.handler = false → (s.core s.turn.u).himg ≠ 0 →
    let u := s.turn.u
    let t := raiseCause c iss s
    let dom := s.domain u
    t.verdict = .raised iss c ∧ t.mySeq = { s.mySeq with fault := ⟨true, c.code, c.n, c.pc, c.addr, c.info⟩ } ∧
    (∀ q, q ≠ s.turn.q → t.me.seq q = s.me.seq q) ∧ SameRegs s.me t.me ∧ t.me.handler = false ∧
    (t.core u).hevent = 1 ∧ (∀ q, (t.core u).hseq.getLsbD (seqCode q) =
      ((s.core u).hseq.getLsbD (seqCode q) || decide (q = s.turn.q))) ∧
    (∀ j ∈ dom, (s.core j).swap = none → (∀ i ∈ dom, (s.core i).bankKind = .handler) →
      (t.core j).swap = some ⟨s.swapUntil dom, true, false⟩) ∧
    ((Act.plan (dom.headD 0) ∉ s.agenda → s.swapUntil dom = s.now + 65) ∧
      (Act.plan (dom.headD 0) ∈ s.agenda → s.swapUntil dom = s.now + 64)) ∧
    (∀ j, j ∉ dom → j ≠ u → t.core j = s.core j) ∧ t.mem = s.mem ∧ t.regs = s.regs ∧
    ∀ j, (t.core j).spad = (s.core j).spad

/-- R379, R413: a cause in a handler context halts the handler and posts event type 1 with the cause, and nothing swaps; a cause
in a launch without a handler ends the launch with STATUS 2 (the reading of R379 against R413 is log 15). -/
def Sys2Proof.Claims.CausesWithoutAHandler : Prop :=
  ∀ (c : CauseArgs) (iss : Bool) (s : State),
    let u := s.turn.u
    let t := raiseCause c iss s
    (s.me.handler = true →
      t = ((({ s with verdict := .raised iss c } : State).modSelf fun x => { x with run := false }).post (evQueueOf u)
        [evWord0 1 c.code.toNat (seqCode s.turn.q) u, c.pc, c.addr, c.info]) ∧ t.mySeq.run = false ∧
      (∀ j, (t.core j).swap = (s.core j).swap)) ∧
    (s.me.handler = false → (s.core u).himg = 0 → ∀ l, s.launch s.me.lid = some l → l.st = .running →
      ∃ l', t.launch s.me.lid = some l' ∧ l'.st = .ending ∧ l'.status = 2 ∧ l'.cause = c.code ∧ l'.detail = c.n)

/-- R373: outside a handler context all six system instructions raise 0x01. -/
def Sys2Proof.Claims.SystemInstructionsArePrivileged : Prop :=
  ∀ (t : BitVec 1) (d a b : BitVec 6) (i : BitVec 12) (ch : BitVec 2) (s : State), s.me.handler = false →
    ∀ e ∈ [Instr.xrd t d a i, .xwr d b i, .hret, .cdrop ch, .xkill a, .xpost a], exec e s = .next (illegal s)

/-- R374, R376, R378, R382: xrd, xwr, cdrop and xpost in a handler context, with xrd's and xwr's offset checks; a word of the
scratchpad is read or written once its granule and chunk are there, and xpost, whose record has UNIT 0 (log 31), waits while the event
ring is full (R418). A read word that holds poison is marked so (R390). -/
def Obligations.SystemInstructionsComplete : Prop :=
  ∀ (t : BitVec 1) (d a b : BitVec 6) (i : BitVec 12) (ch : BitVec 2) (s : State), s.me.handler = true →
    let k := s.core s.turn.u
    let size := 0x30000 + 0x10000 * k.bank.gran
    let o := ea s a i
    let p := ea s b i
    (sOk t d [a] = true →
      (o.toNat % 8 ≠ 0 → exec (.xrd t d a i) s = .next (raised s 0x03 o)) ∧
      (o.toNat % 8 = 0 → size ≤ o.toNat → exec (.xrd t d a i) s = .next (raised s 0x04 o)) ∧
      (o.toNat % 8 = 0 → o.toNat < size → o.toNat < 0x30000 →
        exec (.xrd t d a i) s = .next (sawDatum [a] s (advance (s.tickFree.landAcc false t d
          ((k.bank.imageRead s.free o.toNat).setWidth 2048) 2 0 (s.imageBad? s.turn.u o.toNat))))) ∧
      (o.toNat % 8 = 0 → o.toNat < size → 0x30000 ≤ o.toNat → present s s.turn.u [o.toNat - 0x30000] →
        exec (.xrd t d a i) s = .next (sawDatum [a] s (advance (s.tickFree.landAcc false t d
          ((BitVec.ofNat 64 (leSum k.spad.rd (o.toNat - 0x30000) 8)).setWidth 2048) 2 0
          (s.spadBad s.turn.u (span (o.toNat - 0x30000) 8))))))) ∧
    (sSrcOk [d, b] = true →
      (p.toNat % 8 ≠ 0 → exec (.xwr d b i) s = .next (raised s 0x03 p)) ∧
      (p.toNat % 8 = 0 → size ≤ p.toNat → exec (.xwr d b i) s = .next (raised s 0x04 p)) ∧
      (p.toNat % 8 = 0 → p.toNat < size → p.toNat < 0x30000 →
        exec (.xwr d b i) s = .next (sawDatum [d, b] s (advance (s.modCore s.turn.u fun k =>
          { k with bank := k.bank.imageWrite false p.toNat (s.rdS d) })))) ∧
      (p.toNat % 8 = 0 → p.toNat < size → 0x30000 ≤ p.toNat → present s s.turn.u [p.toNat - 0x30000] →
        exec (.xwr d b i) s = .next (sawDatum [d, b] s (advance (s.spadWrite s.turn.u
          (atAddr (p.toNat - 0x30000) (natLe 8 (s.rdS d).toNat))))))) ∧
    exec (.cdrop ch) s = .next (advance (s.dropCopy s.turn.u ch.toNat)) ∧
    (sSrcOk [a] = true → s.ringFull (evqhOff (evQueueOf s.turn.u)) (evqhOff (evQueueOf s.turn.u) + 8) = false →
      exec (.xpost a) s = .next (sawDatum [a] s (advance (s.post (evQueueOf s.turn.u)
        [evWord0 10 0 0 s.turn.u, s.mySeq.pc, 0, s.rdS a])))) ∧
    (sSrcOk [a] = true → s.ringFull (evqhOff (evQueueOf s.turn.u)) (evqhOff (evQueueOf s.turn.u) + 8) = true →
      ∃ x, exec (.xpost a) s = .next x ∧ x.verdict = .stalled frzNone ∧ x.regs = s.regs ∧ x.sent = s.sent ∧ x.mySeq.pc = s.mySeq.pc)

/-- R375, R377: hret and xkill of the handler of an elastic context, which is a trap domain by itself: every fault record of the
trapped context clears; after hret the swap back begins on the next cycle, after xkill the trapped launch ends with STATUS 3, the
status in its detail, and the cause of the first fault record as its cause (log 81). -/
def Sys2Proof.Claims.ReturnFromTheHandler : Prop :=
  ∀ (a : BitVec 6) (s : State), s.me.handler = true → (s.core s.turn.u).bank.mode = .elastic →
    let u := s.turn.u
    (∃ t, exec .hret s = .next t ∧ t.verdict = .issued ∧ t.mySeq.run = false ∧
      (∀ q, ((t.core u).bank.seq q).fault.v = false ∧ ((t.core u).bank.seq q).pc = ((s.core u).bank.seq q).pc ∧
        ((t.core u).bank.seq q).run = ((s.core u).bank.seq q).run) ∧
      SameRegs (s.core u).bank (t.core u).bank ∧ (t.core u).swap = some ⟨s.now + 65, false, false⟩ ∧ t.mem = s.mem ∧
      ∀ j, j ≠ u → t.core j = s.core j) ∧
    (sSrcOk [a] = true → ∃ t, exec (.xkill a) s = .next (sawDatum [a] s t) ∧ t.verdict = .issued ∧
      ∀ l, s.launch (s.core u).bank.lid = some l → l.st = .running →
        ∃ l', t.launch (s.core u).bank.lid = some l' ∧ l'.st = .ending ∧ l'.status = 3 ∧
          l'.detail = ((s.rdS a).setWidth 8).setWidth 16 ∧
          ((s.core u).bank.s.fault.v = true → l'.cause = (s.core u).bank.s.fault.cause))

/-- R375, R372: in a timed cluster each core runs its own handler, and the swap back of all 16 cores begins once every one of them
has issued hret. -/
def Sys2Proof.Claims.TimedReturnWaitsForAll : Prop :=
  ∀ (s : State), s.me.handler = true → (s.core s.turn.u).bank.mode = .timed → s.turn.u < 384 →
    let u := s.turn.u
    let dom := (List.range 16).map (coreAt (clusterOf u))
    ((∃ j ∈ dom, j ≠ u ∧ (s.core j).hdone = none) →
      ∃ t, exec .hret s = .next t ∧ t.mySeq.run = false ∧ ∀ j, (t.core j).swap = (s.core j).swap) ∧
    ((∀ j ∈ dom, j ≠ u → (s.core j).hdone = some none) →
      ∃ t, exec .hret s = .next t ∧ t.mySeq.run = false ∧ ∀ j ∈ dom, (t.core j).swap = some ⟨s.now + 65, false, false⟩)

namespace Sys2Proof.Claims

/-! The V arithmetic. -/

/-- R42: the number that the w bits x stand for when they are signed. -/
def sgn (w x : Nat) : Int := if x % 2 ^ w < 2 ^ (w - 1) then ((x % 2 ^ w : Nat) : Int) else ((x % 2 ^ w : Nat) : Int) - 2 ^ w
/-- R42: wrap to w bits. -/
def wr (w : Nat) (v : Int) : Nat := (v % 2 ^ w).toNat
/-- R42: sat_s to w bits. -/
def satS' (w : Nat) (v : Int) : Nat := wr w (min (max v (-2 ^ (w - 1))) (2 ^ (w - 1) - 1))
/-- R42: sat_b to w bits. -/
def satB' (w : Nat) (v : Int) : Nat := (min (max v 0) (2 ^ w - 1)).toNat

/-- A V instruction of format VA with two sources. -/
abbrev VRR := BitVec 1 → BitVec 6 → BitVec 6 → BitVec 6 → BitVec 5 → BitVec 1 → Instr
/-- A V instruction of one source, an xs field and M. -/
abbrev VR := BitVec 1 → BitVec 6 → BitVec 6 → BitVec 5 → BitVec 1 → Instr
/-- A row of Table 6.4. -/
abbrev row64 (c : VRR) (w L : Nat) (f : Nat → Nat → Nat) : VRR × Nat × Nat × (Nat → Nat → Nat) := (c, w, L, f)
/-- Table 6.4: constructor, lane width, latency, and the result lane from the source lanes. -/
noncomputable def table64 : List (VRR × Nat × Nat × (Nat → Nat → Nat)) := [
  row64 .vaddS32 32 2 fun a b => (a + b) % 2 ^ 32, row64 .vsubS32 32 2 fun a b => wr 32 ((a : Int) - b),
  row64 .vmulS32 32 4 fun a b => a * b % 2 ^ 32, row64 .vmulhS32 32 4 fun a b => wr 32 (sgn 32 a * sgn 32 b / 2 ^ 32),
  row64 .vmulhB32 32 4 fun a b => a * b / 2 ^ 32,
  row64 .vminS32 32 2 fun a b => if sgn 32 a < sgn 32 b then a else b,
  row64 .vmaxS32 32 2 fun a b => if sgn 32 a < sgn 32 b then b else a,
  row64 .vminB32 32 2 fun a b => if a < b then a else b, row64 .vmaxB32 32 2 fun a b => if a < b then b else a,
  row64 .vaddsS32 32 2 fun a b => satS' 32 (sgn 32 a + sgn 32 b), row64 .vsubsS32 32 2 fun a b => satS' 32 (sgn 32 a - sgn 32 b),
  row64 .vaddsB32 32 2 fun a b => satB' 32 ((a : Int) + b), row64 .vsubsB32 32 2 fun a b => satB' 32 ((a : Int) - b),
  row64 .vandB32 32 2 fun a b => a &&& b, row64 .vorB32 32 2 fun a b => a ||| b, row64 .vxorB32 32 2 fun a b => a ^^^ b,
  row64 .vandnB32 32 2 fun a b => (BitVec.ofNat 32 a &&& ~~~BitVec.ofNat 32 b).toNat,
  row64 .vsllB32 32 2 fun a b => a * 2 ^ (b % 32) % 2 ^ 32, row64 .vsrlB32 32 2 fun a b => a / 2 ^ (b % 32),
  row64 .vsraS32 32 2 fun a b => wr 32 (sgn 32 a / 2 ^ (b % 32)),
  row64 .vaddS16 16 2 fun a b => (a + b) % 2 ^ 16, row64 .vsubS16 16 2 fun a b => wr 16 ((a : Int) - b),
  row64 .vaddsS16 16 2 fun a b => satS' 16 (sgn 16 a + sgn 16 b), row64 .vsubsS16 16 2 fun a b => satS' 16 (sgn 16 a - sgn 16 b),
  row64 .vaddsB16 16 2 fun a b => satB' 16 ((a : Int) + b), row64 .vsubsB16 16 2 fun a b => satB' 16 ((a : Int) - b),
  row64 .vmulS16 16 4 fun a b => a * b % 2 ^ 16,
  row64 .vaddS8 8 2 fun a b => (a + b) % 2 ^ 8, row64 .vsubS8 8 2 fun a b => wr 8 ((a : Int) - b),
  row64 .vaddsS8 8 2 fun a b => satS' 8 (sgn 8 a + sgn 8 b), row64 .vsubsS8 8 2 fun a b => satS' 8 (sgn 8 a - sgn 8 b),
  row64 .vaddsB8 8 2 fun a b => satB' 8 ((a : Int) + b), row64 .vsubsB8 8 2 fun a b => satB' 8 ((a : Int) - b)]
/-- Table 6.5: constructor, format, whether the destination is a third source, and the result lane from the mode and the exact values
of the lanes. -/
noncomputable def table65 : List (VRR × FFmt × Bool × (Rm → Ex → Ex → Ex → Nat)) := [
  (.vfaddF32, .fp32, false, fun rm a b _ => roundF (exactSum [a, b]) .fp32 rm 0),
  (.vfsubF32, .fp32, false, fun rm a b _ => roundF (exactSum [a, mulX (.fin (-1) 0) b]) .fp32 rm 0),
  (.vfmulF32, .fp32, false, fun rm a b _ => roundF (mulX a b) .fp32 rm 0),
  (.vfminF32, .fp32, false, fun _ a b _ => roundF (fminX a b) .fp32 .rne 0),
  (.vfmaxF32, .fp32, false, fun _ a b _ => roundF (fmaxX a b) .fp32 .rne 0),
  (.vfmaF32, .fp32, true, fun rm a b d => roundF (exactSum [mulX a b, d]) .fp32 rm 0),
  (.vfaddBf16, .bf16, false, fun rm a b _ => roundF (exactSum [a, b]) .bf16 rm 0),
  (.vfsubBf16, .bf16, false, fun rm a b _ => roundF (exactSum [a, mulX (.fin (-1) 0) b]) .bf16 rm 0),
  (.vfmulBf16, .bf16, false, fun rm a b _ => roundF (mulX a b) .bf16 rm 0),
  (.vfminBf16, .bf16, false, fun _ a b _ => roundF (fminX a b) .bf16 .rne 0),
  (.vfmaxBf16, .bf16, false, fun _ a b _ => roundF (fmaxX a b) .bf16 .rne 0),
  (.vfmaBf16, .bf16, true, fun rm a b d => roundF (exactSum [mulX a b, d]) .bf16 rm 0)]
/-- R161: the transcendentals. -/
noncomputable def table161 : List (VR × (Ex → Ex)) :=
  [(.vexp2F32, exp2X), (.vlog2F32, log2X), (.vrcpF32, rcpX), (.vrsqrtF32, rsqrtX)]
/-- R165: the reductions: width, whether they round under VRM, and the node operation. -/
noncomputable def table165 : List (VR × Nat × Bool × (Rm → Nat → Nat → Nat)) :=
  let ff (f : FFmt) (g : Ex → Ex → Ex) (rm : Rm) (a b : Nat) : Nat := roundF (g (decodeF f a) (decodeF f b)) f rm 0
  [(.vredAddS32, 32, false, fun _ a b => (a + b) % 2 ^ 32), (.vredAddsS32, 32, false, fun _ a b => satS' 32 (sgn 32 a + sgn 32 b)),
   (.vredMinS32, 32, false, fun _ a b => if sgn 32 a < sgn 32 b then a else b),
   (.vredMaxS32, 32, false, fun _ a b => if sgn 32 a < sgn 32 b then b else a),
   (.vredMinB32, 32, false, fun _ a b => if a < b then a else b), (.vredMaxB32, 32, false, fun _ a b => if a < b then b else a),
   (.vredAndB32, 32, false, fun _ a b => a &&& b), (.vredOrB32, 32, false, fun _ a b => a ||| b),
   (.vredXorB32, 32, false, fun _ a b => a ^^^ b), (.vredAddF32, 32, true, ff .fp32 fun a b => exactSum [a, b]),
   (.vredMinF32, 32, false, fun _ => ff .fp32 fminX .rne), (.vredMaxF32, 32, false, fun _ => ff .fp32 fmaxX .rne),
   (.vredAddBf16, 16, true, ff .bf16 fun a b => exactSum [a, b])]
/-- R163: the mask operations: the new bit from the bits of ma and mb. -/
noncomputable def table163 (d a b : BitVec 3) : List (Instr × (Bool → Bool → Bool)) :=
  [(.vmand d a b, fun x y => x && y), (.vmor d a b, fun x y => x || y), (.vmxor d a b, fun x y => x ^^ y),
   (.vmandn d a b, fun x y => x && !y), (.vmnot d a, fun x _ => !x), (.vmset d, fun _ _ => true), (.vmclr d, fun _ _ => false),
   (.vmmov d a, fun x _ => x)]
/-- R162: the compares: constructor, lane width, the cond codes listed, and the condition. -/
noncomputable def table162 : List ((BitVec 4 → BitVec 3 → BitVec 6 → BitVec 6 → BitVec 5 → BitVec 1 → Instr) × Nat × Nat ×
    (Nat → Nat → Nat → Bool)) :=
  let int (f : Nat → Int) (c a b : Nat) : Bool :=
    if c = 0 then decide (f a = f b) else if c = 1 then decide (f a ≠ f b) else if c = 2 then decide (f a < f b)
    else decide (f a ≤ f b)
  let flt (f : FFmt) (c a b : Nat) : Bool :=
    let x := decodeF f a
    let y := decodeF f b
    if c = 0 then x.eqv y else if c = 1 then !(x.eqv y) else if c = 2 then x.lt y else if c = 3 then x.lt y || x.eqv y
    else decide (x = .nan) || decide (y = .nan)
  [(.vcmpS32, 32, 3, int (sgn 32)), (.vcmpB32, 32, 3, int fun x => x), (.vcmpF32, 32, 4, flt .fp32), (.vcmpBf16, 16, 4, flt .bf16)]

/-- R148, R150, R151, R154: the fields of a V instruction with an xs field are legal: `extra` is the destination where it is read. -/
def vOkX (s : State) (t : BitVec 1) (d : BitVec 6) (srcs : List (BitVec 6)) (x : BitVec 5) (extra : List (BitVec 6)) : Prop :=
  dstOk t d = true ∧ vSrcXOk srcs x extra = true ∧ ∀ f ∈ d :: srcs, vBeyond s.me f = false
/-- The same of a format without xs. -/
def vOk (s : State) (t : BitVec 1) (d : BitVec 6) (srcs : List (BitVec 6)) : Prop :=
  dstOk t d = true ∧ vSrcOk srcs = true ∧ ∀ f ∈ d :: srcs, vBeyond s.me f = false
/-- R152: VRM holds the mode rm, one of the four. -/
def vrmIs (s : State) (rm : Rm) : Prop := s.me.vrm.toNat < 4 ∧ Rm.ofCode s.me.vrm.toNat = some rm
/-- A V instruction issues and its result v lands L cycles later. -/
def vGives (s : State) (t : BitVec 1) (d : BitVec 6) (v : Wide) (L : Nat) : State := advance (s.landV t d v L)
/-- R157: lane i of the result is f i where it is active, else the lane that the destination field yields. -/
def lanesAre (s : State) (m : BitVec 1) (d : BitVec 6) (w : Nat) (v : Wide) (f : Nat → Nat) : Prop :=
  ∀ i, i < 2048 / w → lane v w i = if m = 0 ∨ (vget s.me.mkr 0 0).getLsbD i = true then f i else lane (vDst s.me d) w i

end Sys2Proof.Claims

/-- R14, R147, R149 to R151: what a source code of V holds in lane i at width w, and what the destination field yields. -/
def Sys2Proof.Claims.VectorOperandCodes : Prop :=
  ∀ (c : Ctx) (f : BitVec 6) (w i : Nat) (x : Word), w ∈ [8, 16, 32] → i < 2048 / w →
    lane (vVal c f w x) w i =
      (if f.toNat < 32 then lane (vget c.vr f.toNat 0) w i
       else if f.toNat < 40 then lane (vget c.vo (f.toNat - 32) 0) w i
       else if f.toNat < 56 then lane (vget c.vq (f.toNat - 40) 0) w i
       else if f.toNat < 59 then lane (vget c.vb (f.toNat - 56) 0) w i
       else if f.toNat = 60 then i
       else if f.toNat = 61 then x.toNat % 2 ^ w
       else if f.toNat = 62 then 2 ^ w - 1 else 0) ∧
    (f.toNat = 59 → lane (vDst c f) w i = 0) ∧ (f.toNat < 59 → vDst c f = vVal c f w x)

/-- R148, R150, R151, R155: which fields of a V arithmetic instruction are legal; one that is not raises 0x01 whatever it names, and
one that names a main register beyond VALLOC raises 0x02. -/
def Sys2Proof.Claims.VectorFieldChecks : Prop :=
  (∀ (srcs extra : List (BitVec 6)) (x : BitVec 5), vSrcXOk srcs x extra = true ↔
    (∀ f ∈ srcs, f.toNat ≠ 63) ∧ ((srcs ++ extra).filter fun f => decide (f.toNat < 32)).length ≤ 3 ∧
    (srcs.filter fun f => decide (f.toNat = 61)).length ≤ 1 ∧ ((∀ f ∈ srcs, f.toNat ≠ 61) → x = 0)) ∧
  ∀ e ∈ table64, ∀ (t : BitVec 1) (d a b : BitVec 6) (x : BitVec 5) (m : BitVec 1) (s : State),
    let legal := dstOk t d = true ∧ vSrcXOk [a, b] x (if m = 1 then [d] else []) = true
    (¬ legal → exec (e.1 t d a b x m) s = .next (illegal s)) ∧
    (legal → (∃ f ∈ [d, a, b], f.toNat < 32 ∧ s.me.valloc.toNat ≤ f.toNat) →
      exec (e.1 t d a b x m) s = .next (raiseCause ⟨0x02, 0, s.mySeq.pc, 0, s.word.setWidth 64⟩ false s))

/-- R157, R159, Table 6.4: the 33 integer instructions of V. -/
def Obligations.VectorIntegerResults : Prop :=
  ∀ e ∈ table64, ∀ (t : BitVec 1) (d a b : BitVec 6) (x : BitVec 5) (m : BitVec 1) (s : State),
    vOkX s t d [a, b] x (if m = 1 then [d] else []) →
    let w := e.2.1
    let X := xLag s.me x.toNat
    ∃ v, exec (e.1 t d a b x m) s = .next (vGives s t d v e.2.2.1) ∧
      lanesAre s m d w v fun i => e.2.2.2 (lane (vVal s.me a w X) w i) (lane (vVal s.me b w X) w i)

/-- R152, R160, R161, Tables 6.5 and 6.3: the floating-point instructions and the transcendentals of V; vexp2 and vlog2
round a close approximation (log 7). -/
def Obligations.VectorFloatResults : Prop :=
  ∀ (t : BitVec 1) (d a b : BitVec 6) (x : BitVec 5) (m : BitVec 1) (rm : Rm) (s : State),
    let X := xLag s.me x.toNat
    (∀ e ∈ table65, vOkX s t d [a, b] x (if e.2.2.1 = true ∨ m = 1 then [d] else []) → vrmIs s rm →
      let w := e.2.1.width
      let val (f : BitVec 6) (i : Nat) : Ex := decodeF e.2.1 (lane (vVal s.me f w X) w i)
      ∃ v, exec (e.1 t d a b x m) s = .next (vGives s t d v 5) ∧
        lanesAre s m d w v fun i => e.2.2.2 rm (val a i) (val b i) (decodeF e.2.1 (lane (vDst s.me d) w i)) % 2 ^ w) ∧
    (∀ e ∈ table65, s.me.vrm.toNat ≥ 4 → exec (e.1 t d a b x m) s = .next (illegal s)) ∧
    (∀ e ∈ table161, vOkX s t d [a] x (if m = 1 then [d] else []) →
      ∃ v, exec (e.1 t d a x m) s = .next (vGives s t d v 10) ∧
        lanesAre s m d 32 v fun i => roundF (e.2 (decodeF .fp32 (lane (vVal s.me a 32 X) 32 i))) .fp32 .rne 0 % 2 ^ 32)

/-- R162, R163: vcmp writes bit i of its mask register where lane i is active and the condition holds, and 0 elsewhere; the mask
operations act on all 256 bits; a cond code that is not listed raises 0x01. -/
def Sys2Proof.Claims.VectorMaskResults : Prop :=
  ∀ (c : BitVec 4) (k d p q : BitVec 3) (a b : BitVec 6) (x : BitVec 5) (m : BitVec 1) (s : State),
    let X := xLag s.me x.toNat
    (∀ e ∈ table162,
      let w := e.2.1
      (vSrcXOk [a, b] x [] = true → (∀ f ∈ [a, b], vBeyond s.me f = false) → c.toNat ≤ e.2.2.1 →
        ∃ v : Wide, exec (e.1 c k a b x m) s = .next (advance (s.land .mask false (k.setWidth 6) 0 v 2)) ∧
          ∀ i, v.getLsbD i = (decide (i < 2048 / w) && decide (m = 0 ∨ (vget s.me.mkr 0 0).getLsbD i = true) &&
            e.2.2.2 c.toNat (lane (vVal s.me a w X) w i) (lane (vVal s.me b w X) w i))) ∧
      (e.2.2.1 < c.toNat → exec (e.1 c k a b x m) s = .next (illegal s))) ∧
    ∀ e ∈ table163 d p q,
      ∃ v : Wide, exec e.1 s = .next (advance (s.land .mask false (d.setWidth 6) 0 v 1)) ∧
        ∀ i, v.getLsbD i = (decide (i < 256) &&
          e.2 ((vget s.me.mkr p.toNat 0).getLsbD i) ((vget s.me.mkr q.toNat 0).getLsbD i))

/-- R116, R164: vflag: COUNT, ANY, ALL and NONE of the active lanes of its mask, and the flag slot when they land. -/
def Sys2Proof.Claims.VectorFlagCounts : Prop :=
  (∀ (sl : BitVec 2) (k : BitVec 3) (w : BitVec 2) (m : BitVec 1) (s : State),
    (w.toNat = 3 → exec (.vflag sl k w m) s = .next (illegal s)) ∧
    (w.toNat ≠ 3 →
      let act := (List.range (256 / 2 ^ w.toNat)).filter fun i => decide (m = 0) || (vget s.me.mkr 0 0).getLsbD i
      let cnt := (act.filter fun i => (vget s.me.mkr k.toNat 0).getLsbD i).length
      ∃ v : Wide, exec (.vflag sl k w m) s = .next (advance (s.land .flag false (sl.setWidth 6) 0 v 4)) ∧
        v.toNat % 2 ^ 32 = cnt ∧ v.getLsbD 32 = decide (0 < cnt) ∧ v.getLsbD 33 = decide (cnt = act.length) ∧
        v.getLsbD 34 = decide (cnt = 0))) ∧
  ∀ (old : Word) (v : Wide), v.toNat < 2 ^ 40 →
    (flagWord old v).toNat % 2 ^ 40 = v.toNat ∧
    (flagWord old v).toNat / 2 ^ 40 = (old.toNat / 2 ^ 40 % 256 + 1) % 256

/-- R59, R165: the reductions: the tree of the active lanes in lane 0 and zero in the others. -/
def Sys2Proof.Claims.VectorReductions : Prop :=
  ∀ e ∈ table165, ∀ (t : BitVec 1) (d a : BitVec 6) (x : BitVec 5) (m : BitVec 1) (rm : Rm) (s : State),
    vOkX s t d [a] x [] → (e.2.2.1 = true → vrmIs s rm) →
    let w := e.2.1
    let X := xLag s.me x.toNat
    let lanes := (List.range (2048 / w)).map fun i =>
      if m = 0 ∨ (vget s.me.mkr 0 0).getLsbD i = true then some (lane (vVal s.me a w X) w i) else none
    exec (e.1 t d a x m) s = .next (vGives s t d (BitVec.ofNat 2048 (tree (e.2.2.2 rm) 0 lanes)) 10)

/-- R166: vperm, vrot, vsel and vmovi, lane by lane. -/
def Sys2Proof.Claims.VectorMoves : Prop :=
  ∀ (t : BitVec 1) (d a b n : BitVec 6) (x : BitVec 5) (m : BitVec 1) (i12 : BitVec 12) (s : State),
    let X := xLag s.me x.toNat
    let A (w i : Nat) : Nat := lane (vVal s.me a w X) w i
    let B (w i : Nat) : Nat := lane (vVal s.me b w X) w i
    (vOkX s t d [a, b] x (if m = 1 then [d] else []) →
      (∃ v, exec (.vpermB32 t d a b x m) s = .next (vGives s t d v 3) ∧
        lanesAre s m d 32 v fun i => A 32 (B 32 i % 64)) ∧
      ∃ v, exec (.vpermB8 t d a b x m) s = .next (vGives s t d v 3) ∧ lanesAre s m d 8 v fun i => A 8 (B 8 i % 256)) ∧
    (vOk s t d [a] → ∃ v, exec (.vrotB32 t d a n) s = .next (vGives s t d v 2) ∧
      ∀ i, i < 64 → lane v 32 i = lane (vVal s.me a 32 0) 32 ((i + n.toNat) % 64)) ∧
    (vOkX s t d [a, b] x [] → ∃ v, exec (.vselB32 t d a b x) s = .next (vGives s t d v 2) ∧
      ∀ i, i < 64 → lane v 32 i = if (vget s.me.mkr 0 0).getLsbD i = true then A 32 i else B 32 i) ∧
    (vOk s t d [] → ∃ v, exec (.vmovi t d i12) s = .next (vGives s t d v 1) ∧
      ∀ i, i < 64 → lane v 32 i = (BitVec.ofInt 32 i12.toInt).toNat)

/-- R167: vcvt between two formats under a legal rounding code: each active lane is converted by itself; a narrowing one writes part p
of its destination and keeps the rest, a widening one reads part p of its source; rounding with SR moves VSRCTR at the end of the
cycle. -/
def Sys2Proof.Claims.VectorConversions : Prop :=
  ∀ (p : BitVec 2) (t : BitVec 1) (d a : BitVec 6) (f g : BitVec 4) (r : BitVec 3) (m : BitVec 1) (F G : CvFmt) (rm : Rm)
    (s : State), CvFmt.ofCode f.toNat = some F → CvFmt.ofCode g.toNat = some G → Rm.ofCode r.toNat = some rm →
    vOk s t d [a] → f ≠ g → p.toNat < max F.width G.width / min F.width G.width → cvRmOk F G r.toNat = true →
    let n := 2048 / F.width
    let cv (j i : Nat) : Nat := cvOne F G rm (vDraw s.me i) (lane (vVal s.me a F.width 0) F.width j)
    let on (i : Nat) : Prop := m = 0 ∨ (vget s.me.mkr 0 0).getLsbD i = true
    ∃ v, exec (.vcvt p t d a f g r m) s =
        .next (advance (if rm = .sr then (s.landV t d v 4).atEnd .vsrctr else s.landV t d v 4)) ∧
      (G.width ≤ F.width → ∀ j, j < 2048 / G.width →
        (∀ i, i < n → j = p.toNat * n + i → on i → lane v G.width j = cv i i % 2 ^ G.width) ∧
        ((∀ i, i < n → j = p.toNat * n + i → ¬ on i) → lane v G.width j = lane (vDst s.me d) G.width j)) ∧
      (F.width < G.width → ∀ i, i < 2048 / G.width →
        (on i → lane v G.width i = cv (p.toNat * (2048 / G.width) + i) i % 2 ^ G.width) ∧
        (¬ on i → lane v G.width i = lane (vDst s.me d) G.width i))

/-- R168: vmxpk packs blocks of 32 lanes: the elements first, then the block scales, with latency 6. -/
def Sys2Proof.Claims.VectorMxPack : Prop :=
  ∀ (t : BitVec 1) (d a : BitVec 6) (f g : BitVec 4) (r : BitVec 3) (F G : FFmt) (rm : Rm) (s : State),
    ((f = 8 ∧ F = .fp32) ∨ (f = 9 ∧ F = .bf16)) → ((g = 12 ∧ G = .e4m3) ∨ (g = 13 ∧ G = .e5m2)) →
    Rm.ofCode r.toNat = some rm → vOk s t d [a] →
    let n := 2048 / F.width
    let block (k : Nat) : Nat × List Nat :=
      mxPack ((List.range 32).map fun j => decodeF F (lane (vVal s.me a F.width 0) F.width (32 * k + j))) G rm
        fun j => vDraw s.me (32 * k + j)
    exec (.vmxpk t d a f g r) s = .next (advance
      (let s' := s.landV t d (ofLanes 8 (((List.range (n / 32)).flatMap fun k => (block k).2) ++
        (List.range (n / 32)).map fun k => (block k).1)) 6
       if rm = .sr then s'.atEnd .vsrctr else s'))

/-- R175, R176: vamul, vconj and vnorm under a structure table: the products of involuted elements, the sign flips of an
involution, and the signed sum of squares in component 0. -/
def Obligations.VectorAlgebra : Prop :=
  ∀ (t : BitVec 1) (d a b : BitVec 6) (l o : BitVec 1) (i j : BitVec 2) (rm : Rm) (s : State),
    let tab := vget s.me.alg l.toNat 0
    let X := vElems tab (vVal s.me a 32 0)
    let Y := vElems tab (vVal s.me b 32 0)
    (vOk s t d [a, b] → vrmIs s rm →
      exec (.vamul t d a b l o i j) s = .next (vGives s t d (ofLanes 32 ((X.zip Y).flatMap fun p =>
        (algProd tab (decide (o = 1)) (algInv tab i.toNat p.1) (algInv tab j.toNat p.2)).map fun e => roundF e .fp32 rm 0)) 6)) ∧
    (vOk s t d [a] → ∃ v, exec (.vconj t d a l i) s = .next (vGives s t d v 2) ∧
      ∀ k, k < 64 → ∀ b, b < 32 → (lane v 32 k).testBit b =
        ((lane (vVal s.me a 32 0) 32 k).testBit b ^^ (decide (b = 31) && algMask tab i.toNat (k % algDim tab)))) ∧
    (vOk s t d [a] → vrmIs s rm → ∃ v, exec (.vnorm t d a l) s = .next (vGives s t d v 6) ∧
      ∀ k, k < 64 → lane v 32 k = if k % algDim tab = 0 then
        roundF (exactSum (((X.getD (k / algDim tab) []).zipIdx).map fun p => mulX (exOfInt (algSig tab p.2)) (mulX p.1 p.1)))
          .fp32 rm 0 % 2 ^ 32 else 0)

namespace Sys2Proof.Claims

/-- The V instructions whose whole effect is a result in the ring of V. -/
noncomputable def vForms (t : BitVec 1) (d a b n : BitVec 6) (x : BitVec 5) (m l o : BitVec 1) (c : BitVec 4) (k p q : BitVec 3)
    (i j : BitVec 2) (i12 : BitVec 12) : List Instr :=
  (table64.map fun e => e.1 t d a b x m) ++ (table65.map fun e => e.1 t d a b x m) ++ (table161.map fun e => e.1 t d a x m) ++
  (table162.map fun e => e.1 c k a b x m) ++ (table163 k p q).map (·.1) ++ (table165.map fun e => e.1 t d a x m) ++
  [.vflag i k j m, .vpermB32 t d a b x m, .vpermB8 t d a b x m, .vrotB32 t d a n, .vselB32 t d a b x, .vmovi t d i12,
   .vamul t d a b l o i j, .vconj t d a l i, .vnorm t d a l]

end Sys2Proof.Claims

/-- R17, R18, R116, R158: the frame of the V arithmetic, compares, mask operations, vflag, reductions, permutations and moves that
issue: a result enters V's ring and no register, mask, flag slot, special register or byte of memory changes before it lands. -/
def Sys2Proof.Claims.VectorRegisterFrame : Prop :=
  ∀ (t : BitVec 1) (d a b n : BitVec 6) (x : BitVec 5) (m l o : BitVec 1) (c : BitVec 4) (k p q : BitVec 3) (i j : BitVec 2)
    (i12 : BitVec 12) (s s' : State), ∀ e ∈ vForms t d a b n x m l o c k p q i j i12,
    exec e s = .next s' → s'.verdict = .issued → OnlyOwnSeq s s'

namespace Sys2Proof.Claims

/-! The V accesses to memory and the tiles. -/

/-- R157: lane i is active. -/
def on (s : State) (m : BitVec 1) (i : Nat) : Prop := m = 0 ∨ (vget s.me.mkr 0 0).getLsbD i = true
/-- R170: the address of a contiguous access of V. -/
def eaOf (s : State) (x : BitVec 5) (i : BitVec 12) : Word := BitVec.ofInt 64 ((xLag s.me x.toNat).toNat + i.toInt)
/-- R171: the address of lane i of a strided (`none`) or an indexed access of V. -/
def eaLane (s : State) (b c : BitVec 5) (v : Option (BitVec 6)) (i : Nat) : Word :=
  match v with
  | none => BitVec.ofNat 64 ((xLag s.me b.toNat).toNat + i * (xLag s.me c.toNat).toNat)
  | some f => BitVec.ofNat 64 ((xLag s.me b.toNat).toNat + lane (vVal s.me f 32 0) 32 i)
/-- R171: element size in bytes by the size code, with the suffixes that the rule lists. -/
def elemOk (z : BitVec 2) (sg : BitVec 1) : Prop := z.toNat ≤ 1 ∨ (z.toNat = 2 ∧ sg = 0)
/-- R171: the indexed accesses of V: instruction, data register, whether it loads, and the address of lane i. -/
noncomputable def indexedRows (t : BitVec 1) (r f : BitVec 6) (b c : BitVec 5) (z : BitVec 2) (sg m : BitVec 1) (s : State) :
    List (Instr × Bool × List (BitVec 6) × (Nat → Word)) :=
  [(.vlds t r b c z sg m, true, [], eaLane s b c none), (.vsts r b c z sg m, false, [r], eaLane s b c none),
   (.vldx t r b f z sg m, true, [f], eaLane s b c (some f)), (.vstx r b f z sg m, false, [r, f], eaLane s b c (some f))]
/-- R171: an indexed access whose lowest active lane has address b may access n bytes at a: both lie in the own scratchpad, or in one
window of the cluster, at offsets that the context owns. -/
def laneOk (s : State) (b : Word) (n : Nat) (a : Word) : Prop :=
  (∃ o off, isOwn s b o ∧ isOwn s a off ∧ mine s (span off n)) ∨
  (∃ k o off, isWin s b k o ∧ isWin s a k off ∧ mine s (span off n))
/-- R171: the fields of an indexed access are legal. -/
def indexedOk (s : State) (load : Bool) (t : BitVec 1) (r : BitVec 6) (srcs : List (BitVec 6)) (z : BitVec 2) (sg : BitVec 1) : Prop :=
  elemOk z sg ∧ (load = true → dstOk t r = true) ∧ vSrcOk srcs = true ∧ ∀ g ∈ r :: srcs, vBeyond s.me g = false

end Sys2Proof.Claims

/-- R170, R172, Table 6.3: vld, vst, vgld and vgst: where they complete, with the 64 words that a vld from the own scratchpad
delivers; what the sequencer has stored through the window of its own core stands already (log 77), and vst, which has no mask field,
stores every lane (log 82). -/
def Sys2Proof.Claims.VectorRowAccessesComplete : Prop :=
  ∀ (t : BitVec 1) (r : BitVec 6) (x : BitVec 5) (i : BitVec 12) (s : State),
    let u := s.turn.u
    let A := eaOf s x i
    let bytes := natLe 256 (vVal s.me r 32 0).toNat
    let other (k : Nat) : Nat := coreAt (clusterOf u) k
    vBeyond s.me r = false →
    (dstOk t r = true → A.toNat % 4 = 0 →
      (∀ off s1, isOwn s A off ∨ isMc s A off → mine s (span off 256) → present s u (span off 256) →
        noRace s 0 (span off 256) s1 →
        (plainOwn s (span off 256) → ∃ v, exec (.vld t r x i) s =
            .next (advance (s1.landAcc false t r v 4 0 (s.spadBad u (span off 256)))) ∧
          ∀ j, j < 64 → lane v 32 j = leSum (s.core u).spad.rd (off + 4 * j) 4) ∧
        ∃ v, (∀ j, j < 64 → lane v 32 j = leSum (s.ownSpad u s.turn.q).rd (off + 4 * j) 4) ∧
          let w := s1.bbLoad u s.turn.q u (span off 256) v
          exec (.vld t r x i) s = .next (advance (w.2.landAcc false t r w.1 4 0 (s.spadBad u (span off 256))))) ∧
      (∀ k off, isWin s A k off → mine s (span off 256) → present s (other k) (span off 256) →
        exec (.vld t r x i) s = .next (advance
          ((({ s with uid := s.uid + 1 } : State).modMe fun c =>
            { c with wins := c.wins ++ [winRead s k (rowElems off 0) none] }).landAcc
              true t r 0 (4 + distance (clusterIdx u) k) s.uid none)))) ∧
    (vSrcOk [r] = true → A.toNat % 4 = 0 →
      (∀ off s1, isOwn s A off → mine s (span off 256) → (s.core u).storeOk (span off 256) = true →
        present s u (span off 256) → noRace s 1 (span off 256) s1 →
        (plainOwn s (span off 256) → exec (.vst r x i) s = .next (advance (s1.spadWrite u (atAddr off bytes)))) ∧
        exec (.vst r x i) s = .next (advance (s1.ownWrite u s.turn.q (atAddr off bytes)))) ∧
      (∀ k off, isWin s A k off → mine s (span off 256) → (s.core (other k)).storeOk (span off 256) = true →
        present s (other k) (span off 256) →
        exec (.vst r x i) s = .next (advance (s.modMe fun c => { c with wins := c.wins ++
          [⟨s.me.clk + 2 + distance (clusterIdx u) k, s.turn.q, other k, 0, none, none, atAddr off bytes, s.mySeq.pc,
            s.histOf s.me u s.turn.q⟩] }))) ∧
      (∀ off, isMc s A off → s.me.mode = .timed → mine s (span off 256) →
        (∀ k, k < 16 → s.me.mcmask.getLsbD k = true →
          (s.core (other k)).storeOk (span off 256) = true ∧ present s (other k) (span off 256)) →
        exec (.vst r x i) s = .next (advance (s.modMe fun c => { c with mcast := c.mcast ++
          [⟨s.me.clk + 12, s.turn.q, s.me.mcmask, atAddr off bytes, s.mySeq.pc,
            s.histOf s.me u s.turn.q⟩] })))) ∧
    (dstOk t r = true → A.toNat % 64 = 0 → s.globalAdm256 A respR = .go →
      exec (.vgld t r x i) s = .next (advance ((s.sendOut .vload A.toNat).landAcc true t r 0 48 s.uid none))) ∧
    (vSrcOk [r] = true → A.toNat % 64 = 0 → s.globalAdm256 A (fun w => respW w || respDup w) = .go →
      (s.core u).slog.length + 4 ≤ 256 →
      ∃ t, exec (.vgst r x i) s = .next t ∧ t.verdict = .issued ∧
        (t.core u).slog.map (·.wr) = (s.core u).slog.map (·.wr) ++
          (List.range 4).map fun k => atAddr (A.toNat + 64 * k) (natLe 64 (lane (vVal s.me r 32 0) 512 k)))

/-- R155, R170, R171, R334: the checks of V's accesses: a misaligned address raises 0x03, a global address of vld or vst, an address
that names nothing and an offset that the context does not own raise 0x04; an element type that R171 does not list raises 0x01. An
indexed access raises 0x03, else 0x04, with the address of its lowest active lane that is misaligned, or that the rule refuses: beside
the own scratchpad and one window, not owned, or stored to a region that takes no store (log 66). -/
def Obligations.VectorAccessChecks : Prop :=
  (∀ (t : BitVec 1) (r : BitVec 6) (x : BitVec 5) (i : BitVec 12) (s : State), vBeyond s.me r = false →
    let A := eaOf s x i
    let bad (s' : State) : Prop :=
      (A.toNat % 4 ≠ 0 → s' = raised s 0x03 A) ∧
      (A.toNat % 4 = 0 → A.getLsbD 63 = false → s' = raised s 0x04 A) ∧
      (A.toNat % 4 = 0 → A.getLsbD 63 = true → locOf s.turn.u A = .bad → s' = raised s 0x04 A) ∧
      (A.toNat % 4 = 0 → ∀ off, isCsr A off → s' = raised s 0x04 A) ∧
      (A.toNat % 4 = 0 → ∀ off, isTable s A off → s' = raised s 0x03 A) ∧
      (A.toNat % 4 = 0 → ∀ off, isOwn s A off → owns s.turn.u s.me off = false → s' = raised s 0x04 A)
    let badG (ok : Word → Bool) (s' : State) : Prop :=
      (A.toNat % 64 ≠ 0 → s' = raised s 0x03 A) ∧
      (A.toNat % 64 = 0 → s.globalAdm256 A ok = .deny → s' = raised s 0x04 A)
    (dstOk t r = true → (∃ s', exec (.vld t r x i) s = .next s' ∧ bad s') ∧
      ∃ s', exec (.vgld t r x i) s = .next s' ∧ badG respR s') ∧
    (vSrcOk [r] = true → (∃ s', exec (.vst r x i) s = .next s' ∧ bad s') ∧
      ∃ s', exec (.vgst r x i) s = .next s' ∧ badG (fun w => respW w || respDup w) s')) ∧
  ∀ (t : BitVec 1) (r f : BitVec 6) (b c : BitVec 5) (z : BitVec 2) (sg m : BitVec 1) (s : State),
    ∀ e ∈ indexedRows t r f b c z sg m s,
      (¬ elemOk z sg → exec e.1 s = .next (illegal s)) ∧
      let hit (i : Nat) : Prop := (e.2.2.2 i).toNat % 2 ^ z.toNat ≠ 0 ∨ ∃ off, isTable s (e.2.2.2 i) off
      (indexedOk s e.2.1 t r e.2.2.1 z sg → ∀ i, i < 64 → on s m i → hit i →
        (∀ j, j < i → on s m j → ¬ hit j) → exec e.1 s = .next (raised s 0x03 (e.2.2.2 i))) ∧
      (indexedOk s e.2.1 t r e.2.2.1 z sg → (∀ i, i < 64 → on s m i → ¬ hit i) → ∀ l i, l ≤ i → i < 64 → on s m l → on s m i →
        (∀ j, j < l → ¬ on s m j) → ¬ laneOk s (e.2.2.2 l) (2 ^ z.toNat) (e.2.2.2 i) →
        (∀ j, j < i → on s m j → laneOk s (e.2.2.2 l) (2 ^ z.toNat) (e.2.2.2 j)) → exec e.1 s = .next (raised s 0x04 (e.2.2.2 i))) ∧
      (indexedOk s e.2.1 t r e.2.2.1 z sg → e.2.1 = false → ∀ o : Nat → Nat,
        (∀ i, i < 64 → on s m i → (e.2.2.2 i).toNat % 2 ^ z.toNat = 0 ∧ isOwn s (e.2.2.2 i) (o i) ∧ mine s (span (o i) (2 ^ z.toNat))) →
        ∀ i, i < 64 → on s m i → (s.core s.turn.u).storeOk (span (o i) (2 ^ z.toNat)) = false →
        (∀ j, j < i → on s m j → (s.core s.turn.u).storeOk (span (o j) (2 ^ z.toNat)) = true) →
        exec e.1 s = .next (raised s 0x04 (e.2.2.2 i)))

/-- R157, R171, R172: the indexed loads and stores of V in the own scratchpad: only active lanes read or write, each element at its own
address, and an inactive lane of a load takes the destination's own lane; what the sequencer has stored through the window of its own
core stands already (log 77). -/
def Sys2Proof.Claims.VectorIndexedAccessesComplete : Prop :=
  ∀ (t : BitVec 1) (r f : BitVec 6) (b c : BitVec 5) (z : BitVec 2) (sg m : BitVec 1) (s : State) (o : Nat → Nat),
    let n := 2 ^ z.toNat
    let u := s.turn.u
    let act := (List.range 64).filter fun i => decide (m = 0) || (vget s.me.mkr 0 0).getLsbD i
    let offs := act.flatMap fun i => span (o i) n
    ∀ e ∈ indexedRows t r f b c z sg m s, indexedOk s e.2.1 t r e.2.2.1 z sg →
      (∀ i ∈ act, (e.2.2.2 i).toNat % n = 0 ∧ isOwn s (e.2.2.2 i) (o i) ∧ mine s (span (o i) n)) →
      (act ≠ [] → present s u offs → (e.2.1 = true → ∀ s1, noRace s 0 offs s1 →
        let holds (m' : Mem) (v : Wide) : Prop := ∀ i, i < 64 → lane v 32 i =
          if m = 0 ∨ (vget s.me.mkr 0 0).getLsbD i = true then
            (if sg = 1 then wr 32 (sgn (8 * n) (leSum m'.rd (o i) n)) else leSum m'.rd (o i) n)
          else lane (vDst s.me r) 32 i
        (plainOwn s offs → ∃ v, exec e.1 s = .next (advance (s1.landAcc false t r v 6 0 (s.spadBad u offs))) ∧
          holds (s.core u).spad v) ∧
        ∃ v, holds (s.ownSpad u s.turn.q) v ∧
          let w := s1.bbLoad u s.turn.q u offs v
          exec e.1 s = .next (advance (w.2.landAcc false t r w.1 6 0 (s.spadBad u offs))))) ∧
      (act ≠ [] → present s u offs → (e.2.1 = false → (s.core u).storeOk offs = true → ∀ s1, noRace s 1 offs s1 →
        let bytes := act.flatMap fun i => atAddr (o i) (natLe n (lane (vVal s.me r 32 0) 32 i))
        (plainOwn s offs → exec e.1 s = .next (advance (s1.spadWrite u bytes))) ∧
        exec e.1 s = .next (advance (s1.ownWrite u s.turn.q bytes)))) ∧
      (act = [] → e.2.1 = true → exec e.1 s = .next (advance (s.landAcc false t r (vDst s.me r) 6 0 none))) ∧
      (act = [] → e.2.1 = false → exec e.1 s = .next (advance s))

/-- R119, R171: the indexed loads and stores of V through one window of the cluster. -/
def Sys2Proof.Claims.VectorIndexedThroughWindow : Prop :=
  ∀ (t : BitVec 1) (r f : BitVec 6) (b c : BitVec 5) (z : BitVec 2) (sg m : BitVec 1) (s : State) (k : Nat) (o : Nat → Nat),
    let n := 2 ^ z.toNat
    let u := s.turn.u
    let tgt := coreAt (clusterOf u) k
    let act := (List.range 64).filter fun i => decide (m = 0) || (vget s.me.mkr 0 0).getLsbD i
    let offs := act.flatMap fun i => span (o i) n
    let base := if m = 1 then vDst s.me r else 0
    ∀ e ∈ indexedRows t r f b c z sg m s, indexedOk s e.2.1 t r e.2.2.1 z sg → act ≠ [] →
      (∀ i ∈ act, (e.2.2.2 i).toNat % n = 0 ∧ isWin s (e.2.2.2 i) k (o i) ∧ mine s (span (o i) n)) → present s tgt offs →
      (e.2.1 = true → exec e.1 s = .next (advance ((({ s with uid := s.uid + 1 } : State).modMe fun c =>
        { c with wins := c.wins ++ [winRead s k ⟨act.map fun i => (i, o i), n, decide (sg = 1), 32, base⟩ none] }).landAcc
          true t r base (6 + distance (clusterIdx u) k) s.uid none))) ∧
      (e.2.1 = false → (s.core tgt).storeOk offs = true →
        exec e.1 s = .next (advance (s.modMe fun c => { c with wins := c.wins ++
          [⟨s.me.clk + 2 + distance (clusterIdx u) k, s.turn.q, tgt, 0, none, none,
            act.flatMap fun i => atAddr (o i) (natLe n (lane (vVal s.me r 32 0) 32 i)), s.mySeq.pc,
            s.histOf s.me u s.turn.q⟩] })))

/-- R119, R157, R170, R171: the frame of V's stores that issue: no register, mask, flag or accumulator changes, every byte of memory
reads as before, and of the scratchpads only bytes stored to at the computed addresses of the own scratchpad change. -/
def Sys2Proof.Claims.VectorStoreFrame : Prop :=
  ∀ (r f : BitVec 6) (x b c : BitVec 5) (i : BitVec 12) (z : BitVec 2) (sg m : BitVec 1) (s s' : State),
    let row (a : Nat) : Prop := ∃ off, isOwn s (eaOf s x i) off ∧ off ≤ a ∧ a < off + 256
    let elem (g : Option (BitVec 6)) (a : Nat) : Prop :=
      ∃ j off, j < 64 ∧ on s m j ∧ isOwn s (eaLane s b c g j) off ∧ off ≤ a ∧ a < off + 2 ^ z.toNat
    ∀ e ∈ [(Instr.vst r x i, row), (.vsts r b c z sg m, elem none), (.vstx r b f z sg m, elem (some f)),
        (.vgst r x i, fun _ => False)],
      exec e.1 s = .next s' → s'.verdict = .issued →
      SameRegs s.me s'.me ∧ (∀ q, q ≠ s.turn.q → s'.me.seq q = s.me.seq q) ∧ (∀ a, s'.mem.rd a = s.mem.rd a) ∧
      ∀ v a, (v ≠ s.turn.u ∨ ¬ e.2 a) → (s'.core v).spad.rd a = (s.core v).spad.rd a

/-- R131, R132, R173: vsend delivers its register after 4 + distance cycles; vrecv takes the one arrival of its cycle with latency 1
and raises 0x06 when none or several arrive; both are timed only. -/
def Sys2Proof.Claims.VectorSendAndReceive : Prop :=
  ∀ (t : BitVec 1) (r : BitVec 6) (k : BitVec 4) (s : State),
    (s.me.mode ≠ .timed → exec (.vsend r k) s = .next (illegal s) ∧ exec (.vrecv t r) s = .next (illegal s)) ∧
    (s.me.mode = .timed → vBeyond s.me r = false →
      (vSrcOk [r] = true → exec (.vsend r k) s = .next (advance (s.modCtx (coreAt (clusterOf s.turn.u) k.toNat) fun c =>
        { c with arrive := c.arrive ++ [(s.me.clk + 4 + distance (clusterIdx s.turn.u) k.toNat, vVal s.me r 32 0)] }))) ∧
      (dstOk t r = true →
        let s' := s.modMe fun c => { c with arrive := c.arrive.filter fun p => p.1 ≠ c.clk }
        (∀ p, (s.me.arrive.filter fun p => p.1 = s.me.clk) = [p] →
          exec (.vrecv t r) s = .next (advance (s'.landV t r p.2 1))) ∧
        ((s.me.arrive.filter fun p => p.1 = s.me.clk).length ≠ 1 →
          exec (.vrecv t r) s =
            .next (raiseCause ⟨0x06, 0, s.mySeq.pc, 0, BitVec.ofNat 64 s.me.clk⟩ false s'))))

/-- R174, R177, R178: vacc reads 64 components of the visible bank from an index in the word or with an S register added modulo 256;
vaw sends a packet of its descriptor's fields with 64 lanes of 16 or 32 bits, and a descriptor with a reserved bit set raises 0x0C. -/
def Sys2Proof.Claims.VectorAccumulatorAccess : Prop :=
  ∀ (t : BitVec 1) (d a : BitVec 6) (x : BitVec 5) (i : BitVec 8) (y : BitVec 2) (s : State), isStack s.turn.u = false →
    (dstOk t d = true → vBeyond s.me d = false →
      (∃ v p, exec (.vacc t d i) s = .next (advance (s.landAcc false t d v 4 0 p)) ∧ (s.me.accBad = [] → p = none) ∧
        ∀ j, j < 64 → lane v 32 j = (bankGet s.me.vis (64 * i.toNat + j)).toNat) ∧
      ∃ v p, exec (.vaccX t d x i) s = .next (advance (s.landAcc false t d v 4 0 p)) ∧ (s.me.accBad = [] → p = none) ∧
        ∀ j, j < 64 →
          lane v 32 j = (bankGet s.me.vis (64 * (((xLag s.me x.toNat).toNat + i.toNat) % 256) + j)).toNat) ∧
    (vSrcOk [a] = true → vBeyond s.me a = false → y.toNat < 3 →
      let D := xLag s.me x.toNat
      (D.toNat < 2 ^ 41 → ∃ k : PktOut,
        exec (.vaw y a x) s = .next (advance { s with packets := s.packets ++ [k], uid := s.uid + 1 }) ∧
        k.stack = D.toNat / 2 ^ 12 % 8 ∧ k.desc = D ∧ k.sent = false ∧ k.u = s.turn.u ∧ k.lid = s.me.lid ∧ k.q = .V ∧
        k.pc = s.mySeq.pc ∧
        k.p = ⟨s.uid, 0, BitVec.ofNat 8 (D.toNat / 2 ^ 33), BitVec.ofNat 12 (D.toNat / 2 ^ 21),
          BitVec.ofNat 6 (D.toNat / 2 ^ 15), BitVec.ofNat 12 D.toNat, s.me.awround, y,
          (List.range 64).map fun j => BitVec.ofNat 32 (lane (vVal s.me a (if y = 0 then 16 else 32) 0)
            (if y = 0 then 16 else 32) j)⟩) ∧
      (2 ^ 41 ≤ D.toNat → exec (.vaw y a x) s = .next (raised s 0x0C D)))

/-- R179 to R181, Table 6.9: vtcfg and vtrel give a tile its entry at the end of the cycle; vtrel clears V and keeps the other fields
(log 63); a changed entry zeroes the tile and its dirty bit, and no other tile changes. -/
def Sys2Proof.Claims.TileConfiguration : Prop :=
  (∀ (n : BitVec 3) (r c : BitVec 4) (w : BitVec 2) (s : State), isStack s.turn.u = false →
    (w.toNat < 3 → ∃ e : BitVec 16, e.getLsbD 15 = true ∧ e.toNat / 1024 % 4 = w.toNat ∧ e.toNat / 16 % 16 = r.toNat ∧
      e.toNat % 16 = c.toNat ∧
      exec (.vtcfg n r c w) s =
        .next (advance (s.atEnd (.tiles (s.me.tiles.setCfg n.toNat e) (BitVec.ofNat 8 (2 ^ n.toNat)))))) ∧
    (w.toNat = 3 → exec (.vtcfg n r c w) s = .next (illegal s)) ∧
    ∃ e : BitVec 16, (∀ j, e.getLsbD j = ((vget s.me.tiles.cfg n.toNat 0).getLsbD j && decide (j ≠ 15))) ∧
      exec (.vtrel n) s =
        .next (advance (s.atEnd (.tiles (s.me.tiles.setCfg n.toNat e) (BitVec.ofNat 8 (2 ^ n.toNat)))))) ∧
  ∀ (T : Tiles) (n k : Nat) (e : BitVec 16), n < 8 → k < 8 →
    vget (T.setCfg n e).cfg k 0 = (if k = n then e else vget T.cfg k 0) ∧
    vget (T.setCfg n e).el k 0 = (if k = n ∧ vget T.cfg n 0 ≠ e then 0 else vget T.el k 0) ∧
    (T.setCfg n e).dirty.getLsbD k = (T.dirty.getLsbD k && decide (¬ (k = n ∧ vget T.cfg n 0 ≠ e)))

/-- R182: the rows and columns of tiles: vtrowr and vtcol read one into quad q of a V register, zero beyond the tile's shape; vtrow and
vtcolw write one from quad q and mark the tile dirty, and no other element or tile changes. -/
def Sys2Proof.Claims.TileRowsAndColumns : Prop :=
  ∀ (t : BitVec 1) (r : BitVec 6) (n : BitVec 3) (i : BitVec 4) (q : BitVec 2) (s : State),
    let T := s.me.tiles
    let N := n.toNat
    let I := i.toNat
    let rows := (vget T.cfg N 0).toNat / 16 % 16 + 1
    let cols := (vget T.cfg N 0).toNat % 16 + 1
    let w := 8 * 2 ^ ((vget T.cfg N 0).toNat / 1024 % 4)
    isStack s.turn.u = false → vBeyond s.me r = false → (vget T.cfg N 0).getLsbD 15 = true →
    (dstOk t r = true → I < rows → ∃ v, exec (.vtrowr t r n i q) s = .next (vGives s t r v 2) ∧
      ∀ k, k < 64 → lane v 32 k = if k / 16 = q.toNat then (if k % 16 < cols then T.get N I (k % 16) else 0)
        else lane (vDst s.me r) 32 k) ∧
    (dstOk t r = true → I < cols → ∃ v, exec (.vtcol t r n i q) s = .next (vGives s t r v 2) ∧
      ∀ k, k < 64 → lane v 32 k = if k / 16 = q.toNat then (if k % 16 < rows then T.get N (k % 16) I else 0)
        else lane (vDst s.me r) 32 k) ∧
    (vSrcOk [r] = true → I < rows → w ≤ 32 → ∃ T', exec (.vtrow r n i q) s = .next (advance (s.atEnd (.tiles T' 0))) ∧
      T'.cfg = T.cfg ∧ (∀ k, k < 8 → T'.dirty.getLsbD k = (T.dirty.getLsbD k || decide (k = N))) ∧
      ∀ k a b, k < 8 → a < 16 → b < 16 → T'.get k a b = if k = N ∧ a = I ∧ b < cols then
        lane (vVal s.me r 32 0) 32 (16 * q.toNat + b) % 2 ^ w else T.get k a b) ∧
    (vSrcOk [r] = true → I < cols → w ≤ 32 → ∃ T', exec (.vtcolw r n i q) s = .next (advance (s.atEnd (.tiles T' 0))) ∧
      T'.cfg = T.cfg ∧ (∀ k, k < 8 → T'.dirty.getLsbD k = (T.dirty.getLsbD k || decide (k = N))) ∧
      ∀ k a b, k < 8 → a < 16 → b < 16 → T'.get k a b = if k = N ∧ b = I ∧ a < rows then
        lane (vVal s.me r 32 0) 32 (16 * q.toNat + a) % 2 ^ w else T.get k a b)

/-- R179, R182, R155: a row or column instruction on a tile that is not configured raises 0x0A with the tile in INFO, and one beyond
the tile's shape raises 0x0B. -/
def Sys2Proof.Claims.TileChecks : Prop :=
  ∀ (t : BitVec 1) (r : BitVec 6) (n : BitVec 3) (i : BitVec 4) (q : BitVec 2) (s : State),
    let T := s.me.tiles
    let rows := (vget T.cfg n.toNat 0).toNat / 16 % 16 + 1
    let cols := (vget T.cfg n.toNat 0).toNat % 16 + 1
    isStack s.turn.u = false → vBeyond s.me r = false → dstOk t r = true → vSrcOk [r] = true →
    ∀ e ∈ [(Instr.vtrow r n i q, rows), (.vtrowr t r n i q, rows), (.vtcol t r n i q, cols), (.vtcolw r n i q, cols)],
      ((vget T.cfg n.toNat 0).getLsbD 15 = false →
        exec e.1 s = .next (raiseCause ⟨0x0A, 0, s.mySeq.pc, 0, n.setWidth 64⟩ false s)) ∧
      ((vget T.cfg n.toNat 0).getLsbD 15 = true → e.2 ≤ i.toNat → exec e.1 s = .next (raised s 0x0B 0))

/-- R183, R184: vtsave writes the dirty tiles of its mask to their slots and clears their dirty bits, vtload reads the tiles of its
mask, at the end of the cycle; the next instruction issues 4 cycles later for each tile moved. -/
def Sys2Proof.Claims.TileSaveAndLoad : Prop :=
  ∀ (m : BitVec 8) (x : BitVec 5) (s s1 : State) (off : Nat), isStack s.turn.u = false →
    let T := s.me.tiles
    let A := xLag s.me x.toNat
    let all := (List.range 8).filter fun n => m.getLsbD n
    let ns := all.filter fun n => (vget T.cfg n 0).getLsbD 15 && T.dirty.getLsbD n
    let wr := ns.flatMap fun n => (T.slots n off).flatMap fun p => atAddr p.2.2 (natLe 4 (T.get n p.1 p.2.1))
    let rd := all.flatMap fun n => (T.slots n off).flatMap fun p => span p.2.2 4
    A.toNat % 1024 = 0 → isOwn s A off → (∀ n ∈ all, owns s.turn.u s.me (off + 1024 * (n + 1) - 1) = true) →
    let free (kind : Nat) (offs : List Nat) : Prop :=
      s.access (s.accOf s.turn.u .V) kind (s.timed s.turn.u) (lineKeys (spadKeyBase s.turn.u) offs) = (none, s1)
    (m ≠ 0 → ns ≠ [] → (s.core s.turn.u).storeOk (wr.map (·.1)) = true → present s s.turn.u (wr.map (·.1)) →
      free 1 (wr.map (·.1)) →
      exec (.vtsave m x) s = .next (advanceBy (1 + 4 * ns.length)
        ((s1.atEnd (.spad wr)).atEnd (.tiles (ns.foldl (fun t n => t.mark n false) T) 0)))) ∧
    (m = 0 ∨ ns = [] → exec (.vtsave m x) s = .next (advance s)) ∧
    (m ≠ 0 → (∀ n ∈ all, (vget T.cfg n 0).getLsbD 15 = true) → present s s.turn.u rd → free 0 rd →
      exec (.vtload m x) s = .next (advanceBy (1 + 4 * all.length) (s1.atEnd (.tload m.toNat off)))) ∧
    (m = 0 → exec (.vtload m x) s = .next (advance s))

namespace Sys2Proof.Claims

/-! The M and C streams. -/

/-- A result of M or C that lands one cycle later. -/
def mcGives (s : State) (d : BitVec 4) (v : Word) : State :=
  advance (s.land .reg false (d.setWidth 6) 0 (v.setWidth 2048) 1)
/-- Tables 8.3 and 12.1: the operations on two local registers, of M and of C. -/
noncomputable def table83 : List ((BitVec 4 → BitVec 4 → BitVec 4 → Instr) × (BitVec 4 → BitVec 4 → BitVec 4 → Instr) ×
    (Word → Word → Word)) :=
  [(.madd, .cadd, fun a b => BitVec.ofNat 64 (a.toNat + b.toNat)),
   (.msub, .csub, fun a b => BitVec.ofInt 64 ((a.toNat : Int) - b.toNat)),
   (.mand, .cand, fun a b => a &&& b), (.mor, .cor, fun a b => a ||| b), (.mxor, .cxor, fun a b => a ^^^ b),
   (.msll, .csll, fun a b => BitVec.ofNat 64 (a.toNat * 2 ^ (b.toNat % 64))),
   (.msrl, .csrl, fun a b => BitVec.ofNat 64 (a.toNat / 2 ^ (b.toNat % 64))),
   (.mminu, .cminu, fun a b => if a.toNat < b.toNat then a else b)]
/-- The local registers of M and of C. -/
def aReg (s : State) (r : BitVec 4) : Word := vget s.me.a r.toNat 0
/-- The local registers of C. -/
def gReg (s : State) (r : BitVec 4) : Word := vget s.me.g r.toNat 0
/-- The M and C instructions whose whole effect is a result in the ring of their sequencer. -/
noncomputable def mcForms (d a b : BitVec 4) (x : BitVec 5) (h : BitVec 2) (i16 : BitVec 16) (i17 : BitVec 17) : List Instr :=
  (table83.map fun e => e.1 d a b) ++ (table83.map fun e => e.2.1 d a b) ++
  [.maddi d a i17, .caddi d a i17, .mmovk d h i16, .cmovk d h i16, .mmovx d x, .cmovx d x, .mmovi d i17, .cmovi d i17]

/-- R199, R215: whether a tile command may go to the array on this cycle: fewer than four stand issued and not started, and of those
that fetch from global memory fewer than MDEPTH. -/
def arrayRoom (s : State) (fetches : Bool) : Prop :=
  s.me.waiting.length < 4 ∧ (fetches = true → s.me.fetching < s.me.mdepth.toNat)
/-- R219: no follow-on command that is not quiescent overlaps the n regions from u up. -/
def noFollowOn (s : State) (u n : Nat) : Prop :=
  ∀ f ∈ s.me.cmds, f.follow = true → f.region + f.size ≤ u ∨ u + n ≤ f.region
/-- The state after a tile command has popped its format word and its scales. -/
def popped (s : State) (c : Ctx) : State := { (s.modMe fun _ => { c with fq := c.fq.drop 1 }) with uid := s.uid + 1 }

end Sys2Proof.Claims

/-- R204, R294: the register instructions of M and C; each result lands one cycle later. -/
def Obligations.MatrixAndCopyResults : Prop :=
  ∀ (d a b : BitVec 4) (x : BitVec 5) (h : BitVec 2) (i16 : BitVec 16) (i17 : BitVec 17) (s : State),
    (∀ e ∈ table83,
      exec (e.1 d a b) s = .next (mcGives s d (e.2.2 (aReg s a) (aReg s b))) ∧
      exec (e.2.1 d a b) s = .next (mcGives s d (e.2.2 (gReg s a) (gReg s b)))) ∧
    exec (.maddi d a i17) s = .next (mcGives s d (BitVec.ofInt 64 ((aReg s a).toInt + i17.toInt))) ∧
    exec (.caddi d a i17) s = .next (mcGives s d (BitVec.ofInt 64 ((gReg s a).toInt + i17.toInt))) ∧
    exec (.mmovi d i17) s = .next (mcGives s d (BitVec.ofInt 64 i17.toInt)) ∧
    exec (.cmovi d i17) s = .next (mcGives s d (BitVec.ofInt 64 i17.toInt)) ∧
    exec (.mmovx d x) s = .next (mcGives s d (vget s.me.x2 x.toNat 0)) ∧
    exec (.cmovx d x) s = .next (mcGives s d (vget s.me.x2 x.toNat 0)) ∧
    (∃ v, exec (.mmovk d h i16) s = .next (mcGives s d v) ∧ v.extractLsb' (16 * h.toNat) 16 = i16 ∧
      ∀ j, j < 64 → j / 16 ≠ h.toNat → v.getLsbD j = (aReg s d).getLsbD j) ∧
    ∃ v, exec (.cmovk d h i16) s = .next (mcGives s d v) ∧ v.extractLsb' (16 * h.toNat) 16 = i16 ∧
      ∀ j, j < 64 → j / 16 ≠ h.toNat → v.getLsbD j = (gReg s d).getLsbD j

/-- R17, R200, R204, R292, R294: the frame of the register instructions of M and C: no register of any stream, special register,
accumulator or byte of memory changes before the result lands. -/
def Sys2Proof.Claims.MatrixAndCopyRegisterFrame : Prop :=
  ∀ (d a b : BitVec 4) (x : BitVec 5) (h : BitVec 2) (i16 : BitVec 16) (i17 : BitVec 17) (s t : State),
    ∀ e ∈ mcForms d a b x h i16 i17, exec e s = .next t → OnlyOwnSeq s t

namespace Sys2Proof.Claims

/-- Table 8.4, R207: a format word that a tile command with format check `sel` may pop. -/
def wordLegal (w : BitVec 32) (sel : Nat) : Prop :=
  let A := w.toNat / 2 ^ 28
  let B := w.toNat / 2 ^ 24 % 16
  w.toNat % 2 ^ 12 = 0 ∧ (w.getLsbD 12 = true → A = 0 ∧ B = 0) ∧
  (w.getLsbD 12 = false → 8 ≤ A ∧ A ≤ 14 ∧ 8 ≤ B ∧ B ≤ 14) ∧ (w.toNat / 2 ^ 22 % 4 = 0 ∨ A = 14 ∨ B = 14) ∧ (sel = 15 ∨ sel = B)
/-- R194: the structure table that a format word names. -/
def wordTab (s : State) (w : BitVec 32) : BitVec 1024 := vget s.me.alg (w.toNat / 2 ^ 21 % 2) 0
/-- R208: the control word of descriptor pair j. -/
def pairCtl (s : State) (j : BitVec 3) : Word := vget s.me.a (2 * j.toNat + 1) 0
/-- R208, R209: the geometry of operand A (`isA`) or B of a tile command with count K and format word w. -/
def opGeo (s : State) (isA : Bool) (j : BitVec 3) (K : Nat) (w : BitVec 32) : Geo :=
  geoOf (w.toNat / 2 ^ (if isA = true then 28 else 24) % 16) (algDim (wordTab s w))
    (w.getLsbD (if isA = true then 15 else 14)) (tileSide (algDim (wordTab s w))) K isA
    ⟨vget s.me.a (2 * j.toNat) 0, pairCtl s j⟩
/-- R203, R208 to R211, R213: the shape checks of a tile command. -/
def shapeFine (s : State) (u a b : BitVec 3) (K : Nat) (w : BitVec 32) : Prop :=
  1 ≤ K ∧ K ≤ 2047 ∧ u.toNat + 8 / algDim (wordTab s w) ≤ 8 ∧ (opGeo s true a K w).shapeOk (pairCtl s a) = true ∧
  (opGeo s false b K w).shapeOk (pairCtl s b) = true ∧ (opGeo s true a K w).blocks + (opGeo s false b K w).blocks ≤ 64
/-- R113: the scales that may be popped on this cycle. -/
def poppable (s : State) : Nat := (s.me.sq.filter fun e => decide (e.2 < s.now)).length
/-- R208, R217: whether a tile command fetches an operand. -/
def fetches (s : State) (a b : BitVec 3) : Bool := decide ((pairCtl s a).toNat / 2 ^ 62 = 1) || decide ((pairCtl s b).toNat / 2 ^ 62 = 1)
/-- The forms of mma, each with its format check and its count. -/
noncomputable def mmaRows (u a b : BitVec 3) (sc r : BitVec 4) (k : BitVec 11) (s : State) : List (Instr × Nat × Nat) :=
  [(.mma u a b sc k, sc.toNat, k.toNat), (.mmaReg u a b sc r, sc.toNat, (aReg s r).toNat)]
/-- The forms of mstage, each with its count. -/
noncomputable def mstageRows (u a b l : BitVec 3) (r : BitVec 4) (k : BitVec 11) (s : State) : List (Instr × Nat × Nat) :=
  [(.mstage u a b l k, 15, k.toNat), (.mstageReg u a b l r, 15, (aReg s r).toNat)]
/-- R203, R207 to R213: a tile command with count K and format check `sel` passes every check, its scales at hand. -/
def tileFine (s : State) (u a b : BitVec 3) (sel K : Nat) (w : BitVec 32) : Prop :=
  let A := opGeo s true a K w
  let B := opGeo s false b K w
  s.me.fqHead = some w ∧ wordLegal w sel ∧ shapeFine s u a b K w ∧ A.base.toNat % 64 = 0 ∧ B.base.toNat % 64 = 0 ∧
  (A.place s.turn.u s.me).isSome = true ∧ (B.place s.turn.u s.me).isSome = true ∧ A.blocks + B.blocks ≤ poppable s
/-- R208, R211, R213: the command that a tile instruction makes. -/
def isTile (s : State) (u a b : BitVec 3) (K : Nat) (w : BitVec 32) (follow : Bool) (cmd : MCmd) : Prop :=
  let n := (opGeo s true a K w).blocks + (opGeo s false b K w).blocks
  cmd.id = s.uid ∧ cmd.pc = s.mySeq.pc ∧ cmd.zero = none ∧ cmd.region = u.toNat ∧ cmd.fw = w ∧ cmd.k = K ∧
  cmd.da = ⟨vget s.me.a (2 * a.toNat) 0, pairCtl s a⟩ ∧ cmd.db = ⟨vget s.me.a (2 * b.toNat) 0, pairCtl s b⟩ ∧
  cmd.scales = (s.me.sq.take n).map (·.1) ∧ cmd.tab = wordTab s w ∧ cmd.lct = vget s.me.lct (w.toNat / 2 ^ 22 % 4) 0 ∧
  cmd.issue = s.me.clk ∧ cmd.follow = follow ∧ cmd.started = none
/-- The state after a tile command has popped its format word and n scales. -/
def poppedTile (s : State) (n : Nat) : State := popped s { s.me with sq := s.me.sq.drop n }

end Sys2Proof.Claims

/-- R110, R113, R203, R207 to R213, R215, R217, R218: where mma and mstage complete, with K in the word or in a local register: a
command whose checks hold takes its format word and scales and goes to the array, or into its empty slot. A full array or fetcher
defers mma. -/
def Sys2Proof.Claims.TileCommandsIssue : Prop :=
  ∀ (u a b l : BitVec 3) (sc r : BitVec 4) (k : BitVec 11) (w : BitVec 32) (s : State),
    let n (K : Nat) : Nat := (opGeo s true a K w).blocks + (opGeo s false b K w).blocks
    (∀ e ∈ mmaRows u a b sc r k s,
      (tileFine s u a b e.2.1 e.2.2 w → arrayRoom s (fetches s a b) → noFollowOn s u.toNat (8 / algDim (wordTab s w)) →
        ∃ cmd, isTile s u a b e.2.2 w false cmd ∧
          exec e.1 s = .next (advance ((poppedTile s (n e.2.2)).issueCmd s.turn.u s.me.lid cmd))) ∧
      (4 ≤ s.me.waiting.length ∨ (fetches s a b = true ∧ s.me.mdepth.toNat ≤ s.me.fetching) → exec e.1 s = .next (deferM s))) ∧
    ∀ e ∈ mstageRows u a b l r k s,
      tileFine s u a b e.2.1 e.2.2 w → vget s.me.slots l.toNat .empty = .empty →
        ∃ cmd, isTile s u a b e.2.2 w true cmd ∧
          exec e.1 s = .next (advance ((poppedTile s (n e.2.2)).modMe fun c => { c with slots := vset c.slots l.toNat (.staged cmd) }))

/-- R203, R207 to R213: the causes of the tile commands, in their order: 0x07 without a format word, 0x01 for the word, 0x0B, 0x03 and
0x04 for the operand, A before B. -/
def Sys2Proof.Claims.TileCommandCauses : Prop :=
  ∀ (u a b l : BitVec 3) (sc r : BitVec 4) (k : BitVec 11) (s : State),
    ∀ e ∈ mmaRows u a b sc r k s ++ mstageRows u a b l r k s, (e ∈ mmaRows u a b sc r k s → arrayRoom s (fetches s a b)) →
      (s.me.fqHead = none → exec e.1 s = .next (raised s 0x07 0)) ∧
      ∀ w, s.me.fqHead = some w →
        let A := opGeo s true a e.2.2 w
        let B := opGeo s false b e.2.2 w
        (¬ wordLegal w e.2.1 → exec e.1 s = .next (illegal s)) ∧
        (wordLegal w e.2.1 → ¬ shapeFine s u a b e.2.2 w → exec e.1 s = .next (raised s 0x0B 0)) ∧
        (wordLegal w e.2.1 → shapeFine s u a b e.2.2 w →
          (A.base.toNat % 64 ≠ 0 → exec e.1 s = .next (raised s 0x03 A.base)) ∧
          (A.base.toNat % 64 = 0 → B.base.toNat % 64 ≠ 0 → exec e.1 s = .next (raised s 0x03 B.base)) ∧
          (A.base.toNat % 64 = 0 → B.base.toNat % 64 = 0 →
            (A.place s.turn.u s.me = none → exec e.1 s = .next (raised s 0x04 A.base)) ∧
            ((A.place s.turn.u s.me).isSome = true → B.place s.turn.u s.me = none → exec e.1 s = .next (raised s 0x04 B.base))))

/-- R110, R203, R207, R208, R211: the first checks of a tile command, and what a command that passes every check holds. -/
def Sys2Proof.Claims.TileCommandChecks : Prop :=
  ∀ (u a b : BitVec 3) (sel K : Nat) (s : State),
    let desc (j : BitVec 3) : MDesc := ⟨vget s.me.a (2 * j.toNat) 0, vget s.me.a (2 * j.toNat + 1) 0⟩
    (s.me.fqHead = none → s.tileChk u a b sel K = .under) ∧
    ∀ w, s.me.fqHead = some w →
      (fwOk w sel = false → s.tileChk u a b sel K = .illegal) ∧
      (fwOk w sel = true → K = 0 ∨ 2047 < K → s.tileChk u a b sel K = .shape) ∧
      (∀ cmd n, s.tileChk u a b sel K = .ok cmd n →
        cmd.k = K ∧ cmd.fw = w ∧ cmd.region = u.toNat ∧ cmd.da = desc a ∧ cmd.db = desc b ∧ cmd.zero = none ∧
        cmd.issue = s.me.clk ∧ cmd.pc = s.mySeq.pc ∧ cmd.id = s.uid ∧ cmd.started = none ∧
        cmd.tab = vget s.me.alg (w.toNat / 2 ^ 21 % 2) 0 ∧ (desc a).base.toNat % 64 = 0 ∧ (desc b).base.toNat % 64 = 0 ∧
        1 ≤ K ∧ K ≤ 2047 ∧ n ≤ 64)

/-- R220, R221, R199: mzero issues a command that zeroes n regions from u, raises 0x0B past region 7; mswap issues at once and the
banks are exchanged when every earlier command is quiescent; with a follow-on outstanding in timed mode it raises 0x06. A full array
defers mzero. -/
def Sys2Proof.Claims.MatrixZeroAndSwap : Prop :=
  (∀ (u n : BitVec 3) (s : State), s.me.waiting.length < 4 →
    (u.toNat + n.toNat + 1 ≤ 8 → noFollowOn s u.toNat (n.toNat + 1) →
      ∃ cmd : MCmd, cmd.zero = some (n.toNat + 1) ∧ cmd.region = u.toNat ∧ cmd.follow = false ∧ cmd.started = none ∧
        cmd.issue = s.me.clk ∧
        exec (.mzero u n) s = .next (advance (({ s with uid := s.uid + 1 } : State).issueCmd s.turn.u s.me.lid cmd))) ∧
    (8 < u.toNat + n.toNat + 1 → exec (.mzero u n) s = .next (raised s 0x0B 0))) ∧
  (∀ (u n : BitVec 3) (s : State), 4 ≤ s.me.waiting.length → exec (.mzero u n) s = .next (deferM s)) ∧
  (∀ s : State,
    (s.me.mode = .timed → (∃ f ∈ s.me.cmds, f.follow = true) →
      exec .mswap s = .next (raiseCause ⟨0x06, 0, s.mySeq.pc, 0, BitVec.ofNat 64 s.me.clk⟩ false s)) ∧
    (s.me.mode ≠ .timed ∨ (∀ f ∈ s.me.cmds, f.follow = false) →
      exec .mswap s = .next (advance (s.modMe fun c => { c with mswap := some (c.cmds.map (·.id)) })))) ∧
  (∀ (c : Ctx) (k : MCmd) (n i : Nat), k.zero = some n →
    bankGet (c.applyCmd k).work i =
      if 2048 * k.region ≤ i ∧ i < 2048 * (k.region + n) then 0 else bankGet c.work i) ∧
  ∀ c : Ctx, (c.exchange.vis = c.work ∧ c.exchange.work = c.vis ∧ c.exchange.mswap = none) ∧
    (c.mswap = some [] → c.swapBanks.vis = c.work ∧ c.swapBanks.work = c.vis ∧ c.swapBanks.mswap = none ∧
      c.swapBanks.m.nextAt = c.clk + 1) ∧
    (c.mswap ≠ some [] → c.swapBanks = c)

namespace Sys2Proof.Claims

/-- R300: a span of n bytes at a may be named. -/
def spanIs (s : State) (k : SpanKind) (a : Word) (n : Nat) : Prop := spanOk k s.turn.u s.me a n = true
/-- R296, R302, R325: the byte-barrier fields of a command: absent, or an aligned address, which is local where the command has a
length. -/
def bbFine (s : State) (x : BitVec 1) (b : BitVec 4) (len : Nat) : Prop :=
  (x = 0 ∧ b = 0) ∨ (x = 1 ∧ (gReg s b).toNat % 8 = 0 ∧ spanIs s .loc (gReg s b) (if len = 0 then 0 else 8))
/-- R296, R313: the follow-on fields of a command: absent, or a slot that is STAGED. -/
def slotFine (s : State) (f : BitVec 1) (l : BitVec 3) : Prop :=
  (f = 0 ∧ l = 0) ∨ (f = 1 ∧ ∃ k, vget s.me.slots l.toNat .empty = .staged k)
/-- R318, R319: n bytes at an offset lie in remote window j, which is valid. -/
def winFine (s : State) (j : BitVec 3) (off n : Word) : Prop :=
  let w (i : Nat) := vget s.me.rwin (3 * j.toNat + i) 0
  off.toNat % 64 = 0 ∧ n.toNat % 64 = 0 ∧ (w 0).getLsbD 63 = true ∧ off.toNat + n.toNat ≤ (w 2).toNat % 2 ^ 40
/-- R293: what an ra field yields. -/
def raIs (s : State) (r : BitVec 6) (v : Word) : Prop :=
  (r.toNat < 32 ∧ v = vget s.me.x2 r.toNat 0) ∨ (32 ≤ r.toNat ∧ r.toNat < 48 ∧ v = vget s.me.g (r.toNat - 32) 0)

/-- A channel command: the instruction, the condition under which its checks hold, what it does, its byte barrier and slot, and
whether it has no length. -/
structure CopyRow where
  i     : Instr
  fine  : Prop
  op    : COp
  bb    : Option Word
  slot  : Option Nat
  empty : Bool

/-- R305 to R327: the channel commands and when their checks hold, but for ctens. -/
noncomputable def copyRows (c : BitVec 2) (p q r n b : BitVec 4) (x f k : BitVec 1) (l w : BitVec 3) (e y : BitVec 2) (ra : BitVec 6)
    (A : Word) (n9 : BitVec 9) (m16 : BitVec 16) (s : State) : List CopyRow :=
  let g := gReg s
  let len := (g n).toNat
  let bb := if x = 1 then some (g b) else none
  let sl := if f = 1 then some l.toNat else none
  let zero := decide (len = 0)
  let esz := if e = 0 then 4 else if e = 1 then 16 else if e = 2 then 64 else 256
  let rw (i : Nat) := vget s.me.rwin (3 * w.toNat + i) 0
  let gath (sc : Bool) : Prop := bbFine s x b 1 ∧ 1 ≤ len ∧ len ≤ 65536 ∧ (g r).toNat % 4 = 0 ∧ spanIs s .own (g r) (4 * len) ∧
    spanIs s .any (g p) (if sc then 1 else esz * len) ∧ spanIs s .any (g q) (if sc then esz * len else 1)
  let map : Prop := 1 ≤ len ∧ len ≤ 384 ∧ (g q).toNat % 4096 = 0 ∧ (g r).toNat % 4096 = 0 ∧ (g q).getLsbD 63 = true ∧
    spanIs s .own (g q) (4096 * len) ∧ s.mapMeets p.toNat ((g q).toNat % 2 ^ 63) len = false ∧ spanIs s .glob (g r) (4096 * len)
  let st := (g q).toNat / 2 ^ 12 % 8
  let buf := (g q).toNat % 2 ^ 12
  let round := (g q).toNat / 2 ^ 32
  [⟨.cpy c p q n b x f l, bbFine s x b len ∧ slotFine s f l ∧ len < 2 ^ 32 ∧ (g p).toNat % 4 = 0 ∧ (g q).toNat % 4 = 0 ∧ len % 4 = 0 ∧
      spanIs s .any (g p) len ∧ spanIs s .any (g q) len, .cpy (g p) (g q) len, bb, sl, zero⟩,
   ⟨.cpya c p q n b x, bbFine s x b len ∧ (g q).toNat % 16 = 0 ∧ len % 64 = 0 ∧ 4 * (g q).toNat + len ≤ 65536 ∧ spanIs s .any (g p) len,
      .cpya (g p) (g q).toNat len, bb, none, zero⟩,
   ⟨.cgath c p q r n b x e, gath false, .cgath false (g p) (g q) (g r) len esz, bb, none, false⟩,
   ⟨.cscat c p q r n b x e, gath true, .cgath true (g p) (g q) (g r) len esz, bb, none, false⟩,
   ⟨.cscl c ra n9 k, raIs s ra A ∧ 1 ≤ n9.toNat ∧ n9.toNat ≤ 256 ∧ A.toNat % (if k = 1 then 1 else 2) = 0 ∧
      spanIs s .any A ((if k = 1 then 1 else 2) * n9.toNat), .cscl A n9.toNat (decide (k = 1)), none, none, false⟩,
   ⟨.cldlct c ra n9, raIs s ra A ∧ n9.toNat ≤ 3 ∧ A.toNat % 64 = 0 ∧ spanIs s .any A 1024, .cldlct n9.toNat A, none, none, false⟩,
   ⟨.cldalg c ra n9, raIs s ra A ∧ n9.toNat ≤ 1 ∧ A.toNat % 64 = 0 ∧ spanIs s .any A 128, .cldalg n9.toNat A, none, none, false⟩,
   ⟨.caw c p q n y, y.toNat < 3 ∧ 1 ≤ len ∧ len ≤ 64 ∧ (g p).toNat % 64 = 0 ∧
      spanIs s .own (g p) ((if y = 0 then 128 else 256) * len) ∧ (g q).toNat < 2 ^ 41 ∧ (g q).toNat / 2 ^ 15 % 64 + len ≤ 64,
      .caw (g p) (g q) len y s.me.awround, none, none, false⟩,
   ⟨.cver c p q r n b x, bbFine s x b len ∧ (g r).toNat % 4 = 0 ∧ len % 4 = 0 ∧ spanIs s .any (g p) len ∧
      (g q).toNat / 2 ^ 15 % 2 ^ 17 = 0 ∧ round ≤ s.published st buf ∧ round ∈ (mget Bucket.fresh (s.die st).buckets buf).vers,
      .cver (g p) (BitVec.ofNat 3 st) (BitVec.ofNat 12 buf) (BitVec.ofNat 32 round) (g r).toNat len, bb, none, zero⟩,
   ⟨.cmapR c p q r n, map, .cmap false p.toNat ((g q).toNat % 2 ^ 63) (g r) len, none, none, false⟩,
   ⟨.cmapW c p q r n, map, .cmap true p.toNat ((g q).toNat % 2 ^ 63) (g r) len, none, none, false⟩,
   ⟨.cwb c m16, True, .cwb m16, none, none, false⟩] ++ [
   ⟨.cput c w p q n b x, (x = 0 → b = 0) ∧ winFine s w (g q) (g n) ∧ (rw 0).toNat % 256 ≠ 0 ∧
      ¬ ((rw 0).getLsbD 62 = true ∧ x = 1) ∧ spanIs s .loc (g p) len,
      .cput w.toNat (rw 0) (rw 1) (g q).toNat (g p) len (if x = 1 then some ((g b).setWidth 21) else none), none, none, zero⟩,
   ⟨.cget c w p q n b x, bbFine s x b len ∧ winFine s w (g q) (g n) ∧ (rw 0).toNat % 256 ≠ 0 ∧ spanIs s .loc (g p) len,
      .cget w.toNat (rw 0) (rw 1) (g q).toNat (g p) len, bb, none, zero⟩,
   ⟨.cbcast c p q n b x, bbFine s x b len ∧ len % 64 = 0 ∧ 1 ≤ len ∧ len ≤ 65536 ∧ s.me.group ≠ 0 ∧ spanIs s .own (g q) len ∧
      spanIs s .glob (g p) len, .cbcast (g p) (g q) len bb, none, none, false⟩,
   ⟨.csendT c w p q n r b, winFine s w (g q) (g n) ∧ (rw 0).toNat / 2 ^ 54 % 32 = s.peer b.toNat ∧ spanIs s .own (g p) len ∧
      s.datumNs.toNat < (g r).toNat, .csendt b (rw 0) (rw 1) (g q).toNat (g p) len (g r), none, none, zero⟩,
   ⟨.tready c p, (g p).toNat < 1024, .tready (g p).toNat, none, none, false⟩,
   ⟨.cbbarm c b n, bbFine s 1 b 8 ∧ 1 ≤ len ∧ len < 2 ^ 27, .cbbarm (g b) len, none, none, false⟩,
   ⟨.cbbadd c b n, bbFine s 1 b 8 ∧ 1 ≤ len ∧ len < 2 ^ 27, .cbbadd (g b) len, none, none, false⟩,
   ⟨.cbbwait c b k, bbFine s 1 b 8, .cbbwait (g b) (decide (k = 1)), none, none, false⟩]

end Sys2Proof.Claims

/-- R298 to R327: where the channel commands complete: one whose checks hold issues, while its channel holds fewer than 16, and enters
the channel last, with the values it has read, those of window registers as they stand then (log 37); one of no length enters none. A full
channel stalls C. -/
def Sys2Proof.Claims.ChannelCommandsEnqueue : Prop :=
  ∀ (c : BitVec 2) (p q r n b : BitVec 4) (x f k : BitVec 1) (l w : BitVec 3) (e y : BitVec 2) (ra : BitVec 6) (A : Word)
    (n9 : BitVec 9) (m16 : BitVec 16) (s : State),
    ∀ row ∈ copyRows c p q r n b x f k l w e y ra A n9 m16 s, row.fine →
      ((vget s.me.chans c.toNat ⟨[], 0⟩).cmds.length < 16 →
        exec row.i s = .next (advance (s.enqueue c.toNat row.op row.bb row.slot row.empty)) ∧
        let t := advance (s.enqueue c.toNat row.op row.bb row.slot row.empty)
        t.verdict = .issued ∧
        (row.empty = true → t.me.chans = s.me.chans) ∧
        (row.empty = false → ∃ y : CCmd, y.id = s.uid ∧ y.pc = s.mySeq.pc ∧ y.op = row.op ∧ y.bb = row.bb ∧ y.slot = row.slot ∧
          y.next = 0 ∧ y.done = 0 ∧ y.added = 0 ∧ y.faulted = none ∧ y.flights = [] ∧
          (vget t.me.chans c.toNat ⟨[], 0⟩).cmds = (vget s.me.chans c.toNat ⟨[], 0⟩).cmds ++ [y])) ∧
      (16 ≤ (vget s.me.chans c.toNat ⟨[], 0⟩).cmds.length → exec row.i s = .next (stall frzChan s))

/-- R307, R309: ctens binds its record at issue when the record cache holds it, and makes it the newest; rcfence drops the cached
records at the end of its cycle. -/
def Sys2Proof.Claims.TensorCopyAndRecordCache : Prop :=
  ∀ (c : BitVec 2) (r b : BitVec 4) (x f : BitVec 1) (l : BitVec 3) (s : State),
    let A := gReg s r
    let go (rec : Option (BitVec 1536)) : State := advance (s.enqueue c.toNat (.ctens A rec)
      (if x = 1 then some (gReg s b) else none) (if f = 1 then some l.toNat else none) false)
    (bbFine s x b 1 → slotFine s f l → A.toNat % 64 = 0 → spanIs s .any A 192 →
      (vget s.me.chans c.toNat ⟨[], 0⟩).cmds.length < 16 →
      (s.me.rcache.find? (fun p => p.1 = A) = none → exec (.ctens c r b x f l) s = .next (go none)) ∧
      (∀ w, s.me.rcache.find? (fun p => p.1 = A) = some (A, w) → exec (.ctens c r b x f l) s =
        .next ((go (some w)).modMe fun c => { c with rcache := (c.rcache.filter fun p => p.1 ≠ A) ++ [(A, w)] }))) ∧
    exec .rcfence s = .next (advance (s.atEnd .dropRecords))

/-- R296, R298, R300, R313: the causes of cpy, in the order of R298: a reserved field, a length of 2^32 or more, a misaligned
address or length, a span that may not be named, a slot that is not STAGED. -/
def Sys2Proof.Claims.CopyChecksInOrder : Prop :=
  ∀ (c : BitVec 2) (p q n b : BitVec 4) (x f : BitVec 1) (l : BitVec 3) (s : State),
    let g := gReg s
    let len := (g n).toNat
    let go := exec (.cpy c p q n b x f l) s
    let clean : Prop := (x = 0 → b = 0) ∧ (f = 0 → l = 0)
    let slot : Prop := f = 1 → ∃ k, vget s.me.slots l.toNat .empty = .staged k
    (¬ clean → go = .next (illegal s)) ∧
    (clean → 2 ^ 32 ≤ len → go = .next (raised s 0x0B 0)) ∧
    (clean → len < 2 ^ 32 → x = 0 → (g p).toNat % 4 ≠ 0 → go = .next (raised s 0x03 (g p))) ∧
    (clean → len < 2 ^ 32 → x = 0 → (g p).toNat % 4 = 0 → (g q).toNat % 4 = 0 → len % 4 = 0 → ¬ spanIs s .any (g p) len →
      go = .next (raised s 0x04 (g p))) ∧
    (clean → len < 2 ^ 32 → x = 0 → (g p).toNat % 4 = 0 → (g q).toNat % 4 = 0 → len % 4 = 0 → spanIs s .any (g p) len →
      spanIs s .any (g q) len → ¬ slot → go = .next (raised s 0x08 0))

/-- R299: the frame of the channel commands that issue: no register, flag, tile or accumulator and no byte of memory or of a scratchpad
changes at issue. -/
def Sys2Proof.Claims.ChannelCommandFrame : Prop :=
  ∀ (c : BitVec 2) (p q r n b : BitVec 4) (x f k : BitVec 1) (l w : BitVec 3) (e y : BitVec 2) (ra : BitVec 6) (A : Word)
    (n9 : BitVec 9) (m16 : BitVec 16) (s t : State),
    ∀ i ∈ (Instr.ctens c r b x f l) :: .rcfence ::
        (copyRows c p q r n b x f k l w e y ra A n9 m16 s).map (·.i),
      exec i s = .next t → t.verdict = .issued →
      SameRegs s.me t.me ∧ (∀ a, t.mem.rd a = s.mem.rd a) ∧ t.regs = s.regs ∧ (∀ v, (t.core v).spad = (s.core v).spad) ∧
      ∀ v, v ≠ s.turn.u → t.core v = s.core v

namespace Sys2Proof.Claims

/-- A stack core, its stack and a bucket number that it may name. -/
def stackBucket (s : State) (v : Word) (st b : Nat) : Prop :=
  isStack s.turn.u = true ∧ st = stackOf s.turn.u ∧ b = v.toNat ∧ b < 4096
/-- A cause 0x0C with a bucket and a detail (R340, R351). -/
def bucketCause (s : State) (b : Nat) (detail : BitVec 16) : State :=
  raiseCause ⟨0x0C, detail, s.mySeq.pc, BitVec.ofNat 64 b, 0⟩ false s

end Sys2Proof.Claims

/-- R333, R349: on a compute core the instructions of stack cores raise 0x01. -/
def Sys2Proof.Claims.StackInstructionsArePrivileged : Prop :=
  ∀ (t : BitVec 1) (d a : BitVec 6) (g : BitVec 4) (p : BitVec 2) (x : BitVec 5) (s : State), isStack s.turn.u = false →
    ∀ e ∈ [Instr.bkwait d, .bkopen a, .bkclose a, .pub, .hold a, .release a, .chadd a, .vsrnd t d a g p x],
      exec e s = .next (illegal s)

/-- R339, R340, R351: bkopen of a bucket that passes the opening checks makes it OPEN with nothing gathered; a failed check raises
0x0C with the bucket in ADDR and the detail in N. bkclose makes a bucket IDLE and takes it off the completion queue; one in UPDATE
raises 0x0C, and both raise it with the operand in ADDR where a bit above 11 is set. What a bucket in POISON had gathered is discarded when
it opens again (log 41). -/
def Sys2Proof.Claims.BucketsOpenAndClose : Prop :=
  (∀ (a : BitVec 6) (s : State), isStack s.turn.u = true → sSrcOk [a] = true → 4096 ≤ (s.rdS a).toNat →
    exec (.bkopen a) s = .next (raised s 0x0C (s.rdS a)) ∧ exec (.bkclose a) s = .next (raised s 0x0C (s.rdS a))) ∧
  ∀ (a : BitVec 6) (st b : Nat) (s : State), stackBucket s (s.rdS a) st b → sSrcOk [a] = true →
    (s.openCheck st b = none → ∃ t, exec (.bkopen a) s = .next (sawDatum [a] s (advance t)) ∧ t.bState st b = 1 ∧
      (t.bucket st b).got = [] ∧ (t.bucket st b).wait = [] ∧ (t.bucket st b).parts = [] ∧
      (∀ w, w ≠ 1 → w < 4 → t.desc st b w = s.desc st b w) ∧ t.bRound st b = s.bRound st b) ∧
    (∀ n, s.openCheck st b = some n → exec (.bkopen a) s = .next (bucketCause s b (BitVec.ofNat 16 n))) ∧
    (s.bState st b ≠ 0 → s.bState st b ≠ 4 → exec (.bkopen a) s = .next (bucketCause s b 1)) ∧
    (s.bState st b ≠ 3 → ∃ t, exec (.bkclose a) s = .next (sawDatum [a] s (advance t)) ∧ t.bState st b = 0 ∧
      t.bucket st b = { Bucket.fresh with vers := (s.bucket st b).vers } ∧
      (t.die st).cq = (s.die st).cq.filter (fun c => c.2 ≠ b) ∧ (∀ w, w ≠ 1 → w < 4 → t.desc st b w = s.desc st b w)) ∧
    (s.bState st b = 3 → exec (.bkclose a) s = .next (bucketCause s b 1))

/-- R350: bkwait takes the head of the completion queue: the bucket enters UPDATE, BKCUR names it, the destination receives it two
cycles later, and S goes on at SPBASE + 4 × ENTRY; with an empty queue S waits and its watchdog starts again; with a bucket in hand it
raises 0x0C. -/
def Sys2Proof.Claims.BkwaitTakesACompleteBucket : Prop :=
  ∀ (d : BitVec 6) (s : State), isStack s.turn.u = true → dstOk 0 d = true →
    let u := s.turn.u
    let st := stackOf u
    let k := s.core u
    (k.bkcur.getLsbD 63 = false → (s.die st).cq = [] → ∃ t, exec (.bkwait d) s = .next t ∧ t.verdict = .stalled frzNone ∧
      t.me.wdogLeft = s.me.wdogPer) ∧
    (∀ at_ b rest, k.bkcur.getLsbD 63 = false → (s.die st).cq = (at_, b) :: rest →
      (s.bNv st b = 0 ∨ s.bRound st b + 1 < s.bNv st b ∨ s.verRead st b (s.bRound st b + 1 - s.bNv st b) = false) →
      let dest := k.spbase + BitVec.ofNat 64 (4 * ((s.desc st b 1).toNat / 2 ^ 32 % 2 ^ 16))
      let cur := BitVec.ofNat 64 (2 ^ 63 + s.bJob st b * 2 ^ 44 + b * 2 ^ 32 + s.bRound st b)
      targetOk dest → ∃ t, exec (.bkwait d) s = .next (sawDatum [] s t) ∧ t.verdict = .issued ∧ t.mySeq.pc = dest ∧
        t.bState st b = 3 ∧ (t.die st).cq = rest ∧ (t.core u).bkcur = cur ∧
        ∃ e : Land, t.mySeq.ring = s.mySeq.ring ++ [e] ∧ e.dst = d ∧ e.val = cur.setWidth 2048 ∧ e.due = s.me.clk + 2) ∧
    (k.bkcur.getLsbD 63 = true → exec (.bkwait d) s = .next (bucketCause s (k.bkcur.toNat / 2 ^ 32 % 2 ^ 12) 0))

/-- R352: hold keeps a row of 2 KiB that no other core of the stack holds, at most four at a time; release gives it up, and packets
staged for it are applied. -/
def Sys2Proof.Claims.RowsAreHeldAndReleased : Prop :=
  ∀ (a : BitVec 6) (pa : Nat) (w : Word) (s : State), isStack s.turn.u = true → sSrcOk [a] = true →
    let u := s.turn.u
    let v := s.rdS a
    let row := v.toNat / 2048
    (s.xlateList (stackOf u) v.toNat 1 = .ok pa w →
      (row ∈ (s.core u).rows → exec (.hold a) s = .next (sawDatum [a] s (advance s))) ∧
      (row ∉ (s.core u).rows → 4 ≤ (s.core u).rows.length → exec (.hold a) s = .next (raised s 0x04 v)) ∧
      (row ∉ (s.core u).rows → (s.core u).rows.length < 4 → s.rowHeld u v.toNat 1 = true →
        exec (.hold a) s = .next (stall frzNone s)) ∧
      (row ∉ (s.core u).rows → (s.core u).rows.length < 4 → s.rowHeld u v.toNat 1 = false →
        exec (.hold a) s = .next (sawDatum [a] s (advance (s.modCore u fun k => { k with rows := k.rows ++ [row] })))) ∧
      exec (.release a) s = .next (sawDatum [a] s (advance
        ((s.modCore u fun k => { k with rows := k.rows.filter (· ≠ row) }).flushHeld (stackOf u))))) ∧
    (s.xlateList (stackOf u) v.toNat 1 = .deny →
      exec (.hold a) s = .next (raised s 0x04 v) ∧ exec (.release a) s = .next (raised s 0x04 v))

/-- R354, R355, R339, R280: pub ends the update of the bucket in hand once every access that the core issued before has been performed: what
S and V have done comes before every versioned copy of the new round, the next round opens and BKCUR.V clears; chadd adds lane 0 of its
source to the bucket's chain slot; both raise 0x0C with no bucket in hand. -/
def Sys2Proof.Claims.PubAndChadd : Prop :=
  ∀ (a : BitVec 6) (s : State), isStack s.turn.u = true →
    let u := s.turn.u
    let st := stackOf u
    let k := s.core u
    let b := k.bkcur.toNat / 2 ^ 32 % 2 ^ 12
    let n := k.bkcur.toNat % 2 ^ 32
    (k.bkcur.getLsbD 63 = true → s.stackQuiet u = true →
      exec .pub s = .next (advance (((s.publishHb s.me.lid u st b (n + 1)).publishBucket st b n).modCore u fun k =>
        { k with bkcur := setBits k.bkcur 63 63 0 })) ∧
      ((s.bucket st b).next = [] → (s.publishBucket st b n).bState st b = 1 ∧
        (s.publishBucket st b n).bRound st b = (n + 1) % 2 ^ 32)) ∧
    (k.bkcur.getLsbD 63 = true → s.stackQuiet u = false → exec .pub s = .next (stall frzNone s)) ∧
    (k.bkcur.getLsbD 63 = false → exec .pub s = .next (raised s 0x0C 0)) ∧
    (vSrcOk [a] = true → vBeyond s.me a = false → k.bkcur.getLsbD 63 = true → s.pubNow u = false →
      ∃ t, exec (.chadd a) s = .next (advance t) ∧
        mget 0 (t.die st).chain b = BitVec.ofNat 32 (roundF (exactSum [decodeF .fp32 (mget 0 (s.die st).chain b).toNat,
          decodeF .fp32 (lane (vVal s.me a 32 0) 32 0)]) .fp32 .rne 0) ∧
        (∀ c, c ≠ b → mget 0 (t.die st).chain c = mget 0 (s.die st).chain c) ∧ t.regs = s.regs ∧ t.mem = s.mem) ∧
    (vSrcOk [a] = true → vBeyond s.me a = false → k.bkcur.getLsbD 63 = false → exec (.chadd a) s = .next (bucketCause s b 0))

/-- R353: vsrnd rounds 64 lanes with the stack's own draws, to BF16 in part p of the destination or to MXFP8 blocks, with latency 6;
with no bucket in hand or past element 4,095 it raises 0x0C. -/
def Obligations.StackRounding : Prop :=
  ∀ (t : BitVec 1) (d a : BitVec 6) (g : BitVec 4) (p : BitVec 2) (x : BitVec 5) (s : State), isStack s.turn.u = true →
    vOk s t d [a] →
    let st := stackOf s.turn.u
    let k := s.core s.turn.u
    let b := k.bkcur.toNat / 2 ^ 32 % 2 ^ 12
    let e := (xLag s.me x.toNat).toNat
    let rb (i : Nat) : BitVec 64 := srDraw (s.job st (k.bkcur.toNat / 2 ^ 44 % 2 ^ 8) 1)
      (srCtrStack (BitVec.ofNat 32 k.bkcur.toNat) (BitVec.ofNat 3 st) (BitVec.ofNat 12 b) (BitVec.ofNat 12 (e + i)))
    let el (i : Nat) : Ex := decodeF .fp32 (lane (vVal s.me a 32 0) 32 i)
    let block (F : FFmt) (j : Nat) : Nat × List Nat :=
      mxPack ((List.range 32).map fun i => el (32 * j + i)) F .sr fun i => rb (32 * j + i)
    (k.bkcur.getLsbD 63 = true → e + 63 ≤ 4095 →
      (g = 9 → p.toNat ≤ 1 → ∃ v, exec (.vsrnd t d a g p x) s = .next (vGives s t d v 6) ∧
        ∀ i, i < 128 → lane v 16 i = if i / 64 = p.toNat then roundF (el (i % 64)) .bf16 .sr (rb (i % 64)) % 2 ^ 16
          else lane (vDst s.me d) 16 i) ∧
      (∀ F, (g = 12 ∧ F = .e4m3) ∨ (g = 13 ∧ F = .e5m2) → p = 0 →
        exec (.vsrnd t d a g p x) s = .next (vGives s t d
          (ofLanes 8 ((block F 0).2 ++ (block F 1).2 ++ [(block F 0).1, (block F 1).1])) 6))) ∧
    (k.bkcur.getLsbD 63 = false ∨ 4095 < e + 63 → g = 12 → p = 0 → exec (.vsrnd t d a g p x) s = .next (bucketCause s b 0))

namespace Sys2Proof.Claims

/-! Events of a core's timetable, of its copies and of the global memory. -/

/-- Only these registers of the package register space change. -/
def OnlyRegs (s t : State) (offs : List Nat) : Prop :=
  t = { s with regs := t.regs } ∧ ∀ o, o ∉ offs → t.reg o = s.reg o
/-- Only these cores change. -/
def OnlyCores (s t : State) (us : List Nat) : Prop :=
  t = { s with cores := t.cores } ∧ ∀ u, u ∉ us → t.core u = s.core u
/-- The value that the data of an access has at its landing (R22, R236). -/
def dataOf (o : Out) (v : Wide) : Prop :=
  (∃ z sg, o.op = .load z sg ∧ v = wide (extend z sg (leNat o.data))) ∨
  (∃ op z b cmp sc, o.op = .amo op z b cmp sc ∧ v = wide (extend z false (leNat o.data))) ∨
  (o.op = .vload ∧ v = BitVec.ofNat 2048 (leNat o.data))
/-- Every ring entry of unit u that waits for access id, and no other, is replaced. -/
def ringsGet (s t : State) (u id : Nat) (f : Land → Land) : Prop :=
  ∀ q, ((t.ctx u).seq q).ring = ((s.ctx u).seq q).ring.map fun l => if l.acc = id then f l else l
/-- The offsets that a window access touches. -/
def winOffs (w : WinAcc) : List Nat := match w.rd with | some e => e.offs | none => w.wr.map (·.1)
/-- The state in which sequencer q of unit u acts. -/
def asTurn (s : State) (u : Nat) (q : SeqId) : State := { s with turn := ⟨u, q⟩ }

/-- R22, R217, R236, R369: LOAD_DATA_ARRIVAL: the data of an answered load or atomic reaches the ring entries that wait for it, with
its poison; the data of an operand fetch reaches its command. -/
def DataArrives : Prop :=
  ∀ (id : Nat) (o : Out) (s : State), s.out id = some o → id ≠ 0 → o.st = .answered → o.ready ≤ s.now → o.deny = none →
    (∀ v, dataOf o v → ∃ t, exec (.loadDataArrival id) s = .next t ∧
      t = { s with cores := t.cores, outs := s.outs.filter fun p => p.id ≠ id } ∧ (∀ u, u ≠ o.u → t.core u = s.core u) ∧
      ringsGet s t o.u id fun l =>
        { l with wait := false, val := v, poison := if o.bad then some o.va else none, acc := 0 }) ∧
    (∀ c, o.op = .operand c → (s.ctx o.u).lid = o.lid → ∃ t, exec (.loadDataArrival id) s = .next t ∧
      t = { s with cores := t.cores, outs := s.outs.filter fun p => p.id ≠ id } ∧ (∀ u, u ≠ o.u → t.core u = s.core u) ∧
      (t.ctx o.u).cmds = (s.ctx o.u).cmds.map fun k =>
        if k.id = c then { k with need := k.need.filter (· ≠ o.va.toNat / 64), got := k.got.wrL (atAddr o.va.toNat o.data),
                                  bad := k.bad || o.bad } else k)

/-- R217, R242, R285: DENIAL_ARRIVAL: a cause that comes in the place of an access's data waits for the first instruction of its sequencer
to reach issue, and the result does not
land (log 27); of an operand the command ends unstarted, and the cause of a denied page is M's. -/
def DenialsArrive : Prop :=
  ∀ (u : Nat) (q : SeqId) (c : CauseArgs) (s : State), ((s.ctx u).seq q).run = true →
    let hit (p : Out) : Bool := decide (p.u = u) && decide (p.q = q) && decide (p.deny = some c)
    (∀ (o : Out) (v : Wide), s.outs.find? hit = some o → o.ready ≤ s.now → o.id ≠ 0 → o.lid = (s.ctx u).lid → dataOf o v →
      ∃ t, exec (.denialArrival u q c) s = .next t ∧
        t = { s with cores := t.cores, outs := s.outs.filter fun p => p.id ≠ o.id } ∧ (∀ j, j ≠ u → t.core j = s.core j) ∧
        ((t.ctx u).seq q).deliver = ((s.ctx u).seq q).deliver ++ [c] ∧
        ringsGet s t u o.id fun l => { l with wait := false, v := false, acc := 0 }) ∧
    (∀ (o : Out) (cmd : Nat), s.outs.find? hit = some o → o.ready ≤ s.now → o.lid = (s.ctx u).lid → o.op = .operand cmd →
      let r : SeqId := if c.code = 0x04 then .M else q
      ((s.ctx u).seq r).run = true →
      ∃ t, exec (.denialArrival u q c) s = .next t ∧
        t = { s with cores := t.cores, outs := s.outs.filter fun p => decide (p.op ≠ .operand cmd) } ∧
        (∀ j, j ≠ u → t.core j = s.core j) ∧ (t.ctx u).cmds = (s.ctx u).cmds.filter (fun k => k.id ≠ cmd) ∧
        (t.ctx u).mswap = (s.ctx u).mswap.map (·.filter (· ≠ cmd)) ∧
        ((t.ctx u).seq r).deliver = ((s.ctx u).seq r).deliver ++ [c]) ∧
    (s.outs.find? hit = none → ∃ t, exec (.denialArrival u q c) s = .next t ∧ OnlyCores s t [u] ∧
      ((t.ctx u).seq q).deliver = ((s.ctx u).seq q).deliver ++ [c])

/-- R100, R126: STALL_RELEASE: every sequencer of the trap domain is tried again, and nothing else changes. -/
def StallsAreReleased : Prop :=
  ∀ (u : Nat) (s : State), ∃ t, exec (.stallRelease u) s = .next t ∧ OnlyCores s t (s.domain u) ∧
    ∀ j ∈ s.domain u, ∀ q, (t.ctx j).seq q = { (s.ctx j).seq q with stalled := false }

/-- R126, R131, R132: VSEND_ARRIVAL: data that meets a due vrecv alone stays for it; otherwise it is discarded and V raises 0x06 on this
cycle, before any other cause; where V's fetch is not served yet, nothing happens. -/
def SentDataArrives : Prop :=
  ∀ (u : Nat) (s : State), s.runs u = true →
    let c := s.ctx u
    let now := c.arrive.filter fun p => decide (p.1 = c.clk)
    let due : Prop := c.v.run = true ∧ c.v.nextAt ≤ c.clk ∧ ∃ w, s.fetch u c.v.pc = .word w ∧ w.toNat / 2 ^ 25 = 0x61
    let unread : Prop := c.v.run = true ∧ c.v.nextAt ≤ c.clk ∧ s.fetch u c.v.pc = .wait
    (now.length = 1 → due → exec (.vsendArrival u) s = .next s) ∧
    (unread → exec (.vsendArrival u) s = .next s) ∧
    (now.length ≠ 0 → ¬ unread → (¬ due ∨ now.length ≠ 1) → c.v.run = true →
      ∃ t, exec (.vsendArrival u) s = .next t ∧ OnlyCores s t [u] ∧
        (t.ctx u).arrive = c.arrive.filter (fun p => decide (p.1 ≠ c.clk)) ∧
        (t.ctx u).v.deliver = ⟨0x06, 0, c.v.pc, 0, BitVec.ofNat 64 c.clk⟩ :: c.v.deliver ∧
        ∀ l, (t.ctx u).vr = (s.ctx u).vr ∧ ((t.ctx u).seq l).ring = ((s.ctx u).seq l).ring)

/-- R133, R134, R282: WINDOW_ACCESS: a window access that is due and meets no race is performed at its target: a load's bytes reach the
ring, a store's bytes are written, an atomic does both; a store that races writes nothing and its cause waits for its sequencer. A load or
an atomic that its own sequencer's own-range stores stand behind meets what was there before them, and those stores stay (log 77); one of a
byte barrier's line is an input, which is logged, or taken from the log (R394, R396). -/
def WindowAccessesArePerformed : Prop :=
  ∀ (u : Nat) (w : WinAcc) (s : State), s.runs u = true → ((s.ctx u).wins.filter fun x => decide (x.due ≤ (s.ctx u).clk)) = [w] →
    let s0 := asTurn s u w.q
    let lid := (s.ctx u).lid
    let pad := (s.core w.target).spad
    let keys := lineKeys (spadKeyBase w.target) (winOffs w)
    let race (kind : Nat) := (s0.access (s0.accAt u w.q w.hb) kind (s0.timed u) keys).1
    let done (t : State) : Prop := exec (.windowAccess u) s = .next t ∧ (t.ctx u).wins = (s.ctx u).wins.erase w ∧ t.turn = s.turn
    let quiet (t : State) : Prop := t.mem = s.mem ∧ t.regs = s.regs
    let bad : Option Word := s0.spadBad w.target (winOffs w)
    (s0.touch w.target (winOffs w)).1 = true → s.padSealed w.target = false →
    (w.rd = none → race 1 = none → ∃ t, done t ∧ quiet t ∧ (t.core w.target).spad = pad.wrL w.wr) ∧
    (w.rd = none → ∀ l d, race 1 = some (l, d) → ((s.ctx u).seq w.q).run = true →
      ∃ t, done t ∧ ((s.ctx u).launch ∉ s.misc.recording → quiet t) ∧ (∀ j, (t.core j).spad = (s.core j).spad) ∧
        ((t.ctx u).seq w.q).deliver = ((s.ctx u).seq w.q).deliver ++ [raceCause w.pc (winAddr w.target (keyOff l)) d]) ∧
    (∀ e, w.rd = some e → w.acc ≠ 0 →
      (w.amo = none → race 0 = none →
        let v := e.read (pad.wrL w.wr)
        let gets (t : State) (v : Wide) : Prop := (∀ j, (t.core j).spad = (s.core j).spad) ∧
          ringsGet s t u w.acc fun l => { l with wait := false, val := v, poison := bad, acc := 0 }
        (s.bbLine w.target (winOffs w) = false → ∃ t, done t ∧ quiet t ∧ gets t v) ∧
        (s.bbLine w.target (winOffs w) = true → s.isReplay u = false → ∃ t, done t ∧ gets t v) ∧
        (∀ at_ pos, s.bbLine w.target (winOffs w) = true → s.isReplay u = true →
          s.nextRec u w.q = some (10, (s.ctx u).clk, at_, pos) →
          ∃ t, done t ∧ gets t (BitVec.ofNat 2048 (leNat (s.mem.rdN (at_ + 16) (8 * if w.q = .V then 32 else 1)))))) ∧
      (∀ op b cmp sc, w.amo = some (op, b, cmp, sc) →
        let s1 := s0.scFirst lid u w.q sc
        (s1.access { s0.accAt u w.q w.hb with hb := s1.vc (compOf lid u w.q) } (2 + sc) (s1.timed u) keys).1 = none →
        let off := (winOffs w).headD 0
        let old := leNat ((pad.wrL w.wr).rdN off e.z)
        let own (a : Nat) : Bool := w.wr.any fun y => y.1 = a
        ∃ t, done t ∧ quiet t ∧
          (t.core w.target).spad = pad.wrL ((atAddr off (natLe e.z (amoNew op e.z old b cmp))).filter fun x => !own x.1) ∧
          ringsGet s t u w.acc fun l =>
            { l with wait := false, val := wide (BitVec.ofNat 64 old), poison := bad, acc := 0 }))

/-- R134, R135, R284: MULTICAST_WRITE: a multicast store that is due writes every target, or none where one of them races. -/
def MulticastWritesArePerformed : Prop :=
  ∀ (u : Nat) (w : McWrite) (s : State), s.runs u = true → ((s.ctx u).mcast.filter fun x => decide (x.due ≤ (s.ctx u).clk)) = [w] →
    let s0 := asTurn s u w.q
    let offs := w.wr.map (·.1)
    let s1 := s0.modCtx u fun c => { c with mcast := c.mcast.erase w }
    let race := (s1.access (s1.accAt u w.q w.hb) 1 (s1.timed u) ((w.targets u).flatMap fun j => lineKeys (spadKeyBase j) offs)).1
    (∀ j ∈ w.targets u, (s0.touch j offs).1 = true ∧ s.padSealed j = false) → (race = none ∨ ((s.ctx u).seq w.q).run = true) →
    ∃ t, exec (.multicastWrite u) s = .next t ∧ (t.ctx u).mcast = (s.ctx u).mcast.erase w ∧ t.mem = s.mem ∧
      (race = none → ∀ j, (t.core j).spad = if j ∈ w.targets u then (s.core j).spad.wrL w.wr else (s.core j).spad) ∧
      (race ≠ none → ∀ j, (t.core j).spad = (s.core j).spad)

/-- R215, R216, R219, R266, R282: MATRIX_COMMAND_START: a command that is due, whose bytes are there and which meets no race, reads its
operands, as an access of M or, of a follow-on, of C, and occupies the array. -/
def ArrayCommandsStart : Prop :=
  ∀ (u id : Nat) (k : MCmd) (s : State),
    let c := s.ctx u
    let s0 := asTurn s u k.party
    let far := (k.spadReads u).flatMap fun r => lineKeys (spadKeyBase r.1) r.2
    c.cmds.find? (fun x => x.id = id) = some k → s.runs u = true → c.startDue u k = true → k.need = [] →
    (∀ r ∈ k.spadReads u, (s0.touch r.1 r.2).1 = true) → (s0.access (s0.accAt u k.party k.hb) 0 (s0.timed u) far).1 = none →
    ∃ (t : State) (a b : List (List Ex)) (bad : Bool), exec (.matrixCommandStart u id) s = .next t ∧
      ((t.ctx u).cmds = c.cmds.map fun x => if x.id = id then
        { k with opA := a, opB := b, bad := bad, started := some c.clk, left := if k.follow then k.occ else 0,
                 quies := if k.follow then 0 else c.clk + k.occ + 13 } else x) ∧
      (k.zero = none → a = s.readOperand u k k.geoA (k.scales.take k.geoA.blocks) ∧
        b = s.readOperand u k k.geoB (k.scales.drop k.geoA.blocks)) ∧
      (∀ j, (t.core j).spad = (s.core j).spad) ∧ t.mem = s.mem

/-- R198, R199, R215, R219, R221: QUIESCENCE: the results of a command enter the working bank, it leaves the array, and an mswap no longer
waits for it; a copy that carried it completes. A follow-on that C issued after a waiting mswap waits for the exchange and writes the
bank that is the working one then. -/
def ArrayCommandsEnd : Prop :=
  ∀ (u id : Nat) (k : MCmd) (s : State),
    let c := s.ctx u
    c.cmds.find? (fun x => x.id = id) = some k → s.runs u = true → k.ends c.clk = true →
    (∀ l, c.mswap = some l → l ≠ [] → id ∉ l → exec (.quiescence u id) s = .next s) ∧
    ((∀ l, c.mswap = some l → l = [] ∨ id ∈ l) →
      let work := if c.mswap = some [] then c.vis else c.work
      let vis := if c.mswap = some [] then c.work else c.vis
      ∃ t, exec (.quiescence u id) s = .next (match c.await.find? fun x => decide (x.sent = id) && x.slot.isSome with
          | some x => t.completeCopy u c.lid x
          | none => t) ∧
        OnlyCores s t [u] ∧ (t.ctx u).cmds = c.cmds.filter (fun x => x.id ≠ id) ∧
        (t.ctx u).mswap = (if c.mswap = some [] then none else c.mswap.map (·.filter (· ≠ id))) ∧ (t.ctx u).vis = vis ∧
        (∀ i, (∀ p ∈ k.results work, p.1 ≠ i) → bankGet (t.ctx u).work i = bankGet work i) ∧
        ∀ p, (k.results work).Pairwise (fun x y => x.1 ≠ y.1) → p ∈ k.results work → bankGet (t.ctx u).work p.1 = p.2)

end Sys2Proof.Claims

namespace Sys2Proof.Claims

/-- The command at the head of channel ch of the context that runs on unit u, which holds no other launch. -/
def headIs (s : State) (u ch : Nat) (k : CCmd) : Prop :=
  (s.core u).lids = [(s.ctx u).lid] ∧ ∃ r, (vget (s.ctx u).chans ch ⟨[], 0⟩).cmds = k :: r
/-- The commands that load no table and no scales. -/
def moves (k : CCmd) : Bool :=
  match k.op with | .cscl _ _ _ => false | .cldlct _ _ => false | .cldalg _ _ => false | _ => true

/-- R121, R299, R301: CHUNK_START: the first channel in the order of turns whose head command is ready takes the turn, once the path has
room (log 79); a chunk that has started and waited for a page goes on beside the turns; otherwise, and while a swap, a handler or a stack core is there, nothing happens. A chunk reads its bytes at its start, as the earlier chunks of its command leave them (log 21). -/
def ChunksStart : Prop :=
  ∀ (u : Nat) (s : State),
    let s0 := asTurn s u .C
    let lid := (s.ctx u).lid
    let headOf (x : State) (ch : Nat) := (vget (x.ctx u).chans ch ⟨[], 0⟩).cmds.head?
    let head := headOf s
    let free (ch : Nat) : Prop := ∀ k, head ch = some k → s0.chunkReady u k = false
    let noFiring (x : State) : Prop := ∀ f ∈ x.fires, f.owner = u → f.read = true ∧ f.chunks.length ≤ f.next
    let off : Prop := (s.core u).swap.isSome = true ∨ (s.ctx u).handler = true ∨ isStack u = true
    (off → exec (.chunkStart u) s = .next s) ∧
    (¬ off → (∀ ch, ch < 4 → free ch) → noFiring s → exec (.chunkStart u) s = .next s) ∧
    (∀ (ch : Nat) (k : CCmd) (s' : State), ¬ off → ch < 4 → head ch = some k → k.begun = true → s0.chunkReady u k = true →
      (∀ j, j < 4 → j ≠ ch → head j = none) → s0.startHead u k = .took s' →
      (∀ j x, j < 4 → headOf s' j = some x → s'.chunkReady u x = false) → noFiring s' →
      exec (.chunkStart u) s = .next { s' with turn := s.turn }) ∧
    ∀ (i : Nat) (k : CCmd) (s' : State), ¬ off → i < 4 →
      let ch := ((s.ctx u).rrCh + 1 + i) % 4
      (∀ j x, j < 4 → head j = some x → x.begun = false ∨ s0.chunkReady u x = false) →
      (∀ j, j < i → free (((s.ctx u).rrCh + 1 + j) % 4)) → head ch = some k → s0.chunkReady u k = true →
      ((s.ctx u).roomAt ≤ s.now → s0.startHead u k = .took s' → exec (.chunkStart u) s = .next
        { s'.tickFree.modCtxOf u lid (fun c => { c with rrCh := ch, roomAt := s'.now + 1 + s'.delayFor u lid .C ch 2 }) with turn := s.turn }) ∧
      (s.now < (s.ctx u).roomAt → noFiring s → exec (.chunkStart u) s = .next s) ∧
      (∀ (dst src : Word) (len : Nat) (s1 s2 : State), k.op = .cpy dst src len →
        let n := k.chunkLen k.next
        let o := BitVec.ofNat 64 (4096 * k.next)
        let b := s2.gatherFor u k [(src + o, n)]
        s0.admAll u k [(false, src + o, n), (true, dst + o, n)] = (.ok, s1) →
        s1.readRaces u k k.next [(src + o, n)] = (none, s2) →
        (k.flights = [] → b = s2.copyBytes u (src + o) n) ∧
        s0.startHead u k = .took (s2.tickFree.putCmd u lid { k with
          next := k.next + 1, held := none, begun := false,
          flights := k.flights ++ [⟨some (s.now + 1 + s2.delayFor u lid .C (k.pc.toNat + k.next) 1),
            dealBytes (s2.cellsOf u (dst + o) n) b.1, b.2⟩] }))

/-- R278, R301 to R303, R312: CHUNK_COMMIT: the oldest chunk in transfer that is due commits: its bytes are written; one that races is a copy fault and ends with those behind it; a table image replaces its table, and an algebra that R190 refuses is a copy fault 0x01. -/
def ChunksCommit : Prop :=
  ∀ (u ch : Nat) (k : CCmd) (f : Flight) (r : List Flight) (s : State),
    let lid := (s.ctx u).lid
    let k1 := { k with flights := r }
    let x := s.commitHead u lid ch
    headIs s u ch k → k.flights = f :: r →
    (r = [] → exec (.chunkCommit u ch) s = .next (x.afterCommits u lid ch)) ∧
    (f.due s.now = false → x = s) ∧
    (f.due s.now = true → moves k = true →
      (∀ c s', s.writeRaces u lid k f.pieces = (some c, s') →
        ((∀ win wa wb off dst n, k.op ≠ .cget win wa wb off dst n) →
          x = s.copyFault u lid { k with next := k.done, flights := [] } k.done c.code.toNat c.addr (some c.info)) ∧
        (∀ win wa wb off dst n, k.op = .cget win wa wb off dst n →
          x = s.copyFault u lid { k with redo := k.redo ++ [k.done], flights := { f with at_ := none } :: r } k.done c.code.toNat c.addr
            (some c.info))) ∧
      (∀ (s' : State) (a : Word) (cell : Nat) (b : List Byte), s.writeRaces u lid k f.pieces = (none, s') → f.pieces = [(a, cell, b)] →
        (s.ctxOf u lid).cmd k.id = some k → k.bb = none → k.done + 1 < k.chunks → f.bad = false →
          (2 ^ 60 ≤ cell → cell < 2 ^ 61 → s.padSealed ((cell - 2 ^ 60) / 2 ^ 21) = false →
            (x.core ((cell - 2 ^ 60) / 2 ^ 21)).spad = (s.core ((cell - 2 ^ 60) / 2 ^ 21)).spad.wrL (atAddr (cell % 2 ^ 21) b) ∧
            x.mem = s.mem) ∧
          (cell + b.length ≤ Config.regBase → s.misc.keysErased = false →
            x.mem = s.mem.wrL (atAddr cell b) ∧ ∀ j, (x.core j).spad = (s.core j).spad)) ∧
      (∀ s', s.writeRaces u lid k f.pieces = (none, s') →
        let w := f.pieces.foldl (fun s p => s.writePiece f.bad p.2.1 p.2.2) s'
        x = (w.finishChunk u lid { k1 with done := k.done + 1 }).addStep u lid k.id)) ∧
    (f.due s.now = true → ∀ n a, k.op = .cldlct n a → x = (s.modCtxOf u lid fun _ => { s.ctxOf u lid with
      lct := vset (s.ctxOf u lid).lct n (BitVec.ofNat 8192 (leNat (f.pieces.flatMap (·.2.2)))) }).performCopy u lid { k1 with done := 1 } false) ∧
    (f.due s.now = true → ∀ n a, k.op = .cldalg n a →
      let img := BitVec.ofNat 1024 (leNat (f.pieces.flatMap (·.2.2)))
      (algOk img = true → x = (s.modCtxOf u lid fun _ => { s.ctxOf u lid with
        alg := vset (s.ctxOf u lid).alg n img }).performCopy u lid { k1 with done := 1 } false) ∧
      (algOk img = false → x = s.copyFault u lid { k1 with next := 0 } 0 0x01 a none)) ∧
    ∀ a n one, k.op = .cscl a n one → x = s

/-- R249, R278, R302, R303: the byte-barrier add of a committed chunk, once the side log has drained: it is counted, or a copy fault 0x08 where it is refused, and the last one completes a performed command that carries no follow-on. -/
def ChunksAreCounted : Prop :=
  ∀ (u lid : Nat) (k : CCmd) (a : Word) (s : State), (s.ctxOf u lid).cmd k.id = some k → k.bb = some a → k.owes = true →
    k.faulted = none →
    let p := placeOf u a
    let add := s.bbAdd p.1 p.2 (k.chunkLen k.added) (k.chunkHist k.added)
    let k' := { k with added := k.added + 1 }
    ((s.core u).logDry lid = false → s.addStep u lid k.id = s) ∧
    ((s.core u).logDry lid = true → (s.touch p.1 [p.2]).1 = true →
      (add = none → s.addStep u lid k.id = s.copyFault u lid k k.added 0x08 a none) ∧
      (∀ w, add = some w → k.done < k.chunks ∨ k'.owes = true → s.addStep u lid k.id = w.putCmd u lid k') ∧
      (∀ w, add = some w → k.chunks ≤ k.done → k'.owes = false → k.slot = none → (w.ctxOf u lid).queues k.id = false →
        s.addStep u lid k.id = w.completeCopy u lid k'))

/-- R112, R311: SCALE_ENTRY_ENTER: the next entry of a scale load enters the queue when it has room, and after its last entry the
command is performed. One entry a cycle is the model's choice (log 85). -/
def ScaleEntriesEnter : Prop :=
  ∀ (u ch cnt : Nat) (a : Word) (one : Bool) (k : CCmd) (f : Flight) (r : List Flight) (s : State),
    let c := s.ctx u
    let b := f.pieces.flatMap (·.2.2)
    let v := leNat (if one then (b.drop k.done).take 1 else (b.drop (2 * k.done)).take 2)
    let s' := s.modCtxOf u c.lid fun c => { c with sq := c.sq ++ [(BitVec.ofNat 16 v, s.now)] }
    let k' := { k with done := k.done + 1 }
    headIs s u ch k → k.flights = f :: r → k.op = .cscl a cnt one → f.due s.now = true → c.scaleTurn k = true →
    (c.sq.length < 64 → k.done + 1 < cnt → exec (.scaleEntryEnter u ch) s = .next (s'.putCmd u c.lid k')) ∧
    (c.sq.length < 64 → k.done + 1 = cnt →
      exec (.scaleEntryEnter u ch) s = .next (s'.performCopy u c.lid { k' with done := 1 } false)) ∧
    (64 ≤ c.sq.length → exec (.scaleEntryEnter u ch) s = .next s)

/-- The commands that complete with nothing but their follow-on to wait for. -/
def local_ (k : CCmd) : Bool :=
  match k.op with | .caw _ _ _ _ _ => false | .cput _ _ _ _ _ _ _ => false | .cbcast _ _ _ _ => false | .tready _ => false | _ => true

/-- R219, R279, R302, R313, R326, R327: COPY_COMMAND_COMPLETE: a performed command completes once what it awaits has come; C issues the follow-on of one that carries a slot; a cbbwait is performed when its phase has come. -/
def CopiesComplete : Prop :=
  ∀ (u id : Nat) (k : CCmd) (s : State),
    let c := s.ctx u
    (s.core u).lids = [c.lid] →
    (c.await.find? (fun x => x.id = id) = some k →
      ((∀ p ∈ s.packets, p.cmd ≠ id) → (∀ r ∈ s.remote, r.id ≠ id) → (∀ d ∈ s.plane.dataId, d.1 ≠ id) →
        (∀ f ∈ s.plane.flown, f.cmd.id ≠ id) → (∀ e, k.op = .tready e → k.sent ≠ 0) → (∀ f ∈ s.fires, f.id ≠ k.sent) →
        (∀ m ∈ c.cmds, m.id ≠ k.sent) → (k.slot.isSome = true → k.sent ≠ 0) → k.owes = false →
        exec (.copyCommandComplete u id) s = .next (s.completeCopy u c.lid k)) ∧
      (∀ l, local_ k = true → k.slot = some l → k.sent = 0 → k.t0 ≤ c.clk →
        exec (.copyCommandComplete u id) s = .next ((s.followOn u c.lid l).2.modCtxOf u c.lid fun c =>
          { c with await := c.await.map fun x => if x.id = k.id then { x with sent := (s.followOn u c.lid l).1 } else x })) ∧
      (local_ k = true → k.slot.isSome = true → k.sent = 0 → c.clk < k.t0 → exec (.copyCommandComplete u id) s = .next s)) ∧
    ∀ a ph, c.await.find? (fun x => x.id = id) = none →
      c.allCmds.find? (fun x => decide (x.id = id) && decide (x.next = 1) && decide (x.faulted = none)) = some k →
      k.op = .cbbwait a ph →
      let p := placeOf u a
      (s.bbPh p.1 p.2 = ph →
        exec (.copyCommandComplete u id) s = .next ((s.bbWaited u c.lid k p.1 p.2).performCopy u c.lid k false)) ∧
      (s.bbPh p.1 p.2 ≠ ph → exec (.copyCommandComplete u id) s = .next s)

/-- R178, R314: AW_ANSWER: the answer to a packet is counted in its field of AWSTAT; a refused packet waits to be sent again, and a
configuration error of a vaw raises 0x0C in V. -/
def PacketAnswersArrive : Prop :=
  ∀ (id : Nat) (k : PktOut) (a : AwAnswer) (s : State),
    let c := s.ctx k.u
    s.packets.find? (fun x => x.p.id = id) = some k → k.ans = some a → k.lid = c.lid →
    (a ≠ .config → ∃ t, exec (.awAnswer id a) s = .next t ∧ t = { s with cores := t.cores, packets := t.packets } ∧
      (∀ j, j ≠ k.u → t.core j = s.core j) ∧
      t.packets = (if a = .refused then s.packets.map fun x =>
          if x.p.id = id then { x with back := true, sent := false, ans := none } else x
        else s.packets.filter fun x => x.p.id ≠ id) ∧
      ∀ j, j < 4 → bits (t.ctx k.u).awstat (16 * j + 15) (16 * j) =
        (bits c.awstat (16 * j + 15) (16 * j) + (if a = [AwAnswer.accepted, .duplicate, .late, .refused].getD j .config then 1 else 0)) %
          2 ^ 16) ∧
    (a = .config → k.cmd = 0 → c.v.run = true → s.pktCmd k = none → ∃ t, exec (.awAnswer id a) s = .next t ∧
      t.packets = s.packets.filter (fun x => x.p.id ≠ id) ∧
      (t.ctx k.u).v.deliver = c.v.deliver ++ [⟨0x0C, 0, k.pc, k.desc, 0⟩] ∧ (t.ctx k.u).awstat = c.awstat)

/-- R178, R314, R454: AW_RESEND: a refused packet may be sent again, and is dropped where its launch has ended. -/
def PacketsAreResent : Prop :=
  ∀ (id : Nat) (k : PktOut) (s : State), s.packets.find? (fun x => x.p.id = id) = some k → k.back = true →
    (s.launchLive k.lid = false → exec (.awResend id) s = .next { s with packets := s.packets.filter fun x => x.p.id ≠ id }) ∧
    (s.launchLive k.lid = true → (∀ c, s.pktCmd k = some c → c.faulted = none) →
      exec (.awResend id) s = .next { s with packets := s.packets.map fun x => if x.p.id = id then { x with back := false } else x })

/-- R437, R454: AW_PACKET_ABANDON: a packet without an answer is dropped; in a launch that runs, that of a vaw raises 0x13 in V. -/
def LostPacketsAreAbandoned : Prop :=
  ∀ (id : Nat) (k : PktOut) (s : State), s.packets.find? (fun x => x.p.id = id) = some k → s.pktLost k = true →
    (s.launchLive k.lid = false → exec (.awPacketAbandon id) s = .next { s with packets := s.packets.filter fun x => x.p.id ≠ id }) ∧
    (s.launchLive k.lid = true → k.cmd = 0 → s.pktCmd k = none → k.lid = (s.ctx k.u).lid →
      (s.ctx k.u).v.run = true → ∃ t, exec (.awPacketAbandon id) s = .next t ∧
        t.packets = s.packets.filter (fun x => x.p.id ≠ id) ∧
        (t.ctx k.u).v.deliver = (s.ctx k.u).v.deliver ++ [⟨0x13, 0, k.pc, k.desc, 0⟩])

/-- R341, R343, R346: AW_PACKET: a packet is answered by the first row of Table 13.7 that it meets; one that is not accepted changes
nothing, one of the next round is staged. While the reduction unit waits for its event queue (R418) a packet of another package waits, and
one of this package is tried again. -/
def PacketsAreAnswered : Prop :=
  ∀ (stack : BitVec 3) (p : Packet) (s : State),
    let st := stack.toNat
    let b := p.bucket.toNat
    let x := s.bucket st b
    let n := s.bRound st b
    let r := p.round.toNat
    let state := s.bState st b
    let config : Prop := state = 0 ∨ p.job.toNat ≠ s.bJob st b ∨ (p.ty = 2 ∧ s.bInt st b = false) ∨ (p.ty ≠ 2 ∧ s.bInt st b = true) ∨
      s.bE st b ≤ p.contrib.toNat ∨ (s.bCount st b + 63) / 64 ≤ p.seg.toNat ∨ state = 4 ∨ n + 1 < r
    let late : Prop := r < n ∨ (r = n ∧ state = 3)
    let dup : Prop := (r = n ∧ (p.contrib.toNat, p.seg.toNat) ∈ x.got) ∨
      (r = n + 1 ∧ ∃ q ∈ x.next, q.contrib.toNat = p.contrib.toNat ∧ q.seg.toNat = p.seg.toNat)
    (s.unitWaits (4 + st) 5 = true → exec (.awPacket stack p) s = .next (if p.port = 0 then s
      else s.setDie st { s.die st with late := (s.die st).late ++ [p] })) ∧
    (s.unitWaits (4 + st) 5 = false → ∃ (a : AwAnswer) (s' : State),
      exec (.awPacket stack p) s = .next (if p.port = 0 then s'.packetSent p.id (some a)
        else s'.sendMsg (p.port - 1) 2 1 (.answer (.packet p.id a))) ∧
      (config → a = .config) ∧ (¬ config → late → a = .late) ∧ (¬ config → ¬ late → dup → a = .duplicate) ∧
      (¬ config → ¬ late → ¬ dup → a = .accepted ∨ a = .refused) ∧ (a ≠ .accepted → s' = s) ∧
      (a = .accepted → r = n + 1 → s' = s.modBucket st b fun x => { x with next := x.next ++ [p] }))

/-- R342, R343: a contribution added to a segment makes each accumulator element the sum of the element and the contribution: FP32
with one rounding to nearest even, or INT32, wrapping or saturating; a segment that its opening has still to clear counts as zeros
(log 76). A segment that reads as poison poisons its bucket (R390). -/
def SegmentsAreSummed : Prop :=
  ∀ (st b g pa : Nat) (v : List (BitVec 32)) (s : State),
    let old (i : Nat) : BitVec 32 :=
      if g ∈ (s.bucket st b).zero then 0 else BitVec.ofNat 32 (leNat (s.mem.rdN (pa + 4 * i) 4))
    let sum (x y : BitVec 32) : BitVec 32 :=
      if s.bInt st b then
        (if s.bSat st b then BitVec.ofInt 32 (max (-2147483648) (min 2147483647 (x.toInt + y.toInt))) else x + y)
      else BitVec.ofNat 32 (roundF (exactSum [decodeF .fp32 x.toNat, decodeF .fp32 y.toNat]) .fp32 .rne 0)
    (s.segBad st b g = true → s.bState st b ≠ 4 → s.addSeg st b g v = s.poisonBucket st b (BitVec.ofNat 64 g)) ∧
    (s.segPa st b g = some pa → v.length = 64 → s.segBad st b g = false → pa + 256 ≤ Config.regBase →
    ∀ i, i < s.segLen st b g →
      BitVec.ofNat 32 (leNat ((s.addSeg st b g v).mem.rdN (pa + 4 * i) 4)) = sum (old i) (v.getD i 0))

/-- R322: CSEND_DEADLINE_MISS: a csend.t at the head of its channel whose datum has come before its first chunk started is a copy
fault 0x15. -/
def DeadlinesAreMissed : Prop :=
  ∀ (u ch : Nat) (k : CCmd) (p : BitVec 4) (wa wb : Word) (off len : Nat) (src gt : Word) (s : State), headIs s u ch k →
    k.op = .csendt p wa wb off src len gt → k.next = 0 → k.faulted = none →
    exec (.csendDeadlineMiss u ch) s = .next (if gt.toNat ≤ s.datumNs.toNat then
      s.copyFault u (s.ctx u).lid k 0 0x15 (BitVec.ofNat 64 off) none else s)

/-- R303, R320: REMOTE_TIMEOUT: a chunk without an answer within the time-out of its port is a copy fault 0x13 of its command; one that is held does not time out; it stays outstanding until its answer comes (R435). -/
def RemoteChunksTimeOut : Prop :=
  ∀ (u ch : Nat) (r : RemOut) (s : State),
    (s.awaited.find? fun r => decide (r.u = u) && decide (r.ch = ch) && !r.held && decide (r.since + s.tmoCycles r.port ≤ s.now)) = some r →
    let s1 := (s.giveUp r).recount r
    let c := s1.ctxOf u r.lid
    exec (.remoteTimeout u ch) s = .next (s1.remoteFault r 0x13 r.addr none) ∧
    s1.remote = s.remote.map (fun x => if x.port = r.port ∧ x.seq = r.seq then { x with late := true } else x) ∧
    (∀ k, ch ≠ 4 → (c.allCmds ++ c.await).find? (fun k => k.id = r.id) = some k →
      (∀ win wa wb off src len bb, k.op = .cput win wa wb off src len bb → s1.remoteFault r 0x13 r.addr none =
        s1.copyFault u r.lid { k with redo := k.redo ++ [r.idx], done := min k.done r.idx } r.idx 0x13 r.addr none))

/-- R303, R323: CTT_WORD0_WRITE: word 0 takes the written fields, keeps FIRES, and READY reads zero: where it was zero STATE stays; else
the collection is abandoned and every tready that joined it, in a context that runs or is swapped out, completes with a copy fault 0x08,
which its channel's CAUSE names. -/
def TileTableWrites : Prop :=
  ∀ (cl : Nat) (e : BitVec 10) (v : Word) (s : State),
    let old := s.ctt0 cl e.toNat
    let hits (j lid : Nat) := (s.ctxOf (coreAt cl j) lid).await.filter fun k => decide (k.op = .tready e.toNat) && decide (k.sent = 0)
    (∀ j lid, j < 16 → lid ∈ (s.core (coreAt cl j)).lids → hits j lid ≠ [] → (s.ctxOf (coreAt cl j) lid).c.run = true) →
    ∃ t, exec (.cttWord0Write cl e v) s = .next t ∧
      bits (t.ctt0 cl e.toNat) 63 48 = bits v 63 48 ∧ bits (t.ctt0 cl e.toNat) 47 32 = 0 ∧
      bits (t.ctt0 cl e.toNat) 31 22 = bits v 31 22 ∧ bits (t.ctt0 cl e.toNat) 19 0 = bits old 19 0 ∧
      (∀ c o, c * 4096 + 4 * o ≠ cl * 4096 + 4 * e.toNat → t.ctt0 c o = s.ctt0 c o) ∧ t.regs = s.regs ∧ t.mem = s.mem ∧
      (bits old 47 32 = 0 → bits (t.ctt0 cl e.toNat) 21 20 = bits old 21 20 ∧ t.cores = s.cores) ∧
      (bits old 47 32 ≠ 0 → bits (t.ctt0 cl e.toNat) 21 20 = 0 ∧
        ∀ j lid k, j < 16 → lid ∈ (s.core (coreAt cl j)).lids → hits j lid = [k] → k.ch < 4 →
          let y := t.ctxOf (coreAt cl j) lid
          y.c.deliver = (s.ctxOf (coreAt cl j) lid).c.deliver ++ [⟨0x08, 0, k.pc, 0, BitVec.ofNat 64 (k.ch * 2 ^ 62)⟩] ∧
          (vget y.chans k.ch ⟨[], 0⟩).cause = 0x08)

end Sys2Proof.Claims

namespace Sys2Proof.Claims

/-- A global access whose bytes lie in one page of memory, which translates, permits it and meets no race; an atomic has taken its place
in T before (R274), and none that the plane has carried before it is still to be performed (R446). -/
def onePage (s : State) (o : Out) (pa : Nat) (w : Word) : Prop :=
  let n := o.op.size
  let kind := match o.op with | .store _ => 1 | .amo _ _ _ _ sc => 2 + sc.toNat | _ => 0
  let s1 := match o.op with | .amo _ _ _ _ sc => s.scFirst o.lid o.u o.q sc.toNat | _ => s
  let a := match o.op with | .amo _ _ _ _ _ => { o.acc with hb := s1.vc (compOf o.lid o.u o.q) } | _ => o.acc
  s.xlateAll o.u o.asid (spans o.u o.va.toNat n) = .ok [(o.va.toNat, n, pa, w)] ∧ o.op.allowed w = true ∧ s.outOfTurn o = false ∧
  (s1.globalAll a kind o.pc o.asid [(o.va.toNat, n, pa, w)]).1 = none
/-- What is left of an access that answers: its data, and when it reaches the core. -/
def answered (s : State) (o : Out) (data : List Byte) (bad : Bool) : Out :=
  { o with st := .answered, data := data, bad := bad, ready := s.now + 1 + s.delayFor o.u o.lid o.q o.va.toNat 3 }
/-- An access that reads only. -/
def reads (o : Out) : Prop := match o.op with | .load _ _ => True | .vload => True | .operand _ => True | .fill _ _ _ => True | _ => False

/-- R236, R242, R247, R267, R284, R399: a global access that is tried at its home: a read takes the bytes, a store writes them and
leaves the side log, an atomic does both; an aligned access of 8 bytes to the register space reads or writes a register (log 58; in a
replay a read of DATUM takes its value from the log); an access
whose page denies it changes nothing, and a load or atomic gets cause 0x04 for its data. -/
def GlobalAccessesArePerformed : Prop :=
  ∀ (id : Nat) (o : Out) (pa : Nat) (w : Word) (s : State), s.out id = some o →
    let n := o.op.size
    (onePage s o pa w → pa + n ≤ Config.regBase → s.misc.keysErased = false →
      (reads o → ∃ t, s.tryOut regPort o = t ∧ t.out id = some (answered s o (s.mem.rdN pa n) (s.physPoison pa n)) ∧
        t.mem = s.mem ∧ t.regs = s.regs ∧ t.cores = s.cores) ∧
      (∀ wr, o.op = .store wr → (∀ b ∈ wr, b.1 - o.va.toNat < n) → ∃ t, s.tryOut regPort o = t ∧ t.out id = none ∧
        t.mem = s.mem.wrL (wr.map fun b => (pa + (b.1 - o.va.toNat), b.2)) ∧ t.regs = s.regs ∧
        (∀ e ∈ (t.core o.u).slog, e.id ≠ id) ∧ ∀ u, u ≠ o.u → t.core u = s.core u) ∧
      (∀ op z b cmp sc, o.op = .amo op z b cmp sc →
        let old := s.mem.rdN pa z
        ∃ t, s.tryOut regPort o = t ∧ t.out id = some (answered s o old (s.physPoison pa z)) ∧ t.regs = s.regs ∧
          t.mem = s.mem.wrL (atAddr pa (natLe z (amoNew op.toNat z (leNat old) b.toNat cmp.toNat))))) ∧
    (onePage s o pa w → Config.regBase ≤ pa → pa % 8 = 0 →
      (∀ sg, o.op = .load 8 sg → (s.unlocked = true ∨ pa ≠ Config.regBase + 0x5000018) →
        (pa ≠ Config.regBase + 0x3020000 ∨ (s.ctx o.u).launch ∉ s.misc.replay) → ∃ t, s.tryOut regPort o = t ∧
        ∃ r, t.out id = some r ∧ r.st = .answered ∧ r.data = natLe 8 (s.regRead (pa - Config.regBase)).1.toNat) ∧
      (∀ wr, o.op = .store wr → wr.length = 8 →
        ∃ s' : State, s.tryOut regPort o = (s'.regWrite (pa - Config.regBase) (BitVec.ofNat 64 (leNat (wr.map (·.2))))).dropLog o.u id ∧
          s'.regs = s.regs ∧ s'.mem = s.mem)) ∧
    (s.xlateAll o.u o.asid (spans o.u o.va.toNat n) = .other pa .deny → (reads o ∨ o.op.isLoad = true) → (∀ c, o.op ≠ .operand c) →
      ∃ t, s.tryOut regPort o = t ∧ t.mem = s.mem ∧ t.regs = s.regs ∧ t.cores = s.cores ∧
        t.out id = some { o with st := .answered, deny := some ⟨0x04, 0, o.pc, BitVec.ofNat 64 pa, 0⟩,
                                     ready := s.now + 1 + s.delayFor o.u o.lid o.q o.va.toNat 3 })

/-- R236, R244, R247: GLOBAL_ACCESS_PERFORM: a queued access that has come to its home, in its turn, is tried; a store behind a logged
store of its sequencer is logged; SIDE_LOG_REPLAY, R248, R250: the logged store at the head of its sequencer's log is tried again. -/
def GlobalAccessesTakeTurns : Prop :=
  (∀ (id : Nat) (o : Out) (s : State), s.out id = some o → o.st = .queued → (∀ k t, o.op ≠ .xlat k t) →
    (s.now < o.ready → exec (.globalAccessPerform id) s = .next s) ∧
    (o.ready ≤ s.now → o.op.isStore = false → s.inOrder o = true →
      exec (.globalAccessPerform id) s = .next (s.tryOut regPort o)) ∧
    (o.ready ≤ s.now → o.op.isStore = false → s.inOrder o = false → exec (.globalAccessPerform id) s = .next s) ∧
    (o.ready ≤ s.now → o.op.isStore = true → s.loadsBefore o = true → exec (.globalAccessPerform id) s = .next s) ∧
    (o.ready ≤ s.now → o.op.isStore = true → s.loadsBefore o = false →
      (s.behindLog o = true → exec (.globalAccessPerform id) s = .next (s.logStore o false false)) ∧
      (s.behindLog o = false → s.inOrder o = true → exec (.globalAccessPerform id) s = .next (s.tryOut regPort o)) ∧
      (s.behindLog o = false → s.inOrder o = false → exec (.globalAccessPerform id) s = .next s))) ∧
  (∀ (u : Nat) (q : SeqId) (e : LogEnt) (o : Out) (s : State), (s.core u).logHead q = some e →
    (s.replayReady u e = false → exec (.sideLogReplay u q) s = .next s) ∧
    (s.replayReady u e = true → s.out e.id = some o → exec (.sideLogReplay u q) s =
      .next ((s.modLog u e.id fun e => { e with denied := false, resume := false }).tryOut regPort o)))

/-- R255, R256, R390: REGION_FILL_END: the bytes of a chunk stand in the scratchpad and the chunk is FILLED, whichever core has touched
it. -/
def RegionChunksAreFilled : Prop :=
  ∀ (u slot ch : Nat) (o : Out) (r : Region) (s : State),
    (s.outs.find? fun o => decide (o.op = OutOp.fill u slot ch) && decide (o.st = .answered) &&
      o.deny.isNone && decide (o.ready ≤ s.now)) = some o →
    (s.core u).regions.find? (fun p => p.1 = slot) = some (slot, r) →
    ∃ t, exec (.regionFillEnd u slot ch) s = .next t ∧ t.out o.id = none ∧ t.mem = s.mem ∧ (∀ j, j ≠ u → t.core j = s.core j) ∧
      (t.core u).spad = (s.core u).spad.wrL (atAddr (r.off + 4096 * ch) o.data) ∧
      ∃ r', (t.core u).regions.find? (fun p => p.1 = slot) = some (slot, r') ∧ ch ∈ r'.filled ∧ (∀ x ∈ r.filled, x ∈ r'.filled) ∧
        r'.dirty = r.dirty

/-- Every access that waits for a walk, but those that walk w answers, waits for another one that is outstanding. -/
def settled (s : State) (w : Walk) : Prop :=
  ∀ o ∈ s.outs, o.st = .walking → w.answers o = true ∨ ∃ x ∈ s.walks, x.id ≠ w.id ∧ x.answers o = true

/-- R237 to R242: WALK_RESPONSE: a mapping enters the caches and every access that its walk answers is queued again; a denial gives a
waiting load cause 0x04; an absent page waits with its walk while a page-fault record of the die is held (R418); a walk that needed no
routine is answered as a denial whatever is written; WALK_TIMEOUT and WALKER_TRAP are answered as a denial and counted. A miss that the
limit of 512 walks has kept waiting starts its walk then. -/
def WalksEnd : Prop :=
  ∀ (id : Nat) (w : Walk) (r : Word) (s : State), s.walk id = some w →
    let ends (t : State) : Prop := exec (.walkResponse id r) s = .next t.rewalk ∧ (settled s w → t.rewalk = t)
    (w.ans = none → respMaps r = true → ∃ t, ends t ∧
      t = { s with walks := s.walks.filter (fun x => x.id ≠ id), tlb := t.tlb, seen := t.seen, outs := t.outs, stamps := t.stamps } ∧
      (∃ e ∈ t.tlb, e.die = true ∧ e.at_ = w.die ∧ e.asid = w.asid ∧ e.resp = r ∧
        e.va = w.va / pageBytes (respSize r) * pageBytes (respSize r)) ∧
      ∀ o ∈ s.outs, (∀ k x, o.op ≠ .xlat k x) → (if w.answers o then { o with st := .queued } else o) ∈ t.outs) ∧
    (w.ans = none → respMaps r = false → respAbsent r = false → ∀ o, s.outs.filter w.answers = [o] → s.walkStores w = [] →
      s.out o.id = some o → o.op.isLoad = true → ∃ t, ends t ∧
        t.out o.id = some { o with st := .answered, deny := some ⟨0x04, 0, o.pc, o.va, 0⟩,
                                   ready := s.now + 1 + s.delayFor o.u o.lid o.q o.va.toNat 3 } ∧
        t.mem = s.mem ∧ t.tlb = s.tlb) ∧
    (w.ans = none → respAbsent r = true → ∀ o, s.outs.filter w.answers = [o] → s.walkStores w = [] → s.out o.id = some o →
      o.op.isLoad = true → (∀ e ∈ s.misc.evHeld, e.1 ≠ 100 + w.die) → ∃ t, ends t ∧ t.out o.id = some { o with st := .held } ∧
        t.mem = s.mem ∧ t.tlb = s.tlb ∧
        ∃ a ∈ t.absent, a = (faultDie o.u, o.asid.toNat, w.va / pageBytes (respSize r) * pageBytes (respSize r), respSize r)) ∧
    (w.ans = none → respAbsent r = true → (∃ e ∈ s.misc.evHeld, e.1 = 100 + w.die) → exec (.walkResponse id r) s =
      .next ({ s with walks := s.walks.map fun x => if x.id = w.id then { x with ans := some r } else x } : State).rewalk) ∧
    (∀ d, w.ans = some d → respAbsent d = false → exec (.walkResponse id r) s = .next (s.answerWalk w d).rewalk) ∧
    (w.ans = none → exec (.walkTimeout id) s = .next ((s.walkErr w.die).answerWalk w 0x8000000000000000).rewalk) ∧
    (w.ans.isSome = true → exec (.walkTimeout id) s = exec (.walkResponse id r) s) ∧
    exec (.walkerTrap id) s = exec (.walkTimeout id) s ∧
    (∀ (o : Out) (p : Nat × Nat), s.outs.filter (fun x => decide (x.st = .walking)) = [o] → (∀ x ∈ s.walks, x.answers o = false) →
      (spans o.u o.va.toNat o.op.size).find? (fun p => s.xlate (walkUnit o.u) o.asid p.1 1 = .miss) = some p →
      s.rewalk = s.startWalk (walkUnit o.u) o.q o.asid p.1 o.op.kind) ∧
    ((s.walkErr w.die).reg (0x1010008 + 0x100000 * w.die)).toNat = ((s.reg (0x1010008 + 0x100000 * w.die)).toNat + 1) % 2 ^ 32

/-- R8, R243, R336, R419: SHOOTDOWN: a write with GO drops the page from every translation cache, shoots down the page-list entries that
hold it, found by the responses seen (log 28), and clears DONE; GO stands until DONE; without GO it is a plain write; a write with GO before
DONE, or with size 3, is ignored as a whole (log 29). SHOOTDOWN_COMPLETE sets DONE once no chunk through the page is in transfer. -/
def ShootdownsDropPages : Prop :=
  ∀ (die : BitVec 2) (v : Word) (s : State),
    let o := 0x1010018 + 0x100000 * die.toNat
    let old := s.reg o
    let go := v.getLsbD 63
    let off : Prop := go = true ∧ (old.getLsbD 62 = false ∨ bits v 17 16 = 3)
    let va := (s.reg (o - 8)).toNat
    let here (e : TlbEnt) : Prop := e.asid.toNat = bits v 15 0 ∧ meets e.va (pageBytes (respSize e.resp))
      (va / pageBytes (bits v 17 16) * pageBytes (bits v 17 16)) (pageBytes (bits v 17 16)) = true
    (off → exec (.shootdown die v) s = .next s) ∧
    (go = false → ∃ t, exec (.shootdown die v) s = .next t ∧ OnlyRegs s t [o] ∧ bits (t.reg o) 17 0 = bits v 17 0 ∧
      (t.reg o).getLsbD 62 = old.getLsbD 62 ∧ bits (t.reg o) 61 18 = 0 ∧ (t.reg o).getLsbD 63 = old.getLsbD 63) ∧
    (go = true → ¬ off → ∃ t, exec (.shootdown die v) s = .next t ∧
      bits (t.reg o) 17 0 = bits v 17 0 ∧ (t.reg o).getLsbD 62 = false ∧ (t.reg o).getLsbD 63 = true ∧ t.mem = s.mem ∧
      (∀ e, e ∈ t.tlb ↔ e ∈ s.tlb ∧ ¬ here e) ∧
      (∀ e ∈ s.tlb ++ s.seen, here e → ∀ j, validList (j, s.reg j) = true → bits (s.reg j) 61 60 ≠ 3 →
        meets (bits (s.reg j) 51 16 * 65536) (pageBytes (bits (s.reg j) 61 60)) (respPa e.resp) (pageBytes (respSize e.resp)) = true →
        (t.reg j).getLsbD 63 = false ∧ (t.reg j).getLsbD 62 = true) ∧
      t.shoot = s.shoot ++ [(die.toNat, bits v 15 0, va, bits v 17 16)]) ∧
    (∀ x, s.shoot.find? (fun x => x.1 = die.toNat) = some x →
      (s.pageBusy x.2.1 x.2.2.1 x.2.2.2 = true → exec (.shootdownComplete die) s = .next s) ∧
      (s.pageBusy x.2.1 x.2.2.1 x.2.2.2 = false → ∃ t, exec (.shootdownComplete die) s = .next t ∧
        t = { s with regs := t.regs, shoot := s.shoot.filter fun y => y.1 ≠ die.toNat } ∧ (t.reg o).getLsbD 62 = true ∧
        (t.reg o).getLsbD 63 = false ∧ ∀ j, j ≠ o → t.reg j = s.reg j))

/-- R8, R245, R396, R419: RESOLVE: a write with GO translates every held access and logged store that meets the page again, and sets DONE;
those of a replayed launch wait for the point that its log names; without GO it is a plain write, and a write with GO before DONE, or with size
3, is ignored as a whole (log 29). -/
def ResolvesFreeAccesses : Prop :=
  ∀ (die : BitVec 2) (v : Word) (s : State),
    let o := 0x1010028 + 0x100000 * die.toNat
    let old := s.reg o
    let go := v.getLsbD 63
    let off : Prop := go = true ∧ (old.getLsbD 62 = false ∨ bits v 17 16 = 3)
    let va := (s.reg (o - 8)).toNat
    let here (asid : BitVec 16) (a : Nat) : Prop :=
      asid.toNat = bits v 15 0 ∧ a / pageBytes (bits v 17 16) = va / pageBytes (bits v 17 16)
    let hit (p : Out) : Prop := p.st = .held ∧ ∃ x ∈ spans p.u p.va.toNat p.op.size, here p.asid x.1
    (off → exec (.resolve die v) s = .next s) ∧
    (go = false → ∃ t, exec (.resolve die v) s = .next t ∧ OnlyRegs s t [o] ∧ bits (t.reg o) 17 0 = bits v 17 0 ∧
      (t.reg o).getLsbD 62 = old.getLsbD 62 ∧ (t.reg o).getLsbD 63 = old.getLsbD 63) ∧
    (go = true → ¬ off → s.misc.recording = [] → ∃ t, exec (.resolve die v) s = .next t ∧
      (t.reg o).getLsbD 62 = true ∧ (t.reg o).getLsbD 63 = false ∧ t.mem = s.mem ∧
      (∀ p ∈ t.outs, hit p → p.op.isStore = true ∨ s.replays p.lid = true) ∧
      (∀ p ∈ s.outs, p.op.isLoad = true →
        (hit p → s.replays p.lid = false → { p with st := .queued } ∈ t.outs) ∧ (¬ hit p → p ∈ t.outs)) ∧
      (∀ p ∈ s.outs, hit p → p.op.isStore = false → s.replays p.lid = true → p ∈ t.outs ∧ p.id ∈ t.misc.proceed) ∧
      ∀ c ∈ t.cores, ∀ e ∈ c.2.slog, ∀ x ∈ e.wr, here e.asid x.1 →
        e.waits = false ∨ ∃ p ∈ s.outs, p.id = e.id ∧ s.replays p.lid = true)

/-- R260 to R263: TIER_DEMOTION: the engine of a tier that has fallen below LOW, until HIGH is reached, moves the bytes of a page one tier
down as one unit, and no translation of it stays; a pinned page is not demoted, and of a launch with variants no page of its address space
is (log 30): below LOW of HBM it is asked to switch, the first of several launches that share the space. PROMOTION: a page used PROMO times
within one period moves one tier up; a page in storage, which stands at 2^84 and above here (log 69), moves to the highest tier with space.
-/
def PagesMove : Prop :=
  ∀ (tier size : BitVec 2) (asid : BitVec 16) (va oldPa newPa : Word) (pin : Bool) (free : BitVec 16) (s : State), size ≠ 3 →
    s.misc.recording = [] →
    let n := pageBytes size.toNat
    let base := va.toNat / n * n
    let stored := 2 ^ 84 + asid.toNat * 2 ^ 57 + base
    let moved (t : State) (src dst : Nat) : Prop :=
      (∀ i, i < n → t.mem.rd (dst + i) = s.mem.rd (src + i)) ∧
      (∀ a, ¬ (src ≤ a ∧ a < src + n) → ¬ (dst ≤ a ∧ a < dst + n) → t.mem.rd a = s.mem.rd a) ∧
      ∀ e ∈ t.tlb, ¬ (e.asid = asid ∧ meets e.va (pageBytes (respSize e.resp)) base n = true)
    let apart (x y : Nat) : Prop := x + n ≤ y ∨ y + n ≤ x
    let field (t hi lo : Nat) : Nat := bits (s.reg (0x3030000 + 8 * t)) hi lo
    let variants : Prop := ∃ l ∈ s.launches, l.asid = asid ∧ l.nvar ≠ 0
    let demotes : Prop := free.toNat < field tier.toNat 15 0 ∨ (tier.toNat ∈ s.misc.tiers ∧ free.toNat < field tier.toNat 31 16)
    let go (t : State) : Prop := exec (.tierDemotion tier asid va size oldPa ⟨newPa, pin, free⟩) s = .next t
    let stays : Prop := ∃ t, go t ∧ t = { s with misc := t.misc }
    let up (tgt : Nat) (hits : BitVec 10) : Prop := field tgt 41 32 ≠ 0 ∧ field tgt 41 32 ≤ hits.toNat
    let best (tgt : Nat) (fr : BitVec 48) : Prop :=
      field tgt 15 0 ≤ fr.toNat / 2 ^ (16 * tgt) % 65536 ∧ ∀ t, t < tgt → fr.toNat / 2 ^ (16 * t) % 65536 < field t 15 0
    (tier = 3 → go s) ∧ (tier ≠ 3 → ¬ demotes → stays) ∧
    (tier ≠ 3 → demotes → ¬ variants →
      (pin = true ∨ s.pinned asid va.toNat size.toNat = true → stays) ∧
      (pin = false → s.pinned asid va.toNat size.toNat = false → tierOf oldPa.toNat = tier.toNat →
        (tier ≠ 2 → tierOf newPa.toNat = tier.toNat + 1) → s.mem.wf = true →
        let dst := if tier = 2 then stored else newPa.toNat
        apart oldPa.toNat dst → ∃ t, go t ∧ moved t oldPa.toNat dst)) ∧
    (demotes → variants → tier ≠ 3 → (tier ≠ 0 ∨ field 0 15 0 ≤ free.toNat) → stays) ∧
    (variants → tier = 0 → free.toNat < field 0 15 0 → ∃ l ∈ s.launches, ∃ s' : State, s' = { s with misc := s'.misc } ∧
      go (s'.requestVariant l) ∧ l.asid = asid ∧ l.nvar ≠ 0 ∧ (s'.requestVariant l).mem = s.mem) ∧
    ∀ (hits : BitVec 10) (fr : BitVec 48),
      let tgt := tierOf newPa.toNat
      (up tgt hits → tierOf oldPa.toNat = tgt + 1 → s.mem.wf = true → apart oldPa.toNat newPa.toNat →
        ∃ t, exec (.promotion asid va size (some oldPa) ⟨newPa, hits, fr⟩) s = .next t ∧ moved t oldPa.toNat newPa.toNat) ∧
      (¬ up tgt hits → exec (.promotion asid va size (some oldPa) ⟨newPa, hits, fr⟩) s = .next s) ∧
      (best tgt fr → s.mem.wf = true →
        ∃ t, exec (.promotion asid va size none ⟨newPa, hits, fr⟩) s = .next t ∧ moved t stored newPa.toNat) ∧
      (¬ best tgt fr → exec (.promotion asid va size none ⟨newPa, hits, fr⟩) s = .next s)

/-- R260: TIER_REGISTER_WRITE: the register of a tier takes its fields; HIGH below LOW leaves both unchanged. -/
def TierRegistersAreWritten : Prop :=
  ∀ (tier : BitVec 2) (v : Word) (s : State), tier ≠ 3 →
    let o := 0x3030000 + 8 * tier.toNat
    ∃ t, exec (.tierRegisterWrite tier v) s = .next t ∧ OnlyRegs s t [o] ∧ bits (t.reg o) 41 32 = bits v 41 32 ∧
      (bits v 15 0 ≤ bits v 31 16 → bits (t.reg o) 31 0 = bits v 31 0) ∧
      (bits v 31 16 < bits v 15 0 → bits (t.reg o) 31 0 = bits (s.reg o) 31 0)

/-- R336, R420: LREFRESH: the entry of a page list is no longer shot down; where nothing waits for it nothing else changes. -/
def ListEntriesAreRefreshed : Prop :=
  ∀ (stack : BitVec 3) (v : Word) (s : State),
    let o := 0x2030000 + 0x100000 * stack.toNat + 8 * (v.toNat % 4096)
    let s' := s.setReg o (setBits (s.reg o) 62 62 0)
    exec (.lrefresh stack v) s = .next (s'.flushHeld stack.toNat) ∧ (s'.reg o).getLsbD 62 = false ∧ OnlyRegs s s' [o] ∧
    ((∀ b ∈ (s.die stack.toNat).buckets, b.2.heldPk = [] ∧ b.2.zero = []) → s'.flushHeld stack.toNat = s')

end Sys2Proof.Claims

namespace Sys2Proof.Claims

/-- R352, R371, R372, R375, R382, R384, R385: SWAP_END: when its cycles have passed, a swap exchanges the contexts: the handler's comes in
and the trapped one stands in the bank; at the return the trapped one
comes back and the handler stays in the bank, at its entry (log 26); a swap-out takes in
the queued context, or none, and its own is spilled from then on; a trap that a watchdog cut off waits for its handler again (log 81). Held
rows are released. -/
def SwapsEnd : Prop :=
  ∀ (u : Nat) (w : Swap) (s : State), (s.core u).swap = some w →
    let k := s.core u
    (w.until_ = 0 ∨ s.now < w.until_ → exec (.swapEnd u) s = .next s) ∧
    (w.until_ ≠ 0 → w.until_ ≤ s.now → ∃ t, exec (.swapEnd u) s = .next t ∧ OnlyCores s t [u] ∧
      (t.core u).rows = [] ∧ (t.core u).slog = k.slog ∧
      (w.toHandler = true → (t.core u).ctx = k.bank.afresh ∧ (t.core u).bank = k.ctx.afresh ∧ (t.core u).bankKind = .trapped ∧
        (t.core u).spad = k.spad ∧ (t.core u).swap = none) ∧
      (w.toHandler = false → w.spill = false → (t.core u).ctx = k.bank.afresh.resumeCopies ∧ (t.core u).bankKind = .handler ∧
        (t.core u).bank.s.pc = k.hpc ∧ (t.core u).bank.s.run = true ∧ (t.core u).bank.x = k.ctx.x ∧ (t.core u).spad = k.spad ∧
        (t.core u).swap = none) ∧
      (w.toHandler = false → w.spill = true → let inc := if k.bankKind = .queued then k.bank.afresh else Ctx.zero
        (t.core u).ctx = { inc with trap := none } ∧
        (inc.trap = none → (t.core u).swap = none) ∧
        (∀ e, inc.trap = some e → (t.core u).swap = some ⟨0, true, false⟩ ∧ (t.core u).hevent = e.1 ∧ (t.core u).hseq = e.2) ∧
        (k.ctx.lid ≠ 0 → (t.core u).bank = k.ctx.afresh ∧ (t.core u).bankKind = .spilling ∧ (t.core u).spillst = 1 ∧
          (t.core u).spillpos = 0) ∧
        (k.ctx.lid = 0 → (t.core u).bankKind = .empty)))

/-- R8, R382, R383, R385, R390: SPILL_END: a save area that is too small, or a page that may not be written, pins the spill under an event of
type 4, and an absent page pauses it; the last page of the image is written, but for a granule that was never read from it, and the bank is
free; a granule that has been touched takes its bytes from the image. SPILL_GO sets GO, which lets a spill that has stopped go on and stands
until a spill begins, stops or ends, and writes the RW fields of Table 15.7 (log 87). -/
def SpillsEnd : Prop :=
  ∀ (u : Nat) (s : State),
    let k := s.core u
    let pos := k.spillpos.toNat
    let va := k.savebase + BitVec.ofNat 64 pos
    let pg := s.svcPage u k.bank.lid k.bank.asid va.toNat 5 16
    let pin (st : BitVec 3) : State := s.modCore u fun k => { k with spillst := st, bankKind := .pinned, spillgo := false }
    let image : Prop := k.bank.imageSize ≤ k.savelen.toNat * 65536 ∧ pos < k.bank.imageSize
    (k.fillWant = [] → k.bankKind = .spilling → k.spillst = 1 → k.bank.moving = false → k.swap = none →
      (k.savelen.toNat * 65536 < k.bank.imageSize →
        exec (.spillEnd u) s = .next ((pin 3).post (evQueueOf u) [evWord0 4 0x11 4 u, 0, k.savebase, BitVec.ofNat 64 k.bank.imageSize])) ∧
      (image → pg = (.deny, s) →
        exec (.spillEnd u) s = .next ((pin 4).post (evQueueOf u) [evWord0 4 0x12 4 u, 0, va, 0])) ∧
      (∀ s', image → pg = (.wait, s') → (s'.core u).swap = none →
        exec (.spillEnd u) s = .next (if s'.outs.any fun o => decide (o.u = u) && decide (o.op = OutOp.xlat 5 16) && decide (o.st = .held)
          then s'.modCore u fun k => { k with spillst := 2, spillgo := false } else s')) ∧
      (∀ pa, image → k.bank.imageSize ≤ pos + 65536 →
        pos + 65536 < 2 ^ 21 → pg = (.ok pa, s) → pa + 65536 ≤ Config.regBase → s.misc.keysErased = false →
        let kept : Prop := 0x30000 ≤ pos ∧ ((pos - 0x30000) / 65536, true) ∈ k.bank.toFill
        ∃ t, exec (.spillEnd u) s = .next t ∧ (kept → t.mem = s.mem) ∧
          (¬ kept → t.mem = s.mem.wrL (atAddr pa (k.imagePage k.bank s.free pos))) ∧
          (t.core u).bankKind = .empty ∧ (t.core u).spillst = 0 ∧ k.bank.poisonWhole ∈ (t.core u).saved ∧ (t.core u).ctx = k.ctx)) ∧
    (k.fillWant = [] → k.bankKind = .pinned ∨ k.bankKind = .handler ∨ k.bankKind = .trapped → exec (.spillEnd u) s = .next s) ∧
    (∀ g u' q r pa (s' : State), k.fillWant = (g, u', q) :: r → (∃ f ∈ k.padOwner.toFill, f.1 = g) →
      k.bankKind = .handler ∨ k.bankKind = .trapped →
      let l := mget ([], k.savebase, k.savelen) k.savedRg k.padOwner.lid
      s.svcPage u k.padOwner.lid k.padOwner.asid (l.2.1.toNat + 0x30000 + g * 65536) 0 20 = (.ok pa, s') → s'.cores = s.cores →
      k.spad.wf = true → s'.mem.wf = true →
      ∃ t, exec (.spillEnd u) s = .next t ∧ t.mem = s'.mem ∧ (∀ i, i < 65536 → (t.core u).spad.rd (g * 65536 + i) = s'.mem.rd (pa + i)) ∧
        (∀ o, o / 65536 ≠ g → (t.core u).spad.rd o = k.spad.rd o) ∧ (∀ f ∈ (t.core u).padOwner.toFill, f.1 ≠ g) ∧
        ∀ j, j ≠ u → t.core j = s.core j) ∧
    (∃ t, exec (.spillGo ⟨u, .go⟩) s = .next t ∧ OnlyCores s t [u] ∧ (t.core u).spillgo = true ∧
      (k.spillst = 2 ∨ k.spillst = 3 ∨ k.spillst = 4 → t.core u = { k with spillst := 1, bankKind := .spilling, spillgo := true }) ∧
      (k.spillst = 0 ∨ k.spillst = 1 → t.core u = { k with spillgo := true })) ∧
    ∀ (v : Word) (n : BitVec 16) (f : BitVec 32),
      (∃ t, exec (.spillGo ⟨u, .savebase v⟩) s = .next t ∧ OnlyCores s t [u] ∧ t.core u = { k with savebase := (t.core u).savebase } ∧
        bits (t.core u).savebase 63 16 = bits v 63 16 ∧ bits (t.core u).savebase 15 0 = 0) ∧
      (∃ t, exec (.spillGo ⟨u, .savelen n⟩) s = .next t ∧ OnlyCores s t [u] ∧ t.core u = { k with savelen := n }) ∧
      ∃ t, exec (.spillGo ⟨u, .frzlim f⟩) s = .next t ∧ OnlyCores s t [u] ∧ t.core u = { k with frzlim := f }

/-- R386, R388, R392: WATCHDOG_FIRE and FREEZE_LIMIT: a trap domain whose watchdog has run out, or whose freeze has just come to last longer
than its limit, swaps out under an event of type 2 that names UNIT 0 and the PC of S (log 31), also where its trap still waits for its
handler, and is resumed by the host alone. DOMAIN_RESUME lets it come back with a fresh watchdog, also while it is still being spilled. -/
def WatchdogsFire : Prop :=
  (∀ (u : Nat) (s : State),
    let k := s.core u
    let fired (t : State) : Prop :=
      t.misc.hung = (s.misc.hung ++ s.domain u).eraseDups ∧
      ∀ j ∈ s.domain u, (s.core j).swap = none ∨ (∃ b, (s.core j).swap = some ⟨0, true, b⟩) → ∃ n, (t.core j).swap = some ⟨n, false, true⟩
    let rec4 : List Word := [evWord0 2 0x10 0 u, k.ctx.s.pc, 0, 0]
    let past : Prop := k.ctx.mode = .timed ∧ k.frzlim ≠ 0 ∧ 21 * k.frzlim.toNat < k.frzNs ∧ k.frzNs ≤ 21 * k.frzlim.toNat + 20 ∧
      ∀ w, k.swap = some w → w.until_ = 0
    (s.plainRun u = true → k.ctx.wdogPer ≠ 0 → k.ctx.wdogLeft = 0 →
      exec (.watchdogFire u) s = .next ((s.swapOut u).post (evQueueOf u) rec4) ∧ fired (s.swapOut u)) ∧
    (s.plainRun u = false ∨ k.ctx.wdogPer = 0 ∨ k.ctx.wdogLeft ≠ 0 → exec (.watchdogFire u) s = .next s) ∧
    (k.ctx.lid ≠ 0 → past → exec (.freezeLimit u) s = .next ((s.swapOut u).post (evQueueOf u) rec4) ∧
      (k.ctx.handler = false → fired (s.swapOut u))) ∧
    (k.ctx.lid = 0 ∨ ¬ past → exec (.freezeLimit u) s = .next s)) ∧
  ∀ (u : Nat) (c : Ctx) (s : State),
    let k := s.core u
    let spilling : Prop := k.bankKind = .spilling ∨ k.bankKind = .pinned
    let leaving : Prop := ∃ w, k.swap = some w ∧ w.spill = true
    (leaving ∧ c = k.ctx) ∨ (¬ leaving ∧ spilling ∧ c = k.bank) ∨
      (¬ leaving ∧ ¬ spilling ∧ k.saved.head? = some c ∧ (c.moving = false ∨ c.copies ≠ [])) →
    let dom := if c.mode = .timed then (List.range 16).map (coreAt (clusterOf u)) else [u]
    (u ∉ s.misc.hung → exec (.domainResume u) s = .next s) ∧
    (u ∈ s.misc.hung → ∃ t, exec (.domainResume u) s = .next t ∧ t.misc.hung = s.misc.hung.filter (fun j => j ∉ dom) ∧ t.mem = s.mem ∧
      (∀ j, j ∉ dom → t.core j = s.core j) ∧
      ∀ j ∈ dom, t.ctxOf j c.lid = { s.ctxOf j c.lid with wdogLeft := (s.ctxOf j c.lid).wdogPer })

/-- R377, R379: HANDLER_RELOAD: a handler that has faulted is loaded afresh from its image, and so is the shadow bank of a core whose launch
was killed; while a page of it is awaited the reload is tried again; else nothing is reloaded. An image that reads as poison poisons it
(R390). -/
def HandlersAreReloaded : Prop :=
  ∀ (u : Nat) (l : Launch) (s s' : State) (ps : List (Nat × Nat)),
    let k := s.core u
    let stopped : Prop := k.ctx.handler = true ∧ k.ctx.s.run = false ∧ k.hdone = none ∧ k.swap = none
    let killed : Prop := k.ctx.lid = 0 ∧ k.bankKind = .empty
    let range := s.svcRange u l.id l.asid (hdrWord l.hdr 7).toNat 0x30000 0 17
    let given_up (t : State) : Prop := exec (.handlerReload u) s = .next t ∧ t = { s with misc := t.misc } ∧ u ∉ t.misc.reload
    (¬ stopped → ¬ killed → ∃ t, given_up t) ∧
    (stopped → s.launch k.ctx.launch = some l →
      (range = (.ok ps, s') → ∃ t, exec (.handlerReload u) s = .next t ∧ u ∉ t.misc.reload ∧ t.mem = s'.mem ∧
        t.ctx u = { handlerCtx (piecesWords s'.mem ps) l.id l.asid with poisoned := ps.any fun p => s'.physPoison p.1 p.2 }) ∧
      (range = (.wait, s') → ∃ t, exec (.handlerReload u) s = .next t ∧ u ∈ t.misc.reload ∧ t.ctx u = s'.ctx u)) ∧
    (killed → ¬ stopped → s.launches.find? (fun l => decide (l.st = .ending) && decide (u ∈ l.units)) = some l →
      s.launch l.id = some l → hdrWord l.hdr 7 ≠ 0 →
      (range = (.ok ps, s') → ∃ t, exec (.handlerReload u) s = .next t ∧ u ∉ t.misc.reload ∧ t.mem = s'.mem ∧
        (t.core u).bankKind = .handler ∧ (t.core u).bank =
          { handlerCtx (piecesWords s'.mem ps) l.id l.asid with poisoned := ps.any fun p => s'.physPoison p.1 p.2 }) ∧
      (range = (.wait, s') → ∃ t, exec (.handlerReload u) s = .next t ∧ u ∈ t.misc.reload ∧ t.core u = s'.core u))

/-- R339, R348, R389, R390: CORRECTABLE_ERROR is counted in ECCCNT[31:0]; UNCORRECTABLE_ERROR poisons the unit that holds it, and one of a
core is counted in ECCCNT[63:32]; a bucket in OPEN or COMPLETE is poisoned by its own error and by one in its accumulator lines. -/
def ErrorsAreCountedAndPoison : Prop :=
  ∀ (u : Nat) (q : SeqId) (r i pa off : Nat) (vis : Bool) (st : BitVec 3) (b : BitVec 12) (d : Word) (s : State),
    let n := (s.core u).ecccnt
    let counted (t : State) : Prop := bits (t.core u).ecccnt 63 32 = (bits n 63 32 + 1) % 2 ^ 32 ∧
      bits (t.core u).ecccnt 31 0 = bits n 31 0 ∧ t.mem = s.mem ∧ ∀ j, j ≠ u → t.core j = s.core j
    (∃ t, exec (.correctableError u) s = .next t ∧ OnlyCores s t [u] ∧
      t.core u = { s.core u with ecccnt := (t.core u).ecccnt } ∧
      bits (t.core u).ecccnt 31 0 = (bits n 31 0 + 1) % 2 ^ 32 ∧ bits (t.core u).ecccnt 63 32 = bits n 63 32) ∧
    (∃ t, exec (.uncorrectableError (.physLine pa)) s = .next t ∧ pa / 64 ∈ t.misc.poisonMem ∧ t.mem = s.mem ∧ t.cores = s.cores ∧
      ∀ x ∈ s.bucketsAt (pa / Config.stackBytes) pa, let y := pa / Config.stackBytes
        s.bState y x = 1 ∨ s.bState y x = 2 → t.bState y x = 4) ∧
    (∃ t, exec (.uncorrectableError (.spadLine u off)) s = .next t ∧ counted t ∧ (u, off / 64) ∈ t.misc.poisonSpad) ∧
    (∃ t, exec (.uncorrectableError (.ringEntry u q i)) s = .next t ∧ counted t ∧
      ∀ l, ((s.ctx u).seq q).ring[i]? = some l → ((t.ctx u).seq q).ring[i]? = some { l with poison := some 0 }) ∧
    (∃ t, exec (.uncorrectableError (.mainReg u q r)) s = .next t ∧ counted t ∧ (q, r) ∈ (t.ctx u).poison) ∧
    (∃ t, exec (.uncorrectableError (.accComponent u vis i)) s = .next t ∧ counted t ∧ (vis, i) ∈ (t.ctx u).accBad) ∧
    (∃ t, exec (.uncorrectableError (.context u)) s = .next t ∧ counted t ∧ (t.ctx u).poisoned = true) ∧
    (s.bState st.toNat b.toNat ≠ 1 → s.bState st.toNat b.toNat ≠ 2 → exec (.uncorrectableError (.bucket st b d)) s = .next s) ∧
    (s.bState st.toNat b.toNat = 1 ∨ s.bState st.toNat b.toNat = 2 →
      ∃ t, exec (.uncorrectableError (.bucket st b d)) s = .next t ∧ t.bState st.toNat b.toNat = 4 ∧ t.mem = s.mem ∧ t.cores = s.cores)

/-- R139, R142, R143, R264, R446: BARRIER_COMPLETE: once every member has arrived or halted, the phase number of the level rises in
every member and the members that stand there are released; a variant that they name takes effect, V, M and C starting with their registers
zero (log 57), and no other is asked for, and differing ones raise 0x17, a plain bar among bar.sw counting as one more (log 82). -/
def BarriersReleaseTheirMembers : Prop :=
  ∀ (lid level dom : Nat) (st : List Nat) (s : State), 2 ≤ level → level ≤ 5 →
    let ms := s.members lid level dom
    let lo := 16 * (level - 2)
    let es (v : Nat) : List Word := match s.launch lid with | some l => l.ventries v | none => []
    (s.barrierReady lid level dom = none → exec (.barrierComplete lid level dom) s = .next s) ∧
    (s.barrierReady lid level dom = some st → ms.Nodup → ∀ n, (∀ u ∈ st, (s.ctxOf u lid).barSw = n) →
      ∃ t, exec (.barrierComplete lid level dom) s = .next t ∧ t.mem = s.mem ∧ t.regs = s.regs ∧
        (∀ u ∈ ms, bits (t.ctxOf u lid).phase (lo + 15) lo = (bits (s.ctxOf u lid).phase (lo + 15) lo + 1) % 2 ^ 16) ∧
        (∀ u ∈ st, (t.ctxOf u lid).barGo = true ∧ (t.ctxOf u lid).s = (s.ctxOf u lid).s) ∧
        (n = none → ∀ u ∈ st, (t.ctxOf u lid).v = (s.ctxOf u lid).v) ∧
        (∀ v, n = some v → v < 4 → ∀ u ∈ st, (t.ctxOf u lid).v.pc = (es v).getD 0 0 ∧ (t.ctxOf u lid).m.pc = (es v).getD 1 0 ∧
          (t.ctxOf u lid).c.pc = (es v).getD 2 0 ∧ bits (t.ctxOf u lid).variant 5 4 = v ∧
          bits (t.ctxOf u lid).variant 11 8 = 15 ∧ (t.ctxOf u lid).vr = Vector.replicate 32 0 ∧
          (t.ctxOf u lid).tiles = .zero ∧ (t.ctxOf u lid).a = Vector.replicate 16 0 ∧ (t.ctxOf u lid).g = Vector.replicate 16 0)) ∧
    (∀ (x y : Nat), s.barrierReady lid level dom = some st → ms.Nodup → st.Nodup → x ∈ st → y ∈ st →
      (s.ctxOf x lid).barSw ≠ (s.ctxOf y lid).barSw → (∀ u ∈ st, (s.ctxOf u lid).s.run = true) →
      ∃ t, exec (.barrierComplete lid level dom) s = .next t ∧ ∀ u ∈ st, (t.ctxOf u lid).bar = none ∧
        ∃ c, (t.ctxOf u lid).s.deliver = (s.ctxOf u lid).s.deliver ++ [c] ∧ c.code = 0x17 ∧ c.pc = (s.ctxOf u lid).s.pc)

/-- R9, R68, R156, R366: ILLEGAL_INSTRUCTION: a word with no meaning raises cause 0x01 with the word in INFO and does not issue. -/
def WordsWithoutMeaningRaise : Prop := ∀ s : State, exec .illegalInstruction s = .next (illegal s)

end Sys2Proof.Claims

namespace Sys2Proof.Claims

/-- R402: offset of word w of queue descriptor q. -/
def queueAt (q : BitVec 10) (w : Nat) : Nat := 0x20000 + 32 * q.toNat + 8 * w
/-- R402: entries of a ring by LOGSZ. -/
def ringOf (w1 : Word) : Nat := 2 ^ (min (bits w1 47 44) 12 + 4)

/-- R406: t is s with every slot freed whose queue has neither a pending entry to take nor a launch, and its descriptor naming no slot. -/
def slotsFreed (s t : State) : Prop :=
  let gone (p : Nat × Nat) : Prop := s.eligible p.2 = false ∧ s.launchOf p.2 = none
  t = { s with regs := t.regs, misc := { s.misc with slots := t.misc.slots } } ∧
  (∀ j, (∀ p ∈ s.misc.slots, gone p → j ≠ 0x20000 + 32 * p.2 + 24) → t.reg j = s.reg j) ∧
  (∀ p ∈ s.misc.slots, gone p → t.reg (0x20000 + 32 * p.2 + 24) = 0) ∧
  ∀ x, x ∈ t.misc.slots ↔ x ∈ s.misc.slots ∧ ∀ p ∈ s.misc.slots, gone p → x.1 ≠ p.1

/-- R387, R403, R406: NOTIFY: the tail of a queue takes an index below the ring's size, and a slot whose queue it leaves empty is freed; any
write ends the idling of the queue's launch, in its handler too. -/
def NotifyMovesTheTail : Prop :=
  ∀ (q : BitVec 10) (v : Word) (s : State),
    let o := queueAt q 1
    let w := s.reg o
    ∃ t t1, exec (.notify q v) s = .next t ∧ t = { t1 with cores := t.cores } ∧ t1.cores = s.cores ∧
      (v.toNat % 2 ^ 16 < ringOf w → bits (t.reg o) 15 0 = v.toNat % 2 ^ 16 ∧ bits (t.reg o) 63 16 = bits w 63 16 ∧
        slotsFreed (s.setReg o (t.reg o)) t1) ∧
      (ringOf w ≤ v.toNat % 2 ^ 16 → t1 = s) ∧
      ∀ u l, l ∈ s.launches → l.id = (s.ctx u).launch → l.queue = q.toNat →
        ∀ x, ((s.ctx u).seq x).idle = true → ((t.ctx u).seq x).woken = true ∧ ((t.ctx u).seq x).pc = ((s.ctx u).seq x).pc

/-- R400, R402, R406: QUEUE_DESCRIPTOR_WRITE: the words of a queue that is not enabled take their fields; of an enabled one only EN changes,
and the slot of a queue that is enabled no longer and has no launch is freed; no queue is enabled before an image is loaded. -/
def QueueDescriptorsAreWritten : Prop :=
  ∀ (q : BitVec 10) (v : Word) (s : State),
    let w := s.reg (queueAt q 1)
    let en := w.getLsbD 63
    (en = true → exec (.queueDescriptorWrite q 0 v) s = .next s) ∧
    (en = false → ∃ t, exec (.queueDescriptorWrite q 0 v) s = .next t ∧ OnlyRegs s t [queueAt q 0] ∧
      bits (t.reg (queueAt q 0)) 51 6 = bits v 51 6 ∧ bits (t.reg (queueAt q 0)) 63 52 = 0 ∧ bits (t.reg (queueAt q 0)) 5 0 = 0) ∧
    (en = false → ∃ t, exec (.queueDescriptorWrite q 1 v) s = .next t ∧ OnlyRegs s t [queueAt q 1] ∧
      bits (t.reg (queueAt q 1)) 58 53 = bits v 58 53 ∧ bits (t.reg (queueAt q 1)) 47 44 = bits v 47 44 ∧
      bits (t.reg (queueAt q 1)) 31 0 = bits w 31 0 ∧
      ((t.reg (queueAt q 1)).getLsbD 63 = (v.getLsbD 63 && (s.reg 8).getLsbD 63))) ∧
    (en = true → ∃ t, exec (.queueDescriptorWrite q 1 v) s = .next t ∧ bits (t.reg (queueAt q 1)) 62 0 = bits w 62 0 ∧
      (t.reg (queueAt q 1)).getLsbD 63 = v.getLsbD 63 ∧ slotsFreed (s.setReg (queueAt q 1) (t.reg (queueAt q 1))) t) ∧
    exec (.queueDescriptorWrite q 2 v) s = .next s ∧ exec (.queueDescriptorWrite q 3 v) s = .next s

/-- R406: whether a queue waits: eligible, and bound to no slot. -/
def queueWaits (s : State) (q : Nat) : Prop := q ∈ s.queues ∧ s.eligible q = true ∧ s.bound q = false
/-- R406: of the queues that wait, q has the highest effective priority, and among equals comes first in the order of queues after the one
bound last. -/
def bestQueue (s : State) (q : Nat) : Prop :=
  let prio (x : Nat) : Nat := min 7 (bits (s.reg (0x20000 + 32 * x + 8)) 58 56 + mget 0 s.misc.waits (2 * x + 1))
  let turn (x : Nat) : Nat := (x + 1023 - s.misc.lastBound % 1024) % 1024
  queueWaits s q ∧ ∀ x, queueWaits s x → x ≠ q → prio x < prio q ∨ (prio x = prio q ∧ turn q < turn x)

/-- R406: PRIORITY_AGEING: a queue that begins to wait is timed from now; one that waits has a step for each AGE microseconds of its
wait, and one that waits no longer has none. QUEUE_BIND frees the slots that no queue needs, and of the queues that wait binds the one of the
highest effective priority, round-robin among equals, to a free slot; that it takes the lowest one is the model's choice (log 86). -/
def QueuesAgeAndBind : Prop :=
  (∀ (s : State), ∃ t, exec .priorityAgeing s = .next t ∧ t = { s with misc := { s.misc with waits := t.misc.waits } } ∧
    (s.queues.Nodup → ∀ q ∈ s.queues,
      let age := 1000 * bits (s.reg 0x18) 15 0
      let now := s.datumNs.toNat
      (s.eligible q = true → s.bound q = false → (s.misc.waits.find? fun p => p.1 = 2 * q) = none → mget 0 t.misc.waits (2 * q) = now) ∧
      (s.eligible q = true → s.bound q = false → ∀ k t0, (s.misc.waits.find? fun p => p.1 = 2 * q) = some (k, t0) → age ≠ 0 →
        mget 0 t.misc.waits (2 * q + 1) = (now - t0) / age) ∧
      (s.eligible q = false ∨ s.bound q = true → mget 0 t.misc.waits (2 * q + 1) = 0)) ∧
    ∀ q, q ∉ s.queues → mget 0 t.misc.waits (2 * q) = mget 0 s.misc.waits (2 * q) ∧
      mget 0 t.misc.waits (2 * q + 1) = mget 0 s.misc.waits (2 * q + 1)) ∧
  ∀ (s : State), ∃ s1 t, exec .queueBind s = .next t ∧ slotsFreed s s1 ∧
    (((∀ q, ¬ queueWaits s q) ∨ ∀ i, i < 32 → ∃ p ∈ s1.misc.slots, p.1 = i) → t = s1) ∧
    ∀ q i, bestQueue s q → i < 32 → (∀ p ∈ s1.misc.slots, p.1 ≠ i) → (∀ j, j < i → ∃ p ∈ s1.misc.slots, p.1 = j) →
      let o := 0x20000 + 32 * q + 24
      t = { s1 with regs := t.regs, misc := { s1.misc with slots := t.misc.slots, waits := t.misc.waits, lastBound := q } } ∧
      (t.reg o).toNat = 2 ^ 63 + i * 2 ^ 32 ∧ (∀ j, j ≠ o → t.reg j = s1.reg j) ∧ (i, q) ∈ t.misc.slots ∧
      (∀ x, x.1 ≠ i → (x ∈ t.misc.slots ↔ x ∈ s1.misc.slots)) ∧ mget 0 t.misc.waits (2 * q) = 0 ∧ mget 0 t.misc.waits (2 * q + 1) = 0

/-- R402, R404, R405, R410: QUEUE_ENTRY_TAKE: the entry at HEAD of a bound queue becomes a launch; one that its fields refuse, or that reads
as poison (log 75), ends with STATUS 5; while a launch of the queue is there, none is taken; one that is being checked is checked on. -/
def QueueEntriesAreTaken : Prop :=
  ∀ (q : BitVec 10) (s : State),
    let p := bits (s.reg (queueAt q 1)) 55 53
    let at_ := (s.reg (queueAt q 0)).toNat + 64 * (bits (s.reg (queueAt q 1)) 31 16 % ringOf (s.reg (queueAt q 1)))
    let word (i : Nat) : Word := if s.physPoison at_ 64 then 0 else BitVec.ofNat 64 (leNat (s.mem.rdN (at_ + 8 * i) 8))
    let refused : Prop := bits (word 0) 63 56 ≠ 1 ∨ (word 1).toNat % 256 ≠ 0 ∨ (word 2).toNat % 32 ≠ 0 ∨ bits (word 0) 54 0 ≠ 0 ∨
      word 4 ≠ 0 ∨ word 5 ≠ 0 ∨ word 6 ≠ 0 ∨ word 7 ≠ 0
    let taken (st : LaunchSt) (status : BitVec 8) : Launch :=
      ⟨s.uid, q.toNat, [], (word 0).getLsbD 55, word 2, word 3, word 1, st, s.partAsid p, 0, status, 0, 0⟩
    let s' (l : Launch) : State := { s with uid := s.uid + 1, launches := s.launches ++ [l] }
    (s.launchOf q.toNat = none → s.eligible q.toNat = true → s.bound q.toNat = true →
      ringPlaced (s.reg (queueAt q 0)).toNat = true → s.rrMode p = 0 →
      (refused → exec (.queueEntryTake q) s = .next (s' (taken .ending 5))) ∧
      (¬ refused → exec (.queueEntryTake q) s = .next ((s' (taken .checking 0)).runChecks (taken .checking 0)))) ∧
    (∀ l, s.launchOf q.toNat = some l → l.st = .running ∨ l.st = .preempted ∨ l.st = .waiting ∨ l.st = .ending →
      exec (.queueEntryTake q) s = .next s) ∧
    (∀ l, s.launchOf q.toNat = some l → l.st = .checking → exec (.queueEntryTake q) s = .next (s.runChecks l)) ∧
    (s.launchOf q.toNat = none → s.eligible q.toNat = false ∨ s.bound q.toNat = false ∨
        ringPlaced (s.reg (queueAt q 0)).toNat = false → exec (.queueEntryTake q) s = .next s)

/-- R410: a launch whose checks fail ends with STATUS 1, cause 0x17 and the detail of its first failed check; one that passes waits
for its clusters. -/
def LaunchChecksDecide : Prop :=
  ∀ (l : Launch) (s s' : State),
    (s.checkLaunch l = (.wait, s') → s.runChecks l = s') ∧
    (∀ d, s.checkLaunch l = (.fail d, s') → s.runChecks l = s'.modLaunch l.id fun l =>
      { l with st := .ending, status := 1, cause := 0x17, detail := BitVec.ofNat 16 d }) ∧
    (∀ h, s.checkLaunch l = (.pass h, s') → s.runChecks l = s'.modLaunch l.id fun l => { l with hdr := h, st := .waiting }) ∧
    (l.fld 0 63 48 ≠ 0x4C48 ∨ l.fld 0 47 40 ≠ 1 → s.headerFault l = some 0x07) ∧
    (l.fld 0 63 48 = 0x4C48 → l.fld 0 47 40 = 1 → l.reservedOk = true → 552 < bits (hdrWord l.hdr 5) 21 12 →
      s.headerFault l = some 0x08)

/-- R25, R38, R125, R386, R407, R412: LAUNCH_SCHEDULE: a waiting launch whose units are free, with no handler image, starts on all of
them: registers zero, its granules zero, its entry PCs and parameters in place. -/
def LaunchesStart : Prop :=
  ∀ (l : Launch) (s : State), s.resumable = none → (s.launches.filter fun l => decide (l.st = .waiting) && s.canStart l) = [l] →
    hdrWord l.hdr 7 = 0 → s.rrMode l.part = 0 → (∀ a ∈ l.areas, s.holders a = []) → l.areas.flatten.Nodup → l.id ≠ 0 → l.mode < 2 →
    l.nvar = 0 →
    ∃ t, exec .launchSchedule s = .next t ∧ t.mem = s.mem ∧ t.regs = s.regs ∧
      t.launches = s.launches.map (fun k => if k.id = l.id then { k with st := .running } else k) ∧
      (∀ u, u ∉ l.areas.flatten → t.core u = s.core u) ∧
      ∀ u ∈ l.areas.flatten,
        let c := t.ctx u
        c.lid = l.id ∧ c.asid = l.asid ∧ c.x = Vector.replicate 32 0 ∧ c.vr = Vector.replicate 32 0 ∧ c.clk = 0 ∧ c.handler = false ∧
        c.s.pc = hdrWord l.hdr 1 ∧ c.v.pc = hdrWord l.hdr 2 ∧ c.m.pc = hdrWord l.hdr 3 ∧ c.c.pc = hdrWord l.hdr 4 ∧
        (∀ q, (c.seq q).run = decide ((c.seq q).pc ≠ 0)) ∧
        c.mode = (if l.mode = 0 then .timed else .elastic) ∧ c.gran = bits (hdrWord l.hdr 0) 4 0 ∧
        c.wdogPer.toNat = bits (hdrWord l.hdr 5) 63 32 ∧ c.wdogLeft = c.wdogPer ∧ (t.core u).active = true ∧
        (isStack u = false → ∀ off, off < c.gran * Config.granule → (t.core u).spad.rd off = 0)

/-- R39, R257, R405, R413: LAUNCH_END: a launch whose units are done ends with STATUS 0; of one that has ended, packets that are not on
their way are dropped; with nothing under way it writes its completion record and its queue's HEAD advances; a misaligned record address
is reported as an event of UNIT 0 instead (log 31), once the event ring has room (log 59). -/
def LaunchesEnd : Prop :=
  ∀ (lid : Nat) (l : Launch) (s : State), s.launch lid = some l →
    let w := s.reg (0x20000 + 32 * l.queue + 8)
    (l.st = .checking ∨ l.st = .waiting ∨ l.st = .preempted → exec (.launchEnd lid) s = .next s) ∧
    (l.st = .running → s.launchDone l = false → exec (.launchEnd lid) s = .next s) ∧
    (∀ u s', l.st = .running → s.launchDone l = true → s.writeBackLaunch l = (.done, u, s') →
      exec (.launchEnd lid) s = .next (s'.endLaunch lid 0 0 0)) ∧
    (∀ c u s', l.st = .running → s.launchDone l = true → s.writeBackLaunch l = (.fault c, u, s') →
      exec (.launchEnd lid) s = .next (s'.endByFault u lid c 0)) ∧
    (l.st = .ending → s.packets = [] → s.winding l = true → exec (.launchEnd lid) s = .next s) ∧
    (l.st = .ending →
      let s1 : State := { s with packets := s.packets.filter fun p => !(decide (p.lid = lid) && (p.back || (decide (p.cmd ≠ 0) && !p.sent))) }
      s1.winding l = true → exec (.launchEnd lid) s = .next s1) ∧
    (∀ pa, l.st = .ending → s.packets = [] → s.winding l = false → l.cpl.toNat % 32 = 0 → l.irq = false → s.misc.slots = [] →
      s.svcPage mapperUnit lid l.asid l.cpl.toNat 5 19 = (.ok pa, s) → pa + 32 ≤ Config.regBase → s.misc.keysErased = false →
      ∃ t, exec (.launchEnd lid) s = .next t ∧ t.mem = s.mem.wrL (atAddr pa (wordBytes
          [BitVec.ofNat 64 (l.status.toNat * 2 ^ 56 + l.cause.toNat * 2 ^ 48 + l.detail.toNat * 2 ^ 32), l.tag,
           BitVec.ofNat 64 (l.energy / 1000), s.datumNs])) ∧
        t.launch lid = none ∧
        bits (t.reg (0x20000 + 32 * l.queue + 8)) 31 16 = ((bits w 31 16 + 1) % ringOf w) % 2 ^ 16 ∧
        ∀ o, o ≠ 0x20000 + 32 * l.queue + 8 → t.reg o = s.reg o) ∧
    (l.st = .ending → s.packets = [] → s.winding l = false → l.cpl.toNat % 32 ≠ 0 → s.ringFull (evqhOff 0) (evqhOff 0 + 8) = false →
      ∃ t, exec (.launchEnd lid) s = .next t ∧ t = (s.post 0 [evWord0 11 0 0 0x3FFF, BitVec.ofNat 64 l.queue, l.cpl, 0]).closeLaunch l ∧
        t.launch lid = none)

/-- R405, R457: QKILL: the launch that a queue runs ends with STATUS 4. -/
def KilledLaunchesEnd : Prop :=
  ∀ (v : Word) (s : State),
    (s.launchOf (v.toNat % 2 ^ 10) = none → exec (.qkill v) s = .next s) ∧
    (∀ l, s.launchOf (v.toNat % 2 ^ 10) = some l → l.st = .running ∨ l.st = .preempted →
      exec (.qkill v) s = .next (s.endLaunch l.id 4 0 0)) ∧
    (∀ l, s.launchOf (v.toNat % 2 ^ 10) = some l → l.st = .checking ∨ l.st = .waiting ∨ l.st = .ending →
      exec (.qkill v) s = .next s)

/-- R418: EVQH_WRITE: the head of an event queue takes the written index; with no record held back nothing else changes. -/
def EventHeadsAreWritten : Prop :=
  ∀ (k : Nat) (v : Word) (s : State), k < 12 ∨ (100 ≤ k ∧ k < 104) →
    let o := if k < 4 then 0x1010040 + 0x100000 * k else if k < 12 then 0x2040040 + 0x100000 * (k - 4)
      else 0x1010050 + 0x100000 * (k - 100)
    let s' := s.setReg o (BitVec.ofNat 64 (v.toNat % 256))
    exec (.evqhWrite k v) s = .next s'.flushEvents ∧ (s.misc.evHeld = [] → s'.flushEvents = s')

/-- R393, R395: RRCTL_WRITE: the record and replay register takes MODE, the log's size and base, and the log begins anew at
its first byte, letting the domains resume that it held up (log 24). -/
def RecordControlIsWritten : Prop :=
  ∀ (part : BitVec 3) (v : Word) (s : State),
    let o := 0x7000000 + 8 * part.toNat
    s.misc.logPend = [] → ∃ t, exec (.rrctlWrite part v) s = .next t ∧ t.reg o = v &&& 0xC000FFFFFFFFFFFF ∧
      (∀ j, j ≠ o → t.reg j = s.reg j) ∧ mget 0 t.misc.logPos part.toNat = 0 ∧ part.toNat ∉ t.misc.logHeld ∧ t.mem = s.mem ∧
      ∀ u ∈ s.misc.logHung, s.partOf u = part.toNat → u ∉ t.misc.hung

end Sys2Proof.Claims

namespace Sys2Proof.Claims

/-- The bits of a register that a mask holds take the written ones, the others of the register space do not change. -/
def regTakes (s t : State) (o : Nat) (v : Word) : Prop := OnlyRegs s t [o] ∧ t.reg o = v

/-- R416, R417: POWER_WINDOW_END: windows of 1,024 cycles follow one another from reset; at the end of one the measured power of a partition
shows in PPOWER, its duty takes the step of R416, and its idle energy and that of its launches, and of those that have ended in the window, are
charged in whole microjoules. THROTTLE_SLOT holds up the partition's cycle. -/
def PowerIsControlled : Prop :=
  (∀ (l : List MeterArgs) (s : State), s.now < s.misc.windowAt + 1024 → exec (.powerWindowEnd l) s = .next s) ∧
  (∀ (p : BitVec 3) (mw : BitVec 32) (nj : Nat) (s : State), s.misc.windowAt + 1024 ≤ s.now →
    let a (w : Nat) := 0x10000 + 64 * p.toNat + 8 * w
    let cap := bits (s.reg (a 1)) 47 32
    let duty := bits (s.reg (a 1)) 10 0
    ∃ t, exec (.powerWindowEnd [⟨p, mw, nj, []⟩]) s = .next t ∧ t.misc.windowAt ≤ s.now ∧ s.now < t.misc.windowAt + 1024 ∧
      t.misc.windowAt % 1024 = s.misc.windowAt % 1024 ∧ t.mem = s.mem ∧ t.cores = s.cores ∧
      (t.reg (a 2)).toNat = mw.toNat ∧
      (t.reg (a 3)).toNat = ((s.reg (a 3)).toNat + (mget 0 s.misc.rem (2000 + p.toNat) + nj) / 1000) % 2 ^ 64 ∧
      mget 0 t.misc.rem (2000 + p.toNat) = (mget 0 s.misc.rem (2000 + p.toNat) + nj) % 1000 ∧
      (∀ o, o ≠ a 1 → o ≠ a 2 → o ≠ a 3 → t.reg o = s.reg o) ∧ bits (t.reg (a 1)) 63 11 = bits (s.reg (a 1)) 63 11 ∧
      ((s.reg (a 0)).getLsbD 63 = true → bits (t.reg (a 1)) 10 0 =
        if cap ≠ 0 ∧ 1000 * cap < mw.toNat then min (duty + 64) 1008
        else if cap = 0 ∨ 16 * mw.toNat < 15 * (1000 * cap) then duty - 16 else duty)) ∧
  (∀ (p : BitVec 3) (mw : BitVec 32) (lid nj : Nat) (s : State), s.misc.windowAt + 1024 ≤ s.now →
    let o (q : Nat) := 0x20000 + 32 * q + 16
    let charged (t : State) (q : Nat) : Prop := exec (.powerWindowEnd [⟨p, mw, 0, [(lid, nj)]⟩]) s = .next t ∧
      (t.reg (o q)).toNat = ((s.reg (o q)).toNat + (mget 0 s.misc.rem q + nj) / 1000) % 2 ^ 64
    (∀ l, s.launch lid = some l → l.queue < 1024 → ∃ t, charged t l.queue ∧ t.launch lid = some { l with energy := l.energy + nj }) ∧
    ∀ q, s.launch lid = none → q < 1024 → (s.misc.endedQ.find? fun p => p.1 = lid) = some (lid, q) →
      ∃ t, charged t q ∧ t.launches = s.launches) ∧
  ∀ (p : BitVec 3) (s : State), s.misc.recording = [] → ∃ t, exec (.throttleSlot p) s = .next t ∧
    t = { s with misc := { s.misc with throttled := t.misc.throttled } } ∧ p.toNat ∈ t.misc.throttled ∧
    ∀ x ∈ s.misc.throttled, x ∈ t.misc.throttled

/-- R414, R415, R416: PARTA_WRITE and CAP_WRITE: a partition takes its fields where it runs no launch and shares nothing with another
enabled one, and its cap where the sum and the floor allow it; else the write is ignored. -/
def PartitionsAreWritten : Prop :=
  ∀ (p : BitVec 3) (v : Word) (s : State),
    let a (w : Nat) := 0x10000 + 64 * p.toNat + 8 * w
    let m := v &&& 0x8000FFFFFF000FFC
    let cap := bits v 47 32
    let en (i : Nat) : Bool := (s.reg (0x10000 + 64 * i)).getLsbD 63
    let busy : Prop := ∃ l ∈ s.launches, (l.st = .running ∨ l.st = .preempted) ∧ l.part = p.toNat
    let sum := ((List.range 8).map fun i =>
      if en i then (if i = p.toNat then cap else bits (s.reg (0x10000 + 64 * i + 8)) 47 32) else 0).sum
    let w := s.reg (a 0)
    let floor := 30 * ((bits w 3 2 + 1) * (bits w 6 4 + 1)) + 20 * ((List.range 8).filter fun i => w.getLsbD (24 + i)).length
    (busy ∨ s.overlaps p.toNat m = true → exec (.partaWrite p v) s = .next s) ∧
    (¬ busy → s.overlaps p.toNat m = false → ∃ t, exec (.partaWrite p v) s = .next t ∧ OnlyRegs s t [a 0, a 1] ∧ t.reg (a 0) = m ∧
      bits (t.reg (a 1)) 63 11 = bits (s.reg (a 1)) 63 11 ∧
      bits (t.reg (a 1)) 10 0 = if v.getLsbD 63 then 0 else bits (s.reg (a 1)) 10 0) ∧
    (2680 < sum ∨ (cap ≠ 0 ∧ cap < floor) → exec (.capWrite p v) s = .next s) ∧
    (sum ≤ 2680 → cap = 0 ∨ floor ≤ cap → ∃ t, exec (.capWrite p v) s = .next t ∧ OnlyRegs s t [a 1] ∧
      bits (t.reg (a 1)) 47 32 = cap ∧ bits (t.reg (a 1)) 31 0 = bits (s.reg (a 1)) 31 0 ∧
      bits (t.reg (a 1)) 63 48 = bits (s.reg (a 1)) 63 48)

/-- R424: a source raises the alarm under a policy of zero: its bit of ALMSTAT is set, vector 44 is signalled, nothing else happens. -/
def alarmed (s t : State) (src : Nat) : Prop :=
  t = { s with regs := t.regs, sent := s.sent ++ [.msix 44] } ∧ t.reg 0x6000000 = s.reg 0x6000000 ||| BitVec.ofNat 64 (2 ^ src) ∧
  ∀ o, o ≠ 0x6000000 → t.reg o = s.reg o

/-- R421 to R424: OBSDATA_READ, FRZ_WRITE, OBSKEY_WRITE and TAMPER: an unlocked port reads and freezes; a locked one, a wrong response
and the sensors raise the alarm; the alarm erases keys and ends launches as its policy
says, whose bits are laid out as log 34 has them; MEMORY_KEY_INSTALL ends the erasure, and the bytes are those from before (log 55). -/
def ObservationAndAlarm : Prop :=
  ∀ (v chal : Word) (s : State),
    let unlk := (s.reg 0x5000000).getLsbD 63
    (unlk = true → exec .obsdataRead s = .next ({ s with free := s.free + 1, sent := s.sent ++ [.read (some s.obsWord)] }) ∧
      ∃ t, exec (.frzWrite v) s = .next t ∧ regTakes s t 0x5000000 (BitVec.ofNat 64 (2 ^ 63 + v.toNat % 256))) ∧
    (s.reg 0x6000008 = 0 →
      (unlk = false → (∃ t, exec .obsdataRead s = .next t ∧ alarmed s t 1) ∧ ∃ t, exec (.frzWrite v) s = .next t ∧ alarmed s t 1) ∧
      (∃ t, exec (.obskeyWrite v false chal) s = .next t ∧ alarmed (s.setReg 0x5000020 chal) t 1) ∧
      ∃ t, exec .tamper s = .next t ∧ alarmed s t 3) ∧
    (∃ t, exec (.obskeyWrite v true chal) s = .next t ∧ OnlyRegs s t [0x5000000, 0x5000020] ∧ t.reg 0x5000020 = chal ∧
      (t.reg 0x5000000).getLsbD 63 = true ∧ bits (t.reg 0x5000000) 62 0 = bits (s.reg 0x5000000) 62 0) ∧
    (s.reg 0x6000008 = 0x400 → ∃ t, exec .tamper s = .next t ∧ t.misc.keysErased = true ∧ t.mem = s.mem ∧ t.launches = s.launches) ∧
    (s.reg 0x6000008 = 0x200 → ∃ t, exec .tamper s = .next t ∧
      ∀ l ∈ t.launches, l.st ≠ .running ∧ l.st ≠ .preempted ∧ l.st ≠ .checking ∧ l.st ≠ .waiting) ∧
    (s.reg 0x6000008 = 0x800 → ∃ t, exec .tamper s = .next t ∧ t.plane.noKey = true ∧ (t.reg 0x3010020).getLsbD 63 = false ∧
      ∀ p, p < 16 → (t.port p).noKey = true ∧ (t.reg (0x3000018 + 0x1000 * p)).getLsbD 63 = false) ∧
    exec .memoryKeyInstall s = .next { s with misc := { s.misc with keysErased := false } }

/-- R8, R9, R399, R401: REGISTER_WRITE: a write to the register space acts as the register it meets; an offset with no register, a
read-only register and an offset that is no multiple of 8 ignore it. A MANAGEMENT_FRAME writes and reads registers in order. -/
def RegistersAreWritten : Prop :=
  (∀ (off v : Word) (s : State),
    let o := off.toNat
    (o % 8 ≠ 0 ∨ o = 0 ∨ o = 8 ∨ o = 0x5000018 ∨ o = 0x3020000 ∨ o = 0x6000008 ∨ 0x8000000 ≤ o →
      exec (.registerWrite off v) s = .next s) ∧
    (o = 0x10 → exec (.registerWrite off v) s = exec (.qkill v) s) ∧
    (o = 0x18 → ∃ t, exec (.registerWrite off v) s = .next t ∧ regTakes s t 0x18 (v &&& 0xFFFF)) ∧
    (∀ p : BitVec 3, o = 0x10000 + 64 * p.toNat → exec (.registerWrite off v) s = exec (.partaWrite p v) s) ∧
    (∀ p : BitVec 3, o = 0x10008 + 64 * p.toNat → exec (.registerWrite off v) s = exec (.capWrite p v) s) ∧
    (∀ (q : BitVec 10) (w : BitVec 2), o = queueAt q w.toNat →
      exec (.registerWrite off v) s = exec (.queueDescriptorWrite q w v) s) ∧
    (∀ q : BitVec 10, o = 0x100000 + 4096 * q.toNat → exec (.registerWrite off v) s = exec (.notify q v) s) ∧
    (∀ d : BitVec 2, o = 0x1010018 + 0x100000 * d.toNat → exec (.registerWrite off v) s = exec (.shootdown d v) s) ∧
    (∀ d : BitVec 2, o = 0x1010028 + 0x100000 * d.toNat → exec (.registerWrite off v) s = exec (.resolve d v) s) ∧
    (∀ (st : BitVec 3) (b : BitVec 12) (w : BitVec 2), o = 0x2000000 + 0x100000 * st.toNat + 32 * b.toNat + 8 * w.toNat →
      exec (.registerWrite off v) s = exec (.bucketDescriptorWrite st b w v) s) ∧
    (∀ (st : BitVec 3) (j : BitVec 8) (w : BitVec 2), o = 0x2020000 + 0x100000 * st.toNat + 32 * j.toNat + 8 * w.toNat →
      exec (.registerWrite off v) s = exec (.jobRecordWrite st j w v) s) ∧
    (∀ st : BitVec 3, o = 0x2040000 + 0x100000 * st.toNat → exec (.registerWrite off v) s = exec (.lrefresh st v) s) ∧
    (∀ p : BitVec 4, o = 0x3000038 + 0x1000 * p.toNat → exec (.registerWrite off v) s = exec (.keyInstall (.port p) v) s) ∧
    (∀ p i : BitVec 4, o = 0x3000080 + 0x1000 * p.toNat + 8 * i.toNat →
      exec (.registerWrite off v) s = exec (.slotmapWrite p i v) s) ∧
    (o = 0x3010000 → exec (.registerWrite off v) s = exec (.bpcfgWrite v) s) ∧
    (o = 0x3010008 → exec (.registerWrite off v) s = exec (.bpviewWrite v) s) ∧
    (o = 0x3010040 → exec (.registerWrite off v) s = exec (.keyInstall .plane v) s) ∧
    (∀ t : BitVec 2, t ≠ 3 → o = 0x3030000 + 8 * t.toNat → exec (.registerWrite off v) s = exec (.tierRegisterWrite t v) s) ∧
    (o = 0x5000000 → exec (.registerWrite off v) s = exec (.frzWrite v) s) ∧
    (o = 0x6000000 → ∃ t, exec (.registerWrite off v) s = .next t ∧ regTakes s t 0x6000000 (s.reg 0x6000000 &&& ~~~v)) ∧
    ∀ p : BitVec 3, o = 0x7000000 + 8 * p.toNat → exec (.registerWrite off v) s = exec (.rrctlWrite p v) s) ∧
  ∀ (off a b v d : Word) (s : State), exec (.managementFrame []) s = .next s ∧
    (∀ s', exec (.registerWrite off v) s = .next s' → exec (.managementFrame [⟨2, off, v⟩]) s = .next s') ∧
    exec (.managementFrame [⟨1, a, d⟩]) s = .next ((s.regRead a.toNat).2.emit (.mgmt [⟨1, a, (s.regRead a.toNat).1⟩])) ∧
    ∀ s', exec (.registerWrite off v) s = .next s' → exec (.managementFrame [⟨2, off, v⟩, ⟨1, b, d⟩]) s =
      .next ((s'.regRead b.toNat).2.emit (.mgmt [⟨1, b, (s'.regRead b.toNat).1⟩]))

/-- R390, R400, R401: BAR2_ACCESS: the host writes or reads 8 bytes of HBM; poison is no data; an address beyond HBM does nothing, and
so does every access while the package holds no valid image. -/
def TheHostReachesHbm : Prop :=
  ∀ (pa v : Word) (s : State),
    let a := pa.toNat
    let bad := (s.reg 8).getLsbD 62
    (8 * Config.stackBytes < a + 8 ∨ bad = true → ∀ w, exec (.bar2Access pa w) s = .next s) ∧
    (a + 8 ≤ 8 * Config.stackBytes → bad = false →
      (s.misc.keysErased = false → ∃ t, exec (.bar2Access pa (some v)) s = .next t ∧ t.mem = s.mem.wrL (atAddr a (natLe 8 v.toNat)) ∧
        t.regs = s.regs ∧ t.cores = s.cores) ∧
      exec (.bar2Access pa none) s = .next { s with sent := s.sent ++ [.read (if s.physPoison a 8 then none
        else some (BitVec.ofNat 64 (leNat (s.mem.rdN a 8))))] })

/-- R337, R338, R357: BUCKET_DESCRIPTOR_WRITE and JOB_RECORD_WRITE: a descriptor that is IDLE or POISON takes its words, their reserved bits
too, which bkopen checks, and keeps STATE, a job without live buckets takes its record and forgets its publications, and SEED always;
ROUND_PUBLISH publishes a round once every stack of the job is done with it. -/
def BucketAndJobRecords : Prop :=
  ∀ (st : BitVec 3) (b : BitVec 12) (j : BitVec 8) (w : BitVec 2) (v : Word) (s : State),
    let d (w : Nat) := 0x2000000 + 0x100000 * st.toNat + 32 * b.toNat + 8 * w
    let r (k w : Nat) := 0x2020000 + 0x100000 * k + 32 * j.toNat + 8 * w
    let state := bits (s.reg (d 1)) 63 61
    let busy : Prop := ∃ x ∈ s.liveBuckets st.toNat, s.bJob st.toNat x = j.toNat
    (state ≠ 0 → state ≠ 4 → exec (.bucketDescriptorWrite st b w v) s = .next s) ∧
    (state = 0 ∨ state = 4 →
      (∃ t, exec (.bucketDescriptorWrite st b 0 v) s = .next t ∧ regTakes s t (d 0) v) ∧
      (∃ t, exec (.bucketDescriptorWrite st b 1 v) s = .next t ∧ OnlyRegs s t [d 1] ∧ bits (t.reg (d 1)) 63 61 = state ∧
        bits (t.reg (d 1)) 60 0 = bits v 60 0) ∧
      (∃ t, exec (.bucketDescriptorWrite st b 2 v) s = .next t ∧ regTakes s t (d 2) v) ∧
      ∃ t, exec (.bucketDescriptorWrite st b 3 v) s = .next t ∧ regTakes s t (d 3) v) ∧
    (busy → exec (.jobRecordWrite st j 0 v) s = .next s) ∧
    (¬ busy → ∃ t, exec (.jobRecordWrite st j 0 v) s = .next t ∧ t = { s with regs := t.regs, hbm := t.hbm } ∧
      t.reg (r st.toNat 0) = v &&& 0x80FF1FFFFFFFFFFF ∧ (∀ o, o ≠ r st.toNat 0 → t.reg o = s.reg o) ∧
      (∀ p ∈ (t.die st.toNat).pubd, p.1 ≠ j.toNat) ∧ ∀ k, k ≠ st.toNat → t.die k = s.die k) ∧
    (∃ t, exec (.jobRecordWrite st j 1 v) s = .next t ∧ regTakes s t (r st.toNat 1) v) ∧
    exec (.jobRecordWrite st j 2 v) s = .next s ∧ exec (.jobRecordWrite st j 3 v) s = .next s ∧
    let job := s.reg (r st.toNat 0)
    let n := bits job 31 0
    let l := (List.range 8).filter fun k => job.getLsbD (48 + k)
    let norm := l.foldl (fun acc k => redAdd false false acc (s.chainSum k j.toNat n)) 0
    (job.getLsbD 63 = false ∨ l = [] ∨ (∃ k ∈ l, s.stackDone k j.toNat n = false) → exec (.roundPublish j st) s = .next s) ∧
    (job.getLsbD 63 = true → l ≠ [] → (∀ k ∈ l, s.stackDone k j.toNat n = true) →
      ∃ t, exec (.roundPublish j st) s = .next t ∧ t.mem = s.mem ∧ t.cores = s.cores ∧
        ∀ k ∈ l, bits (t.reg (r k 0)) 31 0 = (n + 1) % 2 ^ 32 ∧ bits (t.reg (r k 0)) 63 32 = bits (s.reg (r k 0)) 63 32 ∧
          (t.reg (r k 2)).toNat = n * 2 ^ 32 + norm.toNat)

/-- R181, R186, R224: MDEPTH_WRITE takes 1 to 8 and ignores any other value; TILECFG_WRITE writes the configuration of four tiles. -/
def CoreRegistersAreWritten : Prop :=
  ∀ (u : Nat) (hi : BitVec 1) (v : Word) (s : State),
    let c := s.ctx u
    (∃ t, exec (.mdepthWrite u v) s = .next t ∧ OnlyCores s t [u] ∧ t.ctx u = { c with mdepth := (t.ctx u).mdepth } ∧
      (1 ≤ v.toNat % 16 → v.toNat % 16 ≤ 8 → (t.ctx u).mdepth.toNat = v.toNat % 16) ∧
      (v.toNat % 16 = 0 ∨ 8 < v.toNat % 16 → (t.ctx u).mdepth = c.mdepth)) ∧
    ∃ t, exec (.tilecfgWrite u hi v) s = .next t ∧ OnlyCores s t [u] ∧
      t.ctx u = { c with tiles := c.tiles.putCfgWord hi.toNat v c.vtset }

/-- R429, R432, R449: SLOTMAP_WRITE, KEY_INSTALL, BPCFG_WRITE and BPVIEW_WRITE: a word of the slot map is written, and the old word
stands until the first frame that starts at least 8,192 ns later; the last word of a next key makes it present; the plane's
configuration and view are written while the plane is STOPPED alone. -/
def FabricRegistersAreWritten : Prop :=
  ∀ (p i : BitVec 4) (v : Word) (s : State),
    let o := 0x3000000 + 0x1000 * p.toNat
    let stopped : Prop := bits (s.reg 0x3010018) 63 62 = 0
    (∃ t, exec (.slotmapWrite p i v) s = .next t ∧ (∀ j, j ≠ o + 0x80 + 8 * i.toNat → t.reg j = s.reg j) ∧
      t.reg (o + 0x80 + 8 * i.toNat) = v ∧ t.mem = s.mem ∧ t.cores = s.cores ∧
      ∃ n, (n, i.toNat, s.reg (o + 0x80 + 8 * i.toNat)) ∈ (t.port p.toNat).mapOld ∧ n % 8192 = 0 ∧
        s.datumNs.toNat + 8192 ≤ n ∧ n < s.datumNs.toNat + 16384) ∧
    (∃ t, exec (.keyInstall (.port p) v) s = .next t ∧ OnlyRegs s t [o + 0x38, o + 0x18] ∧ t.reg (o + 0x38) = v ∧
      (t.reg (o + 0x18)).getLsbD 63 = true ∧ bits (t.reg (o + 0x18)) 62 0 = bits (s.reg (o + 0x18)) 62 0) ∧
    (∃ t, exec (.keyInstall .plane v) s = .next t ∧ OnlyRegs s t [0x3010040, 0x3010020] ∧ t.reg 0x3010040 = v ∧
      (t.reg 0x3010020).getLsbD 63 = true ∧ bits (t.reg 0x3010020) 62 0 = bits (s.reg 0x3010020) 62 0) ∧
    (stopped → (∃ t, exec (.bpcfgWrite v) s = .next t ∧ regTakes s t 0x3010000 (v &&& 0x801FFFFFFFFFFFFF)) ∧
      ∃ t, exec (.bpviewWrite v) s = .next t ∧ regTakes s t 0x3010008 v) ∧
    (¬ stopped → exec (.bpcfgWrite v) s = .next s ∧ exec (.bpviewWrite v) s = .next s)

/-- R8, R37, R400: PACKAGE_RESET: a signed image is loaded into the reset state; a bad signature leaves every image field zero and
raises the alarm. Every stack core has the SPBASE of the image
(log 54). Memory stays (DESIGN CHOICE, log 55). -/
def ThePackageIsReset : Prop :=
  ∀ (img : ImageArgs) (s : State), ∃ t, exec (.packageReset img) s = .next t ∧ t.mem = s.mem ∧ t.now = s.now ∧ t.agenda = [] ∧
    t.launches = [] ∧ t.outs = [] ∧ t.tlb = [] ∧
    (img.sigOk = true →
      (t.reg 0).toNat = 0x4453038400000000 + img.step.toNat * 2 ^ 16 ∧ (t.reg 8).toNat = 2 ^ 63 + img.imgver.toNat ∧
      (t.reg 0x6000008).toNat = img.almpol.toNat ∧ t.reg 0x5000020 = img.chal ∧ t.plane.clockId = img.clockId ∧
      (∀ u, 384 ≤ u → u < 448 → (t.core u).spbase = img.spbase &&& ~~~3) ∧
      ∀ o, o ≠ 0 → o ≠ 8 → o ≠ 0x6000008 → o ≠ 0x5000020 → t.reg o = State.reset.reg o) ∧
    (img.sigOk = false → t.reg 0 = 0 ∧ t.reg 8 = 0x4000000000000000 ∧ t.reg 0x6000000 = 4 ∧ t.plane.clockId = 0 ∧
      t.sent = s.sent ++ [.msix 44])

end Sys2Proof.Claims

namespace Sys2Proof.Claims

/-- R440: base of the registers of a port. -/
def portAt (p : BitVec 4) : Nat := 0x3000000 + 0x1000 * p.toNat
/-- R428: an intact flit with a good tag has come to a port that is up. -/
def flitIn (s : State) (p : BitVec 4) (h : FlitHdr) : Prop := s.portUp p.toNat = true ∧ h.tagOk = true
/-- R428, R438: how far a flit's LSEQ is ahead of the next that its port expects. -/
def ahead (s : State) (p : BitVec 4) (h : FlitHdr) : Nat := (h.lseq.toNat + 2 ^ 24 - (s.port p.toNat).lseqRx) % 2 ^ 24
/-- R428, R438: the state after n flits have been received in their turn under an ACK. -/
def received (s : State) (p : BitVec 4) (ack : BitVec 24) (n : Nat) : State :=
  let t := s.ackFlits p.toNat ack.toNat
  t.setPort p.toNat { t.port p.toNat with
    lseqRx := ((t.port p.toNat).lseqRx + n) % 2 ^ 24, nakFor := if n = 0 then (t.port p.toNat).nakFor else none }
/-- What a port has to send holds a message of class `cls` (R431, R437). -/
def toSend (t : State) (p : BitVec 4) (cls : Nat) (b : FlitBody) : Prop := ∃ m ∈ (t.port p.toNat).txq, m.cls = cls ∧ m.body = b

/-- R428, R430, R438, R440: a flit of a port that is not up changes nothing; one whose tag fails, or whose TYPE is reserved, stops the port and
raises the alarm. A repeated flit is discarded but for its ACK, and a gap in LSEQ is answered by one nak of the last intact flit (log 72). -/
def FlitsAreChecked : Prop :=
  ∀ (p : BitVec 4) (ty : BitVec 4) (h : FlitHdr) (c : LinkCtl) (r : OpenReq) (ls : List OpenLine) (an : LinkAnswer) (f : SchedBody) (s : State),
    let is (h : FlitHdr) : List Instr := [.idleFlit p h ty, .linkControl p h c, .openRequest p h r, .openData p h ls,
      .answer p h an, .scheduledData p ⟨h, f⟩]
    let stops (i : Instr) : Prop := ∃ t, exec i s = .next t ∧
      bits (t.reg (portAt p + 8)) 63 62 = 3 ∧ (t.reg 0x6000000).getLsbD 0 = true ∧ t.mem = s.mem ∧ t.cores = s.cores ∧
      t.sent = s.sent ++ [.msix 44]
    let s1 := s.ackFlits p.toNat h.ack.toNat
    (s.portUp p.toNat = false → ∀ i ∈ is h, exec i s = .next s) ∧
    (s.portUp p.toNat = true → s.reg 0x6000008 = 0 → (h.tagOk = false → ∀ i ∈ is h, stops i) ∧
      (7 ≤ ty.toNat → stops (.idleFlit p h ty))) ∧
    (flitIn s p h → ty.toNat < 7 →
      (2 ^ 23 ≤ ahead s p h → ∀ i ∈ is h, exec i s = .next s1) ∧
      (0 < ahead s p h → ahead s p h < 2 ^ 23 →
        ((s.port p.toNat).nakFor = some (s.port p.toNat).lseqRx → ∀ i ∈ is h, exec i s = .next s1) ∧
        ((s.port p.toNat).nakFor ≠ some (s.port p.toNat).lseqRx → ∀ i ∈ is h, exec i s = .next (s1.sendNak p.toNat))))

/-- R428, R431, R433, R438, R439: an ACK frees the kept flits that it covers, a nak has those after it sent again, ahead of all others.
LINK_CONTROL acknowledges, asks for flits again, or sets the level, the lock state or the depth that the other end reports, or asks this end to
step its level down (log 50); UNCORRECTED_FLIT is answered by a nak of the last intact flit. -/
def LinkControlFlits : Prop :=
  (∀ (p : BitVec 4) (h : FlitHdr) (ty : BitVec 4) (a : BitVec 24) (lv : BitVec 2) (lk : Bool) (d : BitVec 6) (s : State),
    flitIn s p h → ahead s p h = 0 →
    let s0 := received s p h.ack 0
    let s1 := received s p h.ack 1
    let o := portAt p + 8
    let does (c : LinkCtl) (t : State) : Prop := exec (.linkControl p h c) s = .next t
    (ty.toNat < 7 → exec (.idleFlit p h ty) s = .next s0) ∧ does (.ack a) (s1.ackFlits p.toNat a.toNat) ∧
    does (.nak a) (s1.nakFlits p.toNat a.toNat) ∧
    (∃ t, does (.level lv) t ∧ bits (t.reg o) 59 58 = lv.toNat ∧ t.mem = s.mem ∧ t.cores = s.cores) ∧
    (lv.toNat ≤ s.txLevel p.toNat → does (.drop lv) s1) ∧
    (s.txLevel p.toNat < lv.toNat → (s.port p.toNat).claims = [] → (s.port p.toNat).buf = [] → (s.port p.toNat).txq = [] →
      ∃ t, does (.drop lv) t ∧ bits (t.reg o) 61 60 = lv.toNat ∧ toSend t p 1 (.control (.level lv)) ∧ t.mem = s.mem) ∧
    (∃ t, does (.lock lk) t ∧ OnlyRegs s1 t [o] ∧ (t.reg o).getLsbD 57 = lk) ∧
    (∃ t, does (.depth d) t ∧ OnlyRegs s1 t [o] ∧ bits (t.reg o) 37 32 = d.toNat)) ∧
  (∀ (p : BitVec 4) (s : State) (m : TxMsg) (l j : Nat), (s.port p.toNat).buf = [m] → (s.port p.toNat).txq = [] → m.lseq = some l → l < 2 ^ 24 →
    m.n < 2 ^ 23 → j < m.n →
    let a := (l + j) % 2 ^ 24
    let t := s.ackFlits p.toNat a
    let u := s.nakFlits p.toNat a
    let rest : TxMsg := { m with n := m.n - 1 - j, lseq := some ((a + 1) % 2 ^ 24) }
    t = { s with ports := t.ports } ∧ (∀ q, q ≠ p.toNat → t.port q = s.port q) ∧
    (j + 1 = m.n → (t.port p.toNat).buf = []) ∧ (j + 1 < m.n → (t.port p.toNat).buf = [rest]) ∧
    (s.ackFlits p.toNat ((l + 2 ^ 24 - 1) % 2 ^ 24)).port p.toNat = s.port p.toNat ∧
    (m.cmd = 0 → (s.port p.toNat).claims = [] → s.txLevel p.toNat = 0 → (u.port p.toNat).buf = [] ∧ u.mem = s.mem ∧ u.cores = s.cores ∧
      bits (u.reg (portAt p + 8)) 31 0 = (bits (s.reg (portAt p + 8)) 31 0 + 1) % 2 ^ 32 ∧
      (j + 1 = m.n → (u.port p.toNat).txq = []) ∧ (j + 1 < m.n → (u.port p.toNat).txq = [{ rest with cls := 0, left := rest.n }]))) ∧
  ∀ (p : BitVec 4) (s : State), (s.portUp p.toNat = false → exec (.uncorrectedFlit p) s = .next s) ∧
    (s.portUp p.toNat = true → exec (.uncorrectedFlit p) s = .next (s.sendNak p.toNat)) ∧
    let t := s.sendNak p.toNat
    t = { s with ports := t.ports } ∧ (∀ q, q ≠ p.toNat → t.port q = s.port q) ∧
      (t.port p.toNat).nakFor = some (s.port p.toNat).lseqRx ∧
      toSend t p 1 (.control (.nak (BitVec.ofNat 24 (((s.port p.toNat).lseqRx + 2 ^ 24 - 1) % 2 ^ 24))))

/-- R429, R434, R435, R439, R440: PORT_RETRAIN idles a port that is enabled; PORT_TRAINED sets what training measured, and a side
without a key, or a package without a valid image (log 83), stays stopped; a side that comes up sends its ring depth. LANE_DEGRADE steps the
sending direction from level 0 to 1, and of a receiving one asks the other end to do so (log 50); EPOCH_END takes the next key, or stops the
side that has none. -/
def PortsTrainAndDegrade : Prop :=
  ∀ (p : BitVec 4) (lat : BitVec 16) (depth : BitVec 6) (lv rlv : BitVec 2) (up : Bool) (s : State),
    let o := portAt p
    let w := s.reg (o + 8)
    let up_ := s.portUp p.toNat = true
    let plain : Prop := (∀ m ∈ (s.port p.toNat).buf ++ (s.port p.toNat).txq, m.cmd = 0) ∧ (s.port p.toNat).claims = []
    let key (o : Nat) (t : State) : Prop := bits (t.reg o) 55 40 = (bits (s.reg o) 55 40 + 1) % 2 ^ 16 ∧ bits (t.reg o) 39 0 = 0 ∧
      (t.reg o).getLsbD 63 = false
    ((s.reg o).getLsbD 63 = true → ∃ t, exec (.portRetrain p) s = .next t ∧ OnlyRegs s t [o, o + 8] ∧
      (t.reg o).getLsbD 62 = true ∧ bits (t.reg (o + 8)) 63 62 = 0) ∧
    ((s.reg o).getLsbD 63 = false → exec (.portRetrain p) s = .next s) ∧
    ((s.port p.toNat).noKey = false → plain → ∃ t, exec (.portTrained p lat depth lv rlv) s = .next t ∧ t.mem = s.mem ∧
      (t.reg o).getLsbD 62 = false ∧ (t.reg (o + 0x10)).toNat = lat.toNat ∧ bits (t.reg (o + 8)) 61 60 = lv.toNat ∧
      bits (t.reg (o + 8)) 59 58 = rlv.toNat ∧ bits (t.reg (o + 8)) 37 32 = depth.toNat ∧
      bits (t.reg (o + 8)) 63 62 = (if (s.reg 8).getLsbD 62 then 3 else if lv = 3 ∧ rlv = 3 then 2 else 1) ∧
      ((s.reg 8).getLsbD 62 = false → ¬ (lv = 3 ∧ rlv = 3) →
        toSend t p 1 (.control (.depth (BitVec.ofNat 6 (bits (s.reg o) 37 32)))) ∧ (t.port p.toNat).buf = [])) ∧
    ((s.port p.toNat).noKey = true → (s.reg (o + 0x18)).getLsbD 63 = false → ∃ t, exec (.portTrained p lat depth lv rlv) s = .next t ∧
      bits (t.reg (o + 8)) 63 62 = 3 ∧ (t.port p.toNat).noKey = true ∧ t.mem = s.mem) ∧
    ((s.port p.toNat).noKey = true → (s.reg (o + 0x18)).getLsbD 63 = true → (s.reg 8).getLsbD 62 = false → plain →
      ∃ t, exec (.portTrained p lat depth lv rlv) s = .next t ∧ key (o + 0x18) t ∧ (t.port p.toNat).noKey = false ∧
        bits (t.reg (o + 8)) 63 62 = (if lv = 3 ∧ rlv = 3 then 2 else 1)) ∧
    (∀ rx, ¬ up_ → exec (.laneDegrade p rx up) s = .next s) ∧
    (up_ → bits w 59 58 = 0 → ∃ t, exec (.laneDegrade p true up) s = .next t ∧ t = { s with ports := t.ports } ∧ toSend t p 1 (.control (.drop 1))) ∧
    (bits w 59 58 ≠ 0 → exec (.laneDegrade p true up) s = .next s) ∧
    (up_ → bits w 61 60 = 0 → (s.port p.toNat).claims = [] → (s.port p.toNat).buf = [] → (s.port p.toNat).txq = [] →
      ∃ t, exec (.laneDegrade p false up) s = .next t ∧ bits (t.reg (o + 8)) 61 60 = 1 ∧ t.mem = s.mem ∧ toSend t p 1 (.control (.level 1))) ∧
    (bits w 61 60 ≠ 0 → exec (.laneDegrade p false up) s = .next s) ∧
    ((s.reg (o + 0x18)).getLsbD 63 = true → ∃ t, exec (.epochEnd (.port p)) s = .next t ∧ OnlyRegs s t [o + 0x18] ∧ key (o + 0x18) t) ∧
    ((s.reg (o + 0x18)).getLsbD 63 = false → ∃ t, exec (.epochEnd (.port p)) s = .next t ∧ bits (t.reg (o + 8)) 63 62 = 3 ∧
      (t.port p.toNat).noKey = true ∧ t.mem = s.mem) ∧
    ((s.reg 0x3010020).getLsbD 63 = true → ∃ t, exec (.epochEnd .plane) s = .next t ∧ OnlyRegs s t [0x3010020] ∧ key 0x3010020 t) ∧
    ((s.reg 0x3010020).getLsbD 63 = false → exec (.epochEnd .plane) s =
      .next (({ s with plane := { s.plane with noKey := true } } : State).post 0 [evWord0 7 0x16 6 0x3FFF, 0, 0, 0x80]))

/-- R278: the word of a byte barrier after n bytes have been added to it; none where the add is refused. -/
def bbSum (w n : Nat) : Option Nat :=
  let expect := w / 2 ^ 32 % 2 ^ 27
  let arrived := w % 2 ^ 27
  if w / 2 ^ 27 % 32 ≠ 0 ∨ w / 2 ^ 59 % 16 ≠ 0 ∨ expect = 0 ∨ expect < arrived + n then none
  else some (if arrived + n = expect then expect * 2 ^ 32 + (1 - w / 2 ^ 63) * 2 ^ 63 else w + n)

/-- R278, R282, R303, R319, R320, R390: what a chunk from another package comes to at a scratchpad. It is refused where the bytes, or the byte
barrier that counts it, do not stand there for it (log 80); it waits while a chunk of a region that it touches is not filled; a read has its
bytes; a write places its bytes and then adds them, and where the add is refused the bytes stand and the answer says so. -/
def RemoteChunksLand : Prop :=
  ∀ (p tag : Nat) (r : OpenReq) (data : List Byte) (s : State), r.add = false → r.win = 0 →
    let core := r.core.toNat
    let off := r.addr.toNat
    let n := r.len.toNat
    let bb := r.bb.toNat
    let s0 : State := { s with uid := s.uid + 1 }
    let counts : Prop := r.count = true → bb % 8 = 0 ∧ s.ingressOk core r.asid bb 8 true = true
    let fits : Prop := s.ingressOk core r.asid off n (decide (r.kind = 0)) = true ∧ counts
    let x := s0.ingressTouch core (touchPts off n ++ (if r.count then [bb] else []))
    (¬ fits → s.ingress p tag r data = (.ends .refused [], s0)) ∧
    (fits → x.1 = .wait → s.ingress p tag r data = (.wait, x.2)) ∧
    (fits → x.1 = .ends .refused [] → s.ingress p tag r data = (.ends .refused [], x.2)) ∧
    (fits → x.1 = .ends .done [] → x.2.groupOf (x.2.core core).launchCtx.lid = 0 → x.2.misc.recording = [] → x.2.padSealed core = false →
      let pad := (x.2.core core).spad
      let pad1 := pad.wrL (atAddr off data)
      let ends (st : ChunkStatus) (m : Mem) : Prop := ∃ t, s.ingress p tag r data = (.ends st [], t) ∧ (t.core core).spad = m ∧ t.mem = x.2.mem ∧
        t.regs = x.2.regs ∧ ∀ u, u ≠ core → t.core u = x.2.core u
      (r.kind ≠ 0 → s.ingress p tag r data = (.ends .done (pad.rdN off n), x.2)) ∧
      (r.kind = 0 → r.count = false → ends .done pad1) ∧
      (r.kind = 0 → r.count = true → (∀ w, bbSum (leNat (pad1.rdN bb 8)) n = some w → ends .done (pad1.wrL (atAddr bb (natLe 8 w)))) ∧
        (bbSum (leNat (pad1.rdN bb 8)) n = none → ends .unadded pad1)))

/-- R278, R303: the add alone of a chunk that has landed before (log 80). -/
def LateAddsLand : Prop :=
  ∀ (p tag : Nat) (r : OpenReq) (data : List Byte) (s : State), r.add = true → r.win = 0 →
    let core := r.core.toNat
    let bb := r.bb.toNat
    let s0 : State := { s with uid := s.uid + 1 }
    let fits : Prop := bb % 8 = 0 ∧ s.ingressOk core r.asid bb 8 true = true
    let x := s0.ingressTouch core [bb]
    let pad := (x.2.core core).spad
    (¬ fits → s.ingress p tag r data = (.ends .refused [], s0)) ∧
    (fits → x.1 = .wait → s.ingress p tag r data = (.wait, x.2)) ∧
    (fits → x.1 = .ends .done [] → x.2.misc.recording = [] → x.2.padSealed core = false →
      (∀ w, bbSum (leNat (pad.rdN bb 8)) r.len.toNat = some w → ∃ t, s.ingress p tag r data = (.ends .done [], t) ∧ t.mem = x.2.mem ∧
        (t.core core).spad = pad.wrL (atAddr bb (natLe 8 w))) ∧
      (bbSum (leNat (pad.rdN bb 8)) r.len.toNat = none → s.ingress p tag r data = (.ends .unadded [], x.2)))

/-- R282, R319, R320, R322, R434: SCHEDULED_DATA: the bytes of a scheduled slot land, or are held where a page is absent or a chunk is not
filled; what they meet beside that is answered by the LSEQ (log 80), and a write of a slot that both ends send LOCKED comes before what
follows a `waitt` to S + 13 + LAT. SCHEDULED_SLOT: the claimed slot of the current datum departs; one whose time has passed, or that is
scheduled no longer, breaks its command when its datum comes (log 53). -/
def ScheduledTraffic : Prop :=
  ∀ (p : BitVec 4) (f : SchedFlit) (s : State),
    let b := f.body
    let n := b.data.length
    let l := f.hdr.lseq.toNat
    let s1 := received s p f.hdr.ack ((n + 223) / 224)
    let s2 := s1.setPort p.toNat { s1.port p.toNat with heldSched := (s1.port p.toNat).heldSched.erase (l, b) }
    let r : OpenReq := ⟨0, b.asid, b.kind, b.core, b.addr, BitVec.ofNat 13 n, false, 0, 0, 0, 0, 0, 0, none, false⟩
    let x := s2.ingress p.toNat (1024 + p.toNat) r b.data
    (flitIn s p f.hdr → ahead s p f.hdr = 0 →
      (s.replaysAt b.kind b.core.toNat b.asid = true → exec (.scheduledData p f) s = .next s2) ∧
      (s.replaysAt b.kind b.core.toNat b.asid = false →
        (x.1 = .wait → ∃ t, exec (.scheduledData p f) s = .next t ∧ (l, b) ∈ (t.port p.toNat).heldSched ∧ t = { x.2 with ports := t.ports }) ∧
        (∀ d, x.1 = .ends .done d → ∃ t, exec (.scheduledData p f) s = .next t ∧ t = { x.2 with sched := t.sched } ∧
          (x.2.locked p.toNat = false → t = x.2) ∧
          (x.2.locked p.toNat = true → ∃ c, t.sched = x.2.sched ++ [(b.start.toNat + 13 + bits (x.2.reg (portAt p + 0x10)) 15 0, c)])) ∧
        (∀ st d, st ≠ .done → x.1 = .ends st d → ∃ t, exec (.scheduledData p f) s = .next t ∧ t = { x.2 with ports := t.ports } ∧
          toSend t p 2 (.answer (.sched f.hdr.lseq st))))) ∧
    ((∀ c ∈ (s.port p.toNat).claims, c.gone = true ∨ s.datumNs.toNat / 8 * 8 < c.start) → exec (.scheduledSlot p) s = .next s) ∧
    ∀ c u lid k, (s.port p.toNat).claims.find? (fun c => !c.gone && decide (c.start ≤ s.datumNs.toNat / 8 * 8)) = some c →
      s.cmdOwner c.id = some (u, lid, k) →
      (c.start < s.datumNs.toNat / 8 * 8 ∨ s.locked p.toNat = false ∨ s.scheduled p.toNat c.start = false ∨ s.portUp p.toNat = false ∨
          slotCap (s.txLevel p.toNat) < c.len →
        exec (.scheduledSlot p) s = .next (s.breakSend p.toNat c.id c.off)) ∧
      (c.start = s.datumNs.toNat / 8 * 8 → s.scheduled p.toNat c.start = true → s.locked p.toNat = true → s.portUp p.toNat = true →
          c.len ≤ slotCap (s.txLevel p.toNat) →
        exec (.scheduledSlot p) s = .next (s.departSlot p.toNat u lid k c))

/-- R319, R320, R396, R431, R435 to R437: OPEN_REQUEST: a request beyond the ring is dropped; an accumulate-write is answered with its stack's
answer; any other takes its ring slot. OPEN_DATA: lines are placed by their flag words, and any other is discarded. A chunk is tried once all its
lines are there: it is answered, and its ring slot freed; one whose page is absent is held, and its sender told once; nothing is delivered to a
launch that is replayed. -/
def OpenTraffic : Prop :=
  (∀ (p : BitVec 4) (h : FlitHdr) (r : OpenReq) (s : State), flitIn s p h → ahead s p h = 0 →
    let s1 := received s p h.ack (if r.pkt.isSome then 2 else 1)
    let x := s1.port p.toNat
    let ringd := bits (s.reg (portAt p)) 37 32
    (r.pkt = none → ringd ≤ r.slot.toNat → exec (.openRequest p h r) s = .next s1) ∧
    (∀ k, r.pkt = some k →
      let a := s1.awApply r.stack.toNat { k with port := p.toNat + 1 }
      (s1.stackReplays r.stack.toNat = true → exec (.openRequest p h r) s = .next s1) ∧
      (s1.stackReplays r.stack.toNat = false →
        exec (.openRequest p h r) s = .next (a.2.sendMsg p.toNat 2 1 (.answer (.packet k.id a.1))))) ∧
    (r.pkt = none → r.slot.toNat < ringd → exec (.openRequest p h r) s = .next
      ((s1.setPort p.toNat { x with ring := x.ring.filter (fun y => y.slot ≠ r.slot.toNat) ++ [⟨r.slot.toNat, r, [], false⟩] }).serveRing p.toNat))) ∧
  (∀ (p : BitVec 4) (h : FlitHdr) (ls : List OpenLine) (s : State), flitIn s p h → ahead s p h = 0 →
    let s1 := received s p h.ack (max 1 ((ls.length + 2) / 3))
    let x := s1.port p.toNat
    exec (.openData p h ls) s = .next
      ((s1.setPort p.toNat { x with ring := x.ring.map fun y => ls.foldl RingSlot.place y }).serveRing p.toNat)) ∧
  (∀ (y : RingSlot) (l : OpenLine),
    let fits : Prop := y.slot = l.slot.toNat ∧ y.req.seq = l.seq ∧ ∀ x ∈ y.lines, x.1 ≠ l.line.toNat
    (fits → y.place l = { y with lines := y.lines ++ [(l.line.toNat, l.data)] }) ∧ (¬ fits → y.place l = y) ∧
    (y.full = true ↔ y.req.kind = 1 ∨ y.req.add = true ∨ ∀ i, i < (y.req.len.toNat + 63) / 64 → ∃ x ∈ y.lines, x.1 = i) ∧
    (∀ d, y.req.len.toNat = 64 → y.lines = [(0, d)] → y.bytes = d)) ∧
  ∀ (p : BitVec 4) (y : RingSlot) (s : State), (s.port p.toNat).ring = [y] →
    let x := s.ingress p.toNat (64 * p.toNat + y.slot) y.req y.bytes
    let live : Prop := y.full = true ∧ s.replaysAt y.req.win y.req.core.toNat y.req.asid = false
    (y.full = false → s.serveRing p.toNat = s) ∧
    (y.full = true → s.replaysAt y.req.win y.req.core.toNat y.req.asid = true → ∃ t, s.serveRing p.toNat = t ∧ (t.port p.toNat).ring = [] ∧
      t = { s with ports := t.ports }) ∧
    (live → x.1 = .wait → (x.2.port p.toNat).ring = [y] →
      (y.told = false → x.2.ingressHolds (64 * p.toNat + y.slot) = true → ∃ t, s.serveRing p.toNat = t ∧ t = { x.2 with ports := t.ports } ∧
        (t.port p.toNat).ring = [{ y with told := true }] ∧
        toSend t p 2 (.answer (.held y.req.srcU y.req.srcCh y.req.seq y.req.slot))) ∧
      (y.told = true ∨ x.2.ingressHolds (64 * p.toNat + y.slot) = false → s.serveRing p.toNat = x.2)) ∧
    ∀ st d, live → x.1 = .ends st d → (x.2.port p.toNat).ring = [y] →
      ∃ t, s.serveRing p.toNat = t ∧ t = { x.2 with ports := t.ports } ∧ (t.port p.toNat).ring = [] ∧
        toSend t p 2 (.answer (.chunk y.req.srcU y.req.srcCh y.req.seq y.req.slot st d))

/-- R178, R278, R282, R303, R304, R319 to R321, R435, R437: ANSWER: the answer to a packet reaches it; the answer to a remote chunk frees its
place; a refusal is a copy fault 0x14, a race 0x05 and a refused add 0x08, and a chunk that its target holds is marked so; one that has timed out
only ends its place. What a burst or a scheduled slot meets finds its command by its GSEQ or LSEQ (log 80). -/
def AnswersArrive : Prop :=
  ∀ (p : BitVec 4) (h : FlitHdr) (s : State), flitIn s p h → ahead s p h = 0 → s.misc.recording = [] →
    let s1 := received s p h.ack 1
    (∀ id a, exec (.answer p h (.packet id a)) s = .next { s1 with packets := s.packets.map fun k =>
      if k.p.id = id ∧ k.sent ∧ k.ans = none then { k with ans := some a } else k }) ∧
    (∀ u ch g st, exec (.answer p h (.burst u ch g st)) s = .next (s1.bcastRefused g.toNat (p.toNat + 1) st)) ∧
    (∀ l st, exec (.answer p h (.sched l st)) s = .next (s1.schedRefused p.toNat l.toNat st)) ∧
    ∀ (u : Nat) (ch : BitVec 2) (seq : BitVec 32) (slot : BitVec 6) (st : ChunkStatus) (data : List (BitVec 8)),
      let found := s.remote.find? fun r => decide (r.port = p.toNat) && decide (r.seq = seq.toNat)
      let sn := received s p h.ack (1 + (data.length + 223) / 224)
      let gets (st : ChunkStatus) (t : State) : Prop := exec (.answer p h (.chunk u ch seq slot st data)) s = .next t
      (found = none → gets st sn) ∧
      ((∀ r ∈ s.awaited, ¬ (r.port = p.toNat ∧ r.seq = seq.toNat)) → exec (.answer p h (.held u ch seq slot)) s = .next s1) ∧
      (∀ r, s.awaited.find? (fun r => decide (r.port = p.toNat) && decide (r.seq = seq.toNat)) = some r →
        exec (.answer p h (.held u ch seq slot)) s = .next (s1.remoteHeld r)) ∧
      ∀ r, found = some r →
        let s2 := sn.acked r
        (r.late = true → gets st (sn.dropRemote r)) ∧
        (r.late = false → gets .refused (s2.remoteFault r 0x14 r.addr none) ∧
          (∀ a d, gets (.raced a d) (s2.remoteFault r 0x05 a (some d))) ∧
          gets .unadded (s2.unadded r (if r.get then p.toNat + 1 else 0)) ∧
          (r.ch ≠ 4 → gets .done (s2.getData r data)) ∧
          (∀ f, r.ch = 4 → s2.fires.find? (fun f => f.id = r.id) = some f → gets .done (s2.fireDone f))) ∧
        (∀ k n, r.ch ≠ 4 → s2.remoteCmd r = some k → s2.unadded r n =
          s2.copyFault r.u r.lid { k with adds := k.adds ++ [(r.idx, n)] } r.idx 0x08 r.addr none) ∧
        s2.remote = s.remote.filter fun x => ¬ (x.port = r.port ∧ x.seq = r.seq)

end Sys2Proof.Claims

namespace Sys2Proof.Claims

/-- The burst of the plane that an event receives. -/
noncomputable def received8 (h : BurstHdr) (named : BitVec 5) (d : BurstData) (ops : List Nat) (g : BitVec 8) (e m : BitVec 32) (lost : BitVec 64)
    (tm : TimeMsg) (lv : BitVec 2) : List Instr :=
  [.tokenBurst h named, .dataBurst h d, .fenceBurst h ops, .barrierBurst h g, .proposalBurst h e m, .nakBurst h lost,
   .timingBurst h tm, .controlBurst h lv]
/-- R430, R444, R447: the plane runs, nothing waits and no burst is missing, and a burst with this header is one of the current view that
has not been performed, its tags good. -/
def burstInTurn (h : BurstHdr) (s : State) : Prop :=
  h.tagOk = true ∧ bits (s.reg 0x3010018) 63 62 = 1 ∧ h.vepoch.toNat = bits (s.reg 0x3010008) 63 32 ∧
  (s.reg 0x3010008).getLsbD h.sender.toNat = true ∧ (s.reg 0x3010010).toNat < h.gseq.toNat ∧ s.plane.held = [] ∧ s.plane.lost = []
/-- R444: BPSEQ follows a burst that is performed. -/
def performed (h : BurstHdr) (s : State) : State :=
  { s.setReg 0x3010010 h.gseq with plane := { s.plane with tokenAt := 0 } }
/-- R449: this package's position. -/
def myPos (s : State) : Nat := bits (s.reg 0x3010000) 52 48

/-- R430, R444, R448: a burst of another view, of no member, or already performed is discarded, and so is every burst while the plane does
not run; one whose tag fails stops the plane, its GO with it (log 50), and raises the alarm. -/
def BurstsAreDiscarded : Prop :=
  ∀ (h : BurstHdr) (named : BitVec 5) (d : BurstData) (ops : List Nat) (g : BitVec 8) (e m : BitVec 32) (lost : BitVec 64)
    (tm : TimeMsg) (lv : BitVec 2) (s : State),
    (bits (s.reg 0x3010018) 63 62 ≠ 1 ∨ (h.tagOk = true ∧ (h.vepoch.toNat ≠ bits (s.reg 0x3010008) 63 32 ∨
      (s.reg 0x3010008).getLsbD h.sender.toNat = false ∨ h.gseq.toNat ≤ (s.reg 0x3010010).toNat)) →
    ∀ i ∈ received8 h named d ops g e m lost tm lv, exec i s = .next s) ∧
    (bits (s.reg 0x3010018) 63 62 = 1 → h.tagOk = false → s.plane.dataId = [] → s.reg 0x6000008 = 0 →
      ∀ i ∈ received8 h named d ops g e m lost tm lv, ∃ t, exec i s = .next t ∧ bits (t.reg 0x3010018) 63 61 = 0 ∧
        (t.reg 0x3010000).getLsbD 63 = false ∧ (t.reg 0x6000000).getLsbD 0 = true ∧ t.mem = s.mem)

/-- R272, R320, R321, R444 to R449: a burst in its turn is performed: a token burst moves the hold, a data burst's chunk is performed or is
held, a fence burst completes its sender's operations and is a place in T elsewhere, a barrier burst is counted, a proposal is adopted,
which clears the barrier bursts counted, or excludes this package, which keeps its view (log 56), a nak asks for a kept burst, a control
burst sets the level. -/
def BurstsArePerformed : Prop :=
  ∀ (h : BurstHdr) (named : BitVec 5) (d : BurstData) (ops : List Nat) (g : BitVec 8) (e m : BitVec 32) (lost : BitVec 64)
    (tm : TimeMsg) (lv : BitVec 2) (s : State), burstInTurn h s →
    let own : Prop := h.sender.toNat = myPos s
    let s1 := performed h s
    (∃ t, exec (.tokenBurst h named) s = .next t ∧ t = { s with regs := t.regs, plane := t.plane } ∧ t.reg 0x3010010 = h.gseq ∧
      t.plane.tokenTo = named.toNat ∧ t.plane.tokenAt = s.now ∧
      (t.reg 0x3010018).getLsbD 61 = (if named.toNat = myPos s then true else if own then false else (s.reg 0x3010018).getLsbD 61)) ∧
    (∀ s', s.bcastIn h d = (true, s') → s'.plane = s.plane → myPos s' = myPos s → exec (.dataBurst h d) s =
      .next (if h.sender.toNat = myPos s then (performed h s').bcastHere h.gseq.toNat else performed h s')) ∧
    (∀ s', s.bcastIn h d = (false, s') → s'.plane = s.plane →
      exec (.dataBurst h d) s = .next { s' with plane := { s'.plane with held := [⟨h, .data d⟩] } }) ∧
    (∀ l ps s', s.groupLaunch d.group.toNat = some l → l.id ∉ s.misc.replay → s'.misc.recording = [] → s'.misc.keysErased = false →
      s.svcRange ingressUnit 0 l.asid d.va.toNat d.data.length 6 3500 = (.ok ps, s') → d.bb = none →
      (∀ p ∈ ps, p.1 + p.2 ≤ Config.regBase) → (ps.map (·.2)).sum = d.data.length → h.sender.toNat ≠ s'.pos →
      let comp := chunkComp s'.uid 0 true
      let s2 : State := { s' with uid := s'.uid + 1 }
      (s2.remoteGlobal (s2.remoteAcc l.id h.sender.toNat d.core.toNat comp) h.sender.toNat d.core.toNat comp 1 l.asid d.va.toNat ps).1 = none →
      (s.bcastIn h d).1 = true ∧ (s.bcastIn h d).2.mem = s'.mem.wrL (dealPhys ps d.data)) ∧
    (∃ t, exec (.fenceBurst h ops) s = .next t ∧
      (own → t = s1.placeOps (fun o => decide (o.gseq = some h.gseq.toNat) && decide (o.id ∉ s1.plane.done)) ∧
        ∀ o ∈ s.plane.ops, o.gseq = some h.gseq.toNat → o.id ∈ t.plane.done) ∧
      (¬ own → t = ops.foldl (fun x c => x.launches.foldl (fun x l => if l.group = 0 then x else x.scRemote l.id h.sender.toNat [c]) x) s1)) ∧
    (∀ l, s.groupLaunch g.toNat = some l → exec (.barrierBurst h g) s =
      .next { s1 with plane := { s1.plane with arrived := s.plane.arrived ++ [(g.toNat, h.sender.toNat)] } }) ∧
    (m.getLsbD (myPos s) = false → s.plane.dataId = [] → ∃ t, exec (.proposalBurst h e m) s = .next t ∧
      bits (t.reg 0x3010018) 63 62 = 2 ∧ (t.reg 0x3010018).getLsbD 61 = false ∧ t.reg 0x3010008 = s.reg 0x3010008) ∧
    (m.getLsbD (myPos s) = true → (∀ c ∈ s.cores, ∀ x ∈ c.2.ctx :: c.2.bank :: c.2.saved, x.bar = none) →
      ∃ t, exec (.proposalBurst h e m) s = .next t ∧ (t.reg 0x3010008).toNat = e.toNat * 2 ^ 32 + m.toNat ∧
        ((t.reg 0x3010018).getLsbD 61 = true ↔ own) ∧ t.plane.arrived = [] ∧ t.mem = s.mem) ∧
    (∃ t, exec (.nakBurst h lost) s = .next t ∧ t = { s1 with plane := t.plane } ∧ (t.plane.naks = 1 ∨ t.plane.naks = s.plane.naks + 1) ∧
      t.plane.resend = s.plane.resend ++ (if s.plane.kept.any fun k => decide (k.h.gseq = lost) then [lost.toNat] else [])) ∧
    (bits (s.reg 0x3020010) 57 56 = 0 → exec (.timingBurst h tm) s = .next (s1.followUp tm)) ∧
    (bits (s.reg 0x3020010) 57 56 ≠ 0 → exec (.timingBurst h tm) s = .next s1) ∧
    ∃ t, exec (.controlBurst h lv) s = .next t ∧ bits (t.reg 0x3010018) 60 59 = lv.toNat ∧ t.reg 0x3010010 = h.gseq ∧ t.mem = s.mem

/-- R429, R444, R447, R448: TOKEN_TIMEOUT: where the member named by the last token burst has been silent too long, the proposal without it
is sent, where the key epoch has room for it; UNCORRECTED_BURST: a burst with an error is missing from then on, and after its third failure this
package leaves the view by a proposal of the next number (log 56). -/
def LostTokensAndBursts : Prop :=
  ∀ (x : BitVec 5) (g : BitVec 64) (s : State),
    (s.tokenLost x.toNat = false ∨ s.planeFits 1 = false → exec (.tokenTimeout x) s = .next s) ∧
    (s.tokenLost x.toNat = true → s.planeFits 1 = true →
      let mask := bits (s.reg 0x3010008) 31 0
      let gone := (List.range 32).filter fun j =>
        mask.testBit j && (decide (j = x.toNat) || decide (memberDist mask x.toNat j < memberDist mask x.toNat (myPos s)))
      exec (.tokenTimeout x) s = .next (s.sendBurst (.proposal (bits (s.reg 0x3010008) 63 32 + 1) (mask - (gone.map (2 ^ ·)).sum)))) ∧
    (bits (s.reg 0x3010018) 63 62 ≠ 1 ∨ g.toNat ≤ (s.reg 0x3010010).toNat ∨ (∃ b ∈ s.plane.held, b.h.gseq = g) →
      exec (.uncorrectedBurst g) s = .next s) ∧
    (bits (s.reg 0x3010018) 63 62 = 1 → (s.reg 0x3010010).toNat < g.toNat → (∀ b ∈ s.plane.held, b.h.gseq ≠ g) →
      let n := mget 0 s.plane.lost g.toNat + 1
      (n < 3 → exec (.uncorrectedBurst g) s = .next { s with plane := { s.plane with lost := mput s.plane.lost g.toNat n } }) ∧
      (3 ≤ n → s.plane.dataId = [] → ∃ t, exec (.uncorrectedBurst g) s = .next t ∧ bits (t.reg 0x3010018) 63 62 = 2 ∧
        (s.planeFits 1 = true → ∃ b : Burst, OutMsg.burst b ∈ t.sent ∧ b.body = .proposal (bits (s.reg 0x3010008) 63 32 + 1)
          (bits (s.reg 0x3010008) 31 0 - 2 ^ myPos s))))

/-- R445, R447, R449: BP_JOIN: a package with GO whose view holds it leaves STOPPED, where it holds a valid image (log 83), and STARLAT shows
the transit time that its training has measured. The lowest position of the view has the first hold (DESIGN CHOICE, log 33). -/
def PackagesJoin : Prop :=
  ∀ (s : State),
    let mask := bits (s.reg 0x3010008) 31 0
    let due : Prop := (s.reg 0x3010000).getLsbD 63 = true ∧ (s.reg 8).getLsbD 62 = false ∧ bits (s.reg 0x3010018) 63 62 = 0 ∧
      mask.testBit (myPos s) = true
    (¬ due → exec .bpJoin s = .next s) ∧
    (due → ∃ t, exec .bpJoin s = .next t ∧ bits (t.reg 0x3010018) 63 62 = 1 ∧
      t = { s with regs := t.regs, plane := t.plane, free := s.free + 1 } ∧
      bits (t.reg 0x3010018) 15 0 = (Config.starLat s.free).toNat ∧ bits (t.reg 0x3010018) 60 16 = bits (s.reg 0x3010018) 60 16 ∧
      ((t.reg 0x3010018).getLsbD 61 = true ↔ ∀ j, j < myPos s → mask.testBit j = false))

/-- R442, R450: a timing message is to leave: with the plane in its next hold, or by the management port, as DCFG.SRC says. -/
def timeLeaves (s t : State) (m : TimeSent) : Prop :=
  let src := bits (s.reg 0x3020010) 57 56
  (src = 0 → bits (s.reg 0x3010018) 63 62 = 1 → t = { s with plane := { s.plane with timeq := s.plane.timeq ++ [m] } }) ∧
  (src = 0 → bits (s.reg 0x3010018) 63 62 ≠ 1 → t = s) ∧ (src = 1 ∨ src = 2 → t = { s with sent := s.sent ++ [.time m] }) ∧ (src = 3 → t = s)

/-- R450, R451: FOLLOW_UP: the offset is kept; LOCKED is left above 2 ns, and reached after 16 offsets within 1.5 ns; in ACQUIRE a step
above 1 us is taken at once, else the rate is corrected within 100 ppm in LOCKED and 1,000 ppm otherwise. The offset, the step
and the rate come with the message (log 9). A slave then asks for the delay (log 89). -/
def OffsetsAreFollowed : Prop :=
  ∀ (m : TimeMsg) (s : State),
    let st := bits (s.reg 0x3020008) 63 62
    let off := m.offset.toInt
    let near : Prop := -1500 ≤ off ∧ off ≤ 1500
    (m.domain.toNat ≠ bits (s.reg 0x3020010) 55 48 → exec (.followUp m) s = .next s) ∧
    (m.domain.toNat = bits (s.reg 0x3020010) 55 48 → ∃ t u, exec (.followUp m) s = .next u ∧
      ((s.reg 0x3020008).getLsbD 61 = true → u = t) ∧
      ((s.reg 0x3020008).getLsbD 61 = false → timeLeaves t u (.delayReq m.domain.toNat)) ∧
      t = { s with regs := t.regs, lockCnt := t.lockCnt, datumNs := t.datumNs, datumSlew := t.datumSlew,
                   plane := { s.plane with syncAt := s.now, gmAt := s.now } } ∧
      let st1 := bits (t.reg 0x3020008) 63 62
      bits (t.reg 0x3020008) 31 0 = m.offset.toNat ∧ (∀ o, o ≠ 0x3020008 → t.reg o = s.reg o) ∧
      (st = 0 ∨ st = 3 → st1 = st) ∧ (st = 2 → st1 = if off < -2000 ∨ 2000 < off then 1 else 2) ∧
      (st = 1 → (near → 16 ≤ s.lockCnt + 1 → st1 = 2) ∧
        (near → s.lockCnt + 1 < 16 → st1 = 1 ∧ t.lockCnt = s.lockCnt + 1) ∧
        (¬ near → st1 = 1 ∧ t.lockCnt = 0)) ∧
      (st1 = 1 → 1000 < m.step.toNat → t.datumNs = s.datumNs + m.step ∧ t.datumSlew = 0) ∧
      (st1 ≠ 1 ∨ m.step.toNat ≤ 1000 → t.datumNs = s.datumNs ∧
        t.datumSlew = (let lim : Int := if st1 = 2 then 100000 else 1000000
          if m.slew.toInt < -lim then -lim else if lim < m.slew.toInt then lim else m.slew.toInt)))

/-- R450, R452: the other messages of the datum: SYNC starts acquisition, DELAY_REQ is answered by the grandmaster, DELAY_RESP renews
the offset, ANNOUNCE may change the grandmaster; HOLDOVER when no Sync has come for 8 intervals of 2^-7 s, and FREE_RUN when no grandmaster has
been heard for 1 s. -/
def TimeMessages : Prop :=
  ∀ (m : TimeMsg) (prio : BitVec 8) (cid : Word) (dom : BitVec 8) (gm : Bool) (s : State),
    let st := bits (s.reg 0x3020008) 63 62
    let here : Prop := m.domain.toNat = bits (s.reg 0x3020010) 55 48
    let silent (since n : Nat) : Prop := since + n * 8203125 ≤ s.now
    let enters (i : Instr) (n : Nat) (p : Plane) : Prop := ∃ t, exec i s = .next t ∧ t = { s with regs := t.regs, lockCnt := 0, plane := p } ∧
      bits (t.reg 0x3020008) 63 62 = n ∧ bits (t.reg 0x3020008) 60 0 = bits (s.reg 0x3020008) 60 0 ∧ ∀ o, o ≠ 0x3020008 → t.reg o = s.reg o
    let heard : Plane := { s.plane with syncAt := s.now, gmAt := s.now }
    (here → st = 0 ∨ st = 3 → enters (.sync m) 1 heard) ∧ (here → st = 1 ∨ st = 2 → exec (.sync m) s = .next { s with plane := heard }) ∧
    (¬ here → exec (.sync m) s = .next s) ∧
    (st = 2 → silent s.plane.syncAt 8 → enters .holdover 3 { s.plane with gmAt := s.now }) ∧
    (st ≠ 2 ∨ ¬ silent s.plane.syncAt 8 → exec .holdover s = .next s) ∧
    (st = 3 → silent s.plane.gmAt 128 → enters .freeRun 0 { s.plane with best := none }) ∧
    (st ≠ 3 ∨ ¬ silent s.plane.gmAt 128 → exec .freeRun s = .next s) ∧
    (here → (s.reg 0x3020008).getLsbD 61 = true → ∃ t, exec (.delayReq m) s = .next t ∧ timeLeaves s t (.delayResp m)) ∧
    (¬ here ∨ (s.reg 0x3020008).getLsbD 61 = false → exec (.delayReq m) s = .next s) ∧
    (here → ∃ t, exec (.delayResp m) s = .next t ∧ OnlyRegs s t [0x3020008] ∧ bits (t.reg 0x3020008) 31 0 = m.offset.toNat ∧
      bits (t.reg 0x3020008) 63 32 = bits (s.reg 0x3020008) 63 32) ∧
    (¬ here → exec (.delayResp m) s = .next s) ∧
    (dom.toNat ≠ bits (s.reg 0x3020010) 55 48 ∨ gm = false → exec (.announce prio cid dom gm) s = .next s) ∧
    (dom.toNat = bits (s.reg 0x3020010) 55 48 → gm = true → s.plane.best = none →
      ∃ t, exec (.announce prio cid dom gm) s = .next t ∧ t.plane.best = some (prio.toNat, cid.toNat) ∧
        ((t.reg 0x3020008).getLsbD 61 = true ↔ (s.reg 0x3020010).getLsbD 63 = true ∧
          (bits (s.reg 0x3020010) 7 0 < prio.toNat ∨
            (bits (s.reg 0x3020010) 7 0 = prio.toNat ∧ s.plane.clockId.toNat < cid.toNat))))

end Sys2Proof.Claims

/-- R7: memory is bytes. A byte written is the byte read there, every other byte stays, the canonical form stays, and bytes
stand with the lowest address first. An unlisted byte reads 0 (log 1). -/
def Obligations.MemoryBytes : Prop :=
  (∀ (m : Mem) (a : Nat) (b : Byte), (m.wr a b).rd a = b ∧ (∀ c, c ≠ a → (m.wr a b).rd c = m.rd c) ∧
    (m.wf = true → (m.wr a b).wf = true)) ∧
  (∀ (m : Mem) (a n v : Nat), leNat ((m.wrL (atAddr a (natLe n v))).rdN a n) = v % 256 ^ n ∧
    ∀ c, (c < a ∨ a + n ≤ c) → (m.wrL (atAddr a (natLe n v))).rd c = m.rd c) ∧
  ∀ n v i, i < n → (natLe n v)[i]? = some (BitVec.ofNat 8 (v / 256 ^ i))

/-- R37 and the Reset columns: after reset no sequencer runs; registers, queues, bypass windows, loops, scratchpads and rings
hold nothing; the algebra tables hold the real algebra (R189); no bucket is open, no launch lives, no input is to come. That
memory lists nothing is log 1, and that the fields of the package image are 0 until it is loaded is log 2: the model's choice. -/
def Obligations.ResetState : Prop :=
  State.reset.mem = [] ∧ State.reset.memOk = true ∧ State.reset.launches = [] ∧ State.reset.agenda = [] ∧ State.reset.inputs = [] ∧
  (∀ u q, (((State.reset.ctx u).seq q).run = false) ∧ ((State.reset.ctx u).seq q).pc = 0 ∧
    ((State.reset.ctx u).seq q).lp0 = ⟨0, 0, 0, false⟩ ∧ ((State.reset.ctx u).seq q).lp1 = ⟨0, 0, 0, false⟩ ∧
    ((State.reset.ctx u).seq q).ring = []) ∧
  (∀ u, (∀ i : Fin 32, (State.reset.ctx u).x[i] = 0 ∧ (State.reset.ctx u).x1[i] = 0 ∧ (State.reset.ctx u).x2[i] = 0 ∧
      (State.reset.ctx u).vr[i] = 0) ∧
    (∀ i : Fin 8, (State.reset.ctx u).xo[i] = 0 ∧ (State.reset.ctx u).vo[i] = 0 ∧ (State.reset.ctx u).mkr[i] = 0) ∧
    (∀ i : Fin 16, (State.reset.ctx u).xq[i] = 0 ∧ (State.reset.ctx u).vq[i] = 0 ∧ (State.reset.ctx u).tok[i] = 0) ∧
    (∀ i : Fin 3, (State.reset.ctx u).xb[i] = 0 ∧ (State.reset.ctx u).vb[i] = 0) ∧
    (State.reset.ctx u).fq = [] ∧ (State.reset.ctx u).sq = [] ∧ (State.reset.ctx u).cmds = [] ∧
    (∀ a, (State.reset.core u).spad.rd a = 0) ∧ (State.reset.core u).bankKind = .empty ∧
    (State.reset.ctx u).mdepth = 2 ∧ (State.reset.ctx u).variant = 0xF00 ∧
    ∀ i : Fin 2, (State.reset.ctx u).alg[i] = BitVec.ofNat 1024 (1 + 0x40 * 2 ^ 64)) ∧
  State.reset.reg 0 = 0x4453038400000000 ∧ State.reset.reg 0x3020010 = 0x80 ∧
  (∀ d : Fin 4, State.reset.reg (0x1010018 + 0x100000 * d.val) = 0x4000000000000000 ∧
    State.reset.reg (0x1010028 + 0x100000 * d.val) = 0x4000000000000000) ∧
  ∀ h b, ((State.reset.die h).buckets.lookup b) = none

/-- Log 3, R9, R27: a step takes the first micro-step of the agenda. The try of a sequencer fetches at its PC in its own stream's
address space and runs the instruction that the word decodes to; a word of no instruction raises as one; an event runs as its own
instruction; with nothing on the agenda the next cycle is set down; S issues nothing while an atomic of its own has not come back
(R274); and an act that names no unit of the package stops. The word
of a compute core is the four bytes, lowest address first, where a cached translation with R maps its PC; where they are poisoned none is read
(log 75). -/
def Obligations.AStepRunsTheDecodedInstruction : Prop :=
  (∀ (s : State) (u : Nat) (pc r : Word), isStack u = false → pc.toNat < 2 ^ 57 →
    s.tlbFind (clusterOf u) (s.ctx u).asid pc.toNat = some r → respR r = true →
    (s.core u).logCovers (s.ctx u).asid pc.toNat 4 = false → let pa := respPa r + pc.toNat % pageBytes (respSize r)
    (s.physPoison pa 4 = false → s.fetch u pc = .word (BitVec.ofNat 32 (leNat (s.mem.rdN pa 4)))) ∧
    (s.physPoison pa 4 = true → s.fetch u pc = .bad)) ∧
  (∀ (s : State) (u : Nat) (q : SeqId) (r : List Act) (w : BitVec 32), s.agenda = .issue u q :: r → unitOk u = true →
    let t := { s with agenda := r, turn := ⟨u, q⟩, verdict := .issued }
    (s.ctx u).lid ≠ 0 → (s.ctx u).poisoned = false → (q = .S → t.amoPending u = false) → t.deliverNow u q = none →
    t.fetch u ((s.ctx u).seq q).pc = .word w →
    (∀ i, decodeBytes q (natLe 4 w.toNat) = some i → (s.ctx u).readsPoison q i = false →
      step s = exec i { t with word := w }) ∧
    (decodeBytes q (natLe 4 w.toNat) = none → step s = exec .illegalInstruction { t with word := w })) ∧
  (∀ (s : State) (u : Nat) (r : List Act), s.agenda = .issue u .S :: r → unitOk u = true →
    let t := { s with agenda := r, turn := ⟨u, .S⟩, verdict := .issued }
    (s.ctx u).lid ≠ 0 → (s.ctx u).poisoned = false → t.amoPending u = true → step s = .next (stall frzSync t)) ∧
  (∀ (s : State) (i : Instr) (r : List Act), s.agenda = .ev i :: r → strangeUnit i = none →
    step s = exec i { s with agenda := r }) ∧
  (∀ (s : State) (i : Instr) (r : List Act) (u : Nat), s.agenda = .ev i :: r → strangeUnit i = some u →
    step s = .fault (.noSuchUnit u)) ∧
  ∀ (s : State), s.agenda = [] → step s = .next s.boundary

/-- The words of the encoding examples (Tables 3.11, 4.1, 6.10, 8.10, 12.12, 13.11 and 15.4), worked out from the encodings decode, each in
its stream, to the instruction they stand for. -/
def Obligations.WordsDecode : Prop :=
  decodeBytes .S [0x07, 0xB0, 0x07, 0x04] = some (.addi 0 1 59 7) ∧
  decodeBytes .S [0x00, 0x80, 0x07, 0x16] = some (.movk 0 1 3 0x8000) ∧
  decodeBytes .S [0xA0, 0x31, 0x14, 0x62] = some (.amoAdd 1 0 5 3 6 1) ∧
  decodeBytes .S [0x01, 0x28, 0x00, 0xFF] = some (.zloop 0 5 1) ∧
  decodeBytes .M [0x00, 0x00, 0xE0, 0xFE] = some (.halt) ∧
  decodeBytes .S [0x00, 0x40, 0x30, 0xFE] = some (.sig 2 2) ∧
  decodeBytes .V [0x4A, 0x2F, 0x04, 0x02] = some (.vaddS32 0 1 2 61 5 0) ∧
  decodeBytes .V [0x98, 0x18, 0x14, 0x82] = some (.vcvt 1 0 5 1 8 9 4 0) ∧
  decodeBytes .V [0x00, 0x1A, 0x05, 0xE4] = some (.vtrow 1 2 3 1) ∧
  decodeBytes .M [0x02, 0xE0, 0x01, 0x20] = some (.mma 0 0 1 0xE 2) ∧
  decodeBytes .M [0x00, 0x00, 0x00, 0x26] = some (.mswap) ∧
  decodeBytes .C [0xC0, 0xA2, 0x91, 0x20] = some (.cpy 1 2 3 4 5 1 0 0) ∧
  decodeBytes .C [0x75, 0x46, 0xA1, 0x3D] = some (.csendT 3 2 1 4 6 7 5) ∧
  decodeBytes .S [0xE0, 0xB1, 0x17, 0xB0] = some (.xrd 0 5 59 0x1E0) ∧
  decodeBytes .V [0x07, 0x19, 0x0C, 0xD2] = some (.vsrnd 0 3 1 9 0 7)

/-- R9: whatever a stream can hold, the word that the encoding tables give it decodes in that stream to the same
instruction, with every operand at every value the encoding admits. -/
def Obligations.EncodingsRoundTrip : Prop := ∀ i : Instr, Sys2Proof.Laws.RoundTrip.Statement i

/-- Log 1: every step keeps physical memory canonical, so that equal memories are equal data. -/
def Obligations.MemoryStaysCanonical : Prop :=
  ∀ s t : State, s.mem.wf = true → step s = .next t → t.mem.wf = true

/-- What the spec gives an effect runs: a step answers a next state, but where the act at the head of the agenda names no unit of
the package (log 3). No step refuses. -/
def Obligations.EveryStepGoesOn : Prop :=
  ∀ s : State, (∃ t, Goes s t) ∨ ∃ a r u, s.agenda = a :: r ∧ a.strange = some u ∧ step s = .fault (.noSuchUnit u)

/-- Integer, bit-count and immediate instructions of S issue and give their results: ScalarTwoSourceResults, ScalarBitCounts,
ScalarImmediateResults. -/
def Obligations.ScalarIntegerResults : Prop :=
  Sys2Proof.Claims.ScalarTwoSourceResults ∧ Sys2Proof.Claims.ScalarBitCounts ∧ Sys2Proof.Claims.ScalarImmediateResults

/-- Operand codes of S read what their table says, and illegal ones raise 0x01: OperandCodesMeanTable12, IllegalOperandCodesRaise. -/
def Obligations.OperandCodesOfS : Prop :=
  Sys2Proof.Claims.OperandCodesMeanTable12 ∧ Sys2Proof.Claims.IllegalOperandCodesRaise

/-- Register-only instructions of every stream leave everything else unchanged: ScalarRegisterFrame, VectorRegisterFrame,
MatrixAndCopyRegisterFrame, ChannelCommandFrame. -/
def Obligations.RegisterFrames : Prop :=
  Sys2Proof.Claims.ScalarRegisterFrame ∧ Sys2Proof.Claims.VectorRegisterFrame ∧ Sys2Proof.Claims.MatrixAndCopyRegisterFrame ∧
  Sys2Proof.Claims.ChannelCommandFrame

/-- Results land on their cycle, in order, in the place their operand code names: LandedResultPlace, ResultsLandWhenDue. -/
def Obligations.ResultsLand : Prop :=
  Sys2Proof.Claims.LandedResultPlace ∧ Sys2Proof.Claims.ResultsLandWhenDue

/-- Branches, calls and jumps go where they say, and zloop sets its loop: TakenBranchLeaves, BranchesTakenAndNot, CallsLinkAndJump,
JumpsAreTaken, ZloopSetsItsLoop. -/
def Obligations.BranchesAndJumps : Prop :=
  Sys2Proof.Claims.TakenBranchLeaves ∧ Sys2Proof.Claims.BranchesTakenAndNot ∧ Sys2Proof.Claims.CallsLinkAndJump ∧
  Sys2Proof.Claims.JumpsAreTaken ∧ Sys2Proof.Claims.ZloopSetsItsLoop

/-- Loads and stores of S complete, with the bytes they deliver and write: ScalarLoadsComplete, ScalarStoresComplete. -/
def Obligations.ScalarMemoryCompletes : Prop :=
  Sys2Proof.Claims.ScalarLoadsComplete ∧ Sys2Proof.Claims.ScalarStoresComplete

/-- Misaligned and impossible accesses of S and of atomics raise their causes: ScalarAccessChecks, AtomicChecks. -/
def Obligations.ScalarMemoryChecks : Prop :=
  Sys2Proof.Claims.ScalarAccessChecks ∧ Sys2Proof.Claims.AtomicChecks

/-- Stores change no byte outside those they address: ScalarStoreFrame, VectorStoreFrame. -/
def Obligations.StoreFrames : Prop :=
  Sys2Proof.Claims.ScalarStoreFrame ∧ Sys2Proof.Claims.VectorStoreFrame

/-- Fences, barriers, waitt and fpush issue when what they wait for has come about: FenceCompletes, BarriersComplete,
WaittAndFpushComplete. -/
def Obligations.FencesAndBarriers : Prop :=
  Sys2Proof.Claims.FenceCompletes ∧ Sys2Proof.Claims.BarriersComplete ∧ Sys2Proof.Claims.WaittAndFpushComplete

/-- Taking a cause fills the fault record and enters the handler, or ends the launch: BreakAndTrapEnter, TakingACause,
CausesWithoutAHandler. -/
def Obligations.ExceptionEntry : Prop :=
  Sys2Proof.Claims.BreakAndTrapEnter ∧ Sys2Proof.Claims.TakingACause ∧ Sys2Proof.Claims.CausesWithoutAHandler

/-- System instructions outside a handler and stack instructions outside a stack core raise 0x01: SystemInstructionsArePrivileged,
StackInstructionsArePrivileged. -/
def Obligations.PrivilegedInstructions : Prop :=
  Sys2Proof.Claims.SystemInstructionsArePrivileged ∧ Sys2Proof.Claims.StackInstructionsArePrivileged

/-- hret gives the trapped context back, in a timed cluster once every handler has returned: ReturnFromTheHandler,
TimedReturnWaitsForAll. -/
def Obligations.ExceptionReturn : Prop :=
  Sys2Proof.Claims.ReturnFromTheHandler ∧ Sys2Proof.Claims.TimedReturnWaitsForAll

/-- Operand codes and fields of V: what they read and which are illegal: VectorOperandCodes, VectorFieldChecks. -/
def Obligations.VectorOperands : Prop :=
  Sys2Proof.Claims.VectorOperandCodes ∧ Sys2Proof.Claims.VectorFieldChecks

/-- Compares, mask operations and vflag: VectorMaskResults, VectorFlagCounts. -/
def Obligations.VectorMasksAndFlags : Prop :=
  Sys2Proof.Claims.VectorMaskResults ∧ Sys2Proof.Claims.VectorFlagCounts

/-- Reductions and lane moves of V: VectorReductions, VectorMoves. -/
def Obligations.VectorReductionsAndMoves : Prop :=
  Sys2Proof.Claims.VectorReductions ∧ Sys2Proof.Claims.VectorMoves

/-- Conversions of V and MX packing: VectorConversions, VectorMxPack. -/
def Obligations.VectorConversionsAndPack : Prop :=
  Sys2Proof.Claims.VectorConversions ∧ Sys2Proof.Claims.VectorMxPack

/-- Row and indexed accesses of V complete: VectorRowAccessesComplete, VectorIndexedAccessesComplete, VectorIndexedThroughWindow. -/
def Obligations.VectorMemory : Prop :=
  Sys2Proof.Claims.VectorRowAccessesComplete ∧ Sys2Proof.Claims.VectorIndexedAccessesComplete ∧ Sys2Proof.Claims.VectorIndexedThroughWindow

/-- vsend, vrecv and the accumulator accesses of V: VectorSendAndReceive, VectorAccumulatorAccess. -/
def Obligations.VectorTransfers : Prop :=
  Sys2Proof.Claims.VectorSendAndReceive ∧ Sys2Proof.Claims.VectorAccumulatorAccess

/-- Tile registers: configuration, rows, columns, checks, saving and loading: TileConfiguration, TileRowsAndColumns, TileChecks,
TileSaveAndLoad. -/
def Obligations.TileRegisters : Prop :=
  Sys2Proof.Claims.TileConfiguration ∧ Sys2Proof.Claims.TileRowsAndColumns ∧ Sys2Proof.Claims.TileChecks ∧ Sys2Proof.Claims.TileSaveAndLoad

/-- Tile commands, mzero and mswap complete, and their checks raise: TileCommandsIssue, TileCommandCauses, TileCommandChecks,
MatrixZeroAndSwap. -/
def Obligations.TileCommands : Prop :=
  Sys2Proof.Claims.TileCommandsIssue ∧ Sys2Proof.Claims.TileCommandCauses ∧ Sys2Proof.Claims.TileCommandChecks ∧
  Sys2Proof.Claims.MatrixZeroAndSwap

/-- Channel commands enter their channel, and the checks of cpy raise in order: ChannelCommandsEnqueue, TensorCopyAndRecordCache,
CopyChecksInOrder. -/
def Obligations.ChannelCommands : Prop :=
  Sys2Proof.Claims.ChannelCommandsEnqueue ∧ Sys2Proof.Claims.TensorCopyAndRecordCache ∧ Sys2Proof.Claims.CopyChecksInOrder

/-- Buckets, rows and publications of a stack core: BucketsOpenAndClose, BkwaitTakesACompleteBucket, RowsAreHeldAndReleased, PubAndChadd. -/
def Obligations.StackBuckets : Prop :=
  Sys2Proof.Claims.BucketsOpenAndClose ∧ Sys2Proof.Claims.BkwaitTakesACompleteBucket ∧ Sys2Proof.Claims.RowsAreHeldAndReleased ∧
  Sys2Proof.Claims.PubAndChadd

/-- Arriving data, denials, released stalls and sends change what they are for: DataArrives, DenialsArrive, StallsAreReleased,
SentDataArrives. -/
def Obligations.DataArrives : Prop :=
  Sys2Proof.Claims.DataArrives ∧ Sys2Proof.Claims.DenialsArrive ∧ Sys2Proof.Claims.StallsAreReleased ∧ Sys2Proof.Claims.SentDataArrives

/-- Cluster-window accesses, multicast writes and array commands take effect: WindowAccessesArePerformed, MulticastWritesArePerformed,
ArrayCommandsStart, ArrayCommandsEnd. -/
def Obligations.WindowsAndArray : Prop :=
  Sys2Proof.Claims.WindowAccessesArePerformed ∧ Sys2Proof.Claims.MulticastWritesArePerformed ∧ Sys2Proof.Claims.ArrayCommandsStart ∧
  Sys2Proof.Claims.ArrayCommandsEnd

/-- Chunks of copies start and commit, and copies complete, miss or time out: ChunksStart, ChunksCommit, ChunksAreCounted, ScaleEntriesEnter,
CopiesComplete, DeadlinesAreMissed, RemoteChunksTimeOut, TileTableWrites. -/
def Obligations.CopyEvents : Prop :=
  Sys2Proof.Claims.ChunksStart ∧ Sys2Proof.Claims.ChunksCommit ∧ Sys2Proof.Claims.ChunksAreCounted ∧ Sys2Proof.Claims.ScaleEntriesEnter ∧ Sys2Proof.Claims.CopiesComplete ∧
  Sys2Proof.Claims.DeadlinesAreMissed ∧ Sys2Proof.Claims.RemoteChunksTimeOut ∧ Sys2Proof.Claims.TileTableWrites

/-- Awari packets are sent, resent, abandoned, answered and summed: PacketAnswersArrive, PacketsAreResent, LostPacketsAreAbandoned,
PacketsAreAnswered, SegmentsAreSummed. -/
def Obligations.PacketEvents : Prop :=
  Sys2Proof.Claims.PacketAnswersArrive ∧ Sys2Proof.Claims.PacketsAreResent ∧ Sys2Proof.Claims.LostPacketsAreAbandoned ∧
  Sys2Proof.Claims.PacketsAreAnswered ∧ Sys2Proof.Claims.SegmentsAreSummed

/-- Global accesses are performed as their turn comes: GlobalAccessesArePerformed, GlobalAccessesTakeTurns. -/
def Obligations.GlobalAccesses : Prop :=
  Sys2Proof.Claims.GlobalAccessesArePerformed ∧ Sys2Proof.Claims.GlobalAccessesTakeTurns

/-- Walks, shootdowns, resolves and region fills: RegionChunksAreFilled, WalksEnd, ShootdownsDropPages, ResolvesFreeAccesses. -/
def Obligations.Translations : Prop :=
  Sys2Proof.Claims.RegionChunksAreFilled ∧ Sys2Proof.Claims.WalksEnd ∧ Sys2Proof.Claims.ShootdownsDropPages ∧
  Sys2Proof.Claims.ResolvesFreeAccesses

/-- Pages move between tiers and page lists are refreshed: PagesMove, TierRegistersAreWritten, ListEntriesAreRefreshed. -/
def Obligations.PagesAndLists : Prop :=
  Sys2Proof.Claims.PagesMove ∧ Sys2Proof.Claims.TierRegistersAreWritten ∧ Sys2Proof.Claims.ListEntriesAreRefreshed

/-- Context swaps and spills end, watchdogs fire and handlers are loaded again: SwapsEnd, SpillsEnd, WatchdogsFire, HandlersAreReloaded. -/
def Obligations.ContextSwaps : Prop :=
  Sys2Proof.Claims.SwapsEnd ∧ Sys2Proof.Claims.SpillsEnd ∧ Sys2Proof.Claims.WatchdogsFire ∧ Sys2Proof.Claims.HandlersAreReloaded

/-- Errors poison, barriers release and words without meaning raise: ErrorsAreCountedAndPoison, BarriersReleaseTheirMembers,
WordsWithoutMeaningRaise. -/
def Obligations.ErrorsAndBarriers : Prop :=
  Sys2Proof.Claims.ErrorsAreCountedAndPoison ∧ Sys2Proof.Claims.BarriersReleaseTheirMembers ∧ Sys2Proof.Claims.WordsWithoutMeaningRaise

/-- Launch queues: notification, descriptors, binding, entries and launch checks: NotifyMovesTheTail, QueueDescriptorsAreWritten,
QueuesAgeAndBind, QueueEntriesAreTaken, LaunchChecksDecide. -/
def Obligations.QueueEvents : Prop :=
  Sys2Proof.Claims.NotifyMovesTheTail ∧ Sys2Proof.Claims.QueueDescriptorsAreWritten ∧ Sys2Proof.Claims.QueuesAgeAndBind ∧
  Sys2Proof.Claims.QueueEntriesAreTaken ∧ Sys2Proof.Claims.LaunchChecksDecide

/-- Launches start and end, and their records are written: LaunchesStart, LaunchesEnd, KilledLaunchesEnd, EventHeadsAreWritten,
RecordControlIsWritten. -/
def Obligations.LaunchEvents : Prop :=
  Sys2Proof.Claims.LaunchesStart ∧ Sys2Proof.Claims.LaunchesEnd ∧ Sys2Proof.Claims.KilledLaunchesEnd ∧
  Sys2Proof.Claims.EventHeadsAreWritten ∧ Sys2Proof.Claims.RecordControlIsWritten

/-- Power, partitions, observation, alarms and registers: PowerIsControlled, PartitionsAreWritten, ObservationAndAlarm,
RegistersAreWritten, TheHostReachesHbm. -/
def Obligations.PackageControl : Prop :=
  Sys2Proof.Claims.PowerIsControlled ∧ Sys2Proof.Claims.PartitionsAreWritten ∧ Sys2Proof.Claims.ObservationAndAlarm ∧
  Sys2Proof.Claims.RegistersAreWritten ∧ Sys2Proof.Claims.TheHostReachesHbm

/-- Bucket and job records, core and fabric registers, and package reset: BucketAndJobRecords, CoreRegistersAreWritten,
FabricRegistersAreWritten, ThePackageIsReset. -/
def Obligations.PackageRecords : Prop :=
  Sys2Proof.Claims.BucketAndJobRecords ∧ Sys2Proof.Claims.CoreRegistersAreWritten ∧ Sys2Proof.Claims.FabricRegistersAreWritten ∧
  Sys2Proof.Claims.ThePackageIsReset

/-- A direct port's flits, control and training: FlitsAreChecked, LinkControlFlits, PortsTrainAndDegrade. -/
def Obligations.PortLinks : Prop :=
  Sys2Proof.Claims.FlitsAreChecked ∧ Sys2Proof.Claims.LinkControlFlits ∧ Sys2Proof.Claims.PortsTrainAndDegrade

/-- Scheduled and open traffic of direct ports, and answers: RemoteChunksLand, LateAddsLand, ScheduledTraffic, OpenTraffic, AnswersArrive. -/
def Obligations.PortTraffic : Prop :=
  Sys2Proof.Claims.RemoteChunksLand ∧ Sys2Proof.Claims.LateAddsLand ∧ Sys2Proof.Claims.ScheduledTraffic ∧ Sys2Proof.Claims.OpenTraffic ∧
  Sys2Proof.Claims.AnswersArrive

/-- Bursts of the optical plane are discarded or performed, and lost ones found: BurstsAreDiscarded, BurstsArePerformed,
LostTokensAndBursts, PackagesJoin. -/
def Obligations.OpticalPlane : Prop :=
  Sys2Proof.Claims.BurstsAreDiscarded ∧ Sys2Proof.Claims.BurstsArePerformed ∧ Sys2Proof.Claims.LostTokensAndBursts ∧
  Sys2Proof.Claims.PackagesJoin

/-- The datum follows its reference, and time messages are sent: OffsetsAreFollowed, TimeMessages. -/
def Obligations.DatumTime : Prop :=
  Sys2Proof.Claims.OffsetsAreFollowed ∧ Sys2Proof.Claims.TimeMessages
end

