-- ==== Sys2Proof/Laws/Memory.lean ====
section
/-! SUPPORT. The laws of a memory: a byte written reads back, every other byte reads as before, and each operation keeps the
canonical form, so that equal memories are equal lists. -/
namespace Sys2Proof.Machine

/-- The canonical form as a proposition. -/
theorem Mem.wf_iff (m : Mem) : m.wf = true ↔ m.Pairwise (fun p q => p.1 < q.1) ∧ ∀ p ∈ m, p.2 ≠ 0 := by
  simp [Mem.wf]
/-- The empty memory has it. -/
theorem Mem.wf_nil : Mem.wf [] = true := by decide
/-- Reset memory has it. -/
theorem State.reset_mem_wf : State.reset.mem.wf = true := Mem.wf_nil

theorem Mem.rd_filter_self (m : Mem) (a : Nat) : Mem.rd (m.filter fun p => p.1 ≠ a) a = 0 := by
  induction m with
  | nil => rfl
  | cons p l ih =>
    by_cases h : p.1 = a
    · simpa [h] using ih
    · rw [List.filter_cons_of_pos (by simp [h])]
      simpa [Mem.rd, mget, h] using ih
theorem Mem.rd_filter_ne (m : Mem) {a b : Nat} (h : b ≠ a) : Mem.rd (m.filter fun p => p.1 ≠ a) b = m.rd b := by
  induction m with
  | nil => rfl
  | cons p l ih =>
    by_cases e : p.1 = a
    · simpa [e, Mem.rd, mget, Ne.symm h] using ih
    · rw [List.filter_cons_of_pos (by simp [e])]
      by_cases e' : p.1 = b
      · simp [Mem.rd, mget, e']
      · simpa [Mem.rd, mget, e'] using ih
theorem Mem.rd_ins_self (m : Mem) (a : Nat) (b : Byte) (h : ∀ p ∈ m, p.1 ≠ a) : (Mem.ins m a b).rd a = b := by
  induction m with
  | nil => simp [Mem.ins, Mem.rd, mget]
  | cons p l ih =>
    simp only [Mem.ins]
    split
    · simp [Mem.rd, mget]
    · have := ih fun q hq => h q (List.mem_cons_of_mem _ hq)
      simpa [Mem.rd, mget, h p List.mem_cons_self] using this
theorem Mem.rd_ins_ne (m : Mem) {a c : Nat} (b : Byte) (h : c ≠ a) : (Mem.ins m a b).rd c = m.rd c := by
  induction m with
  | nil => simp [Mem.ins, Mem.rd, mget, Ne.symm h]
  | cons p l ih =>
    simp only [Mem.ins]
    split
    · simp [Mem.rd, mget, Ne.symm h]
    · by_cases e : p.1 = c
      · simp [Mem.rd, mget, e]
      · simpa [Mem.rd, mget, e] using ih

/-- A byte written reads back. -/
@[simp] theorem Mem.rd_wr_self (m : Mem) (a : Nat) (b : Byte) : (m.wr a b).rd a = b := by
  simp only [Mem.wr]
  split
  · rename_i h; rw [Mem.rd_filter_self, h]
  · exact Mem.rd_ins_self _ _ _ fun p hp => by simpa using (List.mem_filter.mp hp).2
/-- Every other byte reads as before. -/
theorem Mem.rd_wr_ne (m : Mem) {a c : Nat} (b : Byte) (h : c ≠ a) : (m.wr a b).rd c = m.rd c := by
  simp only [Mem.wr]
  split
  · exact Mem.rd_filter_ne m h
  · rw [Mem.rd_ins_ne _ _ h, Mem.rd_filter_ne m h]
/-- Bytes outside a list of writes read as before. -/
theorem Mem.rd_wrL_ne (m : Mem) (l : List (Nat × Byte)) {c : Nat} (h : ∀ p ∈ l, p.1 ≠ c) : (m.wrL l).rd c = m.rd c := by
  induction l generalizing m with
  | nil => rfl
  | cons p l ih =>
    show (Mem.wrL (m.wr p.1 p.2) l).rd c = m.rd c
    rw [ih _ fun q hq => h q (List.mem_cons_of_mem _ hq), Mem.rd_wr_ne _ _ (Ne.symm (h p List.mem_cons_self))]

theorem Mem.ins_mem (m : Mem) (a : Nat) (b : Byte) (p : Nat × Byte) (h : p ∈ Mem.ins m a b) : p = (a, b) ∨ p ∈ m := by
  induction m with
  | nil => simpa [Mem.ins] using h
  | cons q l ih =>
    simp only [Mem.ins] at h
    split at h
    · simpa using h
    · rcases List.mem_cons.mp h with h | h
      · exact .inr (h ▸ List.mem_cons_self)
      · rcases ih h with h | h
        · exact .inl h
        · exact .inr (List.mem_cons_of_mem _ h)
theorem Mem.ins_sorted (m : Mem) (a : Nat) (b : Byte) (hs : m.Pairwise fun p q => p.1 < q.1) (hn : ∀ p ∈ m, p.1 ≠ a) :
    (Mem.ins m a b).Pairwise fun p q => p.1 < q.1 := by
  induction m with
  | nil => simp [Mem.ins]
  | cons q l ih =>
    have hq := List.pairwise_cons.mp hs
    simp only [Mem.ins]
    split
    · rename_i h
      refine List.pairwise_cons.mpr ⟨fun p hp => ?_, hs⟩
      rcases List.mem_cons.mp hp with e | e
      · exact e ▸ h
      · exact Nat.lt_trans h (hq.1 p e)
    · rename_i h
      have hne := hn q List.mem_cons_self
      refine List.pairwise_cons.mpr ⟨fun p hp => ?_, ih hq.2 fun p hp => hn p (List.mem_cons_of_mem _ hp)⟩
      rcases Mem.ins_mem l a b p hp with e | e
      · subst e; show q.1 < a; omega
      · exact hq.1 p e

/-- A write of one byte keeps the canonical form. -/
theorem Mem.wf_wr (m : Mem) (a : Nat) (b : Byte) (h : m.wf = true) : (m.wr a b).wf = true := by
  obtain ⟨hs, hz⟩ := (Mem.wf_iff m).mp h
  have hs' : (m.filter fun p => p.1 ≠ a).Pairwise fun p q => p.1 < q.1 := hs.sublist List.filter_sublist
  have hz' : ∀ p ∈ m.filter fun p => p.1 ≠ a, p.2 ≠ 0 := fun p hp => hz p (List.mem_filter.mp hp).1
  simp only [Mem.wr]
  split
  · exact (Mem.wf_iff _).mpr ⟨hs', hz'⟩
  · rename_i hb
    refine (Mem.wf_iff _).mpr ⟨Mem.ins_sorted _ _ _ hs' fun p hp => by simpa using (List.mem_filter.mp hp).2, fun p hp => ?_⟩
    rcases Mem.ins_mem _ _ _ _ hp with e | e
    · subst e; exact hb
    · exact hz' p e
/-- A write of any bytes keeps the canonical form. -/
theorem Mem.wf_wrL (m : Mem) (l : List (Nat × Byte)) (h : m.wf = true) : (m.wrL l).wf = true := by
  induction l generalizing m with
  | nil => exact h
  | cons p l ih => exact ih _ (Mem.wf_wr m p.1 p.2 h)
/-- Two memories in canonical form that read alike are the same list. -/
theorem Mem.ext_of_wf (m n : Mem) (hm : m.wf = true) (hn : n.wf = true) (h : ∀ a, m.rd a = n.rd a) : m = n := by
  have key : ∀ (m : Mem) (a : Nat), (∀ p ∈ m, a < p.1) → m.rd a = 0 := by
    intro m a hp
    induction m with
    | nil => rfl
    | cons p l ih =>
      have hlt := hp p List.mem_cons_self
      have hne : p.1 ≠ a := Nat.ne_of_gt hlt
      simpa [Mem.rd, mget, hne] using ih fun q hq => hp q (List.mem_cons_of_mem _ hq)
  induction m generalizing n with
  | nil =>
    cases n with
    | nil => rfl
    | cons q r =>
      obtain ⟨_, hz⟩ := (Mem.wf_iff _).mp hn
      have := h q.1
      simp [Mem.rd, mget] at this
      exact absurd this.symm (hz q List.mem_cons_self)
  | cons p l ih =>
    obtain ⟨hs, hz⟩ := (Mem.wf_iff _).mp hm
    have hs := List.pairwise_cons.mp hs
    cases n with
    | nil =>
      have := h p.1
      simp [Mem.rd, mget] at this
      exact absurd this (hz p List.mem_cons_self)
    | cons q r =>
      obtain ⟨hs', hz'⟩ := (Mem.wf_iff _).mp hn
      have hs' := List.pairwise_cons.mp hs'
      have hpq : p.1 = q.1 := by
        rcases Nat.lt_trichotomy p.1 q.1 with hlt | heq | hlt
        · have h1 := h p.1
          have h2 := key (q :: r) p.1 fun x hx => by
            rcases List.mem_cons.mp hx with e | e
            · exact e ▸ hlt
            · exact Nat.lt_trans hlt (hs'.1 x e)
          rw [h2] at h1
          simp [Mem.rd, mget] at h1
          exact absurd h1 (hz p List.mem_cons_self)
        · exact heq
        · have h1 := h q.1
          have h2 := key (p :: l) q.1 fun x hx => by
            rcases List.mem_cons.mp hx with e | e
            · exact e ▸ hlt
            · exact Nat.lt_trans hlt (hs.1 x e)
          rw [h2] at h1
          simp [Mem.rd, mget] at h1
          exact absurd h1.symm (hz' q List.mem_cons_self)
      have hv : p.2 = q.2 := by
        have h1 := h p.1
        simpa [Mem.rd, mget, hpq] using h1
      have hl : l = r := by
        refine ih r ((Mem.wf_iff _).mpr ⟨hs.2, fun x hx => hz x (List.mem_cons_of_mem _ hx)⟩)
          ((Mem.wf_iff _).mpr ⟨hs'.2, fun x hx => hz' x (List.mem_cons_of_mem _ hx)⟩) fun a => ?_
        by_cases ha : p.1 = a
        · rw [key l a fun x hx => ha ▸ hs.1 x hx, key r a fun x hx => (hpq ▸ ha) ▸ hs'.1 x hx]
        · have h1 := h a
          simpa [Mem.rd, mget, ha, hpq ▸ ha] using h1
      rw [hl, Prod.ext hpq hv]

/-- The number that the bytes of a number form (R7). -/
theorem leNat_natLe (n v : Nat) : leNat (natLe n v) = v % 256 ^ n := by
  induction n generalizing v with
  | zero => simp [natLe, leNat, Nat.mod_one]
  | succ n ih =>
    rw [natLe, leNat, ih, BitVec.toNat_ofNat, show (256 : Nat) ^ (n + 1) = 256 * 256 ^ n by rw [Nat.pow_succ, Nat.mul_comm],
      Nat.mod_mul]
@[simp] theorem natLe_length (n v : Nat) : (natLe n v).length = n := by
  induction n generalizing v with
  | zero => rfl
  | succ n ih => simp [natLe, ih]

end Sys2Proof.Machine
end

