-- ==== Sys2Proof/Laws/State.lean ====
section
/-! SUPPORT. The fields that each update of the state leaves as they were, and what the accessors of maps, units, contexts and
sequencers read after one. No proof need unfold a record update. -/
namespace Sys2Proof.Machine

@[simp] theorem State.setCore_now (s : State) (u : Nat) (c : Core) : (s.setCore u c).now = s.now := rfl
@[simp] theorem State.setCore_ctt (s : State) (u : Nat) (c : Core) : (s.setCore u c).ctt = s.ctt := rfl
@[simp] theorem State.setCore_mem (s : State) (u : Nat) (c : Core) : (s.setCore u c).mem = s.mem := rfl
@[simp] theorem State.setCore_regs (s : State) (u : Nat) (c : Core) : (s.setCore u c).regs = s.regs := rfl
@[simp] theorem State.setCore_tlb (s : State) (u : Nat) (c : Core) : (s.setCore u c).tlb = s.tlb := rfl
@[simp] theorem State.setCore_seen (s : State) (u : Nat) (c : Core) : (s.setCore u c).seen = s.seen := rfl
@[simp] theorem State.setCore_walks (s : State) (u : Nat) (c : Core) : (s.setCore u c).walks = s.walks := rfl
@[simp] theorem State.setCore_outs (s : State) (u : Nat) (c : Core) : (s.setCore u c).outs = s.outs := rfl
@[simp] theorem State.setCore_shoot (s : State) (u : Nat) (c : Core) : (s.setCore u c).shoot = s.shoot := rfl
@[simp] theorem State.setCore_absent (s : State) (u : Nat) (c : Core) : (s.setCore u c).absent = s.absent := rfl
@[simp] theorem State.setCore_launches (s : State) (u : Nat) (c : Core) : (s.setCore u c).launches = s.launches := rfl
@[simp] theorem State.setCore_hbm (s : State) (u : Nat) (c : Core) : (s.setCore u c).hbm = s.hbm := rfl
@[simp] theorem State.setCore_ports (s : State) (u : Nat) (c : Core) : (s.setCore u c).ports = s.ports := rfl
@[simp] theorem State.setCore_plane (s : State) (u : Nat) (c : Core) : (s.setCore u c).plane = s.plane := rfl
@[simp] theorem State.setCore_datumNs (s : State) (u : Nat) (c : Core) : (s.setCore u c).datumNs = s.datumNs := rfl
@[simp] theorem State.setCore_datumFr (s : State) (u : Nat) (c : Core) : (s.setCore u c).datumFr = s.datumFr := rfl
@[simp] theorem State.setCore_datumSlew (s : State) (u : Nat) (c : Core) : (s.setCore u c).datumSlew = s.datumSlew := rfl
@[simp] theorem State.setCore_lockCnt (s : State) (u : Nat) (c : Core) : (s.setCore u c).lockCnt = s.lockCnt := rfl
@[simp] theorem State.setCore_misc (s : State) (u : Nat) (c : Core) : (s.setCore u c).misc = s.misc := rfl
@[simp] theorem State.setCore_packets (s : State) (u : Nat) (c : Core) : (s.setCore u c).packets = s.packets := rfl
@[simp] theorem State.setCore_remote (s : State) (u : Nat) (c : Core) : (s.setCore u c).remote = s.remote := rfl
@[simp] theorem State.setCore_fires (s : State) (u : Nat) (c : Core) : (s.setCore u c).fires = s.fires := rfl
@[simp] theorem State.setCore_stamps (s : State) (u : Nat) (c : Core) : (s.setCore u c).stamps = s.stamps := rfl
@[simp] theorem State.setCore_clocks (s : State) (u : Nat) (c : Core) : (s.setCore u c).clocks = s.clocks := rfl
@[simp] theorem State.setCore_tokHb (s : State) (u : Nat) (c : Core) : (s.setCore u c).tokHb = s.tokHb := rfl
@[simp] theorem State.setCore_bbs (s : State) (u : Nat) (c : Core) : (s.setCore u c).bbs = s.bbs := rfl
@[simp] theorem State.setCore_landed (s : State) (u : Nat) (c : Core) : (s.setCore u c).landed = s.landed := rfl
@[simp] theorem State.setCore_sched (s : State) (u : Nat) (c : Core) : (s.setCore u c).sched = s.sched := rfl
@[simp] theorem State.setCore_turn (s : State) (u : Nat) (c : Core) : (s.setCore u c).turn = s.turn := rfl
@[simp] theorem State.setCore_word (s : State) (u : Nat) (c : Core) : (s.setCore u c).word = s.word := rfl
@[simp] theorem State.setCore_verdict (s : State) (u : Nat) (c : Core) : (s.setCore u c).verdict = s.verdict := rfl
@[simp] theorem State.setCore_agenda (s : State) (u : Nat) (c : Core) : (s.setCore u c).agenda = s.agenda := rfl
@[simp] theorem State.setCore_inputs (s : State) (u : Nat) (c : Core) : (s.setCore u c).inputs = s.inputs := rfl
@[simp] theorem State.setCore_free (s : State) (u : Nat) (c : Core) : (s.setCore u c).free = s.free := rfl
@[simp] theorem State.setCore_uid (s : State) (u : Nat) (c : Core) : (s.setCore u c).uid = s.uid := rfl
@[simp] theorem State.setCore_sent (s : State) (u : Nat) (c : Core) : (s.setCore u c).sent = s.sent := rfl
@[simp] theorem State.modCore_now (s : State) (u : Nat) (f : Core → Core) : (s.modCore u f).now = s.now := rfl
@[simp] theorem State.modCore_ctt (s : State) (u : Nat) (f : Core → Core) : (s.modCore u f).ctt = s.ctt := rfl
@[simp] theorem State.modCore_mem (s : State) (u : Nat) (f : Core → Core) : (s.modCore u f).mem = s.mem := rfl
@[simp] theorem State.modCore_regs (s : State) (u : Nat) (f : Core → Core) : (s.modCore u f).regs = s.regs := rfl
@[simp] theorem State.modCore_tlb (s : State) (u : Nat) (f : Core → Core) : (s.modCore u f).tlb = s.tlb := rfl
@[simp] theorem State.modCore_seen (s : State) (u : Nat) (f : Core → Core) : (s.modCore u f).seen = s.seen := rfl
@[simp] theorem State.modCore_walks (s : State) (u : Nat) (f : Core → Core) : (s.modCore u f).walks = s.walks := rfl
@[simp] theorem State.modCore_outs (s : State) (u : Nat) (f : Core → Core) : (s.modCore u f).outs = s.outs := rfl
@[simp] theorem State.modCore_shoot (s : State) (u : Nat) (f : Core → Core) : (s.modCore u f).shoot = s.shoot := rfl
@[simp] theorem State.modCore_absent (s : State) (u : Nat) (f : Core → Core) : (s.modCore u f).absent = s.absent := rfl
@[simp] theorem State.modCore_launches (s : State) (u : Nat) (f : Core → Core) : (s.modCore u f).launches = s.launches := rfl
@[simp] theorem State.modCore_hbm (s : State) (u : Nat) (f : Core → Core) : (s.modCore u f).hbm = s.hbm := rfl
@[simp] theorem State.modCore_ports (s : State) (u : Nat) (f : Core → Core) : (s.modCore u f).ports = s.ports := rfl
@[simp] theorem State.modCore_plane (s : State) (u : Nat) (f : Core → Core) : (s.modCore u f).plane = s.plane := rfl
@[simp] theorem State.modCore_datumNs (s : State) (u : Nat) (f : Core → Core) : (s.modCore u f).datumNs = s.datumNs := rfl
@[simp] theorem State.modCore_datumFr (s : State) (u : Nat) (f : Core → Core) : (s.modCore u f).datumFr = s.datumFr := rfl
@[simp] theorem State.modCore_datumSlew (s : State) (u : Nat) (f : Core → Core) : (s.modCore u f).datumSlew = s.datumSlew := rfl
@[simp] theorem State.modCore_lockCnt (s : State) (u : Nat) (f : Core → Core) : (s.modCore u f).lockCnt = s.lockCnt := rfl
@[simp] theorem State.modCore_misc (s : State) (u : Nat) (f : Core → Core) : (s.modCore u f).misc = s.misc := rfl
@[simp] theorem State.modCore_packets (s : State) (u : Nat) (f : Core → Core) : (s.modCore u f).packets = s.packets := rfl
@[simp] theorem State.modCore_remote (s : State) (u : Nat) (f : Core → Core) : (s.modCore u f).remote = s.remote := rfl
@[simp] theorem State.modCore_fires (s : State) (u : Nat) (f : Core → Core) : (s.modCore u f).fires = s.fires := rfl
@[simp] theorem State.modCore_stamps (s : State) (u : Nat) (f : Core → Core) : (s.modCore u f).stamps = s.stamps := rfl
@[simp] theorem State.modCore_clocks (s : State) (u : Nat) (f : Core → Core) : (s.modCore u f).clocks = s.clocks := rfl
@[simp] theorem State.modCore_tokHb (s : State) (u : Nat) (f : Core → Core) : (s.modCore u f).tokHb = s.tokHb := rfl
@[simp] theorem State.modCore_bbs (s : State) (u : Nat) (f : Core → Core) : (s.modCore u f).bbs = s.bbs := rfl
@[simp] theorem State.modCore_landed (s : State) (u : Nat) (f : Core → Core) : (s.modCore u f).landed = s.landed := rfl
@[simp] theorem State.modCore_sched (s : State) (u : Nat) (f : Core → Core) : (s.modCore u f).sched = s.sched := rfl
@[simp] theorem State.modCore_turn (s : State) (u : Nat) (f : Core → Core) : (s.modCore u f).turn = s.turn := rfl
@[simp] theorem State.modCore_word (s : State) (u : Nat) (f : Core → Core) : (s.modCore u f).word = s.word := rfl
@[simp] theorem State.modCore_verdict (s : State) (u : Nat) (f : Core → Core) : (s.modCore u f).verdict = s.verdict := rfl
@[simp] theorem State.modCore_agenda (s : State) (u : Nat) (f : Core → Core) : (s.modCore u f).agenda = s.agenda := rfl
@[simp] theorem State.modCore_inputs (s : State) (u : Nat) (f : Core → Core) : (s.modCore u f).inputs = s.inputs := rfl
@[simp] theorem State.modCore_free (s : State) (u : Nat) (f : Core → Core) : (s.modCore u f).free = s.free := rfl
@[simp] theorem State.modCore_uid (s : State) (u : Nat) (f : Core → Core) : (s.modCore u f).uid = s.uid := rfl
@[simp] theorem State.modCore_sent (s : State) (u : Nat) (f : Core → Core) : (s.modCore u f).sent = s.sent := rfl
@[simp] theorem State.setCtx_now (s : State) (u : Nat) (c : Ctx) : (s.setCtx u c).now = s.now := rfl
@[simp] theorem State.setCtx_ctt (s : State) (u : Nat) (c : Ctx) : (s.setCtx u c).ctt = s.ctt := rfl
@[simp] theorem State.setCtx_mem (s : State) (u : Nat) (c : Ctx) : (s.setCtx u c).mem = s.mem := rfl
@[simp] theorem State.setCtx_regs (s : State) (u : Nat) (c : Ctx) : (s.setCtx u c).regs = s.regs := rfl
@[simp] theorem State.setCtx_tlb (s : State) (u : Nat) (c : Ctx) : (s.setCtx u c).tlb = s.tlb := rfl
@[simp] theorem State.setCtx_seen (s : State) (u : Nat) (c : Ctx) : (s.setCtx u c).seen = s.seen := rfl
@[simp] theorem State.setCtx_walks (s : State) (u : Nat) (c : Ctx) : (s.setCtx u c).walks = s.walks := rfl
@[simp] theorem State.setCtx_outs (s : State) (u : Nat) (c : Ctx) : (s.setCtx u c).outs = s.outs := rfl
@[simp] theorem State.setCtx_shoot (s : State) (u : Nat) (c : Ctx) : (s.setCtx u c).shoot = s.shoot := rfl
@[simp] theorem State.setCtx_absent (s : State) (u : Nat) (c : Ctx) : (s.setCtx u c).absent = s.absent := rfl
@[simp] theorem State.setCtx_launches (s : State) (u : Nat) (c : Ctx) : (s.setCtx u c).launches = s.launches := rfl
@[simp] theorem State.setCtx_hbm (s : State) (u : Nat) (c : Ctx) : (s.setCtx u c).hbm = s.hbm := rfl
@[simp] theorem State.setCtx_ports (s : State) (u : Nat) (c : Ctx) : (s.setCtx u c).ports = s.ports := rfl
@[simp] theorem State.setCtx_plane (s : State) (u : Nat) (c : Ctx) : (s.setCtx u c).plane = s.plane := rfl
@[simp] theorem State.setCtx_datumNs (s : State) (u : Nat) (c : Ctx) : (s.setCtx u c).datumNs = s.datumNs := rfl
@[simp] theorem State.setCtx_datumFr (s : State) (u : Nat) (c : Ctx) : (s.setCtx u c).datumFr = s.datumFr := rfl
@[simp] theorem State.setCtx_datumSlew (s : State) (u : Nat) (c : Ctx) : (s.setCtx u c).datumSlew = s.datumSlew := rfl
@[simp] theorem State.setCtx_lockCnt (s : State) (u : Nat) (c : Ctx) : (s.setCtx u c).lockCnt = s.lockCnt := rfl
@[simp] theorem State.setCtx_misc (s : State) (u : Nat) (c : Ctx) : (s.setCtx u c).misc = s.misc := rfl
@[simp] theorem State.setCtx_packets (s : State) (u : Nat) (c : Ctx) : (s.setCtx u c).packets = s.packets := rfl
@[simp] theorem State.setCtx_remote (s : State) (u : Nat) (c : Ctx) : (s.setCtx u c).remote = s.remote := rfl
@[simp] theorem State.setCtx_fires (s : State) (u : Nat) (c : Ctx) : (s.setCtx u c).fires = s.fires := rfl
@[simp] theorem State.setCtx_stamps (s : State) (u : Nat) (c : Ctx) : (s.setCtx u c).stamps = s.stamps := rfl
@[simp] theorem State.setCtx_clocks (s : State) (u : Nat) (c : Ctx) : (s.setCtx u c).clocks = s.clocks := rfl
@[simp] theorem State.setCtx_tokHb (s : State) (u : Nat) (c : Ctx) : (s.setCtx u c).tokHb = s.tokHb := rfl
@[simp] theorem State.setCtx_bbs (s : State) (u : Nat) (c : Ctx) : (s.setCtx u c).bbs = s.bbs := rfl
@[simp] theorem State.setCtx_landed (s : State) (u : Nat) (c : Ctx) : (s.setCtx u c).landed = s.landed := rfl
@[simp] theorem State.setCtx_sched (s : State) (u : Nat) (c : Ctx) : (s.setCtx u c).sched = s.sched := rfl
@[simp] theorem State.setCtx_turn (s : State) (u : Nat) (c : Ctx) : (s.setCtx u c).turn = s.turn := rfl
@[simp] theorem State.setCtx_word (s : State) (u : Nat) (c : Ctx) : (s.setCtx u c).word = s.word := rfl
@[simp] theorem State.setCtx_verdict (s : State) (u : Nat) (c : Ctx) : (s.setCtx u c).verdict = s.verdict := rfl
@[simp] theorem State.setCtx_agenda (s : State) (u : Nat) (c : Ctx) : (s.setCtx u c).agenda = s.agenda := rfl
@[simp] theorem State.setCtx_inputs (s : State) (u : Nat) (c : Ctx) : (s.setCtx u c).inputs = s.inputs := rfl
@[simp] theorem State.setCtx_free (s : State) (u : Nat) (c : Ctx) : (s.setCtx u c).free = s.free := rfl
@[simp] theorem State.setCtx_uid (s : State) (u : Nat) (c : Ctx) : (s.setCtx u c).uid = s.uid := rfl
@[simp] theorem State.setCtx_sent (s : State) (u : Nat) (c : Ctx) : (s.setCtx u c).sent = s.sent := rfl
@[simp] theorem State.modCtx_now (s : State) (u : Nat) (f : Ctx → Ctx) : (s.modCtx u f).now = s.now := rfl
@[simp] theorem State.modCtx_ctt (s : State) (u : Nat) (f : Ctx → Ctx) : (s.modCtx u f).ctt = s.ctt := rfl
@[simp] theorem State.modCtx_mem (s : State) (u : Nat) (f : Ctx → Ctx) : (s.modCtx u f).mem = s.mem := rfl
@[simp] theorem State.modCtx_regs (s : State) (u : Nat) (f : Ctx → Ctx) : (s.modCtx u f).regs = s.regs := rfl
@[simp] theorem State.modCtx_tlb (s : State) (u : Nat) (f : Ctx → Ctx) : (s.modCtx u f).tlb = s.tlb := rfl
@[simp] theorem State.modCtx_seen (s : State) (u : Nat) (f : Ctx → Ctx) : (s.modCtx u f).seen = s.seen := rfl
@[simp] theorem State.modCtx_walks (s : State) (u : Nat) (f : Ctx → Ctx) : (s.modCtx u f).walks = s.walks := rfl
@[simp] theorem State.modCtx_outs (s : State) (u : Nat) (f : Ctx → Ctx) : (s.modCtx u f).outs = s.outs := rfl
@[simp] theorem State.modCtx_shoot (s : State) (u : Nat) (f : Ctx → Ctx) : (s.modCtx u f).shoot = s.shoot := rfl
@[simp] theorem State.modCtx_absent (s : State) (u : Nat) (f : Ctx → Ctx) : (s.modCtx u f).absent = s.absent := rfl
@[simp] theorem State.modCtx_launches (s : State) (u : Nat) (f : Ctx → Ctx) : (s.modCtx u f).launches = s.launches := rfl
@[simp] theorem State.modCtx_hbm (s : State) (u : Nat) (f : Ctx → Ctx) : (s.modCtx u f).hbm = s.hbm := rfl
@[simp] theorem State.modCtx_ports (s : State) (u : Nat) (f : Ctx → Ctx) : (s.modCtx u f).ports = s.ports := rfl
@[simp] theorem State.modCtx_plane (s : State) (u : Nat) (f : Ctx → Ctx) : (s.modCtx u f).plane = s.plane := rfl
@[simp] theorem State.modCtx_datumNs (s : State) (u : Nat) (f : Ctx → Ctx) : (s.modCtx u f).datumNs = s.datumNs := rfl
@[simp] theorem State.modCtx_datumFr (s : State) (u : Nat) (f : Ctx → Ctx) : (s.modCtx u f).datumFr = s.datumFr := rfl
@[simp] theorem State.modCtx_datumSlew (s : State) (u : Nat) (f : Ctx → Ctx) : (s.modCtx u f).datumSlew = s.datumSlew := rfl
@[simp] theorem State.modCtx_lockCnt (s : State) (u : Nat) (f : Ctx → Ctx) : (s.modCtx u f).lockCnt = s.lockCnt := rfl
@[simp] theorem State.modCtx_misc (s : State) (u : Nat) (f : Ctx → Ctx) : (s.modCtx u f).misc = s.misc := rfl
@[simp] theorem State.modCtx_packets (s : State) (u : Nat) (f : Ctx → Ctx) : (s.modCtx u f).packets = s.packets := rfl
@[simp] theorem State.modCtx_remote (s : State) (u : Nat) (f : Ctx → Ctx) : (s.modCtx u f).remote = s.remote := rfl
@[simp] theorem State.modCtx_fires (s : State) (u : Nat) (f : Ctx → Ctx) : (s.modCtx u f).fires = s.fires := rfl
@[simp] theorem State.modCtx_stamps (s : State) (u : Nat) (f : Ctx → Ctx) : (s.modCtx u f).stamps = s.stamps := rfl
@[simp] theorem State.modCtx_clocks (s : State) (u : Nat) (f : Ctx → Ctx) : (s.modCtx u f).clocks = s.clocks := rfl
@[simp] theorem State.modCtx_tokHb (s : State) (u : Nat) (f : Ctx → Ctx) : (s.modCtx u f).tokHb = s.tokHb := rfl
@[simp] theorem State.modCtx_bbs (s : State) (u : Nat) (f : Ctx → Ctx) : (s.modCtx u f).bbs = s.bbs := rfl
@[simp] theorem State.modCtx_landed (s : State) (u : Nat) (f : Ctx → Ctx) : (s.modCtx u f).landed = s.landed := rfl
@[simp] theorem State.modCtx_sched (s : State) (u : Nat) (f : Ctx → Ctx) : (s.modCtx u f).sched = s.sched := rfl
@[simp] theorem State.modCtx_turn (s : State) (u : Nat) (f : Ctx → Ctx) : (s.modCtx u f).turn = s.turn := rfl
@[simp] theorem State.modCtx_word (s : State) (u : Nat) (f : Ctx → Ctx) : (s.modCtx u f).word = s.word := rfl
@[simp] theorem State.modCtx_verdict (s : State) (u : Nat) (f : Ctx → Ctx) : (s.modCtx u f).verdict = s.verdict := rfl
@[simp] theorem State.modCtx_agenda (s : State) (u : Nat) (f : Ctx → Ctx) : (s.modCtx u f).agenda = s.agenda := rfl
@[simp] theorem State.modCtx_inputs (s : State) (u : Nat) (f : Ctx → Ctx) : (s.modCtx u f).inputs = s.inputs := rfl
@[simp] theorem State.modCtx_free (s : State) (u : Nat) (f : Ctx → Ctx) : (s.modCtx u f).free = s.free := rfl
@[simp] theorem State.modCtx_uid (s : State) (u : Nat) (f : Ctx → Ctx) : (s.modCtx u f).uid = s.uid := rfl
@[simp] theorem State.modCtx_sent (s : State) (u : Nat) (f : Ctx → Ctx) : (s.modCtx u f).sent = s.sent := rfl
@[simp] theorem State.modSeq_now (s : State) (u : Nat) (q : SeqId) (f : Seq → Seq) : (s.modSeq u q f).now = s.now := rfl
@[simp] theorem State.modSeq_ctt (s : State) (u : Nat) (q : SeqId) (f : Seq → Seq) : (s.modSeq u q f).ctt = s.ctt := rfl
@[simp] theorem State.modSeq_mem (s : State) (u : Nat) (q : SeqId) (f : Seq → Seq) : (s.modSeq u q f).mem = s.mem := rfl
@[simp] theorem State.modSeq_regs (s : State) (u : Nat) (q : SeqId) (f : Seq → Seq) : (s.modSeq u q f).regs = s.regs := rfl
@[simp] theorem State.modSeq_tlb (s : State) (u : Nat) (q : SeqId) (f : Seq → Seq) : (s.modSeq u q f).tlb = s.tlb := rfl
@[simp] theorem State.modSeq_seen (s : State) (u : Nat) (q : SeqId) (f : Seq → Seq) : (s.modSeq u q f).seen = s.seen := rfl
@[simp] theorem State.modSeq_walks (s : State) (u : Nat) (q : SeqId) (f : Seq → Seq) : (s.modSeq u q f).walks = s.walks := rfl
@[simp] theorem State.modSeq_outs (s : State) (u : Nat) (q : SeqId) (f : Seq → Seq) : (s.modSeq u q f).outs = s.outs := rfl
@[simp] theorem State.modSeq_shoot (s : State) (u : Nat) (q : SeqId) (f : Seq → Seq) : (s.modSeq u q f).shoot = s.shoot := rfl
@[simp] theorem State.modSeq_absent (s : State) (u : Nat) (q : SeqId) (f : Seq → Seq) : (s.modSeq u q f).absent = s.absent := rfl
@[simp] theorem State.modSeq_launches (s : State) (u : Nat) (q : SeqId) (f : Seq → Seq) : (s.modSeq u q f).launches = s.launches := rfl
@[simp] theorem State.modSeq_hbm (s : State) (u : Nat) (q : SeqId) (f : Seq → Seq) : (s.modSeq u q f).hbm = s.hbm := rfl
@[simp] theorem State.modSeq_ports (s : State) (u : Nat) (q : SeqId) (f : Seq → Seq) : (s.modSeq u q f).ports = s.ports := rfl
@[simp] theorem State.modSeq_plane (s : State) (u : Nat) (q : SeqId) (f : Seq → Seq) : (s.modSeq u q f).plane = s.plane := rfl
@[simp] theorem State.modSeq_datumNs (s : State) (u : Nat) (q : SeqId) (f : Seq → Seq) : (s.modSeq u q f).datumNs = s.datumNs := rfl
@[simp] theorem State.modSeq_datumFr (s : State) (u : Nat) (q : SeqId) (f : Seq → Seq) : (s.modSeq u q f).datumFr = s.datumFr := rfl
@[simp] theorem State.modSeq_datumSlew (s : State) (u : Nat) (q : SeqId) (f : Seq → Seq) : (s.modSeq u q f).datumSlew = s.datumSlew := rfl
@[simp] theorem State.modSeq_lockCnt (s : State) (u : Nat) (q : SeqId) (f : Seq → Seq) : (s.modSeq u q f).lockCnt = s.lockCnt := rfl
@[simp] theorem State.modSeq_misc (s : State) (u : Nat) (q : SeqId) (f : Seq → Seq) : (s.modSeq u q f).misc = s.misc := rfl
@[simp] theorem State.modSeq_packets (s : State) (u : Nat) (q : SeqId) (f : Seq → Seq) : (s.modSeq u q f).packets = s.packets := rfl
@[simp] theorem State.modSeq_remote (s : State) (u : Nat) (q : SeqId) (f : Seq → Seq) : (s.modSeq u q f).remote = s.remote := rfl
@[simp] theorem State.modSeq_fires (s : State) (u : Nat) (q : SeqId) (f : Seq → Seq) : (s.modSeq u q f).fires = s.fires := rfl
@[simp] theorem State.modSeq_stamps (s : State) (u : Nat) (q : SeqId) (f : Seq → Seq) : (s.modSeq u q f).stamps = s.stamps := rfl
@[simp] theorem State.modSeq_clocks (s : State) (u : Nat) (q : SeqId) (f : Seq → Seq) : (s.modSeq u q f).clocks = s.clocks := rfl
@[simp] theorem State.modSeq_tokHb (s : State) (u : Nat) (q : SeqId) (f : Seq → Seq) : (s.modSeq u q f).tokHb = s.tokHb := rfl
@[simp] theorem State.modSeq_bbs (s : State) (u : Nat) (q : SeqId) (f : Seq → Seq) : (s.modSeq u q f).bbs = s.bbs := rfl
@[simp] theorem State.modSeq_landed (s : State) (u : Nat) (q : SeqId) (f : Seq → Seq) : (s.modSeq u q f).landed = s.landed := rfl
@[simp] theorem State.modSeq_sched (s : State) (u : Nat) (q : SeqId) (f : Seq → Seq) : (s.modSeq u q f).sched = s.sched := rfl
@[simp] theorem State.modSeq_turn (s : State) (u : Nat) (q : SeqId) (f : Seq → Seq) : (s.modSeq u q f).turn = s.turn := rfl
@[simp] theorem State.modSeq_word (s : State) (u : Nat) (q : SeqId) (f : Seq → Seq) : (s.modSeq u q f).word = s.word := rfl
@[simp] theorem State.modSeq_verdict (s : State) (u : Nat) (q : SeqId) (f : Seq → Seq) : (s.modSeq u q f).verdict = s.verdict := rfl
@[simp] theorem State.modSeq_agenda (s : State) (u : Nat) (q : SeqId) (f : Seq → Seq) : (s.modSeq u q f).agenda = s.agenda := rfl
@[simp] theorem State.modSeq_inputs (s : State) (u : Nat) (q : SeqId) (f : Seq → Seq) : (s.modSeq u q f).inputs = s.inputs := rfl
@[simp] theorem State.modSeq_free (s : State) (u : Nat) (q : SeqId) (f : Seq → Seq) : (s.modSeq u q f).free = s.free := rfl
@[simp] theorem State.modSeq_uid (s : State) (u : Nat) (q : SeqId) (f : Seq → Seq) : (s.modSeq u q f).uid = s.uid := rfl
@[simp] theorem State.modSeq_sent (s : State) (u : Nat) (q : SeqId) (f : Seq → Seq) : (s.modSeq u q f).sent = s.sent := rfl
@[simp] theorem State.modMe_now (s : State) (f : Ctx → Ctx) : (s.modMe f).now = s.now := rfl
@[simp] theorem State.modMe_ctt (s : State) (f : Ctx → Ctx) : (s.modMe f).ctt = s.ctt := rfl
@[simp] theorem State.modMe_mem (s : State) (f : Ctx → Ctx) : (s.modMe f).mem = s.mem := rfl
@[simp] theorem State.modMe_regs (s : State) (f : Ctx → Ctx) : (s.modMe f).regs = s.regs := rfl
@[simp] theorem State.modMe_tlb (s : State) (f : Ctx → Ctx) : (s.modMe f).tlb = s.tlb := rfl
@[simp] theorem State.modMe_seen (s : State) (f : Ctx → Ctx) : (s.modMe f).seen = s.seen := rfl
@[simp] theorem State.modMe_walks (s : State) (f : Ctx → Ctx) : (s.modMe f).walks = s.walks := rfl
@[simp] theorem State.modMe_outs (s : State) (f : Ctx → Ctx) : (s.modMe f).outs = s.outs := rfl
@[simp] theorem State.modMe_shoot (s : State) (f : Ctx → Ctx) : (s.modMe f).shoot = s.shoot := rfl
@[simp] theorem State.modMe_absent (s : State) (f : Ctx → Ctx) : (s.modMe f).absent = s.absent := rfl
@[simp] theorem State.modMe_launches (s : State) (f : Ctx → Ctx) : (s.modMe f).launches = s.launches := rfl
@[simp] theorem State.modMe_hbm (s : State) (f : Ctx → Ctx) : (s.modMe f).hbm = s.hbm := rfl
@[simp] theorem State.modMe_ports (s : State) (f : Ctx → Ctx) : (s.modMe f).ports = s.ports := rfl
@[simp] theorem State.modMe_plane (s : State) (f : Ctx → Ctx) : (s.modMe f).plane = s.plane := rfl
@[simp] theorem State.modMe_datumNs (s : State) (f : Ctx → Ctx) : (s.modMe f).datumNs = s.datumNs := rfl
@[simp] theorem State.modMe_datumFr (s : State) (f : Ctx → Ctx) : (s.modMe f).datumFr = s.datumFr := rfl
@[simp] theorem State.modMe_datumSlew (s : State) (f : Ctx → Ctx) : (s.modMe f).datumSlew = s.datumSlew := rfl
@[simp] theorem State.modMe_lockCnt (s : State) (f : Ctx → Ctx) : (s.modMe f).lockCnt = s.lockCnt := rfl
@[simp] theorem State.modMe_misc (s : State) (f : Ctx → Ctx) : (s.modMe f).misc = s.misc := rfl
@[simp] theorem State.modMe_packets (s : State) (f : Ctx → Ctx) : (s.modMe f).packets = s.packets := rfl
@[simp] theorem State.modMe_remote (s : State) (f : Ctx → Ctx) : (s.modMe f).remote = s.remote := rfl
@[simp] theorem State.modMe_fires (s : State) (f : Ctx → Ctx) : (s.modMe f).fires = s.fires := rfl
@[simp] theorem State.modMe_stamps (s : State) (f : Ctx → Ctx) : (s.modMe f).stamps = s.stamps := rfl
@[simp] theorem State.modMe_clocks (s : State) (f : Ctx → Ctx) : (s.modMe f).clocks = s.clocks := rfl
@[simp] theorem State.modMe_tokHb (s : State) (f : Ctx → Ctx) : (s.modMe f).tokHb = s.tokHb := rfl
@[simp] theorem State.modMe_bbs (s : State) (f : Ctx → Ctx) : (s.modMe f).bbs = s.bbs := rfl
@[simp] theorem State.modMe_landed (s : State) (f : Ctx → Ctx) : (s.modMe f).landed = s.landed := rfl
@[simp] theorem State.modMe_sched (s : State) (f : Ctx → Ctx) : (s.modMe f).sched = s.sched := rfl
@[simp] theorem State.modMe_turn (s : State) (f : Ctx → Ctx) : (s.modMe f).turn = s.turn := rfl
@[simp] theorem State.modMe_word (s : State) (f : Ctx → Ctx) : (s.modMe f).word = s.word := rfl
@[simp] theorem State.modMe_verdict (s : State) (f : Ctx → Ctx) : (s.modMe f).verdict = s.verdict := rfl
@[simp] theorem State.modMe_agenda (s : State) (f : Ctx → Ctx) : (s.modMe f).agenda = s.agenda := rfl
@[simp] theorem State.modMe_inputs (s : State) (f : Ctx → Ctx) : (s.modMe f).inputs = s.inputs := rfl
@[simp] theorem State.modMe_free (s : State) (f : Ctx → Ctx) : (s.modMe f).free = s.free := rfl
@[simp] theorem State.modMe_uid (s : State) (f : Ctx → Ctx) : (s.modMe f).uid = s.uid := rfl
@[simp] theorem State.modMe_sent (s : State) (f : Ctx → Ctx) : (s.modMe f).sent = s.sent := rfl
@[simp] theorem State.modSelf_now (s : State) (f : Seq → Seq) : (s.modSelf f).now = s.now := rfl
@[simp] theorem State.modSelf_ctt (s : State) (f : Seq → Seq) : (s.modSelf f).ctt = s.ctt := rfl
@[simp] theorem State.modSelf_mem (s : State) (f : Seq → Seq) : (s.modSelf f).mem = s.mem := rfl
@[simp] theorem State.modSelf_regs (s : State) (f : Seq → Seq) : (s.modSelf f).regs = s.regs := rfl
@[simp] theorem State.modSelf_tlb (s : State) (f : Seq → Seq) : (s.modSelf f).tlb = s.tlb := rfl
@[simp] theorem State.modSelf_seen (s : State) (f : Seq → Seq) : (s.modSelf f).seen = s.seen := rfl
@[simp] theorem State.modSelf_walks (s : State) (f : Seq → Seq) : (s.modSelf f).walks = s.walks := rfl
@[simp] theorem State.modSelf_outs (s : State) (f : Seq → Seq) : (s.modSelf f).outs = s.outs := rfl
@[simp] theorem State.modSelf_shoot (s : State) (f : Seq → Seq) : (s.modSelf f).shoot = s.shoot := rfl
@[simp] theorem State.modSelf_absent (s : State) (f : Seq → Seq) : (s.modSelf f).absent = s.absent := rfl
@[simp] theorem State.modSelf_launches (s : State) (f : Seq → Seq) : (s.modSelf f).launches = s.launches := rfl
@[simp] theorem State.modSelf_hbm (s : State) (f : Seq → Seq) : (s.modSelf f).hbm = s.hbm := rfl
@[simp] theorem State.modSelf_ports (s : State) (f : Seq → Seq) : (s.modSelf f).ports = s.ports := rfl
@[simp] theorem State.modSelf_plane (s : State) (f : Seq → Seq) : (s.modSelf f).plane = s.plane := rfl
@[simp] theorem State.modSelf_datumNs (s : State) (f : Seq → Seq) : (s.modSelf f).datumNs = s.datumNs := rfl
@[simp] theorem State.modSelf_datumFr (s : State) (f : Seq → Seq) : (s.modSelf f).datumFr = s.datumFr := rfl
@[simp] theorem State.modSelf_datumSlew (s : State) (f : Seq → Seq) : (s.modSelf f).datumSlew = s.datumSlew := rfl
@[simp] theorem State.modSelf_lockCnt (s : State) (f : Seq → Seq) : (s.modSelf f).lockCnt = s.lockCnt := rfl
@[simp] theorem State.modSelf_misc (s : State) (f : Seq → Seq) : (s.modSelf f).misc = s.misc := rfl
@[simp] theorem State.modSelf_packets (s : State) (f : Seq → Seq) : (s.modSelf f).packets = s.packets := rfl
@[simp] theorem State.modSelf_remote (s : State) (f : Seq → Seq) : (s.modSelf f).remote = s.remote := rfl
@[simp] theorem State.modSelf_fires (s : State) (f : Seq → Seq) : (s.modSelf f).fires = s.fires := rfl
@[simp] theorem State.modSelf_stamps (s : State) (f : Seq → Seq) : (s.modSelf f).stamps = s.stamps := rfl
@[simp] theorem State.modSelf_clocks (s : State) (f : Seq → Seq) : (s.modSelf f).clocks = s.clocks := rfl
@[simp] theorem State.modSelf_tokHb (s : State) (f : Seq → Seq) : (s.modSelf f).tokHb = s.tokHb := rfl
@[simp] theorem State.modSelf_bbs (s : State) (f : Seq → Seq) : (s.modSelf f).bbs = s.bbs := rfl
@[simp] theorem State.modSelf_landed (s : State) (f : Seq → Seq) : (s.modSelf f).landed = s.landed := rfl
@[simp] theorem State.modSelf_sched (s : State) (f : Seq → Seq) : (s.modSelf f).sched = s.sched := rfl
@[simp] theorem State.modSelf_turn (s : State) (f : Seq → Seq) : (s.modSelf f).turn = s.turn := rfl
@[simp] theorem State.modSelf_word (s : State) (f : Seq → Seq) : (s.modSelf f).word = s.word := rfl
@[simp] theorem State.modSelf_verdict (s : State) (f : Seq → Seq) : (s.modSelf f).verdict = s.verdict := rfl
@[simp] theorem State.modSelf_agenda (s : State) (f : Seq → Seq) : (s.modSelf f).agenda = s.agenda := rfl
@[simp] theorem State.modSelf_inputs (s : State) (f : Seq → Seq) : (s.modSelf f).inputs = s.inputs := rfl
@[simp] theorem State.modSelf_free (s : State) (f : Seq → Seq) : (s.modSelf f).free = s.free := rfl
@[simp] theorem State.modSelf_uid (s : State) (f : Seq → Seq) : (s.modSelf f).uid = s.uid := rfl
@[simp] theorem State.modSelf_sent (s : State) (f : Seq → Seq) : (s.modSelf f).sent = s.sent := rfl
@[simp] theorem State.setReg_now (s : State) (o : Nat) (v : Word) : (s.setReg o v).now = s.now := rfl
@[simp] theorem State.setReg_cores (s : State) (o : Nat) (v : Word) : (s.setReg o v).cores = s.cores := rfl
@[simp] theorem State.setReg_ctt (s : State) (o : Nat) (v : Word) : (s.setReg o v).ctt = s.ctt := rfl
@[simp] theorem State.setReg_mem (s : State) (o : Nat) (v : Word) : (s.setReg o v).mem = s.mem := rfl
@[simp] theorem State.setReg_tlb (s : State) (o : Nat) (v : Word) : (s.setReg o v).tlb = s.tlb := rfl
@[simp] theorem State.setReg_seen (s : State) (o : Nat) (v : Word) : (s.setReg o v).seen = s.seen := rfl
@[simp] theorem State.setReg_walks (s : State) (o : Nat) (v : Word) : (s.setReg o v).walks = s.walks := rfl
@[simp] theorem State.setReg_outs (s : State) (o : Nat) (v : Word) : (s.setReg o v).outs = s.outs := rfl
@[simp] theorem State.setReg_shoot (s : State) (o : Nat) (v : Word) : (s.setReg o v).shoot = s.shoot := rfl
@[simp] theorem State.setReg_absent (s : State) (o : Nat) (v : Word) : (s.setReg o v).absent = s.absent := rfl
@[simp] theorem State.setReg_launches (s : State) (o : Nat) (v : Word) : (s.setReg o v).launches = s.launches := rfl
@[simp] theorem State.setReg_hbm (s : State) (o : Nat) (v : Word) : (s.setReg o v).hbm = s.hbm := rfl
@[simp] theorem State.setReg_ports (s : State) (o : Nat) (v : Word) : (s.setReg o v).ports = s.ports := rfl
@[simp] theorem State.setReg_plane (s : State) (o : Nat) (v : Word) : (s.setReg o v).plane = s.plane := rfl
@[simp] theorem State.setReg_datumNs (s : State) (o : Nat) (v : Word) : (s.setReg o v).datumNs = s.datumNs := rfl
@[simp] theorem State.setReg_datumFr (s : State) (o : Nat) (v : Word) : (s.setReg o v).datumFr = s.datumFr := rfl
@[simp] theorem State.setReg_datumSlew (s : State) (o : Nat) (v : Word) : (s.setReg o v).datumSlew = s.datumSlew := rfl
@[simp] theorem State.setReg_lockCnt (s : State) (o : Nat) (v : Word) : (s.setReg o v).lockCnt = s.lockCnt := rfl
@[simp] theorem State.setReg_misc (s : State) (o : Nat) (v : Word) : (s.setReg o v).misc = s.misc := rfl
@[simp] theorem State.setReg_packets (s : State) (o : Nat) (v : Word) : (s.setReg o v).packets = s.packets := rfl
@[simp] theorem State.setReg_remote (s : State) (o : Nat) (v : Word) : (s.setReg o v).remote = s.remote := rfl
@[simp] theorem State.setReg_fires (s : State) (o : Nat) (v : Word) : (s.setReg o v).fires = s.fires := rfl
@[simp] theorem State.setReg_stamps (s : State) (o : Nat) (v : Word) : (s.setReg o v).stamps = s.stamps := rfl
@[simp] theorem State.setReg_clocks (s : State) (o : Nat) (v : Word) : (s.setReg o v).clocks = s.clocks := rfl
@[simp] theorem State.setReg_tokHb (s : State) (o : Nat) (v : Word) : (s.setReg o v).tokHb = s.tokHb := rfl
@[simp] theorem State.setReg_bbs (s : State) (o : Nat) (v : Word) : (s.setReg o v).bbs = s.bbs := rfl
@[simp] theorem State.setReg_landed (s : State) (o : Nat) (v : Word) : (s.setReg o v).landed = s.landed := rfl
@[simp] theorem State.setReg_sched (s : State) (o : Nat) (v : Word) : (s.setReg o v).sched = s.sched := rfl
@[simp] theorem State.setReg_turn (s : State) (o : Nat) (v : Word) : (s.setReg o v).turn = s.turn := rfl
@[simp] theorem State.setReg_word (s : State) (o : Nat) (v : Word) : (s.setReg o v).word = s.word := rfl
@[simp] theorem State.setReg_verdict (s : State) (o : Nat) (v : Word) : (s.setReg o v).verdict = s.verdict := rfl
@[simp] theorem State.setReg_agenda (s : State) (o : Nat) (v : Word) : (s.setReg o v).agenda = s.agenda := rfl
@[simp] theorem State.setReg_inputs (s : State) (o : Nat) (v : Word) : (s.setReg o v).inputs = s.inputs := rfl
@[simp] theorem State.setReg_free (s : State) (o : Nat) (v : Word) : (s.setReg o v).free = s.free := rfl
@[simp] theorem State.setReg_uid (s : State) (o : Nat) (v : Word) : (s.setReg o v).uid = s.uid := rfl
@[simp] theorem State.setReg_sent (s : State) (o : Nat) (v : Word) : (s.setReg o v).sent = s.sent := rfl
@[simp] theorem State.setDie_now (s : State) (k : Nat) (d : StackDie) : (s.setDie k d).now = s.now := rfl
@[simp] theorem State.setDie_cores (s : State) (k : Nat) (d : StackDie) : (s.setDie k d).cores = s.cores := rfl
@[simp] theorem State.setDie_ctt (s : State) (k : Nat) (d : StackDie) : (s.setDie k d).ctt = s.ctt := rfl
@[simp] theorem State.setDie_mem (s : State) (k : Nat) (d : StackDie) : (s.setDie k d).mem = s.mem := rfl
@[simp] theorem State.setDie_regs (s : State) (k : Nat) (d : StackDie) : (s.setDie k d).regs = s.regs := rfl
@[simp] theorem State.setDie_tlb (s : State) (k : Nat) (d : StackDie) : (s.setDie k d).tlb = s.tlb := rfl
@[simp] theorem State.setDie_seen (s : State) (k : Nat) (d : StackDie) : (s.setDie k d).seen = s.seen := rfl
@[simp] theorem State.setDie_walks (s : State) (k : Nat) (d : StackDie) : (s.setDie k d).walks = s.walks := rfl
@[simp] theorem State.setDie_outs (s : State) (k : Nat) (d : StackDie) : (s.setDie k d).outs = s.outs := rfl
@[simp] theorem State.setDie_shoot (s : State) (k : Nat) (d : StackDie) : (s.setDie k d).shoot = s.shoot := rfl
@[simp] theorem State.setDie_absent (s : State) (k : Nat) (d : StackDie) : (s.setDie k d).absent = s.absent := rfl
@[simp] theorem State.setDie_launches (s : State) (k : Nat) (d : StackDie) : (s.setDie k d).launches = s.launches := rfl
@[simp] theorem State.setDie_ports (s : State) (k : Nat) (d : StackDie) : (s.setDie k d).ports = s.ports := rfl
@[simp] theorem State.setDie_plane (s : State) (k : Nat) (d : StackDie) : (s.setDie k d).plane = s.plane := rfl
@[simp] theorem State.setDie_datumNs (s : State) (k : Nat) (d : StackDie) : (s.setDie k d).datumNs = s.datumNs := rfl
@[simp] theorem State.setDie_datumFr (s : State) (k : Nat) (d : StackDie) : (s.setDie k d).datumFr = s.datumFr := rfl
@[simp] theorem State.setDie_datumSlew (s : State) (k : Nat) (d : StackDie) : (s.setDie k d).datumSlew = s.datumSlew := rfl
@[simp] theorem State.setDie_lockCnt (s : State) (k : Nat) (d : StackDie) : (s.setDie k d).lockCnt = s.lockCnt := rfl
@[simp] theorem State.setDie_misc (s : State) (k : Nat) (d : StackDie) : (s.setDie k d).misc = s.misc := rfl
@[simp] theorem State.setDie_packets (s : State) (k : Nat) (d : StackDie) : (s.setDie k d).packets = s.packets := rfl
@[simp] theorem State.setDie_remote (s : State) (k : Nat) (d : StackDie) : (s.setDie k d).remote = s.remote := rfl
@[simp] theorem State.setDie_fires (s : State) (k : Nat) (d : StackDie) : (s.setDie k d).fires = s.fires := rfl
@[simp] theorem State.setDie_stamps (s : State) (k : Nat) (d : StackDie) : (s.setDie k d).stamps = s.stamps := rfl
@[simp] theorem State.setDie_clocks (s : State) (k : Nat) (d : StackDie) : (s.setDie k d).clocks = s.clocks := rfl
@[simp] theorem State.setDie_tokHb (s : State) (k : Nat) (d : StackDie) : (s.setDie k d).tokHb = s.tokHb := rfl
@[simp] theorem State.setDie_bbs (s : State) (k : Nat) (d : StackDie) : (s.setDie k d).bbs = s.bbs := rfl
@[simp] theorem State.setDie_landed (s : State) (k : Nat) (d : StackDie) : (s.setDie k d).landed = s.landed := rfl
@[simp] theorem State.setDie_sched (s : State) (k : Nat) (d : StackDie) : (s.setDie k d).sched = s.sched := rfl
@[simp] theorem State.setDie_turn (s : State) (k : Nat) (d : StackDie) : (s.setDie k d).turn = s.turn := rfl
@[simp] theorem State.setDie_word (s : State) (k : Nat) (d : StackDie) : (s.setDie k d).word = s.word := rfl
@[simp] theorem State.setDie_verdict (s : State) (k : Nat) (d : StackDie) : (s.setDie k d).verdict = s.verdict := rfl
@[simp] theorem State.setDie_agenda (s : State) (k : Nat) (d : StackDie) : (s.setDie k d).agenda = s.agenda := rfl
@[simp] theorem State.setDie_inputs (s : State) (k : Nat) (d : StackDie) : (s.setDie k d).inputs = s.inputs := rfl
@[simp] theorem State.setDie_free (s : State) (k : Nat) (d : StackDie) : (s.setDie k d).free = s.free := rfl
@[simp] theorem State.setDie_uid (s : State) (k : Nat) (d : StackDie) : (s.setDie k d).uid = s.uid := rfl
@[simp] theorem State.setDie_sent (s : State) (k : Nat) (d : StackDie) : (s.setDie k d).sent = s.sent := rfl
@[simp] theorem State.setPort_now (s : State) (p : Nat) (x : Port) : (s.setPort p x).now = s.now := rfl
@[simp] theorem State.setPort_cores (s : State) (p : Nat) (x : Port) : (s.setPort p x).cores = s.cores := rfl
@[simp] theorem State.setPort_ctt (s : State) (p : Nat) (x : Port) : (s.setPort p x).ctt = s.ctt := rfl
@[simp] theorem State.setPort_mem (s : State) (p : Nat) (x : Port) : (s.setPort p x).mem = s.mem := rfl
@[simp] theorem State.setPort_regs (s : State) (p : Nat) (x : Port) : (s.setPort p x).regs = s.regs := rfl
@[simp] theorem State.setPort_tlb (s : State) (p : Nat) (x : Port) : (s.setPort p x).tlb = s.tlb := rfl
@[simp] theorem State.setPort_seen (s : State) (p : Nat) (x : Port) : (s.setPort p x).seen = s.seen := rfl
@[simp] theorem State.setPort_walks (s : State) (p : Nat) (x : Port) : (s.setPort p x).walks = s.walks := rfl
@[simp] theorem State.setPort_outs (s : State) (p : Nat) (x : Port) : (s.setPort p x).outs = s.outs := rfl
@[simp] theorem State.setPort_shoot (s : State) (p : Nat) (x : Port) : (s.setPort p x).shoot = s.shoot := rfl
@[simp] theorem State.setPort_absent (s : State) (p : Nat) (x : Port) : (s.setPort p x).absent = s.absent := rfl
@[simp] theorem State.setPort_launches (s : State) (p : Nat) (x : Port) : (s.setPort p x).launches = s.launches := rfl
@[simp] theorem State.setPort_hbm (s : State) (p : Nat) (x : Port) : (s.setPort p x).hbm = s.hbm := rfl
@[simp] theorem State.setPort_plane (s : State) (p : Nat) (x : Port) : (s.setPort p x).plane = s.plane := rfl
@[simp] theorem State.setPort_datumNs (s : State) (p : Nat) (x : Port) : (s.setPort p x).datumNs = s.datumNs := rfl
@[simp] theorem State.setPort_datumFr (s : State) (p : Nat) (x : Port) : (s.setPort p x).datumFr = s.datumFr := rfl
@[simp] theorem State.setPort_datumSlew (s : State) (p : Nat) (x : Port) : (s.setPort p x).datumSlew = s.datumSlew := rfl
@[simp] theorem State.setPort_lockCnt (s : State) (p : Nat) (x : Port) : (s.setPort p x).lockCnt = s.lockCnt := rfl
@[simp] theorem State.setPort_misc (s : State) (p : Nat) (x : Port) : (s.setPort p x).misc = s.misc := rfl
@[simp] theorem State.setPort_packets (s : State) (p : Nat) (x : Port) : (s.setPort p x).packets = s.packets := rfl
@[simp] theorem State.setPort_remote (s : State) (p : Nat) (x : Port) : (s.setPort p x).remote = s.remote := rfl
@[simp] theorem State.setPort_fires (s : State) (p : Nat) (x : Port) : (s.setPort p x).fires = s.fires := rfl
@[simp] theorem State.setPort_stamps (s : State) (p : Nat) (x : Port) : (s.setPort p x).stamps = s.stamps := rfl
@[simp] theorem State.setPort_clocks (s : State) (p : Nat) (x : Port) : (s.setPort p x).clocks = s.clocks := rfl
@[simp] theorem State.setPort_tokHb (s : State) (p : Nat) (x : Port) : (s.setPort p x).tokHb = s.tokHb := rfl
@[simp] theorem State.setPort_bbs (s : State) (p : Nat) (x : Port) : (s.setPort p x).bbs = s.bbs := rfl
@[simp] theorem State.setPort_landed (s : State) (p : Nat) (x : Port) : (s.setPort p x).landed = s.landed := rfl
@[simp] theorem State.setPort_sched (s : State) (p : Nat) (x : Port) : (s.setPort p x).sched = s.sched := rfl
@[simp] theorem State.setPort_turn (s : State) (p : Nat) (x : Port) : (s.setPort p x).turn = s.turn := rfl
@[simp] theorem State.setPort_word (s : State) (p : Nat) (x : Port) : (s.setPort p x).word = s.word := rfl
@[simp] theorem State.setPort_verdict (s : State) (p : Nat) (x : Port) : (s.setPort p x).verdict = s.verdict := rfl
@[simp] theorem State.setPort_agenda (s : State) (p : Nat) (x : Port) : (s.setPort p x).agenda = s.agenda := rfl
@[simp] theorem State.setPort_inputs (s : State) (p : Nat) (x : Port) : (s.setPort p x).inputs = s.inputs := rfl
@[simp] theorem State.setPort_free (s : State) (p : Nat) (x : Port) : (s.setPort p x).free = s.free := rfl
@[simp] theorem State.setPort_uid (s : State) (p : Nat) (x : Port) : (s.setPort p x).uid = s.uid := rfl
@[simp] theorem State.setPort_sent (s : State) (p : Nat) (x : Port) : (s.setPort p x).sent = s.sent := rfl
@[simp] theorem State.emit_now (s : State) (m : OutMsg) : (s.emit m).now = s.now := rfl
@[simp] theorem State.emit_cores (s : State) (m : OutMsg) : (s.emit m).cores = s.cores := rfl
@[simp] theorem State.emit_ctt (s : State) (m : OutMsg) : (s.emit m).ctt = s.ctt := rfl
@[simp] theorem State.emit_mem (s : State) (m : OutMsg) : (s.emit m).mem = s.mem := rfl
@[simp] theorem State.emit_regs (s : State) (m : OutMsg) : (s.emit m).regs = s.regs := rfl
@[simp] theorem State.emit_tlb (s : State) (m : OutMsg) : (s.emit m).tlb = s.tlb := rfl
@[simp] theorem State.emit_seen (s : State) (m : OutMsg) : (s.emit m).seen = s.seen := rfl
@[simp] theorem State.emit_walks (s : State) (m : OutMsg) : (s.emit m).walks = s.walks := rfl
@[simp] theorem State.emit_outs (s : State) (m : OutMsg) : (s.emit m).outs = s.outs := rfl
@[simp] theorem State.emit_shoot (s : State) (m : OutMsg) : (s.emit m).shoot = s.shoot := rfl
@[simp] theorem State.emit_absent (s : State) (m : OutMsg) : (s.emit m).absent = s.absent := rfl
@[simp] theorem State.emit_launches (s : State) (m : OutMsg) : (s.emit m).launches = s.launches := rfl
@[simp] theorem State.emit_hbm (s : State) (m : OutMsg) : (s.emit m).hbm = s.hbm := rfl
@[simp] theorem State.emit_ports (s : State) (m : OutMsg) : (s.emit m).ports = s.ports := rfl
@[simp] theorem State.emit_plane (s : State) (m : OutMsg) : (s.emit m).plane = s.plane := rfl
@[simp] theorem State.emit_datumNs (s : State) (m : OutMsg) : (s.emit m).datumNs = s.datumNs := rfl
@[simp] theorem State.emit_datumFr (s : State) (m : OutMsg) : (s.emit m).datumFr = s.datumFr := rfl
@[simp] theorem State.emit_datumSlew (s : State) (m : OutMsg) : (s.emit m).datumSlew = s.datumSlew := rfl
@[simp] theorem State.emit_lockCnt (s : State) (m : OutMsg) : (s.emit m).lockCnt = s.lockCnt := rfl
@[simp] theorem State.emit_misc (s : State) (m : OutMsg) : (s.emit m).misc = s.misc := rfl
@[simp] theorem State.emit_packets (s : State) (m : OutMsg) : (s.emit m).packets = s.packets := rfl
@[simp] theorem State.emit_remote (s : State) (m : OutMsg) : (s.emit m).remote = s.remote := rfl
@[simp] theorem State.emit_fires (s : State) (m : OutMsg) : (s.emit m).fires = s.fires := rfl
@[simp] theorem State.emit_stamps (s : State) (m : OutMsg) : (s.emit m).stamps = s.stamps := rfl
@[simp] theorem State.emit_clocks (s : State) (m : OutMsg) : (s.emit m).clocks = s.clocks := rfl
@[simp] theorem State.emit_tokHb (s : State) (m : OutMsg) : (s.emit m).tokHb = s.tokHb := rfl
@[simp] theorem State.emit_bbs (s : State) (m : OutMsg) : (s.emit m).bbs = s.bbs := rfl
@[simp] theorem State.emit_landed (s : State) (m : OutMsg) : (s.emit m).landed = s.landed := rfl
@[simp] theorem State.emit_sched (s : State) (m : OutMsg) : (s.emit m).sched = s.sched := rfl
@[simp] theorem State.emit_turn (s : State) (m : OutMsg) : (s.emit m).turn = s.turn := rfl
@[simp] theorem State.emit_word (s : State) (m : OutMsg) : (s.emit m).word = s.word := rfl
@[simp] theorem State.emit_verdict (s : State) (m : OutMsg) : (s.emit m).verdict = s.verdict := rfl
@[simp] theorem State.emit_agenda (s : State) (m : OutMsg) : (s.emit m).agenda = s.agenda := rfl
@[simp] theorem State.emit_inputs (s : State) (m : OutMsg) : (s.emit m).inputs = s.inputs := rfl
@[simp] theorem State.emit_free (s : State) (m : OutMsg) : (s.emit m).free = s.free := rfl
@[simp] theorem State.emit_uid (s : State) (m : OutMsg) : (s.emit m).uid = s.uid := rfl
@[simp] theorem State.tickFree_now (s : State) : (s.tickFree).now = s.now := rfl
@[simp] theorem State.tickFree_cores (s : State) : (s.tickFree).cores = s.cores := rfl
@[simp] theorem State.tickFree_ctt (s : State) : (s.tickFree).ctt = s.ctt := rfl
@[simp] theorem State.tickFree_mem (s : State) : (s.tickFree).mem = s.mem := rfl
@[simp] theorem State.tickFree_regs (s : State) : (s.tickFree).regs = s.regs := rfl
@[simp] theorem State.tickFree_tlb (s : State) : (s.tickFree).tlb = s.tlb := rfl
@[simp] theorem State.tickFree_seen (s : State) : (s.tickFree).seen = s.seen := rfl
@[simp] theorem State.tickFree_walks (s : State) : (s.tickFree).walks = s.walks := rfl
@[simp] theorem State.tickFree_outs (s : State) : (s.tickFree).outs = s.outs := rfl
@[simp] theorem State.tickFree_shoot (s : State) : (s.tickFree).shoot = s.shoot := rfl
@[simp] theorem State.tickFree_absent (s : State) : (s.tickFree).absent = s.absent := rfl
@[simp] theorem State.tickFree_launches (s : State) : (s.tickFree).launches = s.launches := rfl
@[simp] theorem State.tickFree_hbm (s : State) : (s.tickFree).hbm = s.hbm := rfl
@[simp] theorem State.tickFree_ports (s : State) : (s.tickFree).ports = s.ports := rfl
@[simp] theorem State.tickFree_plane (s : State) : (s.tickFree).plane = s.plane := rfl
@[simp] theorem State.tickFree_datumNs (s : State) : (s.tickFree).datumNs = s.datumNs := rfl
@[simp] theorem State.tickFree_datumFr (s : State) : (s.tickFree).datumFr = s.datumFr := rfl
@[simp] theorem State.tickFree_datumSlew (s : State) : (s.tickFree).datumSlew = s.datumSlew := rfl
@[simp] theorem State.tickFree_lockCnt (s : State) : (s.tickFree).lockCnt = s.lockCnt := rfl
@[simp] theorem State.tickFree_misc (s : State) : (s.tickFree).misc = s.misc := rfl
@[simp] theorem State.tickFree_packets (s : State) : (s.tickFree).packets = s.packets := rfl
@[simp] theorem State.tickFree_remote (s : State) : (s.tickFree).remote = s.remote := rfl
@[simp] theorem State.tickFree_fires (s : State) : (s.tickFree).fires = s.fires := rfl
@[simp] theorem State.tickFree_stamps (s : State) : (s.tickFree).stamps = s.stamps := rfl
@[simp] theorem State.tickFree_clocks (s : State) : (s.tickFree).clocks = s.clocks := rfl
@[simp] theorem State.tickFree_tokHb (s : State) : (s.tickFree).tokHb = s.tokHb := rfl
@[simp] theorem State.tickFree_bbs (s : State) : (s.tickFree).bbs = s.bbs := rfl
@[simp] theorem State.tickFree_landed (s : State) : (s.tickFree).landed = s.landed := rfl
@[simp] theorem State.tickFree_sched (s : State) : (s.tickFree).sched = s.sched := rfl
@[simp] theorem State.tickFree_turn (s : State) : (s.tickFree).turn = s.turn := rfl
@[simp] theorem State.tickFree_word (s : State) : (s.tickFree).word = s.word := rfl
@[simp] theorem State.tickFree_verdict (s : State) : (s.tickFree).verdict = s.verdict := rfl
@[simp] theorem State.tickFree_agenda (s : State) : (s.tickFree).agenda = s.agenda := rfl
@[simp] theorem State.tickFree_inputs (s : State) : (s.tickFree).inputs = s.inputs := rfl
@[simp] theorem State.tickFree_uid (s : State) : (s.tickFree).uid = s.uid := rfl
@[simp] theorem State.tickFree_sent (s : State) : (s.tickFree).sent = s.sent := rfl
@[simp] theorem State.tickUid_now (s : State) : (s.tickUid).now = s.now := rfl
@[simp] theorem State.tickUid_cores (s : State) : (s.tickUid).cores = s.cores := rfl
@[simp] theorem State.tickUid_ctt (s : State) : (s.tickUid).ctt = s.ctt := rfl
@[simp] theorem State.tickUid_mem (s : State) : (s.tickUid).mem = s.mem := rfl
@[simp] theorem State.tickUid_regs (s : State) : (s.tickUid).regs = s.regs := rfl
@[simp] theorem State.tickUid_tlb (s : State) : (s.tickUid).tlb = s.tlb := rfl
@[simp] theorem State.tickUid_seen (s : State) : (s.tickUid).seen = s.seen := rfl
@[simp] theorem State.tickUid_walks (s : State) : (s.tickUid).walks = s.walks := rfl
@[simp] theorem State.tickUid_outs (s : State) : (s.tickUid).outs = s.outs := rfl
@[simp] theorem State.tickUid_shoot (s : State) : (s.tickUid).shoot = s.shoot := rfl
@[simp] theorem State.tickUid_absent (s : State) : (s.tickUid).absent = s.absent := rfl
@[simp] theorem State.tickUid_launches (s : State) : (s.tickUid).launches = s.launches := rfl
@[simp] theorem State.tickUid_hbm (s : State) : (s.tickUid).hbm = s.hbm := rfl
@[simp] theorem State.tickUid_ports (s : State) : (s.tickUid).ports = s.ports := rfl
@[simp] theorem State.tickUid_plane (s : State) : (s.tickUid).plane = s.plane := rfl
@[simp] theorem State.tickUid_datumNs (s : State) : (s.tickUid).datumNs = s.datumNs := rfl
@[simp] theorem State.tickUid_datumFr (s : State) : (s.tickUid).datumFr = s.datumFr := rfl
@[simp] theorem State.tickUid_datumSlew (s : State) : (s.tickUid).datumSlew = s.datumSlew := rfl
@[simp] theorem State.tickUid_lockCnt (s : State) : (s.tickUid).lockCnt = s.lockCnt := rfl
@[simp] theorem State.tickUid_misc (s : State) : (s.tickUid).misc = s.misc := rfl
@[simp] theorem State.tickUid_packets (s : State) : (s.tickUid).packets = s.packets := rfl
@[simp] theorem State.tickUid_remote (s : State) : (s.tickUid).remote = s.remote := rfl
@[simp] theorem State.tickUid_fires (s : State) : (s.tickUid).fires = s.fires := rfl
@[simp] theorem State.tickUid_stamps (s : State) : (s.tickUid).stamps = s.stamps := rfl
@[simp] theorem State.tickUid_clocks (s : State) : (s.tickUid).clocks = s.clocks := rfl
@[simp] theorem State.tickUid_tokHb (s : State) : (s.tickUid).tokHb = s.tokHb := rfl
@[simp] theorem State.tickUid_bbs (s : State) : (s.tickUid).bbs = s.bbs := rfl
@[simp] theorem State.tickUid_landed (s : State) : (s.tickUid).landed = s.landed := rfl
@[simp] theorem State.tickUid_sched (s : State) : (s.tickUid).sched = s.sched := rfl
@[simp] theorem State.tickUid_turn (s : State) : (s.tickUid).turn = s.turn := rfl
@[simp] theorem State.tickUid_word (s : State) : (s.tickUid).word = s.word := rfl
@[simp] theorem State.tickUid_verdict (s : State) : (s.tickUid).verdict = s.verdict := rfl
@[simp] theorem State.tickUid_agenda (s : State) : (s.tickUid).agenda = s.agenda := rfl
@[simp] theorem State.tickUid_inputs (s : State) : (s.tickUid).inputs = s.inputs := rfl
@[simp] theorem State.tickUid_free (s : State) : (s.tickUid).free = s.free := rfl
@[simp] theorem State.tickUid_sent (s : State) : (s.tickUid).sent = s.sent := rfl
@[simp] theorem State.modLaunch_now (s : State) (l : Nat) (f : Launch → Launch) : (s.modLaunch l f).now = s.now := rfl
@[simp] theorem State.modLaunch_cores (s : State) (l : Nat) (f : Launch → Launch) : (s.modLaunch l f).cores = s.cores := rfl
@[simp] theorem State.modLaunch_ctt (s : State) (l : Nat) (f : Launch → Launch) : (s.modLaunch l f).ctt = s.ctt := rfl
@[simp] theorem State.modLaunch_mem (s : State) (l : Nat) (f : Launch → Launch) : (s.modLaunch l f).mem = s.mem := rfl
@[simp] theorem State.modLaunch_regs (s : State) (l : Nat) (f : Launch → Launch) : (s.modLaunch l f).regs = s.regs := rfl
@[simp] theorem State.modLaunch_tlb (s : State) (l : Nat) (f : Launch → Launch) : (s.modLaunch l f).tlb = s.tlb := rfl
@[simp] theorem State.modLaunch_seen (s : State) (l : Nat) (f : Launch → Launch) : (s.modLaunch l f).seen = s.seen := rfl
@[simp] theorem State.modLaunch_walks (s : State) (l : Nat) (f : Launch → Launch) : (s.modLaunch l f).walks = s.walks := rfl
@[simp] theorem State.modLaunch_outs (s : State) (l : Nat) (f : Launch → Launch) : (s.modLaunch l f).outs = s.outs := rfl
@[simp] theorem State.modLaunch_shoot (s : State) (l : Nat) (f : Launch → Launch) : (s.modLaunch l f).shoot = s.shoot := rfl
@[simp] theorem State.modLaunch_absent (s : State) (l : Nat) (f : Launch → Launch) : (s.modLaunch l f).absent = s.absent := rfl
@[simp] theorem State.modLaunch_hbm (s : State) (l : Nat) (f : Launch → Launch) : (s.modLaunch l f).hbm = s.hbm := rfl
@[simp] theorem State.modLaunch_ports (s : State) (l : Nat) (f : Launch → Launch) : (s.modLaunch l f).ports = s.ports := rfl
@[simp] theorem State.modLaunch_plane (s : State) (l : Nat) (f : Launch → Launch) : (s.modLaunch l f).plane = s.plane := rfl
@[simp] theorem State.modLaunch_datumNs (s : State) (l : Nat) (f : Launch → Launch) : (s.modLaunch l f).datumNs = s.datumNs := rfl
@[simp] theorem State.modLaunch_datumFr (s : State) (l : Nat) (f : Launch → Launch) : (s.modLaunch l f).datumFr = s.datumFr := rfl
@[simp] theorem State.modLaunch_datumSlew (s : State) (l : Nat) (f : Launch → Launch) : (s.modLaunch l f).datumSlew = s.datumSlew := rfl
@[simp] theorem State.modLaunch_lockCnt (s : State) (l : Nat) (f : Launch → Launch) : (s.modLaunch l f).lockCnt = s.lockCnt := rfl
@[simp] theorem State.modLaunch_misc (s : State) (l : Nat) (f : Launch → Launch) : (s.modLaunch l f).misc = s.misc := rfl
@[simp] theorem State.modLaunch_packets (s : State) (l : Nat) (f : Launch → Launch) : (s.modLaunch l f).packets = s.packets := rfl
@[simp] theorem State.modLaunch_remote (s : State) (l : Nat) (f : Launch → Launch) : (s.modLaunch l f).remote = s.remote := rfl
@[simp] theorem State.modLaunch_fires (s : State) (l : Nat) (f : Launch → Launch) : (s.modLaunch l f).fires = s.fires := rfl
@[simp] theorem State.modLaunch_stamps (s : State) (l : Nat) (f : Launch → Launch) : (s.modLaunch l f).stamps = s.stamps := rfl
@[simp] theorem State.modLaunch_clocks (s : State) (l : Nat) (f : Launch → Launch) : (s.modLaunch l f).clocks = s.clocks := rfl
@[simp] theorem State.modLaunch_tokHb (s : State) (l : Nat) (f : Launch → Launch) : (s.modLaunch l f).tokHb = s.tokHb := rfl
@[simp] theorem State.modLaunch_bbs (s : State) (l : Nat) (f : Launch → Launch) : (s.modLaunch l f).bbs = s.bbs := rfl
@[simp] theorem State.modLaunch_landed (s : State) (l : Nat) (f : Launch → Launch) : (s.modLaunch l f).landed = s.landed := rfl
@[simp] theorem State.modLaunch_sched (s : State) (l : Nat) (f : Launch → Launch) : (s.modLaunch l f).sched = s.sched := rfl
@[simp] theorem State.modLaunch_turn (s : State) (l : Nat) (f : Launch → Launch) : (s.modLaunch l f).turn = s.turn := rfl
@[simp] theorem State.modLaunch_word (s : State) (l : Nat) (f : Launch → Launch) : (s.modLaunch l f).word = s.word := rfl
@[simp] theorem State.modLaunch_verdict (s : State) (l : Nat) (f : Launch → Launch) : (s.modLaunch l f).verdict = s.verdict := rfl
@[simp] theorem State.modLaunch_agenda (s : State) (l : Nat) (f : Launch → Launch) : (s.modLaunch l f).agenda = s.agenda := rfl
@[simp] theorem State.modLaunch_inputs (s : State) (l : Nat) (f : Launch → Launch) : (s.modLaunch l f).inputs = s.inputs := rfl
@[simp] theorem State.modLaunch_free (s : State) (l : Nat) (f : Launch → Launch) : (s.modLaunch l f).free = s.free := rfl
@[simp] theorem State.modLaunch_uid (s : State) (l : Nat) (f : Launch → Launch) : (s.modLaunch l f).uid = s.uid := rfl
@[simp] theorem State.modLaunch_sent (s : State) (l : Nat) (f : Launch → Launch) : (s.modLaunch l f).sent = s.sent := rfl
@[simp] theorem State.land_now (s : State) (k : LandKind) (t : Bool) (d : BitVec 6) (i : BitVec 13) (v : Wide) (n : Nat) : (s.land k t d i v n).now = s.now := rfl
@[simp] theorem State.land_ctt (s : State) (k : LandKind) (t : Bool) (d : BitVec 6) (i : BitVec 13) (v : Wide) (n : Nat) : (s.land k t d i v n).ctt = s.ctt := rfl
@[simp] theorem State.land_mem (s : State) (k : LandKind) (t : Bool) (d : BitVec 6) (i : BitVec 13) (v : Wide) (n : Nat) : (s.land k t d i v n).mem = s.mem := rfl
@[simp] theorem State.land_regs (s : State) (k : LandKind) (t : Bool) (d : BitVec 6) (i : BitVec 13) (v : Wide) (n : Nat) : (s.land k t d i v n).regs = s.regs := rfl
@[simp] theorem State.land_tlb (s : State) (k : LandKind) (t : Bool) (d : BitVec 6) (i : BitVec 13) (v : Wide) (n : Nat) : (s.land k t d i v n).tlb = s.tlb := rfl
@[simp] theorem State.land_seen (s : State) (k : LandKind) (t : Bool) (d : BitVec 6) (i : BitVec 13) (v : Wide) (n : Nat) : (s.land k t d i v n).seen = s.seen := rfl
@[simp] theorem State.land_walks (s : State) (k : LandKind) (t : Bool) (d : BitVec 6) (i : BitVec 13) (v : Wide) (n : Nat) : (s.land k t d i v n).walks = s.walks := rfl
@[simp] theorem State.land_outs (s : State) (k : LandKind) (t : Bool) (d : BitVec 6) (i : BitVec 13) (v : Wide) (n : Nat) : (s.land k t d i v n).outs = s.outs := rfl
@[simp] theorem State.land_shoot (s : State) (k : LandKind) (t : Bool) (d : BitVec 6) (i : BitVec 13) (v : Wide) (n : Nat) : (s.land k t d i v n).shoot = s.shoot := rfl
@[simp] theorem State.land_absent (s : State) (k : LandKind) (t : Bool) (d : BitVec 6) (i : BitVec 13) (v : Wide) (n : Nat) : (s.land k t d i v n).absent = s.absent := rfl
@[simp] theorem State.land_launches (s : State) (k : LandKind) (t : Bool) (d : BitVec 6) (i : BitVec 13) (v : Wide) (n : Nat) : (s.land k t d i v n).launches = s.launches := rfl
@[simp] theorem State.land_hbm (s : State) (k : LandKind) (t : Bool) (d : BitVec 6) (i : BitVec 13) (v : Wide) (n : Nat) : (s.land k t d i v n).hbm = s.hbm := rfl
@[simp] theorem State.land_ports (s : State) (k : LandKind) (t : Bool) (d : BitVec 6) (i : BitVec 13) (v : Wide) (n : Nat) : (s.land k t d i v n).ports = s.ports := rfl
@[simp] theorem State.land_plane (s : State) (k : LandKind) (t : Bool) (d : BitVec 6) (i : BitVec 13) (v : Wide) (n : Nat) : (s.land k t d i v n).plane = s.plane := rfl
@[simp] theorem State.land_datumNs (s : State) (k : LandKind) (t : Bool) (d : BitVec 6) (i : BitVec 13) (v : Wide) (n : Nat) : (s.land k t d i v n).datumNs = s.datumNs := rfl
@[simp] theorem State.land_datumFr (s : State) (k : LandKind) (t : Bool) (d : BitVec 6) (i : BitVec 13) (v : Wide) (n : Nat) : (s.land k t d i v n).datumFr = s.datumFr := rfl
@[simp] theorem State.land_datumSlew (s : State) (k : LandKind) (t : Bool) (d : BitVec 6) (i : BitVec 13) (v : Wide) (n : Nat) : (s.land k t d i v n).datumSlew = s.datumSlew := rfl
@[simp] theorem State.land_lockCnt (s : State) (k : LandKind) (t : Bool) (d : BitVec 6) (i : BitVec 13) (v : Wide) (n : Nat) : (s.land k t d i v n).lockCnt = s.lockCnt := rfl
@[simp] theorem State.land_misc (s : State) (k : LandKind) (t : Bool) (d : BitVec 6) (i : BitVec 13) (v : Wide) (n : Nat) : (s.land k t d i v n).misc = s.misc := rfl
@[simp] theorem State.land_packets (s : State) (k : LandKind) (t : Bool) (d : BitVec 6) (i : BitVec 13) (v : Wide) (n : Nat) : (s.land k t d i v n).packets = s.packets := rfl
@[simp] theorem State.land_remote (s : State) (k : LandKind) (t : Bool) (d : BitVec 6) (i : BitVec 13) (v : Wide) (n : Nat) : (s.land k t d i v n).remote = s.remote := rfl
@[simp] theorem State.land_fires (s : State) (k : LandKind) (t : Bool) (d : BitVec 6) (i : BitVec 13) (v : Wide) (n : Nat) : (s.land k t d i v n).fires = s.fires := rfl
@[simp] theorem State.land_stamps (s : State) (k : LandKind) (t : Bool) (d : BitVec 6) (i : BitVec 13) (v : Wide) (n : Nat) : (s.land k t d i v n).stamps = s.stamps := rfl
@[simp] theorem State.land_clocks (s : State) (k : LandKind) (t : Bool) (d : BitVec 6) (i : BitVec 13) (v : Wide) (n : Nat) : (s.land k t d i v n).clocks = s.clocks := rfl
@[simp] theorem State.land_tokHb (s : State) (k : LandKind) (t : Bool) (d : BitVec 6) (i : BitVec 13) (v : Wide) (n : Nat) : (s.land k t d i v n).tokHb = s.tokHb := rfl
@[simp] theorem State.land_bbs (s : State) (k : LandKind) (t : Bool) (d : BitVec 6) (i : BitVec 13) (v : Wide) (n : Nat) : (s.land k t d i v n).bbs = s.bbs := rfl
@[simp] theorem State.land_landed (s : State) (k : LandKind) (t : Bool) (d : BitVec 6) (i : BitVec 13) (v : Wide) (n : Nat) : (s.land k t d i v n).landed = s.landed := rfl
@[simp] theorem State.land_sched (s : State) (k : LandKind) (t : Bool) (d : BitVec 6) (i : BitVec 13) (v : Wide) (n : Nat) : (s.land k t d i v n).sched = s.sched := rfl
@[simp] theorem State.land_turn (s : State) (k : LandKind) (t : Bool) (d : BitVec 6) (i : BitVec 13) (v : Wide) (n : Nat) : (s.land k t d i v n).turn = s.turn := rfl
@[simp] theorem State.land_word (s : State) (k : LandKind) (t : Bool) (d : BitVec 6) (i : BitVec 13) (v : Wide) (n : Nat) : (s.land k t d i v n).word = s.word := rfl
@[simp] theorem State.land_verdict (s : State) (k : LandKind) (t : Bool) (d : BitVec 6) (i : BitVec 13) (v : Wide) (n : Nat) : (s.land k t d i v n).verdict = s.verdict := rfl
@[simp] theorem State.land_agenda (s : State) (k : LandKind) (t : Bool) (d : BitVec 6) (i : BitVec 13) (v : Wide) (n : Nat) : (s.land k t d i v n).agenda = s.agenda := rfl
@[simp] theorem State.land_inputs (s : State) (k : LandKind) (t : Bool) (d : BitVec 6) (i : BitVec 13) (v : Wide) (n : Nat) : (s.land k t d i v n).inputs = s.inputs := rfl
@[simp] theorem State.land_free (s : State) (k : LandKind) (t : Bool) (d : BitVec 6) (i : BitVec 13) (v : Wide) (n : Nat) : (s.land k t d i v n).free = s.free := rfl
@[simp] theorem State.land_uid (s : State) (k : LandKind) (t : Bool) (d : BitVec 6) (i : BitVec 13) (v : Wide) (n : Nat) : (s.land k t d i v n).uid = s.uid := rfl
@[simp] theorem State.land_sent (s : State) (k : LandKind) (t : Bool) (d : BitVec 6) (i : BitVec 13) (v : Wide) (n : Nat) : (s.land k t d i v n).sent = s.sent := rfl
@[simp] theorem State.landS_now (s : State) (t : BitVec 1) (d : BitVec 6) (v : Word) (n : Nat) : (s.landS t d v n).now = s.now := rfl
@[simp] theorem State.landS_ctt (s : State) (t : BitVec 1) (d : BitVec 6) (v : Word) (n : Nat) : (s.landS t d v n).ctt = s.ctt := rfl
@[simp] theorem State.landS_mem (s : State) (t : BitVec 1) (d : BitVec 6) (v : Word) (n : Nat) : (s.landS t d v n).mem = s.mem := rfl
@[simp] theorem State.landS_regs (s : State) (t : BitVec 1) (d : BitVec 6) (v : Word) (n : Nat) : (s.landS t d v n).regs = s.regs := rfl
@[simp] theorem State.landS_tlb (s : State) (t : BitVec 1) (d : BitVec 6) (v : Word) (n : Nat) : (s.landS t d v n).tlb = s.tlb := rfl
@[simp] theorem State.landS_seen (s : State) (t : BitVec 1) (d : BitVec 6) (v : Word) (n : Nat) : (s.landS t d v n).seen = s.seen := rfl
@[simp] theorem State.landS_walks (s : State) (t : BitVec 1) (d : BitVec 6) (v : Word) (n : Nat) : (s.landS t d v n).walks = s.walks := rfl
@[simp] theorem State.landS_outs (s : State) (t : BitVec 1) (d : BitVec 6) (v : Word) (n : Nat) : (s.landS t d v n).outs = s.outs := rfl
@[simp] theorem State.landS_shoot (s : State) (t : BitVec 1) (d : BitVec 6) (v : Word) (n : Nat) : (s.landS t d v n).shoot = s.shoot := rfl
@[simp] theorem State.landS_absent (s : State) (t : BitVec 1) (d : BitVec 6) (v : Word) (n : Nat) : (s.landS t d v n).absent = s.absent := rfl
@[simp] theorem State.landS_launches (s : State) (t : BitVec 1) (d : BitVec 6) (v : Word) (n : Nat) : (s.landS t d v n).launches = s.launches := rfl
@[simp] theorem State.landS_hbm (s : State) (t : BitVec 1) (d : BitVec 6) (v : Word) (n : Nat) : (s.landS t d v n).hbm = s.hbm := rfl
@[simp] theorem State.landS_ports (s : State) (t : BitVec 1) (d : BitVec 6) (v : Word) (n : Nat) : (s.landS t d v n).ports = s.ports := rfl
@[simp] theorem State.landS_plane (s : State) (t : BitVec 1) (d : BitVec 6) (v : Word) (n : Nat) : (s.landS t d v n).plane = s.plane := rfl
@[simp] theorem State.landS_datumNs (s : State) (t : BitVec 1) (d : BitVec 6) (v : Word) (n : Nat) : (s.landS t d v n).datumNs = s.datumNs := rfl
@[simp] theorem State.landS_datumFr (s : State) (t : BitVec 1) (d : BitVec 6) (v : Word) (n : Nat) : (s.landS t d v n).datumFr = s.datumFr := rfl
@[simp] theorem State.landS_datumSlew (s : State) (t : BitVec 1) (d : BitVec 6) (v : Word) (n : Nat) : (s.landS t d v n).datumSlew = s.datumSlew := rfl
@[simp] theorem State.landS_lockCnt (s : State) (t : BitVec 1) (d : BitVec 6) (v : Word) (n : Nat) : (s.landS t d v n).lockCnt = s.lockCnt := rfl
@[simp] theorem State.landS_misc (s : State) (t : BitVec 1) (d : BitVec 6) (v : Word) (n : Nat) : (s.landS t d v n).misc = s.misc := rfl
@[simp] theorem State.landS_packets (s : State) (t : BitVec 1) (d : BitVec 6) (v : Word) (n : Nat) : (s.landS t d v n).packets = s.packets := rfl
@[simp] theorem State.landS_remote (s : State) (t : BitVec 1) (d : BitVec 6) (v : Word) (n : Nat) : (s.landS t d v n).remote = s.remote := rfl
@[simp] theorem State.landS_fires (s : State) (t : BitVec 1) (d : BitVec 6) (v : Word) (n : Nat) : (s.landS t d v n).fires = s.fires := rfl
@[simp] theorem State.landS_stamps (s : State) (t : BitVec 1) (d : BitVec 6) (v : Word) (n : Nat) : (s.landS t d v n).stamps = s.stamps := rfl
@[simp] theorem State.landS_clocks (s : State) (t : BitVec 1) (d : BitVec 6) (v : Word) (n : Nat) : (s.landS t d v n).clocks = s.clocks := rfl
@[simp] theorem State.landS_tokHb (s : State) (t : BitVec 1) (d : BitVec 6) (v : Word) (n : Nat) : (s.landS t d v n).tokHb = s.tokHb := rfl
@[simp] theorem State.landS_bbs (s : State) (t : BitVec 1) (d : BitVec 6) (v : Word) (n : Nat) : (s.landS t d v n).bbs = s.bbs := rfl
@[simp] theorem State.landS_landed (s : State) (t : BitVec 1) (d : BitVec 6) (v : Word) (n : Nat) : (s.landS t d v n).landed = s.landed := rfl
@[simp] theorem State.landS_sched (s : State) (t : BitVec 1) (d : BitVec 6) (v : Word) (n : Nat) : (s.landS t d v n).sched = s.sched := rfl
@[simp] theorem State.landS_turn (s : State) (t : BitVec 1) (d : BitVec 6) (v : Word) (n : Nat) : (s.landS t d v n).turn = s.turn := rfl
@[simp] theorem State.landS_word (s : State) (t : BitVec 1) (d : BitVec 6) (v : Word) (n : Nat) : (s.landS t d v n).word = s.word := rfl
@[simp] theorem State.landS_verdict (s : State) (t : BitVec 1) (d : BitVec 6) (v : Word) (n : Nat) : (s.landS t d v n).verdict = s.verdict := rfl
@[simp] theorem State.landS_agenda (s : State) (t : BitVec 1) (d : BitVec 6) (v : Word) (n : Nat) : (s.landS t d v n).agenda = s.agenda := rfl
@[simp] theorem State.landS_inputs (s : State) (t : BitVec 1) (d : BitVec 6) (v : Word) (n : Nat) : (s.landS t d v n).inputs = s.inputs := rfl
@[simp] theorem State.landS_free (s : State) (t : BitVec 1) (d : BitVec 6) (v : Word) (n : Nat) : (s.landS t d v n).free = s.free := rfl
@[simp] theorem State.landS_uid (s : State) (t : BitVec 1) (d : BitVec 6) (v : Word) (n : Nat) : (s.landS t d v n).uid = s.uid := rfl
@[simp] theorem State.landS_sent (s : State) (t : BitVec 1) (d : BitVec 6) (v : Word) (n : Nat) : (s.landS t d v n).sent = s.sent := rfl
@[simp] theorem State.landWait_now (s : State) (t : Bool) (d : BitVec 6) (v : Wide) (n a : Nat) : (s.landWait t d v n a).now = s.now := rfl
@[simp] theorem State.landWait_ctt (s : State) (t : Bool) (d : BitVec 6) (v : Wide) (n a : Nat) : (s.landWait t d v n a).ctt = s.ctt := rfl
@[simp] theorem State.landWait_mem (s : State) (t : Bool) (d : BitVec 6) (v : Wide) (n a : Nat) : (s.landWait t d v n a).mem = s.mem := rfl
@[simp] theorem State.landWait_regs (s : State) (t : Bool) (d : BitVec 6) (v : Wide) (n a : Nat) : (s.landWait t d v n a).regs = s.regs := rfl
@[simp] theorem State.landWait_tlb (s : State) (t : Bool) (d : BitVec 6) (v : Wide) (n a : Nat) : (s.landWait t d v n a).tlb = s.tlb := rfl
@[simp] theorem State.landWait_seen (s : State) (t : Bool) (d : BitVec 6) (v : Wide) (n a : Nat) : (s.landWait t d v n a).seen = s.seen := rfl
@[simp] theorem State.landWait_walks (s : State) (t : Bool) (d : BitVec 6) (v : Wide) (n a : Nat) : (s.landWait t d v n a).walks = s.walks := rfl
@[simp] theorem State.landWait_outs (s : State) (t : Bool) (d : BitVec 6) (v : Wide) (n a : Nat) : (s.landWait t d v n a).outs = s.outs := rfl
@[simp] theorem State.landWait_shoot (s : State) (t : Bool) (d : BitVec 6) (v : Wide) (n a : Nat) : (s.landWait t d v n a).shoot = s.shoot := rfl
@[simp] theorem State.landWait_absent (s : State) (t : Bool) (d : BitVec 6) (v : Wide) (n a : Nat) : (s.landWait t d v n a).absent = s.absent := rfl
@[simp] theorem State.landWait_launches (s : State) (t : Bool) (d : BitVec 6) (v : Wide) (n a : Nat) : (s.landWait t d v n a).launches = s.launches := rfl
@[simp] theorem State.landWait_hbm (s : State) (t : Bool) (d : BitVec 6) (v : Wide) (n a : Nat) : (s.landWait t d v n a).hbm = s.hbm := rfl
@[simp] theorem State.landWait_ports (s : State) (t : Bool) (d : BitVec 6) (v : Wide) (n a : Nat) : (s.landWait t d v n a).ports = s.ports := rfl
@[simp] theorem State.landWait_plane (s : State) (t : Bool) (d : BitVec 6) (v : Wide) (n a : Nat) : (s.landWait t d v n a).plane = s.plane := rfl
@[simp] theorem State.landWait_datumNs (s : State) (t : Bool) (d : BitVec 6) (v : Wide) (n a : Nat) : (s.landWait t d v n a).datumNs = s.datumNs := rfl
@[simp] theorem State.landWait_datumFr (s : State) (t : Bool) (d : BitVec 6) (v : Wide) (n a : Nat) : (s.landWait t d v n a).datumFr = s.datumFr := rfl
@[simp] theorem State.landWait_datumSlew (s : State) (t : Bool) (d : BitVec 6) (v : Wide) (n a : Nat) : (s.landWait t d v n a).datumSlew = s.datumSlew := rfl
@[simp] theorem State.landWait_lockCnt (s : State) (t : Bool) (d : BitVec 6) (v : Wide) (n a : Nat) : (s.landWait t d v n a).lockCnt = s.lockCnt := rfl
@[simp] theorem State.landWait_misc (s : State) (t : Bool) (d : BitVec 6) (v : Wide) (n a : Nat) : (s.landWait t d v n a).misc = s.misc := rfl
@[simp] theorem State.landWait_packets (s : State) (t : Bool) (d : BitVec 6) (v : Wide) (n a : Nat) : (s.landWait t d v n a).packets = s.packets := rfl
@[simp] theorem State.landWait_remote (s : State) (t : Bool) (d : BitVec 6) (v : Wide) (n a : Nat) : (s.landWait t d v n a).remote = s.remote := rfl
@[simp] theorem State.landWait_fires (s : State) (t : Bool) (d : BitVec 6) (v : Wide) (n a : Nat) : (s.landWait t d v n a).fires = s.fires := rfl
@[simp] theorem State.landWait_stamps (s : State) (t : Bool) (d : BitVec 6) (v : Wide) (n a : Nat) : (s.landWait t d v n a).stamps = s.stamps := rfl
@[simp] theorem State.landWait_clocks (s : State) (t : Bool) (d : BitVec 6) (v : Wide) (n a : Nat) : (s.landWait t d v n a).clocks = s.clocks := rfl
@[simp] theorem State.landWait_tokHb (s : State) (t : Bool) (d : BitVec 6) (v : Wide) (n a : Nat) : (s.landWait t d v n a).tokHb = s.tokHb := rfl
@[simp] theorem State.landWait_bbs (s : State) (t : Bool) (d : BitVec 6) (v : Wide) (n a : Nat) : (s.landWait t d v n a).bbs = s.bbs := rfl
@[simp] theorem State.landWait_landed (s : State) (t : Bool) (d : BitVec 6) (v : Wide) (n a : Nat) : (s.landWait t d v n a).landed = s.landed := rfl
@[simp] theorem State.landWait_sched (s : State) (t : Bool) (d : BitVec 6) (v : Wide) (n a : Nat) : (s.landWait t d v n a).sched = s.sched := rfl
@[simp] theorem State.landWait_turn (s : State) (t : Bool) (d : BitVec 6) (v : Wide) (n a : Nat) : (s.landWait t d v n a).turn = s.turn := rfl
@[simp] theorem State.landWait_word (s : State) (t : Bool) (d : BitVec 6) (v : Wide) (n a : Nat) : (s.landWait t d v n a).word = s.word := rfl
@[simp] theorem State.landWait_verdict (s : State) (t : Bool) (d : BitVec 6) (v : Wide) (n a : Nat) : (s.landWait t d v n a).verdict = s.verdict := rfl
@[simp] theorem State.landWait_agenda (s : State) (t : Bool) (d : BitVec 6) (v : Wide) (n a : Nat) : (s.landWait t d v n a).agenda = s.agenda := rfl
@[simp] theorem State.landWait_inputs (s : State) (t : Bool) (d : BitVec 6) (v : Wide) (n a : Nat) : (s.landWait t d v n a).inputs = s.inputs := rfl
@[simp] theorem State.landWait_free (s : State) (t : Bool) (d : BitVec 6) (v : Wide) (n a : Nat) : (s.landWait t d v n a).free = s.free := rfl
@[simp] theorem State.landWait_uid (s : State) (t : Bool) (d : BitVec 6) (v : Wide) (n a : Nat) : (s.landWait t d v n a).uid = s.uid := rfl
@[simp] theorem State.landWait_sent (s : State) (t : Bool) (d : BitVec 6) (v : Wide) (n a : Nat) : (s.landWait t d v n a).sent = s.sent := rfl
@[simp] theorem State.atEnd_now (s : State) (e : EndOp) : (s.atEnd e).now = s.now := rfl
@[simp] theorem State.atEnd_ctt (s : State) (e : EndOp) : (s.atEnd e).ctt = s.ctt := rfl
@[simp] theorem State.atEnd_mem (s : State) (e : EndOp) : (s.atEnd e).mem = s.mem := rfl
@[simp] theorem State.atEnd_regs (s : State) (e : EndOp) : (s.atEnd e).regs = s.regs := rfl
@[simp] theorem State.atEnd_tlb (s : State) (e : EndOp) : (s.atEnd e).tlb = s.tlb := rfl
@[simp] theorem State.atEnd_seen (s : State) (e : EndOp) : (s.atEnd e).seen = s.seen := rfl
@[simp] theorem State.atEnd_walks (s : State) (e : EndOp) : (s.atEnd e).walks = s.walks := rfl
@[simp] theorem State.atEnd_outs (s : State) (e : EndOp) : (s.atEnd e).outs = s.outs := rfl
@[simp] theorem State.atEnd_shoot (s : State) (e : EndOp) : (s.atEnd e).shoot = s.shoot := rfl
@[simp] theorem State.atEnd_absent (s : State) (e : EndOp) : (s.atEnd e).absent = s.absent := rfl
@[simp] theorem State.atEnd_launches (s : State) (e : EndOp) : (s.atEnd e).launches = s.launches := rfl
@[simp] theorem State.atEnd_hbm (s : State) (e : EndOp) : (s.atEnd e).hbm = s.hbm := rfl
@[simp] theorem State.atEnd_ports (s : State) (e : EndOp) : (s.atEnd e).ports = s.ports := rfl
@[simp] theorem State.atEnd_plane (s : State) (e : EndOp) : (s.atEnd e).plane = s.plane := rfl
@[simp] theorem State.atEnd_datumNs (s : State) (e : EndOp) : (s.atEnd e).datumNs = s.datumNs := rfl
@[simp] theorem State.atEnd_datumFr (s : State) (e : EndOp) : (s.atEnd e).datumFr = s.datumFr := rfl
@[simp] theorem State.atEnd_datumSlew (s : State) (e : EndOp) : (s.atEnd e).datumSlew = s.datumSlew := rfl
@[simp] theorem State.atEnd_lockCnt (s : State) (e : EndOp) : (s.atEnd e).lockCnt = s.lockCnt := rfl
@[simp] theorem State.atEnd_misc (s : State) (e : EndOp) : (s.atEnd e).misc = s.misc := rfl
@[simp] theorem State.atEnd_packets (s : State) (e : EndOp) : (s.atEnd e).packets = s.packets := rfl
@[simp] theorem State.atEnd_remote (s : State) (e : EndOp) : (s.atEnd e).remote = s.remote := rfl
@[simp] theorem State.atEnd_fires (s : State) (e : EndOp) : (s.atEnd e).fires = s.fires := rfl
@[simp] theorem State.atEnd_stamps (s : State) (e : EndOp) : (s.atEnd e).stamps = s.stamps := rfl
@[simp] theorem State.atEnd_clocks (s : State) (e : EndOp) : (s.atEnd e).clocks = s.clocks := rfl
@[simp] theorem State.atEnd_tokHb (s : State) (e : EndOp) : (s.atEnd e).tokHb = s.tokHb := rfl
@[simp] theorem State.atEnd_bbs (s : State) (e : EndOp) : (s.atEnd e).bbs = s.bbs := rfl
@[simp] theorem State.atEnd_landed (s : State) (e : EndOp) : (s.atEnd e).landed = s.landed := rfl
@[simp] theorem State.atEnd_sched (s : State) (e : EndOp) : (s.atEnd e).sched = s.sched := rfl
@[simp] theorem State.atEnd_turn (s : State) (e : EndOp) : (s.atEnd e).turn = s.turn := rfl
@[simp] theorem State.atEnd_word (s : State) (e : EndOp) : (s.atEnd e).word = s.word := rfl
@[simp] theorem State.atEnd_verdict (s : State) (e : EndOp) : (s.atEnd e).verdict = s.verdict := rfl
@[simp] theorem State.atEnd_agenda (s : State) (e : EndOp) : (s.atEnd e).agenda = s.agenda := rfl
@[simp] theorem State.atEnd_inputs (s : State) (e : EndOp) : (s.atEnd e).inputs = s.inputs := rfl
@[simp] theorem State.atEnd_free (s : State) (e : EndOp) : (s.atEnd e).free = s.free := rfl
@[simp] theorem State.atEnd_uid (s : State) (e : EndOp) : (s.atEnd e).uid = s.uid := rfl
@[simp] theorem State.atEnd_sent (s : State) (e : EndOp) : (s.atEnd e).sent = s.sent := rfl
@[simp] theorem advanceBy_now (n : Nat) (s : State) : (advanceBy n s).now = s.now := rfl
@[simp] theorem advance_now (s : State) : (advance s).now = s.now := rfl
@[simp] theorem stall_now (n : Nat) (s : State) : (stall n s).now = s.now := by
  unfold stall; dsimp only; split <;> rfl
@[simp] theorem advanceBy_ctt (n : Nat) (s : State) : (advanceBy n s).ctt = s.ctt := rfl
@[simp] theorem advance_ctt (s : State) : (advance s).ctt = s.ctt := rfl
@[simp] theorem stall_ctt (n : Nat) (s : State) : (stall n s).ctt = s.ctt := by
  unfold stall; dsimp only; split <;> rfl
@[simp] theorem advanceBy_mem (n : Nat) (s : State) : (advanceBy n s).mem = s.mem := rfl
@[simp] theorem advance_mem (s : State) : (advance s).mem = s.mem := rfl
@[simp] theorem stall_mem (n : Nat) (s : State) : (stall n s).mem = s.mem := by
  unfold stall; dsimp only; split <;> rfl
@[simp] theorem advanceBy_regs (n : Nat) (s : State) : (advanceBy n s).regs = s.regs := rfl
@[simp] theorem advance_regs (s : State) : (advance s).regs = s.regs := rfl
@[simp] theorem stall_regs (n : Nat) (s : State) : (stall n s).regs = s.regs := by
  unfold stall; dsimp only; split <;> rfl
@[simp] theorem advanceBy_tlb (n : Nat) (s : State) : (advanceBy n s).tlb = s.tlb := rfl
@[simp] theorem advanceBy_seen (n : Nat) (s : State) : (advanceBy n s).seen = s.seen := rfl
@[simp] theorem advance_tlb (s : State) : (advance s).tlb = s.tlb := rfl
@[simp] theorem advance_seen (s : State) : (advance s).seen = s.seen := rfl
@[simp] theorem stall_tlb (n : Nat) (s : State) : (stall n s).tlb = s.tlb := by
  unfold stall; dsimp only; split <;> rfl
@[simp] theorem stall_seen (n : Nat) (s : State) : (stall n s).seen = s.seen := by
  unfold stall; dsimp only; split <;> rfl
@[simp] theorem advanceBy_walks (n : Nat) (s : State) : (advanceBy n s).walks = s.walks := rfl
@[simp] theorem advance_walks (s : State) : (advance s).walks = s.walks := rfl
@[simp] theorem stall_walks (n : Nat) (s : State) : (stall n s).walks = s.walks := by
  unfold stall; dsimp only; split <;> rfl
@[simp] theorem advanceBy_outs (n : Nat) (s : State) : (advanceBy n s).outs = s.outs := rfl
@[simp] theorem advance_outs (s : State) : (advance s).outs = s.outs := rfl
@[simp] theorem stall_outs (n : Nat) (s : State) : (stall n s).outs = s.outs := by
  unfold stall; dsimp only; split <;> rfl
@[simp] theorem advanceBy_shoot (n : Nat) (s : State) : (advanceBy n s).shoot = s.shoot := rfl
@[simp] theorem advance_shoot (s : State) : (advance s).shoot = s.shoot := rfl
@[simp] theorem stall_shoot (n : Nat) (s : State) : (stall n s).shoot = s.shoot := by
  unfold stall; dsimp only; split <;> rfl
@[simp] theorem advanceBy_absent (n : Nat) (s : State) : (advanceBy n s).absent = s.absent := rfl
@[simp] theorem advance_absent (s : State) : (advance s).absent = s.absent := rfl
@[simp] theorem stall_absent (n : Nat) (s : State) : (stall n s).absent = s.absent := by
  unfold stall; dsimp only; split <;> rfl
@[simp] theorem advanceBy_launches (n : Nat) (s : State) : (advanceBy n s).launches = s.launches := rfl
@[simp] theorem advance_launches (s : State) : (advance s).launches = s.launches := rfl
@[simp] theorem stall_launches (n : Nat) (s : State) : (stall n s).launches = s.launches := by
  unfold stall; dsimp only; split <;> rfl
@[simp] theorem advanceBy_hbm (n : Nat) (s : State) : (advanceBy n s).hbm = s.hbm := rfl
@[simp] theorem advance_hbm (s : State) : (advance s).hbm = s.hbm := rfl
@[simp] theorem stall_hbm (n : Nat) (s : State) : (stall n s).hbm = s.hbm := by
  unfold stall; dsimp only; split <;> rfl
@[simp] theorem advanceBy_ports (n : Nat) (s : State) : (advanceBy n s).ports = s.ports := rfl
@[simp] theorem advance_ports (s : State) : (advance s).ports = s.ports := rfl
@[simp] theorem stall_ports (n : Nat) (s : State) : (stall n s).ports = s.ports := by
  unfold stall; dsimp only; split <;> rfl
@[simp] theorem advanceBy_plane (n : Nat) (s : State) : (advanceBy n s).plane = s.plane := rfl
@[simp] theorem advance_plane (s : State) : (advance s).plane = s.plane := rfl
@[simp] theorem stall_plane (n : Nat) (s : State) : (stall n s).plane = s.plane := by
  unfold stall; dsimp only; split <;> rfl
@[simp] theorem advanceBy_datumNs (n : Nat) (s : State) : (advanceBy n s).datumNs = s.datumNs := rfl
@[simp] theorem advance_datumNs (s : State) : (advance s).datumNs = s.datumNs := rfl
@[simp] theorem stall_datumNs (n : Nat) (s : State) : (stall n s).datumNs = s.datumNs := by
  unfold stall; dsimp only; split <;> rfl
@[simp] theorem advanceBy_datumFr (n : Nat) (s : State) : (advanceBy n s).datumFr = s.datumFr := rfl
@[simp] theorem advance_datumFr (s : State) : (advance s).datumFr = s.datumFr := rfl
@[simp] theorem stall_datumFr (n : Nat) (s : State) : (stall n s).datumFr = s.datumFr := by
  unfold stall; dsimp only; split <;> rfl
@[simp] theorem advanceBy_datumSlew (n : Nat) (s : State) : (advanceBy n s).datumSlew = s.datumSlew := rfl
@[simp] theorem advance_datumSlew (s : State) : (advance s).datumSlew = s.datumSlew := rfl
@[simp] theorem stall_datumSlew (n : Nat) (s : State) : (stall n s).datumSlew = s.datumSlew := by
  unfold stall; dsimp only; split <;> rfl
@[simp] theorem advanceBy_lockCnt (n : Nat) (s : State) : (advanceBy n s).lockCnt = s.lockCnt := rfl
@[simp] theorem advance_lockCnt (s : State) : (advance s).lockCnt = s.lockCnt := rfl
@[simp] theorem stall_lockCnt (n : Nat) (s : State) : (stall n s).lockCnt = s.lockCnt := by
  unfold stall; dsimp only; split <;> rfl
@[simp] theorem advanceBy_misc (n : Nat) (s : State) : (advanceBy n s).misc = s.misc := rfl
@[simp] theorem advance_misc (s : State) : (advance s).misc = s.misc := rfl
@[simp] theorem stall_misc (n : Nat) (s : State) : (stall n s).misc = s.misc := by
  unfold stall; dsimp only; split <;> rfl
@[simp] theorem advanceBy_packets (n : Nat) (s : State) : (advanceBy n s).packets = s.packets := rfl
@[simp] theorem advance_packets (s : State) : (advance s).packets = s.packets := rfl
@[simp] theorem stall_packets (n : Nat) (s : State) : (stall n s).packets = s.packets := by
  unfold stall; dsimp only; split <;> rfl
@[simp] theorem advanceBy_remote (n : Nat) (s : State) : (advanceBy n s).remote = s.remote := rfl
@[simp] theorem advance_remote (s : State) : (advance s).remote = s.remote := rfl
@[simp] theorem stall_remote (n : Nat) (s : State) : (stall n s).remote = s.remote := by
  unfold stall; dsimp only; split <;> rfl
@[simp] theorem advanceBy_fires (n : Nat) (s : State) : (advanceBy n s).fires = s.fires := rfl
@[simp] theorem advance_fires (s : State) : (advance s).fires = s.fires := rfl
@[simp] theorem stall_fires (n : Nat) (s : State) : (stall n s).fires = s.fires := by
  unfold stall; dsimp only; split <;> rfl
@[simp] theorem advanceBy_stamps (n : Nat) (s : State) : (advanceBy n s).stamps = s.stamps := rfl
@[simp] theorem advance_stamps (s : State) : (advance s).stamps = s.stamps := rfl
@[simp] theorem stall_stamps (n : Nat) (s : State) : (stall n s).stamps = s.stamps := by
  unfold stall; dsimp only; split <;> rfl
@[simp] theorem advanceBy_clocks (n : Nat) (s : State) : (advanceBy n s).clocks = s.clocks := rfl
@[simp] theorem advance_clocks (s : State) : (advance s).clocks = s.clocks := rfl
@[simp] theorem stall_clocks (n : Nat) (s : State) : (stall n s).clocks = s.clocks := by
  unfold stall; dsimp only; split <;> rfl
@[simp] theorem advanceBy_tokHb (n : Nat) (s : State) : (advanceBy n s).tokHb = s.tokHb := rfl
@[simp] theorem advance_tokHb (s : State) : (advance s).tokHb = s.tokHb := rfl
@[simp] theorem stall_tokHb (n : Nat) (s : State) : (stall n s).tokHb = s.tokHb := by
  unfold stall; dsimp only; split <;> rfl
@[simp] theorem advanceBy_bbs (n : Nat) (s : State) : (advanceBy n s).bbs = s.bbs := rfl
@[simp] theorem advance_bbs (s : State) : (advance s).bbs = s.bbs := rfl
@[simp] theorem stall_bbs (n : Nat) (s : State) : (stall n s).bbs = s.bbs := by
  unfold stall; dsimp only; split <;> rfl
@[simp] theorem advanceBy_sched (n : Nat) (s : State) : (advanceBy n s).sched = s.sched := rfl
@[simp] theorem advance_sched (s : State) : (advance s).sched = s.sched := rfl
@[simp] theorem stall_sched (n : Nat) (s : State) : (stall n s).sched = s.sched := by
  unfold stall; dsimp only; split <;> rfl
@[simp] theorem advanceBy_turn (n : Nat) (s : State) : (advanceBy n s).turn = s.turn := rfl
@[simp] theorem advance_turn (s : State) : (advance s).turn = s.turn := rfl
@[simp] theorem stall_turn (n : Nat) (s : State) : (stall n s).turn = s.turn := by
  unfold stall; dsimp only; split <;> rfl
@[simp] theorem advanceBy_word (n : Nat) (s : State) : (advanceBy n s).word = s.word := rfl
@[simp] theorem advance_word (s : State) : (advance s).word = s.word := rfl
@[simp] theorem stall_word (n : Nat) (s : State) : (stall n s).word = s.word := by
  unfold stall; dsimp only; split <;> rfl
@[simp] theorem advanceBy_agenda (n : Nat) (s : State) : (advanceBy n s).agenda = s.agenda := rfl
@[simp] theorem advance_agenda (s : State) : (advance s).agenda = s.agenda := rfl
@[simp] theorem stall_agenda (n : Nat) (s : State) : (stall n s).agenda = s.agenda := by
  unfold stall; dsimp only; split <;> rfl
@[simp] theorem advanceBy_inputs (n : Nat) (s : State) : (advanceBy n s).inputs = s.inputs := rfl
@[simp] theorem advance_inputs (s : State) : (advance s).inputs = s.inputs := rfl
@[simp] theorem stall_inputs (n : Nat) (s : State) : (stall n s).inputs = s.inputs := by
  unfold stall; dsimp only; split <;> rfl
@[simp] theorem advanceBy_free (n : Nat) (s : State) : (advanceBy n s).free = s.free := rfl
@[simp] theorem advance_free (s : State) : (advance s).free = s.free := rfl
@[simp] theorem stall_free (n : Nat) (s : State) : (stall n s).free = s.free := by
  unfold stall; dsimp only; split <;> rfl
@[simp] theorem advanceBy_uid (n : Nat) (s : State) : (advanceBy n s).uid = s.uid := rfl
@[simp] theorem advance_uid (s : State) : (advance s).uid = s.uid := rfl
@[simp] theorem stall_uid (n : Nat) (s : State) : (stall n s).uid = s.uid := by
  unfold stall; dsimp only; split <;> rfl
@[simp] theorem advanceBy_sent (n : Nat) (s : State) : (advanceBy n s).sent = s.sent := rfl
@[simp] theorem advance_sent (s : State) : (advance s).sent = s.sent := rfl
@[simp] theorem stall_sent (n : Nat) (s : State) : (stall n s).sent = s.sent := by
  unfold stall; dsimp only; split <;> rfl
@[simp] theorem Ctx.setSeq_S_lid (c : Ctx) (x : Seq) : (c.setSeq .S x).lid = c.lid := rfl
@[simp] theorem Ctx.setSeq_S_mode (c : Ctx) (x : Seq) : (c.setSeq .S x).mode = c.mode := rfl
@[simp] theorem Ctx.setSeq_S_handler (c : Ctx) (x : Seq) : (c.setSeq .S x).handler = c.handler := rfl
@[simp] theorem Ctx.setSeq_S_asid (c : Ctx) (x : Seq) : (c.setSeq .S x).asid = c.asid := rfl
@[simp] theorem Ctx.setSeq_S_gran (c : Ctx) (x : Seq) : (c.setSeq .S x).gran = c.gran := rfl
@[simp] theorem Ctx.setSeq_S_group (c : Ctx) (x : Seq) : (c.setSeq .S x).group = c.group := rfl
@[simp] theorem Ctx.setSeq_S_clk (c : Ctx) (x : Seq) : (c.setSeq .S x).clk = c.clk := rfl
@[simp] theorem Ctx.setSeq_S_frzn (c : Ctx) (x : Seq) : (c.setSeq .S x).frzn = c.frzn := rfl
@[simp] theorem Ctx.setSeq_S_frzs (c : Ctx) (x : Seq) : (c.setSeq .S x).frzs = c.frzs := rfl
@[simp] theorem Ctx.setSeq_S_v (c : Ctx) (x : Seq) : (c.setSeq .S x).v = c.v := rfl
@[simp] theorem Ctx.setSeq_S_m (c : Ctx) (x : Seq) : (c.setSeq .S x).m = c.m := rfl
@[simp] theorem Ctx.setSeq_S_c (c : Ctx) (x : Seq) : (c.setSeq .S x).c = c.c := rfl
@[simp] theorem Ctx.setSeq_S_x (c : Ctx) (x : Seq) : (c.setSeq .S x).x = c.x := rfl
@[simp] theorem Ctx.setSeq_S_x1 (c : Ctx) (x : Seq) : (c.setSeq .S x).x1 = c.x1 := rfl
@[simp] theorem Ctx.setSeq_S_x2 (c : Ctx) (x : Seq) : (c.setSeq .S x).x2 = c.x2 := rfl
@[simp] theorem Ctx.setSeq_S_xo (c : Ctx) (x : Seq) : (c.setSeq .S x).xo = c.xo := rfl
@[simp] theorem Ctx.setSeq_S_xq (c : Ctx) (x : Seq) : (c.setSeq .S x).xq = c.xq := rfl
@[simp] theorem Ctx.setSeq_S_xb (c : Ctx) (x : Seq) : (c.setSeq .S x).xb = c.xb := rfl
@[simp] theorem Ctx.setSeq_S_vr (c : Ctx) (x : Seq) : (c.setSeq .S x).vr = c.vr := rfl
@[simp] theorem Ctx.setSeq_S_vo (c : Ctx) (x : Seq) : (c.setSeq .S x).vo = c.vo := rfl
@[simp] theorem Ctx.setSeq_S_vq (c : Ctx) (x : Seq) : (c.setSeq .S x).vq = c.vq := rfl
@[simp] theorem Ctx.setSeq_S_vb (c : Ctx) (x : Seq) : (c.setSeq .S x).vb = c.vb := rfl
@[simp] theorem Ctx.setSeq_S_mkr (c : Ctx) (x : Seq) : (c.setSeq .S x).mkr = c.mkr := rfl
@[simp] theorem Ctx.setSeq_S_tiles (c : Ctx) (x : Seq) : (c.setSeq .S x).tiles = c.tiles := rfl
@[simp] theorem Ctx.setSeq_S_vtset (c : Ctx) (x : Seq) : (c.setSeq .S x).vtset = c.vtset := rfl
@[simp] theorem Ctx.setSeq_S_vl0 (c : Ctx) (x : Seq) : (c.setSeq .S x).vl0 = c.vl0 := rfl
@[simp] theorem Ctx.setSeq_S_vl1 (c : Ctx) (x : Seq) : (c.setSeq .S x).vl1 = c.vl1 := rfl
@[simp] theorem Ctx.setSeq_S_a (c : Ctx) (x : Seq) : (c.setSeq .S x).a = c.a := rfl
@[simp] theorem Ctx.setSeq_S_g (c : Ctx) (x : Seq) : (c.setSeq .S x).g = c.g := rfl
@[simp] theorem Ctx.setSeq_S_tok (c : Ctx) (x : Seq) : (c.setSeq .S x).tok = c.tok := rfl
@[simp] theorem Ctx.setSeq_S_ctok (c : Ctx) (x : Seq) : (c.setSeq .S x).ctok = c.ctok := rfl
@[simp] theorem Ctx.setSeq_S_fq (c : Ctx) (x : Seq) : (c.setSeq .S x).fq = c.fq := rfl
@[simp] theorem Ctx.setSeq_S_sq (c : Ctx) (x : Seq) : (c.setSeq .S x).sq = c.sq := rfl
@[simp] theorem Ctx.setSeq_S_vflag (c : Ctx) (x : Seq) : (c.setSeq .S x).vflag = c.vflag := rfl
@[simp] theorem Ctx.setSeq_S_vrm (c : Ctx) (x : Seq) : (c.setSeq .S x).vrm = c.vrm := rfl
@[simp] theorem Ctx.setSeq_S_vseed (c : Ctx) (x : Seq) : (c.setSeq .S x).vseed = c.vseed := rfl
@[simp] theorem Ctx.setSeq_S_vsrctr (c : Ctx) (x : Seq) : (c.setSeq .S x).vsrctr = c.vsrctr := rfl
@[simp] theorem Ctx.setSeq_S_awround (c : Ctx) (x : Seq) : (c.setSeq .S x).awround = c.awround := rfl
@[simp] theorem Ctx.setSeq_S_awstat (c : Ctx) (x : Seq) : (c.setSeq .S x).awstat = c.awstat := rfl
@[simp] theorem Ctx.setSeq_S_valloc (c : Ctx) (x : Seq) : (c.setSeq .S x).valloc = c.valloc := rfl
@[simp] theorem Ctx.setSeq_S_mcmask (c : Ctx) (x : Seq) : (c.setSeq .S x).mcmask = c.mcmask := rfl
@[simp] theorem Ctx.setSeq_S_mdepth (c : Ctx) (x : Seq) : (c.setSeq .S x).mdepth = c.mdepth := rfl
@[simp] theorem Ctx.setSeq_S_members (c : Ctx) (x : Seq) : (c.setSeq .S x).members = c.members := rfl
@[simp] theorem Ctx.setSeq_S_phase (c : Ctx) (x : Seq) : (c.setSeq .S x).phase = c.phase := rfl
@[simp] theorem Ctx.setSeq_S_variant (c : Ctx) (x : Seq) : (c.setSeq .S x).variant = c.variant := rfl
@[simp] theorem Ctx.setSeq_S_rwin (c : Ctx) (x : Seq) : (c.setSeq .S x).rwin = c.rwin := rfl
@[simp] theorem Ctx.setSeq_S_alg (c : Ctx) (x : Seq) : (c.setSeq .S x).alg = c.alg := rfl
@[simp] theorem Ctx.setSeq_S_lct (c : Ctx) (x : Seq) : (c.setSeq .S x).lct = c.lct := rfl
@[simp] theorem Ctx.setSeq_S_work (c : Ctx) (x : Seq) : (c.setSeq .S x).work = c.work := rfl
@[simp] theorem Ctx.setSeq_S_vis (c : Ctx) (x : Seq) : (c.setSeq .S x).vis = c.vis := rfl
@[simp] theorem Ctx.setSeq_S_cmds (c : Ctx) (x : Seq) : (c.setSeq .S x).cmds = c.cmds := rfl
@[simp] theorem Ctx.setSeq_S_slots (c : Ctx) (x : Seq) : (c.setSeq .S x).slots = c.slots := rfl
@[simp] theorem Ctx.setSeq_S_mswap (c : Ctx) (x : Seq) : (c.setSeq .S x).mswap = c.mswap := rfl
@[simp] theorem Ctx.setSeq_S_chans (c : Ctx) (x : Seq) : (c.setSeq .S x).chans = c.chans := rfl
@[simp] theorem Ctx.setSeq_S_copies (c : Ctx) (x : Seq) : (c.setSeq .S x).copies = c.copies := rfl
@[simp] theorem Ctx.setSeq_S_await (c : Ctx) (x : Seq) : (c.setSeq .S x).await = c.await := rfl
@[simp] theorem Ctx.setSeq_S_rrCh (c : Ctx) (x : Seq) : (c.setSeq .S x).rrCh = c.rrCh := rfl
@[simp] theorem Ctx.setSeq_S_rcache (c : Ctx) (x : Seq) : (c.setSeq .S x).rcache = c.rcache := rfl
@[simp] theorem Ctx.setSeq_S_wins (c : Ctx) (x : Seq) : (c.setSeq .S x).wins = c.wins := rfl
@[simp] theorem Ctx.setSeq_S_mcast (c : Ctx) (x : Seq) : (c.setSeq .S x).mcast = c.mcast := rfl
@[simp] theorem Ctx.setSeq_S_arrive (c : Ctx) (x : Seq) : (c.setSeq .S x).arrive = c.arrive := rfl
@[simp] theorem Ctx.setSeq_S_endOps (c : Ctx) (x : Seq) : (c.setSeq .S x).endOps = c.endOps := rfl
@[simp] theorem Ctx.setSeq_S_wdogPer (c : Ctx) (x : Seq) : (c.setSeq .S x).wdogPer = c.wdogPer := rfl
@[simp] theorem Ctx.setSeq_S_wdogLeft (c : Ctx) (x : Seq) : (c.setSeq .S x).wdogLeft = c.wdogLeft := rfl
@[simp] theorem Ctx.setSeq_S_bar (c : Ctx) (x : Seq) : (c.setSeq .S x).bar = c.bar := rfl
@[simp] theorem Ctx.setSeq_S_barSw (c : Ctx) (x : Seq) : (c.setSeq .S x).barSw = c.barSw := rfl
@[simp] theorem Ctx.setSeq_S_barGo (c : Ctx) (x : Seq) : (c.setSeq .S x).barGo = c.barGo := rfl
@[simp] theorem Ctx.setSeq_S_poisoned (c : Ctx) (x : Seq) : (c.setSeq .S x).poisoned = c.poisoned := rfl
@[simp] theorem Ctx.setSeq_S_poison (c : Ctx) (x : Seq) : (c.setSeq .S x).poison = c.poison := rfl
@[simp] theorem Ctx.setSeq_S_accBad (c : Ctx) (x : Seq) : (c.setSeq .S x).accBad = c.accBad := rfl
@[simp] theorem Ctx.setSeq_S_toFill (c : Ctx) (x : Seq) : (c.setSeq .S x).toFill = c.toFill := rfl
@[simp] theorem Ctx.setSeq_S_trap (c : Ctx) (x : Seq) : (c.setSeq .S x).trap = c.trap := rfl
@[simp] theorem Ctx.setSeq_S_fresh (c : Ctx) (x : Seq) : (c.setSeq .S x).fresh = c.fresh := rfl
@[simp] theorem Ctx.setSeq_V_lid (c : Ctx) (x : Seq) : (c.setSeq .V x).lid = c.lid := rfl
@[simp] theorem Ctx.setSeq_V_mode (c : Ctx) (x : Seq) : (c.setSeq .V x).mode = c.mode := rfl
@[simp] theorem Ctx.setSeq_V_handler (c : Ctx) (x : Seq) : (c.setSeq .V x).handler = c.handler := rfl
@[simp] theorem Ctx.setSeq_V_asid (c : Ctx) (x : Seq) : (c.setSeq .V x).asid = c.asid := rfl
@[simp] theorem Ctx.setSeq_V_gran (c : Ctx) (x : Seq) : (c.setSeq .V x).gran = c.gran := rfl
@[simp] theorem Ctx.setSeq_V_group (c : Ctx) (x : Seq) : (c.setSeq .V x).group = c.group := rfl
@[simp] theorem Ctx.setSeq_V_clk (c : Ctx) (x : Seq) : (c.setSeq .V x).clk = c.clk := rfl
@[simp] theorem Ctx.setSeq_V_frzn (c : Ctx) (x : Seq) : (c.setSeq .V x).frzn = c.frzn := rfl
@[simp] theorem Ctx.setSeq_V_frzs (c : Ctx) (x : Seq) : (c.setSeq .V x).frzs = c.frzs := rfl
@[simp] theorem Ctx.setSeq_V_s (c : Ctx) (x : Seq) : (c.setSeq .V x).s = c.s := rfl
@[simp] theorem Ctx.setSeq_V_m (c : Ctx) (x : Seq) : (c.setSeq .V x).m = c.m := rfl
@[simp] theorem Ctx.setSeq_V_c (c : Ctx) (x : Seq) : (c.setSeq .V x).c = c.c := rfl
@[simp] theorem Ctx.setSeq_V_x (c : Ctx) (x : Seq) : (c.setSeq .V x).x = c.x := rfl
@[simp] theorem Ctx.setSeq_V_x1 (c : Ctx) (x : Seq) : (c.setSeq .V x).x1 = c.x1 := rfl
@[simp] theorem Ctx.setSeq_V_x2 (c : Ctx) (x : Seq) : (c.setSeq .V x).x2 = c.x2 := rfl
@[simp] theorem Ctx.setSeq_V_xo (c : Ctx) (x : Seq) : (c.setSeq .V x).xo = c.xo := rfl
@[simp] theorem Ctx.setSeq_V_xq (c : Ctx) (x : Seq) : (c.setSeq .V x).xq = c.xq := rfl
@[simp] theorem Ctx.setSeq_V_xb (c : Ctx) (x : Seq) : (c.setSeq .V x).xb = c.xb := rfl
@[simp] theorem Ctx.setSeq_V_vr (c : Ctx) (x : Seq) : (c.setSeq .V x).vr = c.vr := rfl
@[simp] theorem Ctx.setSeq_V_vo (c : Ctx) (x : Seq) : (c.setSeq .V x).vo = c.vo := rfl
@[simp] theorem Ctx.setSeq_V_vq (c : Ctx) (x : Seq) : (c.setSeq .V x).vq = c.vq := rfl
@[simp] theorem Ctx.setSeq_V_vb (c : Ctx) (x : Seq) : (c.setSeq .V x).vb = c.vb := rfl
@[simp] theorem Ctx.setSeq_V_mkr (c : Ctx) (x : Seq) : (c.setSeq .V x).mkr = c.mkr := rfl
@[simp] theorem Ctx.setSeq_V_tiles (c : Ctx) (x : Seq) : (c.setSeq .V x).tiles = c.tiles := rfl
@[simp] theorem Ctx.setSeq_V_vtset (c : Ctx) (x : Seq) : (c.setSeq .V x).vtset = c.vtset := rfl
@[simp] theorem Ctx.setSeq_V_vl0 (c : Ctx) (x : Seq) : (c.setSeq .V x).vl0 = c.vl0 := rfl
@[simp] theorem Ctx.setSeq_V_vl1 (c : Ctx) (x : Seq) : (c.setSeq .V x).vl1 = c.vl1 := rfl
@[simp] theorem Ctx.setSeq_V_a (c : Ctx) (x : Seq) : (c.setSeq .V x).a = c.a := rfl
@[simp] theorem Ctx.setSeq_V_g (c : Ctx) (x : Seq) : (c.setSeq .V x).g = c.g := rfl
@[simp] theorem Ctx.setSeq_V_tok (c : Ctx) (x : Seq) : (c.setSeq .V x).tok = c.tok := rfl
@[simp] theorem Ctx.setSeq_V_ctok (c : Ctx) (x : Seq) : (c.setSeq .V x).ctok = c.ctok := rfl
@[simp] theorem Ctx.setSeq_V_fq (c : Ctx) (x : Seq) : (c.setSeq .V x).fq = c.fq := rfl
@[simp] theorem Ctx.setSeq_V_sq (c : Ctx) (x : Seq) : (c.setSeq .V x).sq = c.sq := rfl
@[simp] theorem Ctx.setSeq_V_vflag (c : Ctx) (x : Seq) : (c.setSeq .V x).vflag = c.vflag := rfl
@[simp] theorem Ctx.setSeq_V_vrm (c : Ctx) (x : Seq) : (c.setSeq .V x).vrm = c.vrm := rfl
@[simp] theorem Ctx.setSeq_V_vseed (c : Ctx) (x : Seq) : (c.setSeq .V x).vseed = c.vseed := rfl
@[simp] theorem Ctx.setSeq_V_vsrctr (c : Ctx) (x : Seq) : (c.setSeq .V x).vsrctr = c.vsrctr := rfl
@[simp] theorem Ctx.setSeq_V_awround (c : Ctx) (x : Seq) : (c.setSeq .V x).awround = c.awround := rfl
@[simp] theorem Ctx.setSeq_V_awstat (c : Ctx) (x : Seq) : (c.setSeq .V x).awstat = c.awstat := rfl
@[simp] theorem Ctx.setSeq_V_valloc (c : Ctx) (x : Seq) : (c.setSeq .V x).valloc = c.valloc := rfl
@[simp] theorem Ctx.setSeq_V_mcmask (c : Ctx) (x : Seq) : (c.setSeq .V x).mcmask = c.mcmask := rfl
@[simp] theorem Ctx.setSeq_V_mdepth (c : Ctx) (x : Seq) : (c.setSeq .V x).mdepth = c.mdepth := rfl
@[simp] theorem Ctx.setSeq_V_members (c : Ctx) (x : Seq) : (c.setSeq .V x).members = c.members := rfl
@[simp] theorem Ctx.setSeq_V_phase (c : Ctx) (x : Seq) : (c.setSeq .V x).phase = c.phase := rfl
@[simp] theorem Ctx.setSeq_V_variant (c : Ctx) (x : Seq) : (c.setSeq .V x).variant = c.variant := rfl
@[simp] theorem Ctx.setSeq_V_rwin (c : Ctx) (x : Seq) : (c.setSeq .V x).rwin = c.rwin := rfl
@[simp] theorem Ctx.setSeq_V_alg (c : Ctx) (x : Seq) : (c.setSeq .V x).alg = c.alg := rfl
@[simp] theorem Ctx.setSeq_V_lct (c : Ctx) (x : Seq) : (c.setSeq .V x).lct = c.lct := rfl
@[simp] theorem Ctx.setSeq_V_work (c : Ctx) (x : Seq) : (c.setSeq .V x).work = c.work := rfl
@[simp] theorem Ctx.setSeq_V_vis (c : Ctx) (x : Seq) : (c.setSeq .V x).vis = c.vis := rfl
@[simp] theorem Ctx.setSeq_V_cmds (c : Ctx) (x : Seq) : (c.setSeq .V x).cmds = c.cmds := rfl
@[simp] theorem Ctx.setSeq_V_slots (c : Ctx) (x : Seq) : (c.setSeq .V x).slots = c.slots := rfl
@[simp] theorem Ctx.setSeq_V_mswap (c : Ctx) (x : Seq) : (c.setSeq .V x).mswap = c.mswap := rfl
@[simp] theorem Ctx.setSeq_V_chans (c : Ctx) (x : Seq) : (c.setSeq .V x).chans = c.chans := rfl
@[simp] theorem Ctx.setSeq_V_copies (c : Ctx) (x : Seq) : (c.setSeq .V x).copies = c.copies := rfl
@[simp] theorem Ctx.setSeq_V_await (c : Ctx) (x : Seq) : (c.setSeq .V x).await = c.await := rfl
@[simp] theorem Ctx.setSeq_V_rrCh (c : Ctx) (x : Seq) : (c.setSeq .V x).rrCh = c.rrCh := rfl
@[simp] theorem Ctx.setSeq_V_rcache (c : Ctx) (x : Seq) : (c.setSeq .V x).rcache = c.rcache := rfl
@[simp] theorem Ctx.setSeq_V_wins (c : Ctx) (x : Seq) : (c.setSeq .V x).wins = c.wins := rfl
@[simp] theorem Ctx.setSeq_V_mcast (c : Ctx) (x : Seq) : (c.setSeq .V x).mcast = c.mcast := rfl
@[simp] theorem Ctx.setSeq_V_arrive (c : Ctx) (x : Seq) : (c.setSeq .V x).arrive = c.arrive := rfl
@[simp] theorem Ctx.setSeq_V_endOps (c : Ctx) (x : Seq) : (c.setSeq .V x).endOps = c.endOps := rfl
@[simp] theorem Ctx.setSeq_V_wdogPer (c : Ctx) (x : Seq) : (c.setSeq .V x).wdogPer = c.wdogPer := rfl
@[simp] theorem Ctx.setSeq_V_wdogLeft (c : Ctx) (x : Seq) : (c.setSeq .V x).wdogLeft = c.wdogLeft := rfl
@[simp] theorem Ctx.setSeq_V_bar (c : Ctx) (x : Seq) : (c.setSeq .V x).bar = c.bar := rfl
@[simp] theorem Ctx.setSeq_V_barSw (c : Ctx) (x : Seq) : (c.setSeq .V x).barSw = c.barSw := rfl
@[simp] theorem Ctx.setSeq_V_barGo (c : Ctx) (x : Seq) : (c.setSeq .V x).barGo = c.barGo := rfl
@[simp] theorem Ctx.setSeq_V_poisoned (c : Ctx) (x : Seq) : (c.setSeq .V x).poisoned = c.poisoned := rfl
@[simp] theorem Ctx.setSeq_V_poison (c : Ctx) (x : Seq) : (c.setSeq .V x).poison = c.poison := rfl
@[simp] theorem Ctx.setSeq_V_accBad (c : Ctx) (x : Seq) : (c.setSeq .V x).accBad = c.accBad := rfl
@[simp] theorem Ctx.setSeq_V_toFill (c : Ctx) (x : Seq) : (c.setSeq .V x).toFill = c.toFill := rfl
@[simp] theorem Ctx.setSeq_V_trap (c : Ctx) (x : Seq) : (c.setSeq .V x).trap = c.trap := rfl
@[simp] theorem Ctx.setSeq_V_fresh (c : Ctx) (x : Seq) : (c.setSeq .V x).fresh = c.fresh := rfl
@[simp] theorem Ctx.setSeq_M_lid (c : Ctx) (x : Seq) : (c.setSeq .M x).lid = c.lid := rfl
@[simp] theorem Ctx.setSeq_M_mode (c : Ctx) (x : Seq) : (c.setSeq .M x).mode = c.mode := rfl
@[simp] theorem Ctx.setSeq_M_handler (c : Ctx) (x : Seq) : (c.setSeq .M x).handler = c.handler := rfl
@[simp] theorem Ctx.setSeq_M_asid (c : Ctx) (x : Seq) : (c.setSeq .M x).asid = c.asid := rfl
@[simp] theorem Ctx.setSeq_M_gran (c : Ctx) (x : Seq) : (c.setSeq .M x).gran = c.gran := rfl
@[simp] theorem Ctx.setSeq_M_group (c : Ctx) (x : Seq) : (c.setSeq .M x).group = c.group := rfl
@[simp] theorem Ctx.setSeq_M_clk (c : Ctx) (x : Seq) : (c.setSeq .M x).clk = c.clk := rfl
@[simp] theorem Ctx.setSeq_M_frzn (c : Ctx) (x : Seq) : (c.setSeq .M x).frzn = c.frzn := rfl
@[simp] theorem Ctx.setSeq_M_frzs (c : Ctx) (x : Seq) : (c.setSeq .M x).frzs = c.frzs := rfl
@[simp] theorem Ctx.setSeq_M_s (c : Ctx) (x : Seq) : (c.setSeq .M x).s = c.s := rfl
@[simp] theorem Ctx.setSeq_M_v (c : Ctx) (x : Seq) : (c.setSeq .M x).v = c.v := rfl
@[simp] theorem Ctx.setSeq_M_c (c : Ctx) (x : Seq) : (c.setSeq .M x).c = c.c := rfl
@[simp] theorem Ctx.setSeq_M_x (c : Ctx) (x : Seq) : (c.setSeq .M x).x = c.x := rfl
@[simp] theorem Ctx.setSeq_M_x1 (c : Ctx) (x : Seq) : (c.setSeq .M x).x1 = c.x1 := rfl
@[simp] theorem Ctx.setSeq_M_x2 (c : Ctx) (x : Seq) : (c.setSeq .M x).x2 = c.x2 := rfl
@[simp] theorem Ctx.setSeq_M_xo (c : Ctx) (x : Seq) : (c.setSeq .M x).xo = c.xo := rfl
@[simp] theorem Ctx.setSeq_M_xq (c : Ctx) (x : Seq) : (c.setSeq .M x).xq = c.xq := rfl
@[simp] theorem Ctx.setSeq_M_xb (c : Ctx) (x : Seq) : (c.setSeq .M x).xb = c.xb := rfl
@[simp] theorem Ctx.setSeq_M_vr (c : Ctx) (x : Seq) : (c.setSeq .M x).vr = c.vr := rfl
@[simp] theorem Ctx.setSeq_M_vo (c : Ctx) (x : Seq) : (c.setSeq .M x).vo = c.vo := rfl
@[simp] theorem Ctx.setSeq_M_vq (c : Ctx) (x : Seq) : (c.setSeq .M x).vq = c.vq := rfl
@[simp] theorem Ctx.setSeq_M_vb (c : Ctx) (x : Seq) : (c.setSeq .M x).vb = c.vb := rfl
@[simp] theorem Ctx.setSeq_M_mkr (c : Ctx) (x : Seq) : (c.setSeq .M x).mkr = c.mkr := rfl
@[simp] theorem Ctx.setSeq_M_tiles (c : Ctx) (x : Seq) : (c.setSeq .M x).tiles = c.tiles := rfl
@[simp] theorem Ctx.setSeq_M_vtset (c : Ctx) (x : Seq) : (c.setSeq .M x).vtset = c.vtset := rfl
@[simp] theorem Ctx.setSeq_M_vl0 (c : Ctx) (x : Seq) : (c.setSeq .M x).vl0 = c.vl0 := rfl
@[simp] theorem Ctx.setSeq_M_vl1 (c : Ctx) (x : Seq) : (c.setSeq .M x).vl1 = c.vl1 := rfl
@[simp] theorem Ctx.setSeq_M_a (c : Ctx) (x : Seq) : (c.setSeq .M x).a = c.a := rfl
@[simp] theorem Ctx.setSeq_M_g (c : Ctx) (x : Seq) : (c.setSeq .M x).g = c.g := rfl
@[simp] theorem Ctx.setSeq_M_tok (c : Ctx) (x : Seq) : (c.setSeq .M x).tok = c.tok := rfl
@[simp] theorem Ctx.setSeq_M_ctok (c : Ctx) (x : Seq) : (c.setSeq .M x).ctok = c.ctok := rfl
@[simp] theorem Ctx.setSeq_M_fq (c : Ctx) (x : Seq) : (c.setSeq .M x).fq = c.fq := rfl
@[simp] theorem Ctx.setSeq_M_sq (c : Ctx) (x : Seq) : (c.setSeq .M x).sq = c.sq := rfl
@[simp] theorem Ctx.setSeq_M_vflag (c : Ctx) (x : Seq) : (c.setSeq .M x).vflag = c.vflag := rfl
@[simp] theorem Ctx.setSeq_M_vrm (c : Ctx) (x : Seq) : (c.setSeq .M x).vrm = c.vrm := rfl
@[simp] theorem Ctx.setSeq_M_vseed (c : Ctx) (x : Seq) : (c.setSeq .M x).vseed = c.vseed := rfl
@[simp] theorem Ctx.setSeq_M_vsrctr (c : Ctx) (x : Seq) : (c.setSeq .M x).vsrctr = c.vsrctr := rfl
@[simp] theorem Ctx.setSeq_M_awround (c : Ctx) (x : Seq) : (c.setSeq .M x).awround = c.awround := rfl
@[simp] theorem Ctx.setSeq_M_awstat (c : Ctx) (x : Seq) : (c.setSeq .M x).awstat = c.awstat := rfl
@[simp] theorem Ctx.setSeq_M_valloc (c : Ctx) (x : Seq) : (c.setSeq .M x).valloc = c.valloc := rfl
@[simp] theorem Ctx.setSeq_M_mcmask (c : Ctx) (x : Seq) : (c.setSeq .M x).mcmask = c.mcmask := rfl
@[simp] theorem Ctx.setSeq_M_mdepth (c : Ctx) (x : Seq) : (c.setSeq .M x).mdepth = c.mdepth := rfl
@[simp] theorem Ctx.setSeq_M_members (c : Ctx) (x : Seq) : (c.setSeq .M x).members = c.members := rfl
@[simp] theorem Ctx.setSeq_M_phase (c : Ctx) (x : Seq) : (c.setSeq .M x).phase = c.phase := rfl
@[simp] theorem Ctx.setSeq_M_variant (c : Ctx) (x : Seq) : (c.setSeq .M x).variant = c.variant := rfl
@[simp] theorem Ctx.setSeq_M_rwin (c : Ctx) (x : Seq) : (c.setSeq .M x).rwin = c.rwin := rfl
@[simp] theorem Ctx.setSeq_M_alg (c : Ctx) (x : Seq) : (c.setSeq .M x).alg = c.alg := rfl
@[simp] theorem Ctx.setSeq_M_lct (c : Ctx) (x : Seq) : (c.setSeq .M x).lct = c.lct := rfl
@[simp] theorem Ctx.setSeq_M_work (c : Ctx) (x : Seq) : (c.setSeq .M x).work = c.work := rfl
@[simp] theorem Ctx.setSeq_M_vis (c : Ctx) (x : Seq) : (c.setSeq .M x).vis = c.vis := rfl
@[simp] theorem Ctx.setSeq_M_cmds (c : Ctx) (x : Seq) : (c.setSeq .M x).cmds = c.cmds := rfl
@[simp] theorem Ctx.setSeq_M_slots (c : Ctx) (x : Seq) : (c.setSeq .M x).slots = c.slots := rfl
@[simp] theorem Ctx.setSeq_M_mswap (c : Ctx) (x : Seq) : (c.setSeq .M x).mswap = c.mswap := rfl
@[simp] theorem Ctx.setSeq_M_chans (c : Ctx) (x : Seq) : (c.setSeq .M x).chans = c.chans := rfl
@[simp] theorem Ctx.setSeq_M_copies (c : Ctx) (x : Seq) : (c.setSeq .M x).copies = c.copies := rfl
@[simp] theorem Ctx.setSeq_M_await (c : Ctx) (x : Seq) : (c.setSeq .M x).await = c.await := rfl
@[simp] theorem Ctx.setSeq_M_rrCh (c : Ctx) (x : Seq) : (c.setSeq .M x).rrCh = c.rrCh := rfl
@[simp] theorem Ctx.setSeq_M_rcache (c : Ctx) (x : Seq) : (c.setSeq .M x).rcache = c.rcache := rfl
@[simp] theorem Ctx.setSeq_M_wins (c : Ctx) (x : Seq) : (c.setSeq .M x).wins = c.wins := rfl
@[simp] theorem Ctx.setSeq_M_mcast (c : Ctx) (x : Seq) : (c.setSeq .M x).mcast = c.mcast := rfl
@[simp] theorem Ctx.setSeq_M_arrive (c : Ctx) (x : Seq) : (c.setSeq .M x).arrive = c.arrive := rfl
@[simp] theorem Ctx.setSeq_M_endOps (c : Ctx) (x : Seq) : (c.setSeq .M x).endOps = c.endOps := rfl
@[simp] theorem Ctx.setSeq_M_wdogPer (c : Ctx) (x : Seq) : (c.setSeq .M x).wdogPer = c.wdogPer := rfl
@[simp] theorem Ctx.setSeq_M_wdogLeft (c : Ctx) (x : Seq) : (c.setSeq .M x).wdogLeft = c.wdogLeft := rfl
@[simp] theorem Ctx.setSeq_M_bar (c : Ctx) (x : Seq) : (c.setSeq .M x).bar = c.bar := rfl
@[simp] theorem Ctx.setSeq_M_barSw (c : Ctx) (x : Seq) : (c.setSeq .M x).barSw = c.barSw := rfl
@[simp] theorem Ctx.setSeq_M_barGo (c : Ctx) (x : Seq) : (c.setSeq .M x).barGo = c.barGo := rfl
@[simp] theorem Ctx.setSeq_M_poisoned (c : Ctx) (x : Seq) : (c.setSeq .M x).poisoned = c.poisoned := rfl
@[simp] theorem Ctx.setSeq_M_poison (c : Ctx) (x : Seq) : (c.setSeq .M x).poison = c.poison := rfl
@[simp] theorem Ctx.setSeq_M_accBad (c : Ctx) (x : Seq) : (c.setSeq .M x).accBad = c.accBad := rfl
@[simp] theorem Ctx.setSeq_M_toFill (c : Ctx) (x : Seq) : (c.setSeq .M x).toFill = c.toFill := rfl
@[simp] theorem Ctx.setSeq_M_trap (c : Ctx) (x : Seq) : (c.setSeq .M x).trap = c.trap := rfl
@[simp] theorem Ctx.setSeq_M_fresh (c : Ctx) (x : Seq) : (c.setSeq .M x).fresh = c.fresh := rfl
@[simp] theorem Ctx.setSeq_C_lid (c : Ctx) (x : Seq) : (c.setSeq .C x).lid = c.lid := rfl
@[simp] theorem Ctx.setSeq_C_mode (c : Ctx) (x : Seq) : (c.setSeq .C x).mode = c.mode := rfl
@[simp] theorem Ctx.setSeq_C_handler (c : Ctx) (x : Seq) : (c.setSeq .C x).handler = c.handler := rfl
@[simp] theorem Ctx.setSeq_C_asid (c : Ctx) (x : Seq) : (c.setSeq .C x).asid = c.asid := rfl
@[simp] theorem Ctx.setSeq_C_gran (c : Ctx) (x : Seq) : (c.setSeq .C x).gran = c.gran := rfl
@[simp] theorem Ctx.setSeq_C_group (c : Ctx) (x : Seq) : (c.setSeq .C x).group = c.group := rfl
@[simp] theorem Ctx.setSeq_C_clk (c : Ctx) (x : Seq) : (c.setSeq .C x).clk = c.clk := rfl
@[simp] theorem Ctx.setSeq_C_frzn (c : Ctx) (x : Seq) : (c.setSeq .C x).frzn = c.frzn := rfl
@[simp] theorem Ctx.setSeq_C_frzs (c : Ctx) (x : Seq) : (c.setSeq .C x).frzs = c.frzs := rfl
@[simp] theorem Ctx.setSeq_C_s (c : Ctx) (x : Seq) : (c.setSeq .C x).s = c.s := rfl
@[simp] theorem Ctx.setSeq_C_v (c : Ctx) (x : Seq) : (c.setSeq .C x).v = c.v := rfl
@[simp] theorem Ctx.setSeq_C_m (c : Ctx) (x : Seq) : (c.setSeq .C x).m = c.m := rfl
@[simp] theorem Ctx.setSeq_C_x (c : Ctx) (x : Seq) : (c.setSeq .C x).x = c.x := rfl
@[simp] theorem Ctx.setSeq_C_x1 (c : Ctx) (x : Seq) : (c.setSeq .C x).x1 = c.x1 := rfl
@[simp] theorem Ctx.setSeq_C_x2 (c : Ctx) (x : Seq) : (c.setSeq .C x).x2 = c.x2 := rfl
@[simp] theorem Ctx.setSeq_C_xo (c : Ctx) (x : Seq) : (c.setSeq .C x).xo = c.xo := rfl
@[simp] theorem Ctx.setSeq_C_xq (c : Ctx) (x : Seq) : (c.setSeq .C x).xq = c.xq := rfl
@[simp] theorem Ctx.setSeq_C_xb (c : Ctx) (x : Seq) : (c.setSeq .C x).xb = c.xb := rfl
@[simp] theorem Ctx.setSeq_C_vr (c : Ctx) (x : Seq) : (c.setSeq .C x).vr = c.vr := rfl
@[simp] theorem Ctx.setSeq_C_vo (c : Ctx) (x : Seq) : (c.setSeq .C x).vo = c.vo := rfl
@[simp] theorem Ctx.setSeq_C_vq (c : Ctx) (x : Seq) : (c.setSeq .C x).vq = c.vq := rfl
@[simp] theorem Ctx.setSeq_C_vb (c : Ctx) (x : Seq) : (c.setSeq .C x).vb = c.vb := rfl
@[simp] theorem Ctx.setSeq_C_mkr (c : Ctx) (x : Seq) : (c.setSeq .C x).mkr = c.mkr := rfl
@[simp] theorem Ctx.setSeq_C_tiles (c : Ctx) (x : Seq) : (c.setSeq .C x).tiles = c.tiles := rfl
@[simp] theorem Ctx.setSeq_C_vtset (c : Ctx) (x : Seq) : (c.setSeq .C x).vtset = c.vtset := rfl
@[simp] theorem Ctx.setSeq_C_vl0 (c : Ctx) (x : Seq) : (c.setSeq .C x).vl0 = c.vl0 := rfl
@[simp] theorem Ctx.setSeq_C_vl1 (c : Ctx) (x : Seq) : (c.setSeq .C x).vl1 = c.vl1 := rfl
@[simp] theorem Ctx.setSeq_C_a (c : Ctx) (x : Seq) : (c.setSeq .C x).a = c.a := rfl
@[simp] theorem Ctx.setSeq_C_g (c : Ctx) (x : Seq) : (c.setSeq .C x).g = c.g := rfl
@[simp] theorem Ctx.setSeq_C_tok (c : Ctx) (x : Seq) : (c.setSeq .C x).tok = c.tok := rfl
@[simp] theorem Ctx.setSeq_C_ctok (c : Ctx) (x : Seq) : (c.setSeq .C x).ctok = c.ctok := rfl
@[simp] theorem Ctx.setSeq_C_fq (c : Ctx) (x : Seq) : (c.setSeq .C x).fq = c.fq := rfl
@[simp] theorem Ctx.setSeq_C_sq (c : Ctx) (x : Seq) : (c.setSeq .C x).sq = c.sq := rfl
@[simp] theorem Ctx.setSeq_C_vflag (c : Ctx) (x : Seq) : (c.setSeq .C x).vflag = c.vflag := rfl
@[simp] theorem Ctx.setSeq_C_vrm (c : Ctx) (x : Seq) : (c.setSeq .C x).vrm = c.vrm := rfl
@[simp] theorem Ctx.setSeq_C_vseed (c : Ctx) (x : Seq) : (c.setSeq .C x).vseed = c.vseed := rfl
@[simp] theorem Ctx.setSeq_C_vsrctr (c : Ctx) (x : Seq) : (c.setSeq .C x).vsrctr = c.vsrctr := rfl
@[simp] theorem Ctx.setSeq_C_awround (c : Ctx) (x : Seq) : (c.setSeq .C x).awround = c.awround := rfl
@[simp] theorem Ctx.setSeq_C_awstat (c : Ctx) (x : Seq) : (c.setSeq .C x).awstat = c.awstat := rfl
@[simp] theorem Ctx.setSeq_C_valloc (c : Ctx) (x : Seq) : (c.setSeq .C x).valloc = c.valloc := rfl
@[simp] theorem Ctx.setSeq_C_mcmask (c : Ctx) (x : Seq) : (c.setSeq .C x).mcmask = c.mcmask := rfl
@[simp] theorem Ctx.setSeq_C_mdepth (c : Ctx) (x : Seq) : (c.setSeq .C x).mdepth = c.mdepth := rfl
@[simp] theorem Ctx.setSeq_C_members (c : Ctx) (x : Seq) : (c.setSeq .C x).members = c.members := rfl
@[simp] theorem Ctx.setSeq_C_phase (c : Ctx) (x : Seq) : (c.setSeq .C x).phase = c.phase := rfl
@[simp] theorem Ctx.setSeq_C_variant (c : Ctx) (x : Seq) : (c.setSeq .C x).variant = c.variant := rfl
@[simp] theorem Ctx.setSeq_C_rwin (c : Ctx) (x : Seq) : (c.setSeq .C x).rwin = c.rwin := rfl
@[simp] theorem Ctx.setSeq_C_alg (c : Ctx) (x : Seq) : (c.setSeq .C x).alg = c.alg := rfl
@[simp] theorem Ctx.setSeq_C_lct (c : Ctx) (x : Seq) : (c.setSeq .C x).lct = c.lct := rfl
@[simp] theorem Ctx.setSeq_C_work (c : Ctx) (x : Seq) : (c.setSeq .C x).work = c.work := rfl
@[simp] theorem Ctx.setSeq_C_vis (c : Ctx) (x : Seq) : (c.setSeq .C x).vis = c.vis := rfl
@[simp] theorem Ctx.setSeq_C_cmds (c : Ctx) (x : Seq) : (c.setSeq .C x).cmds = c.cmds := rfl
@[simp] theorem Ctx.setSeq_C_slots (c : Ctx) (x : Seq) : (c.setSeq .C x).slots = c.slots := rfl
@[simp] theorem Ctx.setSeq_C_mswap (c : Ctx) (x : Seq) : (c.setSeq .C x).mswap = c.mswap := rfl
@[simp] theorem Ctx.setSeq_C_chans (c : Ctx) (x : Seq) : (c.setSeq .C x).chans = c.chans := rfl
@[simp] theorem Ctx.setSeq_C_copies (c : Ctx) (x : Seq) : (c.setSeq .C x).copies = c.copies := rfl
@[simp] theorem Ctx.setSeq_C_await (c : Ctx) (x : Seq) : (c.setSeq .C x).await = c.await := rfl
@[simp] theorem Ctx.setSeq_C_rrCh (c : Ctx) (x : Seq) : (c.setSeq .C x).rrCh = c.rrCh := rfl
@[simp] theorem Ctx.setSeq_C_rcache (c : Ctx) (x : Seq) : (c.setSeq .C x).rcache = c.rcache := rfl
@[simp] theorem Ctx.setSeq_C_wins (c : Ctx) (x : Seq) : (c.setSeq .C x).wins = c.wins := rfl
@[simp] theorem Ctx.setSeq_C_mcast (c : Ctx) (x : Seq) : (c.setSeq .C x).mcast = c.mcast := rfl
@[simp] theorem Ctx.setSeq_C_arrive (c : Ctx) (x : Seq) : (c.setSeq .C x).arrive = c.arrive := rfl
@[simp] theorem Ctx.setSeq_C_endOps (c : Ctx) (x : Seq) : (c.setSeq .C x).endOps = c.endOps := rfl
@[simp] theorem Ctx.setSeq_C_wdogPer (c : Ctx) (x : Seq) : (c.setSeq .C x).wdogPer = c.wdogPer := rfl
@[simp] theorem Ctx.setSeq_C_wdogLeft (c : Ctx) (x : Seq) : (c.setSeq .C x).wdogLeft = c.wdogLeft := rfl
@[simp] theorem Ctx.setSeq_C_bar (c : Ctx) (x : Seq) : (c.setSeq .C x).bar = c.bar := rfl
@[simp] theorem Ctx.setSeq_C_barSw (c : Ctx) (x : Seq) : (c.setSeq .C x).barSw = c.barSw := rfl
@[simp] theorem Ctx.setSeq_C_barGo (c : Ctx) (x : Seq) : (c.setSeq .C x).barGo = c.barGo := rfl
@[simp] theorem Ctx.setSeq_C_poisoned (c : Ctx) (x : Seq) : (c.setSeq .C x).poisoned = c.poisoned := rfl
@[simp] theorem Ctx.setSeq_C_poison (c : Ctx) (x : Seq) : (c.setSeq .C x).poison = c.poison := rfl
@[simp] theorem Ctx.setSeq_C_accBad (c : Ctx) (x : Seq) : (c.setSeq .C x).accBad = c.accBad := rfl
@[simp] theorem Ctx.setSeq_C_toFill (c : Ctx) (x : Seq) : (c.setSeq .C x).toFill = c.toFill := rfl
@[simp] theorem Ctx.setSeq_C_trap (c : Ctx) (x : Seq) : (c.setSeq .C x).trap = c.trap := rfl
@[simp] theorem Ctx.setSeq_C_fresh (c : Ctx) (x : Seq) : (c.setSeq .C x).fresh = c.fresh := rfl

@[simp] theorem advanceBy_verdict (n : Nat) (s : State) : (advanceBy n s).verdict = .issued := rfl
@[simp] theorem advance_verdict (s : State) : (advance s).verdict = .issued := rfl

/-- A key that was written reads as written. -/
@[simp] theorem mget_mput_self {α : Type} (d : α) (l : Map α) (k : Nat) (v : α) : mget d (mput l k v) k = v := by
  induction l with
  | nil => simp [mput, mget]
  | cons p l ih =>
    simp only [mput]
    split
    · simp [mget]
    · split
      · simp [mget]
      · rename_i h _; simp [mget, h, ih]
/-- Any other key reads as before. -/
theorem mget_mput_ne {α : Type} (d : α) (l : Map α) {k j : Nat} (v : α) (h : j ≠ k) : mget d (mput l k v) j = mget d l j := by
  induction l with
  | nil => simp [mput, mget, Ne.symm h]
  | cons p l ih =>
    simp only [mput]
    split
    · rename_i e; simp [mget, e, Ne.symm h]
    · split
      · simp [mget, Ne.symm h]
      · simp [mget, ih]

@[simp] theorem State.core_setCore (s : State) (u : Nat) (c : Core) : (s.setCore u c).core u = c := by
  simp [State.core, State.setCore]
theorem State.core_setCore_ne (s : State) {u v : Nat} (c : Core) (h : v ≠ u) : (s.setCore u c).core v = s.core v := by
  simp [State.core, State.setCore, mget_mput_ne _ _ _ h]
@[simp] theorem State.core_modCore (s : State) (u : Nat) (f : Core → Core) : (s.modCore u f).core u = f (s.core u) := by
  simp [State.modCore]
theorem State.core_modCore_ne (s : State) {u v : Nat} (f : Core → Core) (h : v ≠ u) : (s.modCore u f).core v = s.core v := by
  simp [State.modCore, s.core_setCore_ne _ h]
@[simp] theorem State.core_setCtx (s : State) (u : Nat) (c : Ctx) : (s.setCtx u c).core u = { s.core u with ctx := c } := by
  simp [State.setCtx]
@[simp] theorem State.ctx_setCtx (s : State) (u : Nat) (c : Ctx) : (s.setCtx u c).ctx u = c := by
  simp [State.ctx]
theorem State.core_setCtx_ne (s : State) {u v : Nat} (c : Ctx) (h : v ≠ u) : (s.setCtx u c).core v = s.core v :=
  s.core_modCore_ne _ h
theorem State.ctx_setCtx_ne (s : State) {u v : Nat} (c : Ctx) (h : v ≠ u) : (s.setCtx u c).ctx v = s.ctx v := by
  simp [State.ctx, s.core_setCtx_ne _ h]
@[simp] theorem State.ctx_modCtx (s : State) (u : Nat) (f : Ctx → Ctx) : (s.modCtx u f).ctx u = f (s.ctx u) := by
  simp [State.modCtx]
@[simp] theorem State.core_modCtx (s : State) (u : Nat) (f : Ctx → Ctx) :
    (s.modCtx u f).core u = { s.core u with ctx := f (s.ctx u) } := by simp [State.modCtx]
theorem State.ctx_modCtx_ne (s : State) {u v : Nat} (f : Ctx → Ctx) (h : v ≠ u) : (s.modCtx u f).ctx v = s.ctx v :=
  s.ctx_setCtx_ne _ h
theorem State.core_modCtx_ne (s : State) {u v : Nat} (f : Ctx → Ctx) (h : v ≠ u) : (s.modCtx u f).core v = s.core v :=
  s.core_setCtx_ne _ h
@[simp] theorem State.ctx_setCore (s : State) (u : Nat) (c : Core) : (s.setCore u c).ctx u = c.ctx := by simp [State.ctx]
@[simp] theorem State.me_modMe (s : State) (f : Ctx → Ctx) : (s.modMe f).me = f s.me := by
  show ((s.modCtx s.turn.u f).ctx s.turn.u) = f (s.ctx s.turn.u)
  simp
@[simp] theorem Ctx.seq_setSeq (c : Ctx) (q : SeqId) (x : Seq) : (c.setSeq q x).seq q = x := by cases q <;> rfl
theorem Ctx.seq_setSeq_ne (c : Ctx) {p q : SeqId} (x : Seq) (h : p ≠ q) : (c.setSeq q x).seq p = c.seq p := by
  cases p <;> cases q <;> first | rfl | exact absurd rfl h
@[simp] theorem State.mySeq_modSelf (s : State) (f : Seq → Seq) : (s.modSelf f).mySeq = f s.mySeq := by
  show (((s.modCtx s.turn.u fun c => c.setSeq s.turn.q (f (c.seq s.turn.q))).ctx s.turn.u).seq s.turn.q) = _
  simp; rfl

/-- The next one of an issue: its sequencer has passed the end check and issues again a cycle later (R27, R30). -/
@[simp] theorem me_advance (s : State) :
    (advance s).me = s.me.setSeq s.turn.q { s.mySeq.endCheck with nextAt := s.me.clk + 1, stalled := false } := by
  show ((({ s with verdict := .issued } : State).modMe _).me) = _
  rw [State.me_modMe]; rfl
/-- A result that enters the ring of the sequencer whose turn it is (R17). -/
@[simp] theorem me_land (s : State) (k : LandKind) (t : Bool) (d : BitVec 6) (i : BitVec 13) (v : Wide) (n : Nat) :
    (s.land k t d i v n).me = s.me.setSeq s.turn.q
      { s.mySeq with ring := s.mySeq.ring ++ [⟨s.me.clk + n, false, k, t, d, i, v, 0, none, true⟩] } := by
  rw [State.land, State.me_modMe]; rfl

/-- An S instruction whose operand codes are legal is its effect, and an input where it read the datum (R14 to R16, R394). -/
theorem guardS_ok {t : BitVec 1} {d : BitVec 6} {srcs : List (BitVec 6)} {s : State} {k : State → State}
    (h : sOk t d srcs = true) : guardS t d srcs s k = .next (sawDatum srcs s (k s)) := by
  rw [guardS, if_pos h]
/-- Where the datum is not read there is no input. -/
theorem sawDatum_none {srcs : List (BitVec 6)} {s s' : State} (h : (srcs.any fun f => decide (f = 62)) = false) :
    sawDatum srcs s s' = s' := by
  rw [sawDatum, h, Bool.and_false]; rfl
/-- An S instruction whose operand codes are not legal raises 0x01. -/
theorem guardS_illegal {t : BitVec 1} {d : BitVec 6} {srcs : List (BitVec 6)} {s : State} {k : State → State}
    (h : sOk t d srcs = false) : guardS t d srcs s k = .next (raiseIllegal s) := by
  simp [guardS, h]

end Sys2Proof.Machine
end

