-- ==== Sys2Proof/Tests/Slice0.lean ====
section
/-! SUPPORT. The model's own tests: ill-formed terms, words of the spec's encoding examples, worked examples of the spec,
and for the hypotheses of each statement a state and operands that meet them together. -/
namespace Sys2Proof.Tests
open Sys2Proof Sys2Proof.Machine Sys2Proof.Claims
set_option Elab.async false

/-- A machine whose unit u runs a launch, with sequencer q about to issue, its context as f leaves it. -/
def one (u : Nat) (q : SeqId) (f : Ctx → Ctx) : State :=
  { State.reset with
    cores := [(u, { Core.zero with ctx := f { Ctx.zero with lid := 1, gran := 8, clk := 10, valloc := 32, s := { Seq.zero with run := true } } })]
    turn := ⟨u, q⟩ }
/-- Sequencer q of unit 0. -/
def plain (q : SeqId) : State := one 0 q id
/-- Sequencer S of unit 0 with x1 = a, x2 = b. -/
def regs (a b : Word) : State := one 0 .S fun c => { c with x := (c.x.set 1 a).set 2 b }
/-- The state that exec gives, or reset. -/
noncomputable def after (i : Instr) (s : State) : State :=
  match exec i s with
  | .next t => t
  | _ => .reset
/-- The last entry of the pipeline of the sequencer whose turn it is: destination, value and latency. -/
def entry (s : State) : Option (Nat × Nat × Nat) := s.mySeq.ring.getLast?.map fun l => (l.dst.toNat, l.val.toNat, l.due - s.me.clk)

/-- The cause that the last try raised. -/
def cause (s : State) : Option Nat :=
  match s.verdict with
  | .raised _ c => some c.code.toNat
  | _ => none
/-- Whether exec gives just this next state. -/
noncomputable def gives (i : Instr) (s t : State) : Bool :=
  match exec i s with
  | .next t' => decide (t' = t)
  | _ => false
/-- The state s with the program counter of its turn at pc. -/
def atPc (s : State) (pc : Word) : State := s.modSelf fun x => { x with pc := pc }
/-- The own scratchpad of unit 0 holds l from offset a up; x1 = 2^63 + off. -/
def pad (a : Nat) (l : List Byte) (x1 x2 : Word) : State := (regs x1 x2).modCore 0 fun k => { k with spad := k.spad.wrL (atAddr a l) }
/-- An address of the own scratchpad. -/
def loc (off : Nat) : Word := BitVec.ofNat 64 (2 ^ 63 + off)
/-- A cluster-window address of cluster index k, a control register and a table word. -/
def win (k off : Nat) : Word := BitVec.ofNat 64 (2 ^ 63 + 0x1000000 + 0x200000 * k + off)
def ctl (off : Nat) : Word := BitVec.ofNat 64 (2 ^ 63 + 0x8000000 + off)
def mcw (off : Nat) : Word := BitVec.ofNat 64 (2 ^ 63 + 0x4000000 + off)
/-- The S of a stack core with x1 = a. -/
def stk (a : Word) : State := one 384 .S fun c => { c with mode := .stack, x := c.x.set 1 a }
/-- A ring entry that waits for access a. -/
def waits (a : Nat) : Land := ⟨50, true, .reg, false, 3, 0, 0, a, none, true⟩
/-- Unit 0 with a handler image in its shadow bank; the handler runs where h holds. -/
def handled (h : Bool) : State :=
  (regs 0 5).modCore 0 fun k => { k with himg := 0x1000, bankKind := .handler, ctx := { k.ctx with handler := h }, bank := { k.bank with lid := 7, gran := 2, mode := .elastic } }
/-- A launch with this identity that runs. -/
def running (id : Nat) : Launch := ⟨id, 0, List.replicate 32 0, false, 0, 0, 0, .running, 0, 0, 0, 0, 0⟩

/-! Scalar results. -/

theorem wit_scalarSources : sOk 0 0 [31, 31] = true ∧ sOk 0 39 [62, 58] = true ∧ sOk 1 59 [0, 32] = true ∧ sOk 0 59 [0, 31, 60] = true ∧
    sOk 0 1 [1] = true ∧ sOk 0 59 [] = true ∧ sOk 0 39 [39] = true := by decide +kernel
theorem test_twoSources : (table34.all fun e => gives (e.1 0 3 1 2) (regs (-7) 66)
    (sGives (regs (-7) 66) [1, 2] 0 3 (e.2.2 (-7) 66) e.2.1)) = true := by decide +kernel
theorem test_division : (table71.all fun e => gives (e.1 1 59 1 2) (regs (-7) 2) (sGives (regs (-7) 2) [1, 2] 1 59 (e.2 (-7) 2) 18) &&
    gives (e.1 0 39 1 2) (regs (2 ^ 63) (-1)) (sGives (regs (2 ^ 63) (-1)) [1, 2] 0 39 (e.2 (2 ^ 63) (-1)) 18) &&
    gives (e.1 0 39 1 59) (regs 9 0) (sGives (regs 9 0) [1, 59] 0 39 (e.2 9 0) 18)) = true := by decide +kernel
theorem test_immediates : ((immRows 0 3 1 0xFFF ++ shiftRows 0 3 1 63).all fun e => gives e.1 (regs (-5) 0)
    (sGives (regs (-5) 0) [1] 0 3 (e.2 (-5)) 1)) = true := by decide +kernel
theorem test_bits : entry (after (.clz 0 3 1) (regs 1 0)) = some (3, 63, 1) ∧ entry (after (.clz 0 3 1) (regs 0 0)) = some (3, 64, 1) ∧
    entry (after (.popc 0 3 1) (regs 0xF0F 0)) = some (3, 8, 1) := by decide +kernel
theorem test_movk : entry (after (.movk 0 1 3 0x8000) (regs 0x10 0)) = some (1, 0x8000000000000010, 1) := by decide +kernel
theorem test_movi_adr_sel : entry (after (.movi 0 1 0x3FFFF) (plain .S)) = some (1, 2 ^ 64 - 1, 1) ∧
    entry (after (.adr 0 1 3) (plain .S)) = some (1, 12, 1) ∧ entry (after (.sel 0 3 1 2 59) (regs 5 6)) = some (3, 6, 1) := by decide +kernel
/-- R45: 1 + 2^-24 rounds to even; 16777216 does not fit 24 bits plus one. -/
theorem test_floats : entry (after (.faddF32 0 3 1 2 0) (regs 0x3F800000 0x33800000)) = some (3, 0x3F800000, 4) ∧
    entry (after (.fsubF32 0 3 1 2 0) (regs 0x3F800000 0x3F800000)) = some (3, 0, 4) ∧
    entry (after (.fmulF32 0 3 1 2 0) (regs 0x40000000 0xC0400000)) = some (3, 0xC0C00000, 4) ∧
    entry (after (.fmaF32 0 0 3 1 2 59) (regs 0x40000000 0x40400000)) = some (3, 0x40C00000, 4) := by decide +kernel
theorem wit_rounding : Rm.ofCode 0 = some .rne ∧ (Rm.ofCode 3).isSome = true ∧ sOk 0 3 [1, 2] = true ∧ sOk 0 3 [1, 2, 40] = true := by decide +kernel
theorem test_floatRows : (table35.all fun e => gives (e.1 3 0 3 1 2) (regs 0x3F800001 0x33800000)
      (sGives (regs 0x3F800001 0x33800000) [1, 2] 0 3 (BitVec.ofNat 64 (e.2 ((Rm.ofCode 3).getD .rne) (decodeF .fp32 0x3F800001) (decodeF .fp32 0x33800000))) 4)) &&
    (table77.all fun e => gives (e.1 0 3 1 2) (regs 0x3F800001 0xFFC00000)
      (sGives (regs 0x3F800001 0xFFC00000) [1, 2] 0 3 (BitVec.ofNat 64 (e.2 (decodeF .fp32 0x3F800001) (decodeF .fp32 0xFFC00000))) 4)) &&
    (table36.all fun e => gives (e.1 0 3 1 1) (regs 0xBFC00000 0)
      (sGives (regs 0xBFC00000 0) [1] 0 3 (e.2 ((Rm.ofCode 1).getD .rne) 0xBFC00000) 4)) = true := by decide +kernel
theorem test_floatConvert : entry (after (.fcvtF32Bf16 0 3 1) (regs 0xFFFF3FC0 0)) = some (3, 0x3FC00000, 4) ∧
    entry (after (.fcvtS64F32 0 3 1 0) (regs 0xBFC00000 0)) = some (3, 2 ^ 64 - 2, 4) ∧
    entry (after (.fnegF32 0 3 1) (regs 0x3F800000 0)) = some (3, 0xBF800000, 1) := by decide +kernel

/-! Operand codes, frames, results, loops. -/

theorem wit_illegalCode : dstOk 0 40 = false ∧ sOk 0 1 [63] = false ∧ sOk 1 1 [1] = false ∧ sOk 0 1 [0, 1, 2] = false := by decide +kernel
theorem test_illegalCode : cause (after (.add 0 1 63 2) (plain .S)) = some 1 ∧ cause (after (.add 0 40 1 2) (plain .S)) = some 1 := by decide +kernel
theorem wit_frame : (plain .S).turn.q = .S ∧ (plain .S).me.lid ∉ (plain .S).misc.recording ∧ (plain .S).me.lid ∉ (plain .S).misc.replay ∧
    (after (.add 0 1 2 3) (plain .S)).verdict = .issued := by decide +kernel
theorem wit_resultsDue : (plain .S).runs 0 = true ∧ (plain .S).lateFreeze 0 = false := by decide +kernel

/-! Branches, loops and scalar accesses. -/

/-- A sequencer at the end of both its loops. -/
def atEnd (n0 n1 : BitVec 32) : Seq := { Seq.zero with pc := 40, lp0 := ⟨4, 40, n0, true⟩, lp1 := ⟨20, 40, n1, true⟩ }
theorem wit_loopEnd : (atEnd 2 1).lp1.act = true ∧ (atEnd 2 1).pc = (atEnd 2 1).lp1.stop ∧ (atEnd 2 1).lp1.count.toNat ≤ 1 ∧
    1 < (atEnd 2 1).lp0.count.toNat ∧ 1 < (atEnd 1 2).lp1.count.toNat := by decide
theorem test_loopEnd : (atEnd 2 2).endCheck.pc = 20 ∧ (atEnd 2 1).endCheck.pc = 4 ∧ (atEnd 2 1).endCheck.lp1.act = false ∧
    (atEnd 1 1).endCheck.pc = 44 ∧ (atEnd 1 1).endCheck.lp0.count = 0 := by decide
theorem wit_branches : (plain .S).turn.q = .S ∧ (plain .M).turn.q = .M ∧ (plain .C).turn.q = .C := by decide +kernel
theorem wit_branchRows : (((branchRows 1 2 2 0 1 2 (regs 5 6)).map fun e => e.2.2.2.1).contains true) = true ∧
    (((branchRows 1 2 2 0 1 2 (regs 5 6)).map fun e => e.2.2.2.1).contains false) = true ∧ sSrcOk [1, 2] = true ∧ sSrcOk [0, 31] = true := by
  decide +kernel
theorem test_branches : (([0, 0x1FFF, 2] : List (BitVec 13)).all fun o => ([(5, 6), (6, 5), (5, 5)] : List (Word × Word)).all fun p =>
    [SeqId.S, .M, .C].all fun q =>
      let s := atPc (one 0 q fun c => { c with x := (c.x.set 1 p.1).set 2 p.2, a := (c.a.set 0 p.1).set 1 p.2, g := (c.g.set 0 p.1).set 1 p.2 }) 8
      (branchRows 1 2 o 0 1 (o.signExtend 17) s).all fun e => decide (e.2.1 ≠ q) ||
        gives e.1 s (sawDatum e.2.2.1 s (if e.2.2.2.1 then jumpGo (s.mySeq.pc + e.2.2.2.2 * 4) s else advance s))) = true := by decide +kernel
theorem wit_targets : targetOk 0 ∧ targetOk 0x7FFFFFFFFFFFFFFC ∧ ¬ targetOk 2 ∧ ¬ targetOk 0x8000000000000000 := by
  unfold targetOk; decide
theorem wit_branchTraps : ((atPc (regs 5 5) 2).mySeq.pc + (0 : Word) * 4).toNat % 4 ≠ 0 ∧
    ((atPc (regs 5 5) 0x7FFFFFFFFFFFFFFC).mySeq.pc + (1 : Word) * 4).getLsbD 63 = true := by decide +kernel
theorem test_branchTraps : cause (after (.beq 1 2 0) (atPc (regs 5 5) 2)) = some 3 ∧
    cause (after (.beq 1 2 1) (atPc (regs 5 5) 0x7FFFFFFFFFFFFFFC)) = some 4 := by decide +kernel
theorem wit_calls : sOk 0 1 [] = true ∧ sOk 0 39 [58] = true ∧
    targetOk ((atPc (regs 5 5) 8).mySeq.pc + (0x3FFFE : BitVec 18).signExtend 64 * 4) ∧ targetOk ((regs 6 0).rdS 1 + (2 : BitVec 12).signExtend 64) := by
  unfold targetOk; decide +kernel
theorem test_calls : (gives (.call 0 1 0x3FFFE) (atPc (regs 5 5) 8) (sawDatum [] (atPc (regs 5 5) 8) (jumpGo 0 ((atPc (regs 5 5) 8).landS 0 1 12 1))) &&
    gives (.callr 0 3 1 2) (regs 6 0) (sawDatum [1] (regs 6 0) (jumpGo 8 ((regs 6 0).landS 0 3 4 1)))) = true := by decide +kernel
theorem wit_sharedReg : sharedReg (regs 8 0) 1 8 ∧ sharedReg (plain .V) 31 0 ∧ sharedReg (plain .M) 15 0 ∧ sharedReg (plain .C) 0 0 := by
  unfold sharedReg; decide +kernel
theorem test_jumps : (gives (.jmp 0xFFFFE) (atPc (plain .M) 8) (jumpGo 0 (atPc (plain .M) 8)) &&
    gives (.jmpReg 1) (regs 8 0) ((regs 8 0).shDone 1 (jumpGo 8 (regs 8 0))) &&
    gives (.jmpReg 2) (plain .C) ((plain .C).shDone 2 (jumpGo 0 (plain .C)))) = true := by decide +kernel
theorem wit_zloop : (1 : BitVec 11) ≠ 0 ∧ (2047 : BitVec 11) ≠ 0 ∧ ((0 : BitVec 8).setWidth 32 = 0 → targetOk ((plain .V).mySeq.pc + BitVec.ofNat 64 (4 * 2047) + 4)) := by
  unfold targetOk; decide +kernel
theorem test_zloop : (after (.zloop 0 5 1) (plain .V)).mySeq.lp0 = ⟨4, 4, 5, true⟩ ∧ (after (.zloop 1 0 3) (plain .V)).mySeq.pc = 16 ∧
    (after (.zloopReg 1 1 3) (regs 7 0)).mySeq.lp1 = ⟨4, 12, 7, true⟩ ∧ cause (after (.zloop 0 5 0) (plain .V)) = some 1 := by decide +kernel

theorem wit_ownLoad : sOk 0 3 [1] = true ∧ (ea (pad 8 [0xFE, 0xFF] (loc 8) 0) 1 0).toNat % 8 = 0 ∧
    isOwn (pad 8 [0xFE, 0xFF] (loc 8) 0) (ea (pad 8 [0xFE, 0xFF] (loc 8) 0) 1 0) 8 ∧ mine (pad 8 [0xFE, 0xFF] (loc 8) 0) (span 8 8) ∧
    present (pad 8 [0xFE, 0xFF] (loc 8) 0) 0 (span 8 8) := by unfold isOwn mine present; decide +kernel
theorem wit_noRace : noRace (pad 8 [0xFE, 0xFF] (loc 8) 0) 0 (span 8 8)
    ((pad 8 [0xFE, 0xFF] (loc 8) 0).access ((pad 8 [0xFE, 0xFF] (loc 8) 0).accOf 0 .S) 0 ((pad 8 [0xFE, 0xFF] (loc 8) 0).timed 0)
      (lineKeys (spadKeyBase 0) (span 8 8))).2 := by unfold noRace; decide +kernel
/-- R81: the bytes are extended as the table says. -/
theorem test_ownLoads : entry (after (.ldS8 0 3 1 0) (pad 8 [0xFE, 0xFF] (loc 8) 0)) = some (3, 2 ^ 64 - 2, 4) ∧
    entry (after (.ldB8 0 3 1 0) (pad 8 [0xFE, 0xFF] (loc 8) 0)) = some (3, 0xFE, 4) ∧
    entry (after (.ldS16 0 3 1 0) (pad 8 [0xFE, 0xFF] (loc 8) 0)) = some (3, 2 ^ 64 - 2, 4) ∧
    entry (after (.ldB16 0 3 1 0xFFE) (pad 8 [0xFE, 0xFF] (loc 10) 0)) = some (3, 0xFFFE, 4) ∧
    entry (after (.ldS32 0 3 1 0) (pad 8 [1, 2, 3, 0x84] (loc 8) 0)) = some (3, 0xFFFFFFFF84030201, 4) ∧
    entry (after (.ldB32 0 3 1 0) (pad 8 [1, 2, 3, 0x84] (loc 8) 0)) = some (3, 0x84030201, 4) ∧
    entry (after (.ldB64 0 3 1 0) (pad 8 [1, 2, 3, 0x84, 5] (loc 8) 0)) = some (3, 0x0584030201, 4) := by decide +kernel

/-- S of unit 0 with a byte on its way through the window of its own core. -/
def forwarding : State := (regs (loc 8) 7).modMe fun c => { c with wins := [⟨12, .S, 0, 0, none, none, [(8, 0xAB)], 0, ⟨[], 0⟩⟩] }
theorem wit_forwards : plainOwn (regs (loc 8) 7) (span 8 8) ∧ ¬ plainOwn forwarding (span 8 8) ∧ isOwn forwarding (ea forwarding 1 0) 8 ∧
    mine forwarding (span 8 8) ∧ present forwarding 0 (span 8 8) := by unfold plainOwn isOwn mine present; decide +kernel
/-- R83: a load behind it reads the byte, and a store behind it stays (log 77). -/
theorem test_forwards : entry (after (.ldB8 0 3 1 0) forwarding) = some (3, 0xAB, 4) := by decide +kernel
theorem test_ownStays : ((after (.stB8 2 1 0) forwarding).core 0).spad = [(8, 7)] ∧ ((after (.stB8 2 1 0) forwarding).me.wins.map (·.wr)) = [[]] := by decide +kernel
theorem wit_windowLoad : isWin (regs (win 15 8) 0) (ea (regs (win 15 8) 0) 1 0) 15 8 ∧ mine (regs (win 15 8) 0) (span 8 8) ∧
    present (regs (win 15 8) 0) (coreAt (clusterOf 0) 15) (span 8 8) := by unfold isWin mine present; decide +kernel
theorem test_windowLoad : (let s := regs (win 15 8) 0
    gives (.ldS16 0 3 1 0) s (sawDatum [1] s (advance
        ((({ s with uid := s.uid + 1 } : State).modMe fun c =>
            { c with wins := c.wins ++ [winRead s 15 ⟨[(0, 8)], 2, true, 64, 0⟩ none] }).landAcc
          true 0 3 0 (4 + distance 0 15) s.uid none)))) = true := by decide +kernel
theorem wit_csrLoad : isCsr (ea (regs (ctl 0x40) 0) 1 0) 0x40 ∧ csrLogged 0x40 = false ∧ ((regs 0 0).csrRead 0 0x40).isSome = true ∧
    isCsr (ctl 0xFFF8) 0xFFF8 ∧ csrLogged 0x208 = true ∧ ((regs 0 0).csrRead 0 0x208).isSome = true ∧ (regs 0 0).csrRead 0 0xC00 = none := by
  unfold isCsr; decide +kernel
theorem test_csrLoad : (let s := regs (ctl 0x500) 0
    gives (.ldB64 0 3 1 0) s (sawDatum [1] s (advance (s.landS 0 3 2 4)))) = true ∧
    cause (after (.ldB32 0 3 1 0) (regs (ctl 0x500) 0)) = some 3 ∧ cause (after (.ldB64 0 3 1 0) (regs (ctl 0xC00) 0)) = some 4 := by decide +kernel
theorem wit_tableLoad : isTable (stk (BitVec.ofNat 64 (2 ^ 63 + 0xC000000))) (BitVec.ofNat 64 (2 ^ 63 + 0xC000000)) 0 ∧
    isTable (stk 0) (BitVec.ofNat 64 (2 ^ 63 + 0xE001FF8)) 0x21FF8 := by unfold isTable; decide +kernel
theorem test_tableLoad : (let s := (stk (BitVec.ofNat 64 (2 ^ 63 + 0xC000010))).setReg 0x2000010 77
    gives (.ldB64 0 3 1 0) s (sawDatum [1] s (advance (s.landS 0 3 77 4)))) = true := by decide +kernel
theorem wit_globalLoad : (ea (regs 0x1000 0) 1 0).getLsbD 63 = false ∧ (regs 0x1000 0).globalAdm 0x1000 8 respR = .go ∧
    (regs (2 ^ 57) 0).globalAdm (2 ^ 57) 8 respR = .deny := by decide +kernel
theorem test_globalLoad : exec (.ldS32 0 3 1 0) (regs 0x1000 0) = .next (sawDatum [1] (regs 0x1000 0)
    (advance (((regs 0x1000 0).sendOut (.load 4 true) 0x1000).landAcc true 0 3 0 40 1 none))) := by rfl
theorem test_globalDenied : cause (after (.ldB64 0 3 1 0) (regs (2 ^ 57) 0)) = some 4 := by decide +kernel
theorem wit_accessChecks : (ea (regs (loc 1) 0) 1 0).toNat % 2 ≠ 0 ∧ locOf 0 (loc 0x180000) = .bad ∧
    isOwn (regs (loc 0x17FFF8) 0) (loc 0x17FFF8) 0x17FFF8 ∧ owns 0 (regs 0 0).me 0x17FFF8 = false ∧
    isWin (regs 0 0) (win 0 0x17FFF8) 0 0x17FFF8 := by unfold isOwn isWin; decide +kernel
theorem test_accessChecks : cause (after (.ldS16 0 3 1 0) (regs (loc 1) 0)) = some 3 ∧ cause (after (.stB8 2 1 0) (regs (loc 0x180000) 0)) = some 4 ∧
    cause (after (.ldB64 0 3 1 0) (regs (loc 0x17FFF8) 0)) = some 4 ∧ cause (after (.stB64 2 1 0) (regs (win 0 0x17FFF8) 0)) = some 4 := by
  decide +kernel
theorem wit_ownStore : sSrcOk [2, 1] = true ∧ isOwn (regs (loc 0) 7) (ea (regs (loc 0) 7) 1 0) 0 ∧ mine (regs (loc 0) 7) (span 0 8) ∧
    ((regs (loc 0) 7).core 0).storeOk (span 0 8) = true ∧ present (regs (loc 0) 7) 0 (span 0 8) ∧
    noRace (regs (loc 0) 7) 1 (span 0 8) ((regs (loc 0) 7).access ((regs (loc 0) 7).accOf 0 .S) 1 ((regs (loc 0) 7).timed 0)
      (lineKeys (spadKeyBase 0) (span 0 8))).2 := by unfold isOwn mine present noRace; decide +kernel
theorem test_ownStore : ((after (.stB32 2 1 4) (regs (loc 0) 0x1122334455)).core 0).spad = [(4, 0x55), (5, 0x44), (6, 0x33), (7, 0x22)] := by
  decide +kernel
theorem test_otherStores : (let s := regs (win 3 8) 0x1FF
    gives (.stB16 2 1 0) s (sawDatum [2, 1] s (advance (s.modMe fun c => { c with wins := c.wins ++
        [⟨s.me.clk + 2 + distance 0 3, .S, coreAt 0 3, 0, none, none, [(8, 0xFF), (9, 1)], s.mySeq.pc, s.histOf s.me 0 .S⟩] }))) &&
    (let s := one 0 .S fun c => { c with mode := .timed, mcmask := 0x8001, x := c.x.set 1 (mcw 0x100) }
     gives (.stB8 59 1 0) s (sawDatum [59, 1] s (advance (s.modMe fun c => { c with mcast := c.mcast ++
        [⟨s.me.clk + 12, .S, 0x8001, [(0x100, 0)], s.mySeq.pc, s.histOf s.me 0 .S⟩] })))) &&
    (let s := regs (ctl 0x500) 3
     gives (.stB64 2 1 0) s (sawDatum [2, 1] s (advance (s.land .csrw false 0 0xA0 3 2)))) &&
    (let s := stk (BitVec.ofNat 64 (2 ^ 63 + 0xC000010))
     gives (.stB64 1 1 0) s (sawDatum [1, 1] s (advance (s.tableWrite 0 0x10 (BitVec.ofNat 64 (2 ^ 63 + 0xC000010))))))) = true := by decide +kernel
theorem test_globalStore : exec (.stB16 2 1 0) (regs 0x1000 3) = .next (sawDatum [2, 1] (regs 0x1000 3)
    (advance (((regs 0x1000 3).sendOut (.store [(0x1000, 3), (0x1001, 0)]) 0x1000).modCore 0 fun k =>
        { k with slog := k.slog ++ [⟨1, .S, 0, 0, [(0x1000, 3), (0x1001, 0)], false, false, false, false, 1⟩] }))) := by rfl
theorem wit_otherStores : isMc (one 0 .S fun c => { c with mode := .timed, mcmask := 0x8001, x := c.x.set 1 (mcw 0x100) }) (mcw 0x100) 0x100 ∧
    (∀ k, k < 16 → (0x8001 : BitVec 16).getLsbD k = true → ((regs 0 0).core (coreAt 0 k)).storeOk (span 0x100 1) = true ∧
      present (regs 0 0) (coreAt (clusterOf 0) k) (span 0x100 1)) ∧
    (regs 0x1000 3).globalAdm 0x1000 2 (fun r => respW r || respDup r) = .go ∧ ((regs 0x1000 3).core 0).slog.length < 256 := by
  unfold isMc present; decide +kernel
theorem wit_amo : (4 : BitVec 3).toNat ≤ 4 ∧ sOk 0 3 [1, 2] = true ∧ sOk 0 39 [1, 2, 39] = true ∧ (regs 0 0).fenceDone 0 4 = true ∧
    isOwn (regs (loc 8) 5) (loc 8) 8 ∧ mine (regs 0 0) (span 8 8) ∧
    ((regs 0 0).access ((regs 0 0).accOf 0 .S) 2 ((regs 0 0).timed 0) (lineKeys (spadKeyBase 0) (span 8 8))).1 = none := by
  unfold isOwn mine; decide +kernel
theorem wit_placed : placed 4 true (regs 0 0) (regs 0 0) ∧ placed 0 false (regs 0 0) (regs 0 0) := by
  unfold placed; exact ⟨.inl ⟨.inr rfl, rfl⟩, .inl ⟨.inl (by decide), rfl⟩⟩
theorem test_amo : (amoRows.all fun e =>
    let s := pad 8 [0xF9, 0xFF, 0xFF, 0xFF, 7] (loc 8) 5
    let t := after (e.1 1 0 39 1 2 0) s
    decide (entry t = some (39, 0xFFFFFFF9, 40)) &&
    decide (leSum (t.core 0).spad.rd 8 4 = e.2.2 4 0xFFFFFFF9 5 0)) = true := by decide +kernel
theorem test_amoAway : (amoRows.all fun e =>
    let s := regs (win 1 8) 5
    let t := after (e.1 1 0 39 1 2 1) s
    decide (t.me.wins.map (fun w => (w.amo, w.due, w.target, w.acc)) =
        [(some (e.2.1, 5, 0, 1), 12 + distance 0 1, coreAt 0 1, s.uid)]) && decide (entry t = some (39, 0, 40))) = true := by decide +kernel
theorem test_amoGlobal : exec (.amoAdd 2 0 3 1 2 1) (regs 0x1000 5) = .next (sawDatum [1, 2] (regs 0x1000 5) (advance
      ((((regs 0x1000 5).scOp 1 0 .S 2).sendOut (.amo 0 8 5 0 2) 0x1000).landAcc true 0 3 0 40 1 none))) := by rfl
theorem wit_amoChecks : 4 < (5 : BitVec 3).toNat ∧ ((regs (loc 2) 5).rdS 1).toNat % 4 ≠ 0 ∧ isCsr (ctl 0) 0 ∧
    isWin (regs (win 1 8) 5) (win 1 8) 1 8 ∧ coreAt (clusterOf 0) 1 ≠ 0 ∧ isMc (regs (mcw 8) 5) (mcw 8) 8 ∧
    isTable (stk 0) (BitVec.ofNat 64 (2 ^ 63 + 0xC000010)) 0x10 := by unfold isCsr isWin isMc isTable; decide +kernel
theorem test_amoChecks : (amoRows.all fun e => decide (cause (after (e.1 5 0 39 1 2 0) (regs (loc 0) 0)) = some 1) &&
    decide (cause (after (e.1 4 0 39 1 2 0) (regs (loc 2) 0)) = some 3) && decide (cause (after (e.1 4 0 39 1 2 0) (regs (ctl 0) 0)) = some 4) &&
    decide (cause (after (e.1 0 0 39 1 2 0) (regs (win 1 8) 0)) = some 4) &&
    decide (cause (after (e.1 4 0 39 1 2 0) (regs (mcw 8) 0)) = some 4)) = true := by decide +kernel

/-! Order, control registers, tokens, exceptions. -/

theorem wit_fence : (regs 0 0).fenceDone 0 4 = true ∧ (regs 0 0).fenceDone 0 0 = true ∧
    ((one 0 .S fun c => { c with wins := [⟨20, .S, 1, 0, none, none, [], 0, ⟨[], 0⟩⟩] }).fenceDone 0 1 = false) ∧ 4 < (7 : BitVec 3).toNat := by
  decide +kernel
theorem test_fence : (gives (.fence 2) (regs 0 0) (advance ((regs 0 0).scOp 1 0 .S 2)) &&
    gives (.fence 5) (regs 0 0) (illegal (regs 0 0)) &&
    (let s := one 0 .S fun c => { c with wins := [⟨20, .S, 1, 0, none, none, [], 0, ⟨[], 0⟩⟩] }
     gives (.fence 1) s (stall frzSync s))) = true := by decide +kernel
/-- S of unit 0, a member of a barrier at levels 1 and 5. -/
def member (f : Ctx → Ctx) : State := one 0 .S fun c => f { c with members := BitVec.ofNat 64 (2 ^ 48 + 2 ^ 52) }
theorem wit_barriers : barLevel (member id) 1 ∧ barLevel (member id) 5 ∧ ¬ barLevel (member id) 0 ∧ ¬ barLevel (member id) 7 ∧
    (member fun c => { c with barGo := true }).me.barGo = true ∧ ((member id).modMe fun c => { c with barTry := some (0, 10) }).drained 0 1 (0, 10) = true ∧ (member id).me.bar = none ∧
    (member fun c => { c with mode := .timed }).me.mode = .timed := by unfold barLevel; decide +kernel
/-- A timed core of cluster 0, with members, beside the running S of another core that has not reached the barrier. -/
def alone : State :=
  let s := member fun c => { c with mode := .timed }
  { s with cores := s.cores ++ [(1, { Core.zero with ctx := { Ctx.zero with lid := 1, mode := .timed, members := BitVec.ofNat 64 (2 ^ 48), s := { Seq.zero with run := true, nextAt := 99 } } })]
           launches := [] }
theorem test_barriers : (gives (.bar 1) (member id) (advance (member id)) && gives (.bar 2) (member id) (illegal (member id)) &&
    (let s := member fun c => { c with barGo := true, bar := some (5, 1) }
     gives (.bar 5) s (advance (s.modMe fun c => { c with barTry := none, bar := none, barSw := none, barGo := false })) &&
     gives (.barSw 2 5) s (advance (s.modMe fun c => { c with barTry := none, bar := none, barSw := none, barGo := false })))) = true := by decide +kernel
theorem wit_waitt : sSrcOk [1] = true ∧ ((regs 0 0).rdS 1).toNat ≤ (regs 0 0).datumNs.toNat ∧
    (regs 1 0).datumNs.toNat < ((regs 1 0).rdS 1).toNat ∧ (regs 0 0).me.fq.length < 16 := by decide +kernel
theorem test_waitt_fpush : (gives (.waitt 1) (regs 0 0) (advance (regs 0 0)) && gives (.waitt 1) (regs 1 0) (stall frzDatum (regs 1 0)) &&
    gives (.fpush 1) (regs 0xAE400000 0) (advance ((regs 0xAE400000 0).modMe fun c => { c with fq := [(0xAE400000, 10)] })) &&
    gives (.fpush 1) (stk 0) (illegal (stk 0))) = true := by decide +kernel
theorem wit_csr : (8 * (0xA0 : BitVec 13).toNat = 0x500) ∧ csrLogged 0x610 = true ∧ (regs 0 0).csrRead 0 0x610 ≠ none ∧ ((regs 0 0).sampleOver 0x610).csrRead 0 0x610 ≠ none ∧ (regs 0 0).csrRead 0 0x500 = some 2 ∧ csrLogged 0x500 = false ∧
    (regs 0 0).csrRead 0 (8 * 0x1FFF) ≠ none ∧ (regs 0 0).csrRead 0 (8 * 0x180) = none ∧ csrLogged 0x208 = true := by decide +kernel
theorem test_csr : entry (after (.csrr 0 3 0xA0) (regs 0 0)) = some (3, 2, 2) ∧ cause (after (.csrr 0 3 0x180) (regs 0 0)) = some 4 ∧
    cause (after (.csrw 1 0x180) (regs 0 0)) = some 4 ∧ entry (after (.csrw 1 0xA0) (regs 7 0)) = some (0, 7, 2) := by decide +kernel
theorem wit_tmark : (one 0 .M fun c => { c with mode := .timed, clk := 2 ^ 21 + 5 }).me.clk % 2 ^ 21 = (5 : BitVec 21).toNat ∧
    (one 0 .M fun c => { c with mode := .timed, clk := 2 ^ 21 + 5 }).me.clk % 2 ^ 21 ≠ (6 : BitVec 21).toNat ∧ (plain .M).me.mode ≠ .timed := by decide +kernel
theorem test_tmark : (let s := one 0 .M fun c => { c with mode := .timed, clk := 2 ^ 21 + 5 }
    gives (.tmark 5) s (advance s) && decide (cause (after (.tmark 6) s) = some 6) && decide (cause (after (.tmark 5) (plain .M)) = some 1) &&
    gives .nop s (advance s) && gives .beacon s (advance s)) = true := by decide +kernel
/-- A sequencer that waits in beacon.w and has been woken. -/
def woken : State := (plain .S).modSelf fun x => { x with idle := true, woken := true }
theorem wit_beaconW : woken.me.mode ≠ .timed ∧ woken.isReplay 0 = false ∧ woken.mySeq.idle = true ∧ woken.mySeq.woken = true := by decide +kernel
theorem test_beaconW : (after .beaconW woken).verdict = .issued ∧ (after .beaconW (plain .S)).verdict = .stalled frzNone ∧
    (after .beaconW (plain .S)).mySeq.idle = true := by decide +kernel
theorem test_halt : (after .halt (plain .V)).mySeq.run = false ∧ (after .halt (plain .V)).verdict = .issued := by decide +kernel
theorem wit_tokens : tokenPeer (plain .S) (seqOfCode 1) ∧ ¬ tokenPeer (plain .S) (seqOfCode 0) ∧
    63 < (one 0 .S fun c => c.setTokens .S .M 63).me.tokens .S .M + 1 ∧ (1 : BitVec 6).toNat ≤ (one 0 .S fun c => c.setTokens .M .S 1).me.tokens .M .S ∧
    (plain .S).me.tokens .M .S < (63 : BitVec 6).toNat := by unfold tokenPeer; decide +kernel
theorem wit_elasticWait : let s := plain .S
    s.me.mode ≠ .timed ∧ (s.me.seq .M).run = false ∧ (s.me.seq .M).nextAt ≤ s.me.clk ∧
    ((one 0 .S fun c => { c with m := { Seq.zero with run := true } }).me.seq .M).run = true ∧
    63 < ((one 0 .S fun c => c.setTokens .S .M 63).atEnd (.token .S .M 1)).me.tokens .S .M + 1 := by decide +kernel
/-- An elastic core waits for a token of M while M runs and finds 0x08 once M has halted (R122); sig of 0 counts pending tokens (R104). -/
theorem test_elasticWait : decide ((after (.wait 2 1) (one 0 .S fun c => { c with m := { Seq.zero with run := true } })).verdict = .stalled frzStuck) = true ∧
    cause (after (.wait 2 1) (plain .S)) = some 8 ∧
    cause (after (.sig 0 0) (one 0 .C fun c => { c.setTokens .C .S 63 with ctok := [⟨.S, 2, 1⟩] })) = some 9 := by decide +kernel
theorem test_tokens : (gives (.sig 2 3) (plain .S) (advance ((plain .S).atEnd (.token .S .M 3))) &&
    gives (.sig 0 1) (plain .S) (illegal (plain .S)) &&
    decide (cause (after (.sig 2 1) (one 0 .S fun c => c.setTokens .S .M 63)) = some 9) &&
    decide ((after (.wait 2 1) (one 0 .S fun c => c.setTokens .M .S 1)).me.tokens .M .S = 0) &&
    decide (cause (after (.wait 2 1) (one 0 .S fun c => { c with mode := .timed })) = some 8) &&
    decide ((after (.sig 0 2) (plain .C)).me.ctok = [⟨.S, 2, 1⟩])) = true := by decide +kernel
theorem test_brk_trap : (let t := advance (plain .V)
    gives (.brk 9) (plain .V) (raiseCause ⟨0x0F, 9, 4, 0, 0⟩ true t) && gives (.trap 9) (plain .V) (raiseCause ⟨0x0E, 9, 4, 0, 0⟩ true t)) = true := by
  decide +kernel
theorem wit_traps : (handled false).me.handler = false ∧ ((handled false).core 0).himg ≠ 0 ∧ (handled false).domain 0 = [0] ∧
    ((handled false).core 0).swap = none ∧ ((handled false).core 0).bankKind = .handler := by decide +kernel
theorem test_traps : (let t := raiseCause ⟨0x01, 2, 3, 4, 5⟩ false (handled false)
    decide (t.mySeq.fault = ⟨true, 1, 2, 3, 4, 5⟩) && decide ((t.core 0).hevent = 1) && decide ((t.core 0).hseq = 1) &&
    decide ((t.core 0).swap = some ⟨65, true, false⟩) && decide (t.me.handler = false)) = true := by decide +kernel
theorem wit_noHandler : (handled true).me.handler = true ∧ ((regs 0 0).core 0).himg = 0 ∧
    ({ regs 0 0 with launches := [running 1] } : State).launch 1 = some (running 1) ∧ (running 1).st = .running := by decide +kernel
theorem test_noHandler : ((raiseCause ⟨3, 0, 0, 0, 0⟩ false { regs 0 0 with launches := [running 1] }).launch 1).map
      (fun l => (l.st, l.status, l.cause)) = some (.ending, 2, 3) ∧
    (raiseCause ⟨3, 0, 0, 0, 0⟩ false (handled true)).mySeq.run = false := by decide +kernel
theorem test_privileged : ([Instr.xrd 0 1 2 0, .xwr 1 2 0, .hret, .cdrop 1, .xkill 1, .xpost 1].all fun e =>
    gives e (handled false) (illegal (handled false))) = true := by decide +kernel
theorem wit_system : (handled true).me.handler = true ∧ sOk 0 3 [1] = true ∧ sSrcOk [2, 1] = true ∧
    (ea (handled true) 1 0).toNat % 8 = 0 ∧ (ea (handled true) 1 4).toNat % 8 ≠ 0 ∧
    0x30000 + 0x10000 * ((handled true).core 0).bank.gran ≤ (ea (handled true) 1 0xFF8).toNat ∧
    (ea ((handled true).modMe fun c => { c with x := c.x.set 1 0x30000 }) 1 0).toNat = 0x30000 := by decide +kernel
theorem test_system : (decide (cause (after (.xrd 0 3 1 4) (handled true)) = some 3) &&
    decide (cause (after (.xrd 0 3 1 0xFF8) (handled true)) = some 4) && decide (cause (after (.xwr 2 1 4) (handled true)) = some 3) &&
    gives (.cdrop 1) (handled true) (advance ((handled true).dropCopy 0 1)) &&
    gives (.xpost 2) (handled true) (sawDatum [2] (handled true) (advance ((handled true).post (evQueueOf 0) [evWord0 10 0 0 0, 0, 0, 5])))) = true := by
  decide +kernel
/-- A full event ring of die 0. -/
def fullRing : State := { handled true with regs := [(0x1010048, 255)] }
theorem wit_xpostWaits : fullRing.ringFull (evqhOff (evQueueOf 0)) (evqhOff (evQueueOf 0) + 8) = true ∧
    (handled true).ringFull (evqhOff (evQueueOf 0)) (evqhOff (evQueueOf 0) + 8) = false ∧ fullRing.me.handler = true ∧
    (after (.xpost 2) fullRing).verdict = .stalled frzNone := by decide +kernel
/-- x5 of the trapped context lies behind the four 16-byte words of the sequencers' state (Table 15.3). -/
theorem test_image : (let s := (handled true).modMe fun c => { c with x := c.x.set 1 0x30000 }
    decide (((after (.xwr 2 1 0) s).core 0).spad = [(0, 5)]) && decide (entry (after (.xrd 0 3 1 0) (after (.xwr 2 1 0) s)) = some (3, 5, 2))) = true := by
  decide +kernel
theorem test_return : (let t := after .hret (handled true)
    decide (t.verdict = .issued) && decide (t.mySeq.run = false) && decide ((t.core 0).swap = some ⟨65, false, false⟩)) = true ∧
    ((after (.xkill 2) { handled true with launches := [running 7] }).launch 7).map (fun l => (l.st, l.status, l.detail)) = some (.ending, 3, 5) := by
  decide +kernel
/-- Unit 0 of a timed cluster in its handler; every other core of the cluster has returned where d holds. -/
def timedHandlers (d : Bool) : State :=
  { State.reset with
    cores := (List.range 16).map fun j => (coreAt 0 j, { Core.zero with himg := 1, ctx := { Ctx.zero with lid := 1, handler := true }, bank := { Ctx.zero with lid := 7, mode := .timed }, hdone := if d = true ∧ j ≠ 0 then some none else none })
    turn := ⟨0, .S⟩ }
theorem wit_timedReturn : (timedHandlers true).me.handler = true ∧ ((timedHandlers true).core 0).bank.mode = .timed ∧
    (timedHandlers false).turn.u < 384 ∧ (∃ j ∈ (List.range 16).map (coreAt (clusterOf 0)), j ≠ 0 ∧ ((timedHandlers false).core j).hdone = none) ∧
    ∀ j ∈ (List.range 16).map (coreAt (clusterOf 0)), j ≠ 0 → ((timedHandlers true).core j).hdone = some none := by decide +kernel
theorem test_timedReturn : (((List.range 16).map (coreAt 0)).all fun j =>
    decide (((after .hret (timedHandlers true)).core j).swap = some ⟨65, false, false⟩) &&
    decide (((after .hret (timedHandlers false)).core j).swap = none)) = true := by decide +kernel

/-! V arithmetic. -/

/-- A V register with lanes f. -/
def vec (w : Nat) (f : Nat → Nat) : Wide := ofLanes w ((List.range (2048 / w)).map f)
/-- V of unit 0 with v1 = a, v2 = b, v3 = d, mask m0, and VRM r. -/
def vregs (a b d : Wide) (m0 : BitVec 256) (r : BitVec 3) : State :=
  one 0 .V fun c => { c with vr := ((c.vr.set 1 a).set 2 b).set 3 d, mkr := c.mkr.set 0 m0, vrm := r }
/-- The last value in the pipeline. -/
def vout (s : State) : Wide := (s.mySeq.ring.getLast?.map (·.val)).getD 0
def latency (s : State) : Nat := (s.mySeq.ring.getLast?.map fun l => l.due - s.me.clk).getD 0
theorem wit_vLegal : vOkX (vregs 0 0 0 0 0) 0 3 [1, 2] 0 [3] ∧ vOkX (vregs 0 0 0 0 0) 1 59 [31, 61] 31 [] ∧ vOk (vregs 0 0 0 0 0) 0 39 [58] ∧
    vrmIs (vregs 0 0 0 0 3) ((Rm.ofCode 3).getD .rne) ∧ vrmIs (vregs 0 0 0 0 0) .rne ∧ (vregs 0 0 0 0 4).me.vrm.toNat ≥ 4 := by
  unfold vOkX vOk vrmIs; decide +kernel
def lanesOk (s : State) (m : BitVec 1) (d : BitVec 6) (w : Nat) (v : Wide) (f : Nat → Nat) : Bool :=
  (List.range (2048 / w)).all fun i => decide (lane v w i = if m = 0 ∨ (vget s.me.mkr 0 0).getLsbD i = true then f i else lane (vDst s.me d) w i)
def va : Wide := vec 8 fun i => (i * 37 + 11) % 256
def vb : Wide := vec 8 fun i => (i * i * 13 + 200) % 256
theorem test_vint : (table64.all fun e => let s := vregs va vb 5 0xF0F0F 0
    let t := after (e.1 0 3 1 2 0 1) s
    decide (latency t = e.2.2.1) && lanesOk s 1 3 e.2.1 (vout t) fun i => e.2.2.2 (lane va e.2.1 i) (lane vb e.2.1 i)) = true := by decide +kernel
theorem test_vfloat : (table65.all fun e => let s := vregs va vb (va ^^^ vb) 0x1029 0
    let t := after (e.1 0 3 1 2 0 1) s
    let w := e.2.1.width
    decide (latency t = 5) && lanesOk s 1 3 w (vout t) fun i => e.2.2.2 .rne (decodeF e.2.1 (lane va w i)) (decodeF e.2.1 (lane vb w i)) (decodeF e.2.1 (lane (va ^^^ vb) w i)) % 2 ^ w) = true := by decide +kernel
theorem wit_compare : vSrcXOk [1, 61] 31 [] = true ∧ (∀ f ∈ ([1, 61] : List (BitVec 6)), vBeyond (vregs 0 0 0 0 0).me f = false) ∧
    (table162.all fun e => decide ((0 : BitVec 4).toNat ≤ e.2.2.1) && decide (e.2.2.1 < (5 : BitVec 4).toNat)) = true := by decide +kernel
theorem test_compare : (table162.all fun e => [0, 1, 2, 3, 4, 5].all fun (c : BitVec 4) => let s := vregs va vb 0 0xFF00F0F0F0F 0
    let t := after (e.1 c 2 1 2 0 1) s
    if c.toNat ≤ e.2.2.1 then decide (latency t = 2) && (List.range 260).all fun i =>
      (vout t).getLsbD i == (decide (i < 2048 / e.2.1) && (0xFF00F0F0F0F : BitVec 256).getLsbD i && e.2.2.2 c.toNat (lane va e.2.1 i) (lane vb e.2.1 i))
    else decide (cause t = some 1)) = true := by decide +kernel
theorem test_masks : ((table163 1 2 3).all fun e => let s := one 0 .V fun c => { c with mkr := (c.mkr.set 2 0xF0F0).set 3 0xFF00 }
    let t := after e.1 s
    decide (latency t = 1) && (List.range 260).all fun i =>
      (vout t).getLsbD i == (decide (i < 256) && e.2 ((0xF0F0 : BitVec 256).getLsbD i) ((0xFF00 : BitVec 256).getLsbD i))) = true := by decide +kernel
theorem wit_flag : (2 : BitVec 2).toNat ≠ 3 ∧ (3 : BitVec 2).toNat = 3 ∧ (0xFFFFFFFFFF : Wide).toNat < 2 ^ 40 := by decide +kernel
theorem test_flag : (let s := one 0 .V fun c => { c with mkr := (c.mkr.set 0 0xFFFF).set 2 0xF0F0F }
    let t := after (.vflag 1 2 2 1) s
    decide (latency t = 4) && decide ((vout t).toNat = 8 + 2 ^ 32) && decide (cause (after (.vflag 1 2 3 0) s) = some 1) &&
    decide ((flagWord (255 * 2 ^ 40) 7).toNat = 7)) = true := by decide +kernel
theorem test_reduce : (table165.all fun e => let s := vregs va vb 0 0x0F0F 0
    let t := after (e.1 0 3 1 0 1) s
    let w := e.2.1
    decide (latency t = 10) && decide (vout t = BitVec.ofNat 2048 (tree (e.2.2.2 .rne) 0 ((List.range (2048 / w)).map fun i =>
      if (0x0F0F : BitVec 256).getLsbD i = true then some (lane va w i) else none)))) = true := by decide +kernel
/-- R59: the example of Table 2.7: 1.0 + 0 + (2^-24 + 2^-24). -/
theorem test_treeExample : vout (after (.vredAddF32 0 3 1 0 0) (vregs (vec 32 fun i => if i = 0 then 0x3F800000 else if i = 2 ∨ i = 3 then 0x33800000 else 0) 0 0 0 0)) =
    0x3F800001 := by decide +kernel
theorem test_vmoves : (let s := vregs va vb 0 0xF0F0 0
    lanesOk s 1 3 32 (vout (after (.vpermB32 0 3 1 2 0 1) s)) (fun i => lane va 32 (lane vb 32 i % 64)) &&
    lanesOk s 0 3 8 (vout (after (.vpermB8 0 3 1 2 0 0) s)) (fun i => lane va 8 (lane vb 8 i % 256)) &&
    lanesOk s 0 3 32 (vout (after (.vrotB32 0 3 1 63) s)) (fun i => lane va 32 ((i + 63) % 64)) &&
    lanesOk s 0 3 32 (vout (after (.vselB32 0 3 1 2 0) s)) (fun i => if (0xF0F0 : BitVec 256).getLsbD i = true then lane va 32 i else lane vb 32 i) &&
    lanesOk s 0 3 32 (vout (after (.vmovi 0 3 0xFFE) s)) (fun _ => 0xFFFFFFFE)) = true := by decide +kernel
theorem wit_convert : CvFmt.ofCode 8 = some (.f .fp32) ∧ CvFmt.ofCode 9 = some (.f .bf16) ∧ Rm.ofCode 4 = some .sr ∧ Rm.ofCode 0 = some .rne ∧
    (1 : BitVec 2).toNat < max (CvFmt.f .fp32).width (CvFmt.f .bf16).width / min (CvFmt.f .fp32).width (CvFmt.f .bf16).width ∧
    cvRmOk (.f .fp32) (.f .bf16) 4 = true ∧ cvRmOk (.f .bf16) (.f .fp32) 0 = true ∧ CvFmt.ofCode 0 = some (.s 8) ∧ cvRmOk (.s 8) (.b 32) 0 = true := by
  decide +kernel
theorem test_convert : (let s := vregs va vb vb 0 0
    let t := after (.vcvt 1 0 3 1 8 9 4 0) s
    decide (t.me.endOps = [.vsrctr]) && decide (latency t = 4) && (List.range 128).all fun j =>
      decide (lane (vout t) 16 j = if 64 ≤ j then cvOne (.f .fp32) (.f .bf16) .sr (vDraw s.me (j - 64)) (lane va 32 (j - 64)) else lane vb 16 j)) = true ∧
    (let s := vregs va vb vb 0 0
     lanesOk s 0 3 32 (vout (after (.vcvt 3 0 3 1 0 2 0 0) s)) fun i => ((BitVec.ofNat 8 (lane va 8 (192 + i))).signExtend 32).toNat) = true := by decide +kernel
theorem wit_mxPack : (8 : BitVec 4) = 8 ∧ Rm.ofCode 0 = some .rne ∧ vOk (vregs 0 0 0 0 0) 0 3 [1] := by unfold vOk; decide +kernel
/-- R168: 32 lanes of 1.5 share the scale 2^-8 of E4M3's largest power: elements 384, scale code 119. -/
theorem test_mxPack : (let t := after (.vmxpk 0 3 1 8 12 0) (vregs (vec 32 fun _ => 0x3FC00000) 0 0 0 0)
    decide (latency t = 6) && decide (lane (vout t) 8 0 = 0x7C) && decide (lane (vout t) 8 63 = 0x7C) && decide (lane (vout t) 8 64 = 119) &&
    decide (lane (vout t) 8 65 = 119) && decide (lane (vout t) 8 66 = 0)) = true := by decide +kernel
theorem wit_algebra : vOk (vregs 0 0 0 0 0) 0 3 [1, 2] ∧ vrmIs (vregs 0 0 0 0 0) .rne := by unfold vOk vrmIs; decide +kernel
/-- R175, R189: under the real algebra vamul is the product of the lanes. -/
theorem test_algebra : (let s := vregs (vec 32 fun _ => 0x40000000) (vec 32 fun _ => 0xC0400000) 0 0 0
    lanesOk s 0 3 32 (vout (after (.vamul 0 3 1 2 0 0 0 0) s)) (fun _ => 0xC0C00000) &&
    lanesOk s 0 3 32 (vout (after (.vnorm 0 3 2 1) s)) (fun _ => 0x41100000) &&
    lanesOk s 0 3 32 (vout (after (.vconj 0 3 2 0 0) s)) (fun _ => 0xC0400000)) = true := by decide +kernel

/-! V accesses, sends, tiles. -/

/-- V of unit 0 with x1 = a (as V sees it), x2 = b, and v1. -/
def vmem (a b : Word) (v : Wide) (f : Ctx → Ctx) : State :=
  (one 0 .V fun c => f { c with x2 := (c.x2.set 1 a).set 2 b, vr := c.vr.set 1 v }).modCore 0 fun k => { k with spad := [(8, 1), (9, 0x80), (12, 7)] }
theorem wit_vrow : vBeyond (vmem (loc 8) 0 0 id).me 1 = false ∧ dstOk 0 3 = true ∧ vSrcOk [1] = true ∧ (eaOf (vmem (loc 8) 0 0 id) 1 0).toNat % 4 = 0 ∧
    isOwn (vmem (loc 8) 0 0 id) (eaOf (vmem (loc 8) 0 0 id) 1 0) 8 ∧ mine (vmem (loc 8) 0 0 id) (span 8 256) ∧
    present (vmem (loc 8) 0 0 id) 0 (span 8 256) ∧
    noRace (vmem (loc 8) 0 0 id) 0 (span 8 256) ((vmem (loc 8) 0 0 id).access ((vmem (loc 8) 0 0 id).accOf 0 .V) 0 ((vmem (loc 8) 0 0 id).timed 0)
      (lineKeys (spadKeyBase 0) (span 8 256))).2 ∧ ((vmem (loc 8) 0 0 id).core 0).storeOk (span 8 256) = true ∧
    isMc (vmem (mcw 8) 0 0 id) (eaOf (vmem (mcw 8) 0 0 id) 1 0) 8 ∧ isWin (vmem (win 2 8) 0 0 id) (eaOf (vmem (win 2 8) 0 0 id) 1 0) 2 8 ∧
    plainOwn (vmem (loc 8) 0 0 id) (span 8 256) := by
  unfold isOwn mine present noRace isMc isWin plainOwn; decide +kernel
/-- V's own window store on its way is what its next load of these bytes reads (R172; log 77). -/
theorem test_vforwards : (let s := vmem (loc 8) 0 0 fun c => { c with wins := [⟨12, .V, 0, 0, none, none, [(8, 5)], 0, ⟨[], 0⟩⟩] }
    decide ((vout (after (.vld 0 3 1 0) s)).toNat = 0x8005 + 7 * 2 ^ 32) && decide ((after (.vst 1 1 0) s).me.wins.map (·.wr) = [[]])) = true := by decide +kernel
theorem test_vrow : (let t := after (.vld 0 3 1 0) (vmem (loc 8) 0 0 id)
    decide (latency t = 4) && decide ((vout t).toNat = 0x8001 + 7 * 2 ^ 32)) &&
    decide (((after (.vst 1 1 4) (vmem (loc 8) 0 0x1FF id)).core 0).spad = [(8, 1), (9, 0x80), (12, 0xFF), (13, 1)]) &&
    (let s := vmem (win 2 8) 0 5 id
     gives (.vld 0 3 1 0) s (advance ((({ s with uid := s.uid + 1 } : State).modMe fun c =>
            { c with wins := c.wins ++ [winRead s 2 (rowElems 8 0) none] }).landAcc true 0 3 0 (4 + distance 0 2) s.uid none)) &&
     gives (.vst 1 1 0) s (advance (s.modMe fun c => { c with wins := c.wins ++
          [⟨s.me.clk + 2 + distance 0 2, .V, coreAt 0 2, 0, none, none, atAddr 8 (natLe 256 5), 0, s.histOf s.me 0 .V⟩] }))) &&
    (let s := vmem (mcw 8) 0 5 fun c => { c with mode := .timed, mcmask := 2 }
     gives (.vst 1 1 0) s (advance (s.modMe fun c => { c with mcast := c.mcast ++
          [⟨s.me.clk + 12, .V, 2, atAddr 8 (natLe 256 5), 0, s.histOf s.me 0 .V⟩] }))) = true := by decide +kernel
theorem wit_vglobal : (eaOf (vmem 0x1000 0 0 id) 1 0x7C0).toNat % 64 = 0 ∧ (vmem 0x1000 0 0 id).globalAdm256 0x17C0 respR = .go ∧
    ((vmem 0x1000 0 0 id).core 0).slog.length + 4 ≤ 256 ∧ (vmem (2 ^ 57) 0 0 id).globalAdm256 (2 ^ 57) respR = .deny ∧
    (eaOf (vmem 0x1000 0 0 id) 1 4).toNat % 64 ≠ 0 := by decide +kernel
theorem test_vgld : exec (.vgld 0 3 1 0) (vmem 0x1000 0 0 id) =
    .next (advance (((vmem 0x1000 0 0 id).sendOut .vload 0x1000).landAcc true 0 3 0 48 1 none)) := by rfl
theorem test_vgst : ((after (.vgst 1 1 0) (vmem 0x1000 0 5 id)).core 0).slog.map (fun e => e.wr.map (·.1)) =
    (List.range 4).map fun k => (List.range 64).map fun j => 0x1000 + 64 * k + j := by decide +kernel
/-- V of a stack core with x1 at the descriptor table and x2 = b. -/
def onStack (b : Word) : State := one 384 .V fun c => { c with mode := .stack, x2 := (c.x2.set 1 (BitVec.ofNat 64 (2 ^ 63 + 0xC000000))).set 2 b }
/-- R155, R334: a lane in the descriptor table is an access of another size than 8 and raises 0x03. -/
theorem test_laneInTable : cause (after (.vlds 0 3 1 2 2 0 0) (onStack 4)) = some 3 := by decide +kernel
theorem wit_vchecks : (eaOf (vmem (loc 2) 0 0 id) 1 0).toNat % 4 ≠ 0 ∧ (eaOf (vmem 4 0 0 id) 1 0).getLsbD 63 = false ∧
    locOf 0 (loc 0x180000) = .bad ∧ isCsr (ctl 0x500) 0x500 ∧ isTable (one 384 .V id) (BitVec.ofNat 64 (2 ^ 63 + 0xC000000)) 0 ∧
    (∀ i ∈ List.range 2, isTable (onStack 4) (eaLane (onStack 4) 1 2 none i) (4 * i)) ∧
    owns 0 (vmem 0 0 0 id).me 0x90000 = false ∧ ¬ elemOk 3 0 ∧ ¬ elemOk 2 1 := by unfold isCsr isTable elemOk; decide +kernel
theorem test_vchecks : cause (after (.vld 0 3 1 0) (vmem (loc 2) 0 0 id)) = some 3 ∧ cause (after (.vst 1 1 0) (vmem 4 0 0 id)) = some 4 ∧
    cause (after (.vld 0 3 1 0) (vmem (loc 0x180000) 0 0 id)) = some 4 ∧ cause (after (.vst 1 1 0) (vmem (ctl 0x500) 0 0 id)) = some 4 ∧
    cause (after (.vld 0 3 1 0) (vmem (loc 0x90000) 0 0 id)) = some 4 ∧ cause (after (.vgld 0 3 1 4) (vmem 0x1000 0 0 id)) = some 3 ∧
    cause (after (.vgst 1 1 0) (vmem (2 ^ 57) 0 0 id)) = some 4 ∧ cause (after (.vlds 0 3 1 2 3 0 0) (vmem (loc 0) 4 0 id)) = some 1 ∧
    cause (after (.vlds 0 3 1 2 1 0 0) (vmem (loc 0) 3 0 id)) = some 3 := by decide +kernel
/-- Unit 0 with a region that takes no store over the second page of its scratchpad. -/
def readOnly (s : State) : State := s.modCore 0 fun k => { k with regions := [(0, ⟨false, 0, 4096, 1, 0, [], [], []⟩)] }
/-- Lane 1 of a stride of 4 from the last word that unit 0 owns is refused, and so is a store to the region that takes none. -/
theorem wit_laneRefused : laneOk (vmem (loc 0x7FFFC) 4 0 id) (loc 0x7FFFC) 4 (loc 0x7FFFC) ∧
    ¬ laneOk (vmem (loc 0x7FFFC) 4 0 id) (loc 0x7FFFC) 4 (loc 0x80000) ∧
    eaLane (vmem (loc 0x7FFFC) 4 0 id) 1 2 none 1 = loc 0x80000 ∧
    ((readOnly (vmem (loc 4092) 4 0 id)).core 0).storeOk (span 4092 4) = true ∧
    ((readOnly (vmem (loc 4092) 4 0 id)).core 0).storeOk (span 4096 4) = false := by
  refine ⟨.inl ⟨0x7FFFC, 0x7FFFC, by unfold isOwn; decide +kernel, by unfold isOwn; decide +kernel, by unfold mine; decide +kernel⟩, ?_,
    by decide +kernel, by decide +kernel, by decide +kernel⟩
  rintro (⟨o, off, _, ⟨h, _⟩, h2⟩ | ⟨k, o, off, ⟨_, _, _, h⟩, _⟩)
  · have h3 : off = 0x80000 := by simp only [show (loc 0x80000).toNat = 2 ^ 63 + 0x80000 from by decide +kernel] at h; omega
    subst h3; revert h2; unfold mine; decide +kernel
  · simp only [show (loc 0x7FFFC).toNat = 2 ^ 63 + 0x7FFFC from by decide +kernel] at h; omega
/-- The address that the last try raised a cause with. -/
def causeAt (s : State) : Option (Nat × Word) :=
  match s.verdict with
  | .raised _ c => some (c.code.toNat, c.addr)
  | _ => none
theorem test_laneRefused : causeAt (after (.vlds 0 3 1 2 2 0 0) (vmem (loc 0x7FFFC) 4 0 id)) = some (4, loc 0x80000) ∧
    causeAt (after (.vsts 1 1 2 2 0 0) (readOnly (vmem (loc 4092) 4 0 id))) = some (4, loc 4096) := by decide +kernel
/-- The addresses of lanes 0 and 63 under a stride of 4 bytes. -/
theorem wit_indexed : indexedOk (vmem (loc 8) 4 0 id) true 0 3 [] 2 0 ∧ indexedOk (vmem (loc 8) 4 0 id) false 0 1 [1, 2] 0 1 ∧
    (∀ i ∈ (List.range 64), (eaLane (vmem (loc 8) 4 0 id) 1 2 none i).toNat % 4 = 0 ∧
      isOwn (vmem (loc 8) 4 0 id) (eaLane (vmem (loc 8) 4 0 id) 1 2 none i) (8 + 4 * i) ∧ mine (vmem (loc 8) 4 0 id) (span (8 + 4 * i) 4)) ∧
    ((List.range 64).filter fun i => decide ((1 : BitVec 1) = 0) || (vget (vmem (loc 8) 4 0 id).me.mkr 0 0).getLsbD i) = [] := by
  unfold indexedOk elemOk isOwn mine; decide +kernel
theorem test_indexed : (let s := vmem (loc 8) 4 va fun c => { c with mkr := c.mkr.set 0 3 }
    let t := after (.vlds 0 1 1 2 1 1 1) s
    decide (latency t = 6) && lanesOk s 1 1 32 (vout t) fun i => if i = 0 then 0xFFFF8001 else 7) &&
    (let s := vmem (loc 16) 4 0x30200000001 fun c => { c with mkr := c.mkr.set 0 3 }
     decide (((after (.vsts 1 1 2 1 0 1) s).core 0).spad = [(8, 1), (9, 0x80), (12, 7), (16, 1), (20, 2), (21, 3)]) &&
     decide (((after (.vstx 1 1 59 0 0 1) s).core 0).spad = [(8, 1), (9, 0x80), (12, 7), (16, 2)])) &&
    (let s := vmem (loc 8) 4 0 id
     gives (.vlds 0 3 1 2 2 0 1) s (advance (s.landAcc false 0 3 0 6 0 none)) && gives (.vsts 1 1 2 2 0 1) s (advance s)) = true := by decide +kernel
theorem wit_indexedWindow : ∀ i ∈ List.range 64, (eaLane (vmem (win 2 8) 4 0 id) 1 2 none i).toNat % 4 = 0 ∧
    isWin (vmem (win 2 8) 4 0 id) (eaLane (vmem (win 2 8) 4 0 id) 1 2 none i) 2 (8 + 4 * i) ∧ mine (vmem (win 2 8) 4 0 id) (span (8 + 4 * i) 4) := by
  unfold isWin mine; decide +kernel
theorem test_indexedWindow : (let s := vmem (win 2 8) 4 0 fun c => { c with mkr := c.mkr.set 0 4 }
    gives (.vlds 0 3 1 2 2 0 1) s (advance ((({ s with uid := s.uid + 1 } : State).modMe fun c =>
        { c with wins := c.wins ++ [winRead s 2 ⟨[(2, 16)], 4, false, 32, 0⟩ none] }).landAcc true 0 3 0 (6 + distance 0 2) s.uid none)) &&
    gives (.vsts 1 1 2 2 0 1) s (advance (s.modMe fun c => { c with wins := c.wins ++
          [⟨s.me.clk + 2 + distance 0 2, .V, coreAt 0 2, 0, none, none, [(16, 0), (17, 0), (18, 0), (19, 0)], 0, s.histOf s.me 0 .V⟩] }))) = true := by decide +kernel
theorem wit_sends : (vmem 0 0 0 id).me.mode ≠ .timed ∧ ((vmem 0 0 0 fun c => { c with mode := .timed, arrive := [(10, 5)] }).me.arrive.filter fun p => p.1 = 10) = [(10, 5)] ∧
    ((vmem 0 0 0 fun c => { c with mode := .timed }).me.arrive.filter fun p => p.1 = 10).length ≠ 1 := by decide +kernel
theorem test_sends : (let s := vmem 0 0 9 fun c => { c with mode := .timed, arrive := [(10, 5)] }
    decide ((after (.vsend 1 0) s).me.arrive = [(10, 5), (14, 9)]) && decide (((after (.vsend 1 3) s).ctx (coreAt 0 3)).arrive = [(14 + distance 0 3, 9)]) &&
    decide (vout (after (.vrecv 0 3) s) = 5) && decide (latency (after (.vrecv 0 3) s) = 1) &&
    decide (cause (after (.vrecv 0 3) (vmem 0 0 0 fun c => { c with mode := .timed })) = some 6) &&
    decide (cause (after (.vsend 1 0) (vmem 0 0 0 id)) = some 1)) = true := by decide +kernel
theorem test_vacc : (let s := vmem 4 0 0 fun c => { c with vis := [(64, 7), (127, 9), (16320, 3)] }
    let t := after (.vacc 0 3 1) s
    decide (latency t = 4) && decide (lane (vout t) 32 0 = 7) && decide (lane (vout t) 32 63 = 9) &&
    decide (lane (vout (after (.vaccX 0 3 1 251) s)) 32 0 = 3)) = true := by decide +kernel
theorem test_vaw : (let s := vmem 0x123456789A 0 0 id
    decide ((after (.vaw 1 1 1) s).packets.map (fun k => (k.stack, k.sent)) = [(7, false)]) &&
    decide (cause (after (.vaw 1 1 1) (vmem (2 ^ 41) 0 0 id)) = some 0x0C)) = true := by decide +kernel

/-! Tiles. -/

/-- V of unit 0 with tile 2 configured as 16 × 8 of 32 bits and element (3, k) = k + 1 for k below 4, and v1 in lanes of 32 bits. -/
def tiled (x1 : Word) : State :=
  vmem x1 0 (vec 32 fun i => 100 + i) fun c =>
    let T := c.tiles.setCfg 2 0x88F7
    { c with tiles := [0, 1, 2, 3].foldl (fun (T : Tiles) k => T.put 2 3 k (k + 1)) T }
theorem wit_tiles : isStack 0 = false ∧ vBeyond (tiled 0).me 1 = false ∧ (vget (tiled 0).me.tiles.cfg 2 0).getLsbD 15 = true ∧
    (3 : BitVec 4).toNat < (vget (tiled 0).me.tiles.cfg 2 0).toNat / 16 % 16 + 1 ∧ 8 * 2 ^ ((vget (tiled 0).me.tiles.cfg 2 0).toNat / 1024 % 4) ≤ 32 ∧
    (vget (tiled 0).me.tiles.cfg 3 0).getLsbD 15 = false ∧ (vget (tiled 0).me.tiles.cfg 2 0).toNat % 16 + 1 ≤ (8 : BitVec 4).toNat := by decide +kernel
theorem test_tileRead : (let t := after (.vtrowr 0 3 2 3 1) (tiled 0)
    decide (latency t = 2) && ((List.range 64).all fun k => decide (lane (vout t) 32 k = if 16 ≤ k ∧ k < 20 then k - 15 else 0)) &&
    decide (lane (vout (after (.vtcol 0 3 2 2 0) (tiled 0))) 32 3 = 3) &&
    decide (cause (after (.vtrowr 0 3 3 0 0) (tiled 0)) = some 0x0A) && decide (cause (after (.vtcol 0 3 2 8 0) (tiled 0)) = some 0x0B) &&
    decide (cause (after (.vtcfg 2 0 0 3) (tiled 0)) = some 1)) = true := by decide +kernel
theorem test_tileWrite : ((after (.vtrow 1 2 5 1) (tiled 0)).me.endOps.map fun e => match e with
      | .tiles T _ => [T.get 2 5 0, T.get 2 5 7, T.get 2 5 8, T.get 2 3 1, T.dirty.toNat]
      | _ => []) = [[116, 123, 0, 2, 4]] ∧
    ((after (.vtcolw 1 2 6 0) (tiled 0)).me.endOps.map fun e => match e with
      | .tiles T _ => [T.get 2 0 6, T.get 2 15 6, T.get 2 3 1]
      | _ => []) = [[100, 115, 2]] ∧
    ((after (.vtcfg 2 15 7 1) (tiled 0)).me.endOps.map fun e => match e with
      | .tiles T m => [(vget T.cfg 2 0).toNat / 1024 % 4, (vget T.cfg 2 0).toNat % 256, T.get 2 3 1, m.toNat]
      | _ => []) = [[1, 0xF7, 0, 4]] ∧
    ((after (.vtrel 2) (tiled 0)).me.endOps.map fun e => match e with
      | .tiles T _ => [(vget T.cfg 2 0).toNat / 2 ^ 15]
      | _ => []) = [[0]] := by decide +kernel
theorem wit_tileMemory : (loc 0x400).toNat % 1024 = 0 ∧ isOwn (tiled (loc 0x400)) (xLag (tiled (loc 0x400)).me 1) 0x400 ∧
    owns 0 (tiled 0).me (0x400 + 1024 * 8 - 1) = true ∧
    ((List.range 8).filter fun n => (0xFF : BitVec 8).getLsbD n).filter (fun n => (vget (tiled 0).me.tiles.cfg n 0).getLsbD 15 && (tiled 0).me.tiles.dirty.getLsbD n) = [] := by
  unfold isOwn; decide +kernel
/-- The same with tile 2 dirty. -/
def dirty : State := (tiled (loc 0x400)).modMe fun c => { c with tiles := c.tiles.mark 2 true }
theorem test_tileMemory : (let t := after (.vtsave 0xFF 1) dirty
    decide (t.mySeq.nextAt = 10 + 5) && decide (t.verdict = .issued) &&
    gives (.vtsave 0xFF 1) (tiled (loc 0x400)) (advance (tiled (loc 0x400))) && gives (.vtload 0 1) dirty (advance dirty) &&
    decide ((after (.vtload 4 1) dirty).mySeq.nextAt = 15)) = true := by decide +kernel

/-! M and C. -/

/-- M or C of unit 0 with a0 = g0 = a, a1 = g1 = b. -/
def mc (q : SeqId) (a b : Word) (f : Ctx → Ctx) : State :=
  one 0 q fun c => f { c with a := (c.a.set 0 a).set 1 b, g := (c.g.set 0 a).set 1 b, x2 := c.x2.set 3 77 }
theorem test_mc : (table83.all fun e => [(5, 66), ((-7 : Word), 3)].all fun (p : Word × Word) =>
    gives (e.1 2 0 1) (mc .M p.1 p.2 id) (mcGives (mc .M p.1 p.2 id) 2 (e.2.2 p.1 p.2)) &&
    gives (e.2.1 2 0 1) (mc .C p.1 p.2 id) (mcGives (mc .C p.1 p.2 id) 2 (e.2.2 p.1 p.2))) = true := by decide +kernel
theorem test_mcImm : entry (after (.maddi 1 1 0x1FFFF) (mc .M 0 9 id)) = some (1, 8, 1) ∧ entry (after (.caddi 1 1 64) (mc .C 0 9 id)) = some (1, 73, 1) ∧
    entry (after (.mmovi 1 0x1FFFE) (mc .M 0 9 id)) = some (1, 2 ^ 64 - 2, 1) ∧ entry (after (.cmovi 1 5) (mc .C 0 9 id)) = some (1, 5, 1) ∧
    entry (after (.mmovx 2 3) (mc .M 0 9 id)) = some (2, 77, 1) ∧ entry (after (.cmovx 2 3) (mc .C 0 9 id)) = some (2, 77, 1) ∧
    entry (after (.mmovk 1 1 0xABCD) (mc .M 0 9 id)) = some (1, 0xABCD0009, 1) ∧ entry (after (.cmovk 1 0 0xABCD) (mc .C 0 9 id)) = some (1, 0xABCD, 1) := by
  decide +kernel
/-- The command of the worked example of chapter 8: K = 2, E4M3 by VQ2, with the four scales of B. -/
def example8 (f : Ctx → Ctx) : State :=
  { one 0 .M fun c => f { c with
      a := (((c.a.set 0 (loc 0x1000)).set 1 0x200000000).set 2 (loc 0x2000)).set 3 0x8000000000
      lct := c.lct.set 1 (BitVec.ofNat 8192 (4 * 2 ^ 160)), fq := [(0xAE400000, 8)], sq := [(0x0400, 0), (0x03F8, 0), (0x03F0, 0), (0, 0)] } with now := 1 }
theorem wit_mma : arrayRoom (example8 id) false ∧ noFollowOn (example8 id) 0 8 ∧ vget (example8 id).me.slots 3 .empty = .empty ∧
    (example8 id).me.fqHead = some 0xAE400000 ∧ fwOk 0xAE400000 14 = true ∧ fwOk 0xAE400000 13 = false ∧ (mc .M 0 0 id).me.fqHead = none ∧
    (match (example8 id).tileChk 0 0 1 14 2 with | .ok _ 4 => true | _ => false) = true ∧
    (match (example8 id).tileChk 0 0 1 15 2 with | .ok _ 4 => true | _ => false) = true ∧
    (match (example8 id).me.takeScales 1 4 with | .take l c => decide (l.length = 4) && c.sq.isEmpty | _ => false) = true := by
  unfold arrayRoom noFollowOn; decide +kernel
theorem wit_tileFine : tileFine (example8 id) 0 0 1 14 2 0xAE400000 ∧ tileFine (example8 id) 0 0 1 15 2 0xAE400000 ∧
    fetches (example8 id) 0 1 = false ∧ arrayRoom (example8 id) (fetches (example8 id) 0 1) := by
  unfold tileFine wordLegal shapeFine arrayRoom; refine ⟨⟨?_, ?_, ?_, ?_⟩, ⟨?_, ?_, ?_, ?_⟩, ?_, ?_⟩ <;> decide +kernel
theorem test_tileIssues : ∀ cmd ∈ (after (.mma 0 0 1 0xE 2) (example8 id)).me.cmds, isTile (example8 id) 0 0 1 2 0xAE400000 false cmd ∧
    gives (.mma 0 0 1 0xE 2) (example8 id) (advance ((poppedTile (example8 id) 4).issueCmd 0 1 cmd)) = true := by
  unfold isTile; decide +kernel
/-- Operands that fail a check, in the order of R203. -/
theorem wit_tileCauses : ¬ wordLegal 0xAE400000 13 ∧ ¬ shapeFine (example8 id) 0 0 1 0 0xAE400000 ∧ ¬ shapeFine (example8 id) 1 0 1 2 0xAE400000 ∧
    (opGeo (example8 fun c => { c with a := c.a.set 0 (loc 0x1001) }) true 0 2 0xAE400000).base.toNat % 64 ≠ 0 ∧
    (opGeo (example8 fun c => { c with a := c.a.set 2 (loc 0x180000) }) false 1 2 0xAE400000).place 0 (example8 id).me = none := by
  unfold wordLegal shapeFine; decide +kernel
theorem test_tileCauses : cause (after (.mma 0 0 1 0xE 2) (example8 fun c => { c with a := (c.a.set 0 (loc 0x1001)).set 2 (loc 0x180000) })) = some 3 ∧
    cause (after (.mstage 0 0 1 3 2) (example8 fun c => { c with a := c.a.set 2 (loc 0x180000) })) = some 4 ∧
    cause (after (.mma 1 0 1 0xE 2) (example8 id)) = some 0x0B := by decide +kernel
theorem test_mma : (after (.mma 0 0 1 0xE 2) (example8 id)).me.cmds.map (fun k => (k.k, k.region, k.scales, k.follow)) =
      [(2, 0, [0x0400, 0x03F8, 0x03F0, 0], false)] ∧ (after (.mma 0 0 1 0xE 2) (example8 id)).me.fq = [] ∧
    vget (after (.mstage 0 0 1 3 2) (example8 id)).me.slots 3 .empty ≠ .empty ∧
    cause (after (.mma 0 0 1 0xE 2) (mc .M 0 0 id)) = some 7 ∧ cause (after (.mma 0 0 1 0xD 2) (example8 id)) = some 1 ∧
    cause (after (.mma 0 0 1 0xE 0) (example8 id)) = some 0x0B := by decide +kernel
theorem wit_mzero : (mc .M 0 0 id).me.waiting.length < 4 ∧ (0 : BitVec 3).toNat + (7 : BitVec 3).toNat + 1 ≤ 8 ∧
    8 < (1 : BitVec 3).toNat + (7 : BitVec 3).toNat + 1 ∧ noFollowOn (mc .M 0 0 id) 0 8 := by unfold noFollowOn; decide +kernel
theorem test_mzero_mswap : (after (.mzero 0 7) (mc .M 0 0 id)).me.cmds.map (fun k => (k.zero, k.region)) = [(some 8, 0)] ∧
    cause (after (.mzero 1 7) (mc .M 0 0 id)) = some 0x0B ∧ (after .mswap (mc .M 0 0 id)).me.mswap = some [] ∧
    (mc .M 0 0 fun c => { c with work := [(5, 6)] }).me.exchange.vis = [(5, 6)] := by decide +kernel

/-! Channel commands. -/

/-- C of unit 0 with g0 to g5 set and a byte barrier at offset 8. -/
def cst (p q r n : Word) : State :=
  one 0 .C fun c => { c with
    group := 3, g := (((((c.g.set 0 p).set 1 q).set 2 r).set 3 n).set 4 (loc 8)).set 5 (loc 0x40)
    rwin := (c.rwin.set 6 0x8000000000000001).set 8 0x1000 }
/-- The rows of the channel commands that name g0 to g5. -/
noncomputable def crows (s : State) : List CopyRow := copyRows 1 0 1 2 3 4 1 0 1 0 2 1 1 37 (loc 0x40) 1 0xF s
/-- Row k of them. -/
noncomputable def crow (k : Nat) (s : State) : CopyRow := ((crows s)[k]?).getD ⟨.nop, True, .cwb 0, none, none, false⟩
/-- Row k's command enters its channel. -/
def Enters (k : Nat) (s : State) : Prop :=
  exec (crow k s).i s = .next (advance (s.enqueue 1 (crow k s).op (crow k s).bb (crow k s).slot (crow k s).empty))
/-- A state with round 0 of bucket 0 published. -/
def withVersion : State := let s := cst (loc 0x2000) 0 0 64; s.setDie 0 { s.die 0 with buckets := [(0, { Bucket.fresh with vers := [0] })] }
theorem test_cpy : Enters 0 (cst (loc 0x2000) (loc 0x1000) 0 64) := by rfl
theorem test_cpya : Enters 1 (cst (loc 0x2000) 16 0 64) := by rfl
theorem test_cgath : Enters 2 (cst (loc 0x2000) (loc 0x1000) (loc 0x3000) 4) := by rfl
theorem test_cscat : Enters 3 (cst (loc 0x2000) (loc 0x1000) (loc 0x3000) 4) := by rfl
theorem test_cscl : Enters 4 (cst 0 0 0 0) := by rfl
theorem test_cldlct : Enters 5 (cst 0 0 0 0) := by rfl
theorem test_cldalg : Enters 6 (cst 0 0 0 0) := by rfl
theorem test_caw : Enters 7 (cst (loc 0x1000) 0 0 4) := by rfl
theorem test_cver : Enters 8 withVersion := by rfl
theorem test_cmapR : Enters 9 (cst 0 (loc 0x1000) 0x10000 1) := by rfl
theorem test_cmapW : Enters 10 (cst 0 (loc 0x1000) 0x10000 1) := by rfl
theorem test_cwb : Enters 11 (cst 0 0 0 0) := by rfl
theorem test_cput : Enters 12 (cst (loc 0x1000) 0 0 64) := by rfl
theorem test_cget : Enters 13 (cst (loc 0x1000) 0 0 64) := by rfl
theorem test_cbcast : Enters 14 (cst 0x10000 (loc 0x1000) 0 64) := by rfl
theorem test_csendT : Enters 15 (cst (loc 0x1000) 0 1 64) := by rfl
theorem test_tready : Enters 16 (cst 1023 0 0 0) := by rfl
theorem test_cbbarm : Enters 17 (cst 0 0 0 1) := by rfl
theorem test_cbbadd : Enters 18 (cst 0 0 0 1) := by rfl
theorem test_cbbwait : Enters 19 (cst 0 0 0 0) := by rfl
theorem wit_copyFields : bbFine (cst 0 0 0 0) 1 4 0 ∧ bbFine (cst 0 0 0 0) 1 4 4 ∧ bbFine (cst 0 0 0 0) 0 0 4 ∧ raIs (cst 0 0 0 0) 37 (loc 0x40) ∧
    raIs (cst 0 0 0 0) 31 0 ∧ winFine (cst 0 0 0 0) 2 0 0x1000 ∧ spanIs (cst 0 0 0 0) .own (loc 0x1000) 4096 ∧
    spanIs (cst 0 0 0 0) .glob 0x10000 64 ∧ spanIs (cst 0 0 0 0) .loc (loc 0x1000) 64 ∧ (cst 0 0 0 0).mapMeets 0 0x1000 1 = false ∧
    (0 : Nat) ∈ (mget Bucket.fresh (withVersion.die 0).buckets 0).vers ∧ (cst 0 0 0 0).peer 4 = 0 := by
  unfold bbFine raIs winFine spanIs; decide +kernel
theorem wit_slotFine : slotFine (cst 0 0 0 0) 0 0 := .inl ⟨rfl, rfl⟩
theorem wit_channelRoom : (vget (cst 0 0 0 0).me.chans 3 ⟨[], 0⟩).cmds.length < 16 := by decide +kernel
theorem wit_ctens : (cst (loc 0x40) 0 0 0).me.rcache.find? (fun p => p.1 = loc 0x40) = none ∧ (loc 0x40).toNat % 64 = 0 ∧
    spanIs (cst (loc 0x40) 0 0 0) .any (loc 0x40) 192 := by unfold spanIs; decide +kernel
theorem test_ctens : exec (.ctens 1 0 4 1 0 0) (cst (loc 0x40) 0 0 0) =
    .next (advance ((cst (loc 0x40) 0 0 0).enqueue 1 (.ctens (loc 0x40) none) (some (loc 8)) none false)) := by rfl
theorem test_rcfence : exec .rcfence (cst 0 0 0 0) = .next (advance ((cst 0 0 0 0).atEnd .dropRecords)) := by rfl
theorem wit_copyChecks : ¬ ((0 : BitVec 1) = 0 → (4 : BitVec 4) = 0) ∧ 2 ^ 32 ≤ (gReg (cst 0 0 0 (2 ^ 32)) 3).toNat ∧
    (gReg (cst 2 0 0 4) 0).toNat % 4 ≠ 0 ∧ ¬ spanIs (cst (loc 0x180000) 0 0 4) .any (loc 0x180000) 4 ∧
    (vget (cst 0 0 0 4).me.slots 0 .empty = .empty) := by unfold spanIs; decide +kernel
theorem test_copyChecks : cause (after (.cpy 1 0 1 3 4 0 0 0) (cst 0 0 0 4)) = some 1 ∧ cause (after (.cpy 1 0 1 3 0 0 0 0) (cst 0 0 0 (2 ^ 32))) = some 0x0B ∧
    cause (after (.cpy 1 0 1 3 0 0 0 0) (cst 2 0 0 4)) = some 3 ∧ cause (after (.cpy 1 0 1 3 0 0 0 0) (cst (loc 0x180000) 0 0 4)) = some 4 ∧
    cause (after (.cpy 1 0 1 3 0 0 1 0) (cst (loc 0x1000) (loc 0x1000) 0 4)) = some 8 := by decide +kernel

/-! Stack cores. -/

/-- Sequencer q of stack core 384 with x1 = 5: bucket 5 of INT32 with 64 elements of one contributor in state st, job 0 valid at round 0,
and the stack's first page list entry; f changes the core. -/
def stack (q : SeqId) (st : Nat) (f : Core → Core) : State :=
  let s := one 384 q fun c => { c with mode := .stack, x := c.x.set 1 5, wdogPer := 9, vr := c.vr.set 1 (vec 32 fun _ => 0x3FC00000) }
  (((s.setReg (0x2000000 + 32 * 5) 0x200040).setReg (0x2000000 + 32 * 5 + 8) (BitVec.ofNat 64 (st * 2 ^ 61 + 2 ^ 48 + 3 * 2 ^ 32))).setReg
    0x2020000 0x8000000000000000).setReg 0x2030000 0xA000000000000000 |>.modCore 384 f
/-- BKCUR names bucket 5 of job 0 in round 0. -/
def inHand (k : Core) : Core := { k with bkcur := 0x8000000500000000 }
theorem wit_stack : isStack (stack .S 0 id).turn.u = true ∧ stackBucket (stack .S 0 id) ((stack .S 0 id).rdS 1) 0 5 ∧ sSrcOk [1] = true ∧
    (stack .S 0 id).openCheck 0 5 = none ∧ (stack .S 1 id).openCheck 0 5 = some 1 ∧ (stack .S 3 id).bState 0 5 = 3 ∧
    isStack (plain .S).turn.u = false ∧ 4096 ≤ ((stk 4096).rdS 1).toNat := by unfold stackBucket; decide +kernel
theorem test_stackPrivilege : ([Instr.bkwait 1, .bkopen 1, .bkclose 1, .pub, .hold 1, .release 1, .chadd 1, .vsrnd 0 1 1 9 0 0].all fun e =>
    gives e (plain .S) (illegal (plain .S))) = true := by decide +kernel
theorem test_buckets : (after (.bkopen 1) (stack .S 0 id)).bState 0 5 = 1 ∧ cause (after (.bkopen 1) (stack .S 1 id)) = some 0x0C ∧
    (after (.bkclose 1) (stack .S 2 id)).bState 0 5 = 0 ∧ cause (after (.bkclose 1) (stack .S 3 id)) = some 0x0C ∧
    causeAt (after (.bkopen 1) (stk 4096)) = some (0x0C, 4096) := by decide +kernel
/-- Bucket 5 stands COMPLETE in the queue; the handlers' table is at 0x1000. -/
def complete : State :=
  let s := stack .S 2 fun k => { k with spbase := 0x1000 }
  s.setDie 0 { s.die 0 with cq := [(7, 5)] }
theorem wit_bkwait : dstOk 0 10 = true ∧ (complete.core 384).bkcur.getLsbD 63 = false ∧ (complete.die 0).cq = [(7, 5)] ∧ complete.bNv 0 5 = 0 ∧
    targetOk (0x1000 + BitVec.ofNat 64 (4 * ((complete.desc 0 5 1).toNat / 2 ^ 32 % 2 ^ 16))) ∧ ((stack .S 0 id).die 0).cq = [] ∧
    ((stack .S 0 inHand).core 384).bkcur.getLsbD 63 = true := by unfold targetOk; decide +kernel
theorem test_bkwait : (let t := after (.bkwait 10) complete
    decide (t.mySeq.pc = 0x100C) && decide (t.bState 0 5 = 3) && decide ((t.die 0).cq = []) && decide ((t.core 384).bkcur = 0x8000000500000000) &&
    decide (entry t = some (10, 0x8000000500000000, 2)) && decide (cause (after (.bkwait 10) (stack .S 0 inHand)) = some 0x0C) &&
    decide ((after (.bkwait 10) (stack .S 0 id)).verdict = .stalled frzNone) && decide ((after (.bkwait 10) (stack .S 0 id)).me.wdogLeft = 9)) = true := by
  decide +kernel
theorem wit_rows : (match (stack .S 0 id).xlateList 0 5 1 with | .ok _ _ => true | _ => false) = true ∧
    (match (stack .S 0 id).xlateList 0 (2 ^ 42) 1 with | .deny => true | _ => false) = true ∧ (0 : Nat) ∉ ((stack .S 0 id).core 384).rows ∧
    (stack .S 0 id).rowHeld 384 5 1 = false ∧ ((stack .S 0 id).modCore 385 fun k => { k with rows := [0] }).rowHeld 384 5 1 = true ∧
    4 ≤ ((stack .S 0 fun k => { k with rows := [1, 2, 3, 4] }).core 384).rows.length := by decide +kernel
theorem test_rows : ((after (.hold 1) (stack .S 0 id)).core 384).rows = [0] ∧ ((after (.release 1) (stack .S 0 fun k => { k with rows := [0, 3] })).core 384).rows = [3] ∧
    cause (after (.hold 1) (stack .S 0 fun k => { k with rows := [1, 2, 3, 4] })) = some 4 ∧
    (after (.hold 1) ((stack .S 0 id).modCore 385 fun k => { k with rows := [0] })).verdict = .stalled frzNone := by decide +kernel
theorem wit_pub : (stack .S 3 inHand).stackQuiet 384 = true ∧ ((stack .S 3 inHand).core 384).bkcur.getLsbD 63 = true ∧
    ((stack .S 3 inHand).bucket 0 5).next = [] ∧ (stack .V 3 inHand).pubNow 384 = false ∧ vBeyond (stack .V 3 inHand).me 1 = false ∧
    ((stack .S 3 id).core 384).bkcur.getLsbD 63 = false := by decide +kernel
theorem test_pub : (after .pub (stack .S 3 inHand)).bState 0 5 = 1 ∧ (after .pub (stack .S 3 inHand)).bRound 0 5 = 1 ∧
    ((after .pub (stack .S 3 inHand)).core 384).bkcur = 0x500000000 ∧ cause (after .pub (stack .S 3 id)) = some 0x0C ∧
    mget 0 ((after (.chadd 1) (stack .V 3 inHand)).die 0).chain 5 = 0x3FC00000 ∧ cause (after (.chadd 1) (stack .V 3 id)) = some 0x0C := by decide +kernel
theorem wit_vsrnd : vOk (stack .V 3 inHand) 0 3 [1] ∧ (xLag (stack .V 3 inHand).me 7).toNat + 63 ≤ 4095 ∧ (1 : BitVec 2).toNat ≤ 1 := by
  unfold vOk; decide +kernel
/-- R353: 1.5 is a BF16 number, so no draw moves it. -/
theorem test_vsrnd : (let t := after (.vsrnd 0 3 1 9 1 7) (stack .V 3 inHand)
    decide (latency t = 6) && decide (lane (vout t) 16 63 = 0) && decide (lane (vout t) 16 64 = 0x3FC0) && decide (lane (vout t) 16 127 = 0x3FC0) &&
    decide (lane (vout (after (.vsrnd 0 3 1 12 0 7) (stack .V 3 inHand))) 8 64 = 119) &&
    decide (cause (after (.vsrnd 0 3 1 12 0 7) (stack .V 3 id)) = some 0x0C)) = true := by decide +kernel

/-! Events of a core. -/

/-- An answered load of unit 0 as access 7, and S's ring entry that waits for it. -/
def answered7 (op : OutOp) (deny : Option CauseArgs) : State :=
  { one 0 .S fun c => { c with s := { c.s with ring := [waits 7, waits 8] } } with
    outs := [⟨7, 0, .S, 1, 0, 0, 0x1000, op, .answered, 0, [0xFE, 0xFF], false, deny, ⟨[], 0⟩⟩] }
theorem wit_data : ((answered7 (.load 2 true) none).out 7).isSome = true ∧
    dataOf ⟨7, 0, .S, 1, 0, 0, 0x1000, .load 2 true, .answered, 0, [0xFE, 0xFF], false, none, ⟨[], 0⟩⟩ (wide (extend 2 true 0xFFFE)) ∧
    ((answered7 (.load 2 true) none).ctx 0).lid = 1 := by
  unfold dataOf; exact ⟨by decide +kernel, .inl ⟨2, true, rfl, by rfl⟩, by decide +kernel⟩
theorem test_data : (let t := after (.loadDataArrival 7) (answered7 (.load 2 true) none)
    decide (t.outs = []) && decide ((t.ctx 0).s.ring.map (fun l => (l.wait, l.val.toNat, l.acc)) = [(false, 2 ^ 64 - 2, 0), (true, 0, 8)])) = true := by
  decide +kernel
theorem wit_denial : ((answered7 (.load 2 true) (some ⟨4, 0, 0, 0x1000, 0⟩)).ctx 0).s.run = true ∧
    (answered7 (.load 2 true) (some ⟨4, 0, 0, 0x1000, 0⟩)).outs.length = 1 := by decide +kernel
theorem test_denial : (let t := after (.denialArrival 0 .S ⟨4, 0, 0, 0x1000, 0⟩) (answered7 (.load 2 true) (some ⟨4, 0, 0, 0x1000, 0⟩))
    decide (t.outs = []) && decide ((t.ctx 0).s.deliver = [⟨4, 0, 0, 0x1000, 0⟩]) && decide ((t.ctx 0).s.ring.map (fun l => (l.wait, l.v)) = [(false, false), (true, true)]) &&
    decide (((after (.denialArrival 0 .S ⟨4, 0, 0, 0x1000, 0⟩) (plain .S)).ctx 0).s.deliver = [⟨4, 0, 0, 0x1000, 0⟩])) = true := by decide +kernel
/-- A denied line of an operand that array command 3 awaits. -/
def deniedLine : State :=
  let s := answered7 (.operand 3) (some ⟨4, 0, 0, 0x1000, 0⟩)
  s.modCtx 0 fun c => { c with m := { Seq.zero with run := true }, mswap := some [3, 4] }
theorem wit_deniedLine : (deniedLine.outs.map (·.op)) = [.operand 3] ∧ ((deniedLine.ctx 0).seq .M).run = true ∧ (deniedLine.ctx 0).s.run = true := by decide +kernel
/-- R217: the cause is M's, and an mswap that waits no longer waits for the command. -/
theorem test_deniedLine : (let t := after (.denialArrival 0 .S ⟨4, 0, 0, 0x1000, 0⟩) deniedLine
    decide (t.outs = []) && decide ((t.ctx 0).m.deliver = [⟨4, 0, 0, 0x1000, 0⟩]) && decide ((t.ctx 0).mswap = some [4])) = true := by decide +kernel
theorem test_stallRelease : ((after (.stallRelease 0) (one 0 .S fun c => { c with s := { c.s with stalled := true } })).ctx 0).s.stalled = false := by decide +kernel
/-- A timed unit 0 that runs V, with these arrivals. -/
def arrived (l : List (Nat × Wide)) : State := one 0 .V fun c => { c with mode := .timed, arrive := l, v := { Seq.zero with run := true, nextAt := 11 } }
/-- The same with V's instruction at hand: a vrecv. -/
def receiving : State := { arrived [(10, 5)] with
  cores := (arrived [(10, 5)]).cores.map fun p => (p.1, { p.2 with ctx := { p.2.ctx with v := { p.2.ctx.v with nextAt := 10 } } })
  tlb := [⟨false, 0, 0, 0, 0x0600000000050000⟩], mem := [(0x50003, 0xC2)] }
theorem wit_received : (receiving.runs 0 = true ∧ (receiving.ctx 0).v.run = true ∧ (receiving.ctx 0).v.nextAt ≤ (receiving.ctx 0).clk) ∧
    receiving.fetch 0 0 = .word 0xC2000000 ∧ (0xC2000000 : BitVec 32).toNat / 2 ^ 25 = 0x61 ∧ ({ receiving with tlb := [] } : State).fetch 0 0 = .wait := by
  decide +kernel
theorem test_received : (gives (.vsendArrival 0) receiving receiving &&
    gives (.vsendArrival 0) { receiving with tlb := [] } { receiving with tlb := [] }) = true := by decide +kernel
theorem wit_sent : (arrived [(10, 5)]).runs 0 = true ∧ ((arrived [(10, 5)]).ctx 0).v.run = true ∧ (((arrived [(10, 5)]).ctx 0).arrive.filter fun p => decide (p.1 = 10)).length = 1 := by
  decide +kernel
theorem test_sent : (let t := after (.vsendArrival 0) (arrived [(10, 5), (12, 6)])
    decide ((t.ctx 0).arrive = [(12, 6)]) && decide ((t.ctx 0).v.deliver = [⟨6, 0, 0, 0, 10⟩])) = true := by decide +kernel
/-- A window access of unit 0 to unit 5 that is due. -/
def winState (w : WinAcc) : State := one 0 .S fun c => { c with wins := [w], s := { c.s with ring := [waits 9] } }
def winStore : WinAcc := ⟨10, .S, 5, 0, none, none, [(8, 0xAB)], 0, (plain .S).histOf (plain .S).me 0 .S⟩
def winLoad : WinAcc := ⟨10, .S, 5, 9, some ⟨[(0, 8)], 2, false, 64, 0⟩, none, [], 0, (plain .S).histOf (plain .S).me 0 .S⟩
def winAmo : WinAcc := { winLoad with amo := some (0, 5, 0, 1) }
theorem wit_window : (winState winStore).runs 0 = true ∧ (((winState winStore).ctx 0).wins.filter fun x => decide (x.due ≤ 10)) = [winStore] ∧
    ((asTurn (winState winStore) 0 .S).touch 5 [8]).1 = true ∧ (winState winStore).padSealed 5 = false ∧
    ((asTurn (winState winStore) 0 .S).access ((asTurn (winState winStore) 0 .S).accAt 0 .S winStore.hb) 1 false (lineKeys (spadKeyBase 5) [8])).1 = none := by
  decide +kernel
theorem test_window : ((after (.windowAccess 0) (winState winStore)).core 5).spad = [(8, 0xAB)] ∧ ((after (.windowAccess 0) (winState winStore)).ctx 0).wins = [] ∧
    (((after (.windowAccess 0) ((winState winLoad).modCore 5 fun k => { k with spad := [(8, 3), (9, 1)] })).ctx 0).s.ring.map fun l => l.val.toNat) = [0x103] ∧
    ((after (.windowAccess 0) ((winState winAmo).modCore 5 fun k => { k with spad := [(8, 3), (9, 1)] })).core 5).spad = [(8, 8), (9, 1)] := by decide +kernel
/-- The window load of a byte barrier's line; a launch that replays a log whose next record is its input of that cycle. -/
def countLoad : State := { winState winLoad with bbs := [(5 * 2 ^ 21 + 8, default)] }
def replaying : State :=
  { (countLoad.setReg (rrctlOff 0) 0x100001) with
    launches := [running 1], misc := { countLoad.misc with replay := [1] }
    mem := Mem.wrL [] (atAddr 0x100000 (wordBytes [0xA000000000000000, 10, 77, 0])) }
theorem wit_counted : countLoad.bbLine 5 (winOffs winLoad) = true ∧ (winState winLoad).bbLine 5 (winOffs winLoad) = false ∧
    countLoad.isReplay 0 = false ∧ replaying.bbLine 5 (winOffs winLoad) = true ∧ replaying.isReplay 0 = true ∧
    replaying.nextRec 0 .S = some (10, 10, 0x100000, 32) := by decide +kernel
theorem test_counted : ((after (.windowAccess 0) countLoad).ctx 0).s.ring.map (fun l => (l.wait, l.val.toNat)) = [(false, 0)] ∧
    ((after (.windowAccess 0) replaying).ctx 0).s.ring.map (fun l => (l.wait, l.val.toNat)) = [(false, 77)] := by decide +kernel
def multi : McWrite := ⟨10, .S, 3, [(4, 7)], 0, (plain .S).histOf (plain .S).me 0 .S⟩
theorem wit_multicast : ((one 0 .S fun c => { c with mcast := [multi] }).runs 0) = true ∧ multi.targets 0 = [coreAt 0 0, coreAt 0 1] ∧
    (∀ j ∈ multi.targets 0, ((asTurn (one 0 .S fun c => { c with mcast := [multi] }) 0 .S).touch j [4]).1 = true) := by decide +kernel
theorem test_multicast : (let t := after (.multicastWrite 0) (one 0 .S fun c => { c with mcast := [multi] })
    decide ((t.core (coreAt 0 0)).spad = [(4, 7)]) && decide ((t.core (coreAt 0 1)).spad = [(4, 7)]) && decide ((t.core (coreAt 0 2)).spad = []) &&
    decide ((t.ctx 0).mcast = [])) = true := by decide +kernel
/-- The worked command of chapter 8 after its issue on cycle 10, on cycle 11, with its bytes of A and B. -/
noncomputable def issued8 : State := ((after (.mma 0 0 1 0xE 2) (example8 id)).modCtx 0 fun c => { c with clk := 11 }).modCore 0 fun k =>
  { k with spad := [(0x1000, 0x38), (0x1001, 0x40), (0x2001, 5), (0x2020, 1), (0x2021, 5)] }
/-- mzero of region 0, issued on cycle 10. -/
noncomputable def zeroing (clk : Nat) : State := ((after (.mzero 0 0) (mc .M 0 0 fun c => { c with work := [(5, 6)], vis := [(5, 9)] }))).modCtx 0 fun c => { c with clk := clk }
theorem wit_array : (issued8.ctx 0).cmds.map (fun k => (k.id, k.need, (issued8.ctx 0).startDue 0 k, (k.spadReads 0).all fun r => ((asTurn issued8 0 .M).touch r.1 r.2).1)) =
    [(1, [], true, true)] ∧ issued8.runs 0 = true ∧
    ((after (.matrixCommandStart 0 1) (zeroing 11)).modCtx 0 fun c => { c with clk := 11 + 16 }).runs 0 = true := by decide +kernel
/-- The operands of the worked example: A(0,0) = 1.0, A(0,1) = 2.0, B(0,0) = 2.0, B(1,0) = -0.5. -/
theorem test_operands : ((after (.matrixCommandStart 0 1) issued8).ctx 0).cmds.map (fun k => (k.started, k.quies,
      [(k.opA.getD 0 []).getD 0 .nan, (k.opA.getD 0 []).getD 1 .nan, (k.opB.getD 0 []).getD 0 .nan, (k.opB.getD 1 []).getD 0 .nan, (k.opB.getD 1 []).getD 1 .nan].map
        fun x => roundF x .fp32 .rne 0)) = [(some 11, 11 + 1 + 13, [0x3F800000, 0x40000000, 0x40000000, 0xBF000000, 0])] := by decide +kernel
theorem wit_quiescence : ((after (.matrixCommandStart 0 1) (zeroing 11)).ctx 0).cmds.map (fun k => (k.id, k.ends (11 + 13 + 16))) = [(1, true)] := by decide +kernel
/-- An mzero of region 0 whose last cycle this is, beside an mswap that waits for these commands. -/
def swapWaits (l : List Nat) : State := mc .M 0 0 fun c => { c with
  clk := 40, work := [(5, 6)], vis := [(5, 9)], mswap := some l
  cmds := [⟨1, 0, some 1, 0, 0, 0, ⟨0, 0⟩, ⟨0, 0⟩, [], 0, 0, 10, false, 16, 0, some 11, 40, false, [], [], [], [], false, ⟨[], 0⟩⟩] }
theorem wit_swapWaits : ((swapWaits [9]).ctx 0).cmds.map (fun k => (k.id, k.ends 40)) = [(1, true)] ∧ (swapWaits [9]).runs 0 = true := by decide +kernel
/-- A command that an mswap does not wait for stays behind it (R221); the bank it writes is the working one after the exchange. -/
theorem test_swapWaits : ((after (.quiescence 0 1) (swapWaits [9])).ctx 0).cmds.length = 1 ∧
    ((after (.quiescence 0 1) (swapWaits [1])).ctx 0).mswap = some [] ∧
    ((after (.quiescence 0 1) (swapWaits [])).ctx 0).vis = [(5, 6)] := by decide +kernel
/-- The result of the worked example: C(0,0) = 1.0. -/
theorem test_example8 : cellOf algReal false false (kGroup 10 14) [[.fin 1 0], [.fin 1 1]] [[.fin 1 1], [.fin (-1) (-1)]] [0] = [0x3F800000] := by decide +kernel

/-! Copies and packets. -/

/-- A command of channel 1 with identity 5. -/
def ccmd (op : COp) : CCmd := ⟨5, 1, 0, op, none, none, 0, 0, 0, [], 0, [], 0, none, none, ⟨[], 0⟩, false, []⟩
/-- Unit 0 with this command at the head of channel 1. -/
def copying (k : CCmd) : State :=
  (one 0 .C fun c => { c with chans := c.chans.set 1 ⟨[k], 0⟩, copies := [5], c := { c.c with run := true } }).modCore 0 fun k => { k with spad := [(0x1000, 7)] }
def cpyCmd : CCmd := ccmd (.cpy (loc 0x2000) (loc 0x1000) 8192)
/-- Unit 0 whose path has no room before cycle t. -/
def noRoom (t : Nat) : State := (copying cpyCmd).modCtx 0 fun c => { c with roomAt := t }
theorem wit_chunkStart : (asTurn (copying cpyCmd) 0 .C).chunkReady 0 cpyCmd = true ∧ ((copying cpyCmd).core 0).swap.isSome = false ∧
    (((copying cpyCmd).ctx 0).rrCh + 1 + 1) % 4 = 1 ∧ ((vget ((copying cpyCmd).ctx 0).chans 0 ⟨[], 0⟩).cmds.head? = none) ∧
    ((copying cpyCmd).ctx 0).roomAt ≤ (copying cpyCmd).now ∧ (noRoom 9).now < ((noRoom 9).ctx 0).roomAt ∧ cpyCmd.flights = [] ∧
    (match (asTurn (copying cpyCmd) 0 .C).admAll 0 cpyCmd [(false, loc 0x1000, 4096), (true, loc 0x2000, 4096)] with
      | (.ok, s1) => decide ((s1.readRaces 0 cpyCmd 0 [(loc 0x1000, 4096)]).1 = none) | _ => false) = true := by decide +kernel
/-- Whether the head command of channel 1 of unit 0 takes a turn. -/
def takes (k : CCmd) : Bool := match (asTurn (copying k) 0 .C).startHead 0 k with | .took _ => true | _ => false
theorem wit_chunkTurn : takes cpyCmd = true ∧ takes { cpyCmd with begun := true } = true ∧
    (asTurn (copying { cpyCmd with begun := true }) 0 .C).chunkReady 0 { cpyCmd with begun := true } = true ∧
    (∀ j, j < 4 → j ≠ 1 → (vget ((copying cpyCmd).ctx 0).chans j ⟨[], 0⟩).cmds.head? = none) ∧
    (asTurn (plain .C) 0 .C).fires = [] ∧ (asTurn (copying { cpyCmd with held := some 0 }) 0 .C).chunkReady 0 { cpyCmd with held := some 0 } = false ∧
    (match (asTurn (copying { cpyCmd with next := 1, begun := true }) 0 .C).startHead 0 { cpyCmd with next := 1, begun := true } with
      | .took t => (vget (t.ctx 0).chans 1 ⟨[], 0⟩).cmds.all fun x => !(t.chunkReady 0 x)
      | _ => false) = true := by decide +kernel
/-- A chunk that started before and waited for a page goes on beside the turns (R121), and the second one behind it takes the turn. -/
theorem test_chunkTurn : ((after (.chunkStart 0) (copying { cpyCmd with begun := true, next := 1 })).ctx 0).rrCh = 3 ∧
    ((vget ((after (.chunkStart 0) (copying { cpyCmd with begun := true, next := 1 })).ctx 0).chans 1 ⟨[], 0⟩).cmds.map (·.next)) = [2] ∧
    ((vget ((after (.chunkStart 0) (copying { cpyCmd with begun := true })).ctx 0).chans 1 ⟨[], 0⟩).cmds.map (·.next)) = [2] ∧
    gives (.chunkStart 0) (noRoom 9) (noRoom 9) = true := by decide +kernel
theorem test_chunkStart : ((after (.chunkStart 0) (copying cpyCmd)).ctx 0).rrCh = 1 ∧
    ((vget ((after (.chunkStart 0) (copying cpyCmd)).ctx 0).chans 1 ⟨[], 0⟩).cmds.map fun k => (k.next, k.done, k.flights.length)) = [(1, 0, 1)] := by
  decide +kernel
/-- Bytes in transfer that are due. -/
def dueNow (l : List (Word × Nat × List Byte)) : Flight := ⟨some 0, l, false⟩
/-- The chunk in transfer writes these bytes at this cell. -/
def flying (k : CCmd) (l : List (Word × Nat × List Byte)) : CCmd := { k with next := 1, flights := [dueNow l] }
def committing (k : CCmd) (l : List (Word × Nat × List Byte)) : State := copying (flying k l)
/-- The chunk of the copy to 0x2000 that brings [7]. -/
def seven : CCmd := flying cpyCmd [(loc 0x2000, 2 ^ 60 + 0x2000, [7])]
theorem wit_commit : headIs (copying seven) 0 1 seven ∧ moves seven = true ∧ (dueNow []).due (copying seven).now = true ∧
    ({ dueNow [] with at_ := some 9 } : Flight).due (copying seven).now = false ∧
    ((copying seven).writeRaces 0 1 seven [(loc 0x2000, 2 ^ 60 + 0x2000, [7])]).1 = none ∧
    ((copying seven).ctxOf 0 1).cmd 5 = some seven ∧ seven.done + 1 < seven.chunks ∧ (copying seven).padSealed 0 = false ∧
    (copying seven).misc.keysErased = false ∧ 0x500 + 2 ≤ Config.regBase := by
  refine ⟨⟨by decide +kernel, [], by decide +kernel⟩, by decide +kernel, by decide +kernel, by decide +kernel, by decide +kernel, by decide +kernel,
    by decide +kernel, by decide +kernel, by decide +kernel, by decide +kernel⟩
theorem test_commit : ((after (.chunkCommit 0 1) (committing cpyCmd [(loc 0x2000, 2 ^ 60 + 0x2000, [9])])).core 0).spad = [(0x1000, 7), (0x2000, 9)] ∧
    (after (.chunkCommit 0 1) (committing (ccmd (.cpy 0x100 (loc 0x1000) 8192)) [(0x100, 0x500, [9, 8])])).mem = [(0x500, 9), (0x501, 8)] ∧
    (vget ((after (.chunkCommit 0 1) (committing (ccmd (.cldlct 2 (loc 0))) [(loc 0, 0, [1, 2])])).ctx 0).lct 2 0) = 0x201 ∧
    (vget ((after (.chunkCommit 0 1) (committing (ccmd (.cldalg 1 (loc 0))) [(loc 0, 0, [1, 0, 0, 0, 0, 0, 0, 0, 0x40])])).ctx 0).alg 1 0) = algReal := by decide +kernel
/-- Unit 0 whose byte barrier at 0x40 expects 256 n bytes. -/
def expecting (n : Byte) (s : State) : State := s.modCore 0 fun k => { k with spad := k.spad.wrL [(0x45, n)] }
/-- A chunk of 4096 bytes that is to be counted there: in transfer, committed, and the last one of a performed command. -/
def adding (n : Byte) : State := expecting n (copying { seven with bb := some (loc 0x40) })
def owing : CCmd := { cpyCmd with bb := some (loc 0x40), next := 1, done := 1 }
def lastOwing : CCmd := { ccmd (.cpy 0 0 4096) with bb := some (loc 0x40), next := 1, done := 1 }
def endedCopy : State := expecting 0x20 (one 0 .C fun c => { c with await := [lastOwing], copies := [5] })
theorem wit_add : ((expecting 0x20 (copying owing)).ctxOf 0 1).cmd 5 = some owing ∧ owing.owes = true ∧ owing.done < owing.chunks ∧
    placeOf 0 (loc 0x40) = (0, 0x40) ∧ ((expecting 0x20 (copying owing)).core 0).logDry 1 = true ∧
    ((expecting 0x20 (copying owing)).touch 0 [0x40]).1 = true ∧ ((expecting 0x20 (copying owing)).bbAdd 0 0x40 4096 []).isSome = true ∧
    ((expecting 0 (copying owing)).bbAdd 0 0x40 4096 []).isNone = true ∧ (endedCopy.ctxOf 0 1).cmd 5 = some lastOwing ∧ lastOwing.owes = true ∧
    lastOwing.chunks ≤ lastOwing.done ∧ ({ lastOwing with added := 1 } : CCmd).owes = false ∧ (endedCopy.ctxOf 0 1).queues 5 = false ∧
    (((copying owing).modCore 0 fun k => { k with slog := [⟨1, .S, 0, 0, [], true, false, false, false, 1⟩] }).core 0).logDry 1 = false := by
  decide +kernel
theorem test_add : ((after (.chunkCommit 0 1) (adding 0x20)).core 0).spad = [(0x41, 0x10), (0x45, 0x20), (0x1000, 7), (0x2000, 7)] ∧
    ((vget ((after (.chunkCommit 0 1) (adding 0)).ctx 0).chans 1 ⟨[], 0⟩).cause) = 8 ∧
    ((after (.chunkCommit 0 1) (adding 0)).core 0).spad = [(0x1000, 7), (0x2000, 7)] := by decide +kernel
theorem wit_algebraImage : algOk algReal = true ∧ algOk 2 = false := by decide +kernel
/-- A scale load of three entries, d of which have entered. -/
def scaleCmd (d : Nat) : CCmd := { flying (ccmd (.cscl (loc 0x1000) 3 false)) [(loc 0x1000, 0, [1, 2, 3, 4, 5, 6])] with done := d }
theorem wit_scales : headIs (copying (scaleCmd 0)) 0 1 (scaleCmd 0) ∧ ((copying (scaleCmd 0)).ctx 0).scaleTurn (scaleCmd 0) = true ∧
    ((copying (scaleCmd 0)).ctx 0).sq.length < 64 ∧ (dueNow []).due (copying (scaleCmd 0)).now = true ∧
    64 ≤ (((copying (scaleCmd 0)).modCtx 0 fun c => { c with sq := List.replicate 64 (0, 0) }).ctx 0).sq.length :=
  ⟨⟨by decide +kernel, [], by decide +kernel⟩, by decide +kernel, by decide +kernel, by decide +kernel, by decide +kernel⟩
theorem test_scales : ((after (.scaleEntryEnter 0 1) (copying (scaleCmd 0))).ctx 0).sq = [(0x201, 0)] ∧
    ((after (.scaleEntryEnter 0 1) (copying (scaleCmd 2))).ctx 0).sq = [(0x605, 0)] := by decide +kernel
/-- A performed command that awaits nothing more. -/
def performed5 : State := one 0 .C fun c => { c with await := [ccmd (.cpy 0 0 4)], copies := [5] }
theorem wit_complete : (performed5.core 0).lids = [1] ∧ (performed5.ctx 0).await.find? (fun x => x.id = 5) = some (ccmd (.cpy 0 0 4)) ∧
    performed5.packets = [] ∧ performed5.remote = [] ∧ performed5.fires = [] ∧
    performed5.plane.flown = [] ∧ (ccmd (.cpy 0 0 4)).owes = false := by decide +kernel
theorem test_complete : ((after (.copyCommandComplete 0 5) performed5).ctx 0).await = [] ∧ ((after (.copyCommandComplete 0 5) performed5).ctx 0).copies = [] := by decide +kernel
/-- A performed copy that carries slot 2, whose follow-on C issues on clock t. -/
def carrying (t : Nat) : State := one 0 .C fun c => { c with await := [{ ccmd (.cpy 0 0 4) with slot := some 2, t0 := t }], copies := [5] }
theorem wit_carrying : ((carrying 10).core 0).lids = [1] ∧ ((carrying 10).ctx 0).await.map (fun k => (k.id, local_ k, k.sent, k.slot)) = [(5, true, 0, some 2)] ∧
    ((carrying 10).ctx 0).clk = 10 := by decide +kernel
theorem test_carrying : ((after (.copyCommandComplete 0 5) (carrying 11)).ctx 0).await.length = 1 ∧
    gives (.copyCommandComplete 0 5) (carrying 11) (carrying 11) = true := by decide +kernel
/-- An open cbbwait for phase ph of the byte barrier at offset 8. -/
def bbWaits (ph : Bool) : State := copying { ccmd (.cbbwait (loc 8) ph) with next := 1 }
theorem wit_bbWait : (bbWaits false).bbPh (placeOf 0 (loc 8)).1 (placeOf 0 (loc 8)).2 = false ∧
    (((bbWaits false).ctx 0).allCmds.find? (fun x => decide (x.id = 5) && decide (x.next = 1) && decide (x.faulted = none))).isSome = true := by decide +kernel
theorem test_bbWait : (vget ((after (.copyCommandComplete 0 5) (bbWaits false)).ctx 0).chans 1 ⟨[], 0⟩).cmds = [] ∧
    (vget ((after (.copyCommandComplete 0 5) (bbWaits true)).ctx 0).chans 1 ⟨[], 0⟩).cmds.length = 1 := by decide +kernel
/-- A packet of a vaw of unit 0. -/
def pkt (ans : Option AwAnswer) (sent back : Bool) : PktOut := ⟨⟨9, 0, 0, 0, 0, 5, 0, 2, List.replicate 64 1⟩, 0, 0x5000, sent, ans, back, 0, 1, .V, 0, ⟨[], 0⟩, 0, 0⟩
def packeted (k : PktOut) : State := { one 0 .V fun c => { c with v := { Seq.zero with run := true } } with packets := [k], launches := [running 1] }
theorem wit_packets : (packeted (pkt (some .accepted) true false)).packets.find? (fun x => x.p.id = 9) = some (pkt (some .accepted) true false) ∧
    (packeted (pkt (some .config) true false)).pktCmd (pkt (some .config) true false) = none ∧ ((packeted (pkt none true false)).ctx 0).v.run = true ∧
    (packeted (pkt none false true)).launchLive 1 = true ∧ ({ packeted (pkt none false true) with launches := [] } : State).launchLive 1 = false := by decide +kernel
theorem test_packets : ((after (.awAnswer 9 .late) (packeted (pkt (some .late) true false))).ctx 0).awstat = BitVec.ofNat 64 (2 ^ 32) ∧
    (after (.awAnswer 9 .refused) (packeted (pkt (some .refused) true false))).packets.map (fun k => (k.back, k.sent)) = [(true, false)] ∧
    ((after (.awAnswer 9 .config) (packeted (pkt (some .config) true false))).ctx 0).v.deliver = [⟨0x0C, 0, 0, 0x5000, 0⟩] ∧
    (after (.awResend 9) (packeted (pkt none false true))).packets.map (fun k => k.back) = [false] ∧
    (after (.awResend 9) { packeted (pkt none false true) with launches := [] }).packets = [] := by decide +kernel
/-- Job 0's tree names package 3, which has left the view of a joined package. -/
def lost : State := ((packeted (pkt none true false)).setReg 0x3010018 (3 * 2 ^ 62)).setReg (0x2020008) 0
theorem test_packetOpen : (let s := stack .S 1 id
    let p : Packet := ⟨9, 0, 0, 0, 0, 5, 0, 2, List.replicate 64 1⟩
    let ans (q : Packet) : Option AwAnswer := ((after (.awPacket 0 q) { s with packets := [pkt none true false] }).packets.head?).bind (·.ans)
    decide (ans { p with job := 1 } = some .config) && decide (ans { p with contrib := 1 } = some .config) && decide (ans { p with seg := 1 } = some .config) &&
    decide (ans { p with ty := 0 } = some .config) && decide (ans { p with round := 2 } = some .config) && decide (ans { p with round := 1 } = some .accepted) &&
    decide (ans p = some .accepted)) = true := by decide +kernel
/-- The reduction unit of stack 0 waits for its event queue. -/
def unitWaiting : State := { stack .S 1 id with misc := { (stack .S 1 id).misc with evHeld := [(4, [evWord0 5 0 0 0])] } }
theorem wit_sum : unitWaiting.unitWaits 4 5 = true ∧ (stack .S 1 id).unitWaits 4 5 = false ∧ (stack .S 1 id).segBad 0 5 0 = false ∧
    ({ stack .S 1 id with misc := { (stack .S 1 id).misc with poisonMem := [0] } } : State).segBad 0 5 0 = true ∧ (stack .S 1 id).bState 0 5 ≠ 4 := by
  decide +kernel
theorem test_unitWaiting : (let p : Packet := ⟨9, 0, 0, 0, 0, 5, 0, 2, List.replicate 64 1⟩
    decide (((after (.awPacket 0 { p with port := 3 }) unitWaiting).die 0).late.map (·.port) = [3]) && gives (.awPacket 0 p) unitWaiting unitWaiting) = true := by
  decide +kernel
theorem test_sum : (let s := stack .S 1 id
    (s.segPa 0 5 0 = some 0) ∧ leNat (({ s with mem := [(252, 7), (253, 1)] }.addSeg 0 5 0 (List.replicate 64 (-9))).mem.rdN 252 4) = 254) := by decide +kernel
theorem wit_deadline : headIs (copying (ccmd (.csendt 0 0 0 64 64 0 0))) 0 1 (ccmd (.csendt 0 0 0 64 64 0 0)) := ⟨by decide +kernel, [], by decide +kernel⟩
theorem test_deadline : ((vget ((after (.csendDeadlineMiss 0 1) (copying (ccmd (.csendt 0 0 0 64 64 0 0)))).ctx 0).chans 1 ⟨[], 0⟩).cause) = 0x15 ∧
    ((vget ((after (.csendDeadlineMiss 0 1) (copying (ccmd (.csendt 0 0 0 64 64 0 1)))).ctx 0).chans 1 ⟨[], 0⟩).cause) = 0 := by decide +kernel
/-- An unanswered remote chunk of a cput. -/
def remoteOut : State := { copying (ccmd (.cput 2 0 0 0 (loc 0) 64 none)) with remote := [⟨0, 0, 0, 0, 1, 1, 5, 0, 2, 0x40, 0, false, false, false⟩], now := 1050 }
theorem wit_timeout : (remoteOut.awaited.find? fun r => decide (r.u = 0) && decide (r.ch = 1) && !r.held && decide (r.since + remoteOut.tmoCycles r.port ≤ remoteOut.now)).isSome = true := by decide +kernel
theorem test_timeout : (after (.remoteTimeout 0 1) remoteOut).remote.map (·.late) = [true] ∧ ((vget ((after (.remoteTimeout 0 1) remoteOut).ctx 0).chans 1 ⟨[], 0⟩).cause) = 0x13 := by decide +kernel
theorem wit_tileTable : (∀ j, j < 16 → ((plain .S).ctx (coreAt 0 j)).await.filter (fun k => decide (k.op = .tready 7) && decide (k.sent = 0)) = []) ∧
    bits ((plain .S).ctt0 0 7) 47 32 = 0 := by decide +kernel
/-- An entry that collects, and a tready of core 0 that has joined it. -/
def collecting : State :=
  (one 0 .C fun c => { c with await := [ccmd (.tready 7)], copies := [5], c := { c.c with run := true } }).setCtt0 0 7 (BitVec.ofNat 64 (2 ^ 48 + 2 ^ 32 + 2 ^ 20))
theorem wit_collecting : bits (collecting.ctt0 0 7) 47 32 ≠ 0 ∧ (collecting.core 0).lids = [1] ∧
    (collecting.ctxOf (coreAt 0 0) 1).await.filter (fun k => decide (k.op = .tready 7) && decide (k.sent = 0)) = [ccmd (.tready 7)] ∧
    (collecting.ctxOf (coreAt 0 0) 1).c.run = true := by decide +kernel
theorem test_collecting : (after (.cttWord0Write 0 7 0) collecting).ctt0 0 7 = 0 ∧
    (vget ((after (.cttWord0Write 0 7 0) collecting).ctx 0).chans 1 ⟨[], 0⟩).cause = 8 ∧ ((after (.cttWord0Write 0 7 0) collecting).ctx 0).c.deliver.map (·.code) = [8] := by decide +kernel
theorem test_tileTable : (after (.cttWord0Write 0 7 (BitVec.ofNat 64 (2 ^ 64 - 1))) (plain .S)).ctt0 0 7 = 0xFFFF0000FFC00000 := by decide +kernel

/-! The global memory. -/

/-- A queued access 7 of unit 0 to address 0x1000, whose page is at physical 0x50000 under response r. -/
def queued (op : OutOp) (r : Word) (f : Out → Out) : State :=
  { one 0 .S fun c => { c with s := { c.s with ring := [waits 7] } } with
    now := 5, uid := 8, tlb := [⟨false, 0, 0, 0, r⟩], mem := [(0x51000, 5), (0x51001, 1)],
    outs := [f ⟨7, 0, .S, 1, 0, 0, 0x1000, op, .queued, 0, [], false, none, (plain .S).histOf (plain .S).me 0 .S⟩] }
/-- A response of a readable and writable page at 0x50000. -/
def mapped : Word := 0x0600000000050000
def q7 (op : OutOp) : Out := ⟨7, 0, .S, 1, 0, 0, 0x1000, op, .queued, 0, [], false, none, (plain .S).histOf (plain .S).me 0 .S⟩
theorem wit_global : onePage (queued (.load 4 false) mapped id) (q7 (.load 4 false)) 0x51000 mapped ∧ (0x51000 + 4 ≤ Config.regBase) ∧
    (queued (.load 4 false) mapped id).misc.keysErased = false ∧ (queued (.load 4 false) mapped id).inOrder (q7 (.load 4 false)) = true ∧
    (queued (.store [(0x1000, 9)]) mapped id).loadsBefore (q7 (.store [(0x1000, 9)])) = false ∧
    (queued (.store [(0x1000, 9)]) mapped id).behindLog (q7 (.store [(0x1000, 9)])) = false := by
  refine ⟨⟨by rfl, by decide +kernel, by decide +kernel⟩, by decide +kernel, by decide +kernel, by decide +kernel, by decide +kernel, by decide +kernel⟩
theorem test_globalRead : ((after (.globalAccessPerform 7) (queued (.load 4 false) mapped id)).out 7).map (fun o => (o.st, o.data, o.deny)) =
      some (.answered, [5, 1, 0, 0], none) ∧
    (after (.globalAccessPerform 7) (queued (.store [(0x1000, 9), (0x1001, 8)]) mapped id)).mem = [(0x51000, 9), (0x51001, 8)] ∧
    (after (.globalAccessPerform 7) (queued (.amo 0 4 7 0 0) mapped id)).mem = [(0x51000, 12), (0x51001, 1)] ∧
    ((after (.globalAccessPerform 7) (queued (.load 4 false) 0x0000000000050000 id)).out 7).map (fun o => (o.st, o.deny)) =
      some (.answered, some ⟨4, 0, 0, 0x1000, 0⟩) := by decide +kernel
theorem wit_notYet : (queued (.load 4 false) mapped fun o => { o with ready := 6 }).now < 6 := by decide +kernel
/-- A logged store of unit 0 at the head of its sequencer's log. -/
def logged : State := (queued (.store [(0x1000, 9)]) mapped id).modCore 0 fun k => { k with slog := [⟨7, .S, 0, 0, [(0x1000, 9)], true, false, false, false, 1⟩] }
theorem wit_log : ((logged.core 0).logHead .S).isSome = true ∧ logged.replayReady 0 ⟨7, .S, 0, 0, [(0x1000, 9)], true, false, false, false, 1⟩ = true ∧
    logged.replayReady 0 ⟨7, .S, 0, 0, [(0x1000, 9)], true, true, false, false, 1⟩ = false := by decide +kernel
theorem test_log : (after (.sideLogReplay 0 .S) logged).mem = [(0x51000, 9), (0x51001, 1)] ∧ ((after (.sideLogReplay 0 .S) logged).core 0).slog = [] := by decide +kernel
/-- A chunk fill of region slot 2 that has been answered. -/
def filling : State :=
  { (plain .S).modCore 0 fun k => { k with regions := [(2, ⟨false, 0x1000, 0x4000, 3, 0, [], [], []⟩)] } with
    outs := [⟨7, 0, .S, 1, 0, 0, 0x2000, .fill 0 2 1, .answered, 0, [7, 8], false, none, ⟨[], 0⟩⟩] }
theorem wit_fill : ((filling.core 0).regions.find? (fun p => p.1 = 2)).isSome = true ∧ filling.outs.length = 1 := by decide +kernel
theorem test_fill : ((after (.regionFillEnd 0 2 1) filling).core 0).spad = [(0x5000, 7), (0x5001, 8)] ∧
    ((after (.regionFillEnd 0 2 1) filling).core 0).regions.map (fun p => p.2.filled) = [[1]] := by decide +kernel
/-- A walk for address 0x1000 that access 7 waits for. -/
def walking (ans : Option Word) : State :=
  { queued (.load 4 false) mapped (fun o => { o with st := .walking }) with tlb := [], walks := [⟨3, 0, 0, 0x1000, 0, 0, .S, 0, ans⟩] }
/-- The same with a record of the die that waits for its queue. -/
def queueFull : State := { walking none with misc := { (walking none).misc with evHeld := [(100, [])] } }
theorem wit_walk : ((walking none).walk 3).isSome = true ∧ respMaps mapped = true ∧ respAbsent 0x4000000000000000 = true ∧ respMaps 0x8000000000000000 = false ∧
    respAbsent 0x8000000000000000 = false ∧ ((walking none).outs.filter (Walk.answers ⟨3, 0, 0, 0x1000, 0, 0, .S, 0, none⟩)).length = 1 ∧
    (walking none).walkStores ⟨3, 0, 0, 0x1000, 0, 0, .S, 0, none⟩ = [] ∧ (walking none).misc.evHeld = [] ∧
    (queueFull.walk 3).isSome = true ∧ (∃ e ∈ queueFull.misc.evHeld, e.1 = 100 + 0) := by decide +kernel
/-- The word of a response waits where a page-fault record of the die waits for its queue (R418). -/
theorem test_queueFull : (after (.walkResponse 3 0x4000000000000000) queueFull).walks.map (·.ans) = [some 0x4000000000000000] := by decide +kernel
theorem test_walk : (after (.walkResponse 3 mapped) (walking none)).tlb.map (fun e => (e.va, e.resp)) = [(0, mapped), (0, mapped)] ∧
    (after (.walkResponse 3 mapped) (walking none)).outs.map (·.st) = [.queued] ∧
    (after (.walkResponse 3 0x8000000000000000) (walking none)).outs.map (fun o => o.deny.map (·.code)) = [some 4] ∧
    (after (.walkResponse 3 0x4000000000000000) (walking none)).outs.map (·.st) = [.held] ∧
    (after (.walkTimeout 3) (walking none)).reg 0x1010008 = 1 ∧ (after (.walkerTrap 3) (walking none)).walks = [] ∧
    (after (.walkResponse 3 mapped) (walking (some 0x8000000000000000))).tlb = [] := by decide +kernel
/-- A miss that found 512 walks outstanding starts its walk when one ends (R237). -/
theorem wit_settled : (∀ o ∈ (walking none).outs, o.st = .walking → Walk.answers ⟨3, 0, 0, 0x1000, 0, 0, .S, 0, none⟩ o = true) ∧
    (let s : State := { walking none with walks := [] }
     decide (s.outs.length = 1) && decide ((spans 0 0x1000 4).find? (fun p => decide (s.xlate (walkUnit 0) 0 p.1 1 = .miss)) = some (0x1000, 4)) &&
     gives (.walkResponse 9 0) s s && decide (s.rewalk = s.startWalk (walkUnit 0) .S 0 0x1000 0)) = true := by decide +kernel
/-- An aligned load of a register of the package. -/
def regLoad (op : OutOp) : State := (queued op 0x0603000000000000 id).setReg 0x1008 77
theorem wit_regAccess : onePage (regLoad (.load 8 false)) (q7 (.load 8 false)) 0x3000000001000 0x0603000000000000 ∧ Config.regBase ≤ 0x3000000001000 ∧
    onePage (regLoad (.store (atAddr 0x1000 (natLe 8 5)))) (q7 (.store (atAddr 0x1000 (natLe 8 5)))) 0x3000000001000 0x0603000000000000 := by
  refine ⟨⟨by decide +kernel, by decide +kernel, by decide +kernel⟩, by decide +kernel, ⟨by decide +kernel, by decide +kernel, by decide +kernel⟩⟩
/-- A die's shootdown and resolve registers name the page of address 0x1000. -/
def paged : State := ((queued (.load 4 false) mapped fun o => { o with st := .held }).setReg 0x1010010 0x1000).setReg 0x1010020 0x1000
theorem wit_shoot : (paged.reg 0x1010018).getLsbD 62 = true ∧ (0x8000000000000000 : Word).getLsbD 63 = true ∧ bits 0x8000000000000000 17 16 ≠ 3 ∧
    paged.misc.recording = [] ∧ ((paged.setReg 0x1010018 0).reg 0x1010018).getLsbD 62 = false ∧ bits 0x8000000000030000 17 16 = 3 ∧ paged.shoot = [] := by decide +kernel
theorem test_shoot : (after (.shootdown 0 0x8000000000000000) paged).tlb = [] ∧ (after (.shootdown 0 0x8000000000000000) paged).shoot = [(0, 0, 0x1000, 0)] ∧
    ((after (.shootdown 0 0x8000000000000000) paged).reg 0x1010018).getLsbD 62 = false ∧ (after (.shootdown 0 0x8000000000030000) paged).tlb.length = 1 ∧
    (after (.shootdown 0 0x8000000000000001) paged).tlb.length = 1 ∧
    ((after (.shootdownComplete 0) (after (.shootdown 0 0x8000000000000000) paged)).reg 0x1010018).getLsbD 62 = true ∧
    (after (.shootdown 0 0x10005) paged).reg 0x1010018 = 0x4000000000010005 := by decide +kernel
/-- Page list entry 3 of stack 0 holds the physical page (R336). -/
def listed : State := paged.setReg 0x2030018 (BitVec.ofNat 64 (2 ^ 63 + 0x50000))
theorem wit_listed : validList (0x2030018, listed.reg 0x2030018) = true ∧ bits (listed.reg 0x2030018) 61 60 ≠ 3 ∧
    meets (bits (listed.reg 0x2030018) 51 16 * 65536) 65536 (respPa mapped) 65536 = true := by decide +kernel
theorem test_listed : (after (.shootdown 0 0x8000000000000000) listed).reg 0x2030018 = BitVec.ofNat 64 (2 ^ 62 + 0x50000) := by decide +kernel
theorem test_resolve : (after (.resolve 0 0x8000000000000000) paged).outs.map (·.st) = [.queued] ∧ (after (.resolve 0 0x8000000000000001) paged).outs.map (·.st) = [.held] := by
  decide +kernel
/-- A byte of a page at 0x50000, which no access waits for; LOW, HIGH and PROMO of HBM are 16, 32 and 3, LOW of host memory 16. -/
def paged2 : State := ({ queued (.load 4 false) mapped id with outs := [] }.setReg 0x3030000 0x300200010).setReg 0x3030010 16
/-- The same byte in host memory, in CXL memory and in storage. -/
def elsewhere (a : Nat) : State := { paged2 with mem := [(a + 0x1000, 5)], tlb := [] }
/-- A launch of that address space with two variants. -/
def withVariants : State := { paged2 with launches := [{ running 1 with hdr := 0x8000000 :: List.replicate 31 0 }] }
theorem wit_pages : paged2.misc.recording = [] ∧ paged2.pinned 0 0x1000 0 = false ∧ paged2.mem.wf = true ∧ paged2.launches = [] ∧
    (3 < bits (paged2.reg 0x3030000) 15 0) ∧ ¬ (16 < bits (paged2.reg 0x3030000) 15 0) ∧ 0 ∉ paged2.misc.tiers ∧
    tierOf 0x50000 = 0 ∧ tierOf 0x1000000050000 = 1 ∧ tierOf 0x2000000050000 = 2 ∧ (3 : Nat) ≤ (3 : BitVec 10).toNat ∧
    ({ paged2 with tlb := [⟨false, 0, 0, 0, 0x0700000000050000⟩] } : State).pinned 0 0x1000 0 = true ∧ pageBytes 0 = 65536 ∧
    withVariants.launches.map (fun l => (l.asid, l.nvar)) = [(0, 2)] ∧ 0x50000 + 65536 ≤ 0x1000000050000 := by decide +kernel
theorem test_pages : (after (.tierDemotion 0 0 0x1000 0 0x50000 ⟨0x1000000050000, false, 3⟩) paged2).mem = [(0x1000000051000, 5), (0x1000000051001, 1)] ∧
    (after (.tierDemotion 0 0 0x1000 0 0x50000 ⟨0x1000000050000, false, 3⟩) paged2).tlb = [] ∧
    (after (.tierDemotion 0 0 0x1000 0 0x50000 ⟨0x1000000050000, false, 16⟩) paged2).mem = paged2.mem ∧
    (after (.tierDemotion 0 0 0x1000 0 0x50000 ⟨0x1000000050000, true, 3⟩) paged2).mem = paged2.mem ∧
    (after (.tierDemotion 2 0 0x1000 0 0x2000000050000 ⟨0, false, 3⟩) (elsewhere 0x2000000050000)).mem = [(2 ^ 84 + 0x1000, 5)] := by decide +kernel
/-- R263: the page stays; REQ of the launch names a variant, or 15 where none fits. -/
theorem test_variants : (after (.tierDemotion 0 0 0x1000 0 0x50000 ⟨0x1000000050000, false, 3⟩) withVariants).mem = paged2.mem ∧
    (after (.tierDemotion 0 0 0x1000 0 0x50000 ⟨0x1000000050000, false, 3⟩) withVariants).cores.length = 1 := by decide +kernel
theorem test_promotion : (after (.promotion 0 0x1000 0 (some 0x1000000050000) ⟨0x50000, 3, 0⟩) (elsewhere 0x1000000050000)).mem = [(0x51000, 5)] ∧
    (after (.promotion 0 0x1000 0 (some 0x1000000050000) ⟨0x50000, 2, 0⟩) (elsewhere 0x1000000050000)).mem = [(0x1000000051000, 5)] ∧
    (after (.promotion 0 0x1000 0 none ⟨0x50000, 0, 16⟩) (elsewhere (2 ^ 84))).mem = [(0x51000, 5)] ∧
    (after (.promotion 0 0x1000 0 none ⟨0x50000, 0, 15⟩) (elsewhere (2 ^ 84))).mem = [(2 ^ 84 + 0x1000, 5)] := by decide +kernel
theorem wit_tier : bits 0x00200010 15 0 ≤ bits 0x00200010 31 16 ∧ bits 0x00100020 31 16 < bits 0x00100020 15 0 := by decide +kernel
theorem test_tier : (after (.tierRegisterWrite 1 0xFFFFFFFF00200010) (plain .S)).reg 0x3030008 = 0x3FF00200010 ∧
    (after (.tierRegisterWrite 1 0x00100020) (plain .S)).reg 0x3030008 = 0 := by decide +kernel
theorem test_refresh : (after (.lrefresh 2 7) ((plain .S).setReg 0x2230038 0xE000000000000000)).reg 0x2230038 = 0xA000000000000000 := by decide +kernel

/-! Swaps, errors, barriers. -/

/-- Unit 0 in a swap, on real cycle 100. -/
def swapping (w : Swap) (b : BankKind) : State :=
  { (one 0 .S fun c => { c with x := c.x.set 1 9 }).modCore 0 fun k => { k with swap := some w, bankKind := b, hpc := 0x40, bank := { Ctx.zero with lid := 3, x := k.bank.x.set 1 7 } } with now := 100 }
/-- A queued context that a watchdog cut off while its trap waited. -/
def cutOff : State := (swapping ⟨100, false, true⟩ .queued).modCore 0 fun k => { k with bank := { k.bank with trap := some (3, 2) } }
theorem wit_swap : ((swapping ⟨100, true, false⟩ .handler).core 0).swap = some ⟨100, true, false⟩ ∧ (swapping ⟨101, true, false⟩ .handler).now < 101 ∧
    ((swapping ⟨100, false, true⟩ .queued).ctx 0).lid ≠ 0 ∧ ((cutOff.core 0).bank.afresh.trap = some (3, 2)) := by decide +kernel
/-- A trap that a watchdog cut off waits for its handler again when its context comes back. -/
theorem test_cutOff : ((after (.swapEnd 0) cutOff).core 0).swap = some ⟨0, true, false⟩ ∧ ((after (.swapEnd 0) cutOff).core 0).hevent = 3 ∧
    ((after (.swapEnd 0) cutOff).ctx 0).lid = 3 := by decide +kernel
theorem test_swap : (let t := after (.swapEnd 0) (swapping ⟨100, true, false⟩ .handler)
    decide ((t.ctx 0).lid = 3) && decide ((t.core 0).bank.lid = 1) && decide ((t.core 0).bankKind = .trapped) && decide ((t.core 0).swap = none) &&
    (let t := after (.swapEnd 0) (swapping ⟨100, false, false⟩ .trapped)
     decide ((t.ctx 0).lid = 3) && decide ((t.core 0).bank.s.pc = 0x40) && decide ((t.core 0).bankKind = .handler)) &&
    (let t := after (.swapEnd 0) (swapping ⟨100, false, true⟩ .empty)
     decide ((t.ctx 0).lid = 0) && decide ((t.core 0).bank.lid = 1) && decide ((t.core 0).spillst = 1) && decide ((t.core 0).bankKind = .spilling)) &&
    decide (((after (.swapEnd 0) (swapping ⟨101, true, false⟩ .handler)).core 0).swap = some ⟨101, true, false⟩)) = true := by decide +kernel
/-- Unit 0 spills a context of no granule, at position p of its image, to the page at 0x10000, which may be written where w holds. -/
def spill (p : Nat) (len : BitVec 16) (w : Bool) : State :=
  { (one 0 .S id).modCore 0 fun k => { k with bankKind := .spilling, spillst := 1, savebase := 0x10000, savelen := len, spillpos := BitVec.ofNat 21 p, bank := { Ctx.zero with lid := 3 } } with
    tlb := [⟨false, 0, 0, (0x10000 + p) / 65536 * 65536, if w then 0x0600000000050000 else 0x0200000000050000⟩] }
theorem wit_spill : ((spill 0 3 true).core 0).bank.imageSize = 0x30000 ∧ ((spill 0 2 true).core 0).savelen.toNat * 65536 < 0x30000 ∧
    (match (spill 0x20000 3 true).svcPage 0 3 0 0x30000 5 16 with | (.ok 0x50000, _) => true | _ => false) = true ∧
    (match (spill 0x20000 3 false).svcPage 0 3 0 0x30000 5 16 with | (.deny, _) => true | _ => false) = true ∧ 0x20000 + 65536 < 2 ^ 21 := by decide +kernel
theorem test_spill : ((after (.spillEnd 0) (spill 0 2 true)).core 0).spillst = 3 ∧ ((after (.spillEnd 0) (spill 0x20000 3 false)).core 0).spillst = 4 ∧
    ((after (.spillGo ⟨0, .go⟩) (after (.spillEnd 0) (spill 0 2 true))).core 0).bankKind = .spilling ∧
    ((after (.spillGo ⟨0, .go⟩) (plain .S)).core 0).spillgo = true ∧ ((after (.spillGo ⟨0, .savebase 0x12345⟩) (plain .S)).core 0).savebase = 0x10000 ∧
    ((after (.spillGo ⟨0, .savelen 7⟩) (plain .S)).core 0).savelen = 7 ∧ ((after (.spillGo ⟨0, .frzlim 9⟩) (plain .S)).core 0).frzlim = 9 := by decide +kernel
/-- Unit 0 whose running context has not taken granule 0 from its image, whose page is at physical 0x50000; V has touched it. -/
def filling0 : State :=
  let s := one 0 .S fun c => { c with toFill := [(0, true)] }
  { s.modCore 0 fun k => { k with bankKind := .handler, fillWant := [(0, 0, .V)], spad := [(5, 1)]
                                  savedRg := [(1, ([], 0x10000, 8))] } with
    tlb := [⟨false, 0, 0, 0x40000, 0x0600000000050000⟩], mem := [(0x50003, 9)] }
theorem wit_fillWant : (filling0.core 0).padOwner.toFill = [(0, true)] ∧ (filling0.core 0).spad.wf = true ∧ filling0.mem.wf = true ∧
    (mget ([], (filling0.core 0).savebase, (filling0.core 0).savelen) (filling0.core 0).savedRg (filling0.core 0).padOwner.lid).2.1 = 0x10000 ∧
    (match filling0.svcPage 0 1 0 0x40000 0 20 with | (.ok 0x50000, s') => decide (s'.cores = filling0.cores) | _ => false) = true := by decide +kernel
/-- Unit 0 with a watchdog of period 5 and l left. -/
def dog (l : BitVec 32) : State := one 0 .S fun c => { c with wdogPer := 5, wdogLeft := l }
/-- Unit 0 of a timed cluster, frozen for n nanoseconds under a limit of 2. -/
def frozen (n : Nat) : State := (one 0 .S fun c => { c with mode := .timed }).modCore 0 fun k => { k with frzlim := 2, frzNs := n }
/-- The same while its trap waits for a handler (R388). -/
def trapWaits : State := (frozen 43).modCore 0 fun k => { k with swap := some ⟨0, true, false⟩ }
theorem test_trapWaits : ((after (.freezeLimit 0) trapWaits).core 0).swap.map (·.spill) = some true := by decide +kernel
theorem wit_dog : (dog 0).plainRun 0 = true ∧ (dog 0).domain 0 = [0] ∧ ((dog 0).core 0).swap = none ∧ (dog 1).me.wdogLeft ≠ 0 := by decide +kernel
theorem test_dog : (after (.watchdogFire 0) (dog 0)).misc.hung = [0] ∧ ((after (.watchdogFire 0) (dog 0)).core 0).swap.map (·.spill) = some true ∧
    (after (.watchdogFire 0) (dog 1)).misc.hung = [] := by decide +kernel
theorem test_freeze : ((after (.freezeLimit 0) (frozen 43)).core 0).swap.map (·.spill) = some true ∧ (after (.freezeLimit 0) (frozen 63)).misc.hung = [] ∧ (after (.freezeLimit 0) (frozen 43)).misc.hung.contains 0 = true ∧
    (after (.freezeLimit 0) (frozen 42)).misc.hung = [] := by decide +kernel
/-- Unit 0 holds no context but one that has been swapped out as hung. -/
def hung : State := let s := State.reset.modCore 0 fun k => { k with saved := [{ Ctx.zero with lid := 4, wdogPer := 5 }] }
  { s with misc := { s.misc with hung := [0] } }
/-- Unit 0 whose hung context is leaving, or is being spilled. -/
def leaving (b : BankKind) : State :=
  { (one 0 .S fun c => { c with wdogPer := 5 }).modCore 0 fun k => { k with swap := if b = .handler then some ⟨9, false, true⟩ else none, bankKind := b, bank := { Ctx.zero with lid := 2, wdogPer := 6 } } with
    misc := { State.reset.misc with hung := [0] } }
theorem wit_leaving : ((leaving .handler).core 0).swap.map (·.spill) = some true ∧ ((leaving .spilling).core 0).bankKind = .spilling ∧ (leaving .handler).misc.hung = [0] := by decide +kernel
theorem test_leaving : ((after (.domainResume 0) (leaving .handler)).ctx 0).wdogLeft = 5 ∧ ((after (.domainResume 0) (leaving .spilling)).core 0).bank.wdogLeft = 6 ∧
    (after (.domainResume 0) (leaving .spilling)).misc.hung = [] := by decide +kernel
theorem wit_resume : (hung.core 0).saved.head? = some { Ctx.zero with lid := 4, wdogPer := 5 } ∧ (0 : Nat) ∈ hung.misc.hung ∧ (hung.ctx 0).lid ≠ 4 := by decide +kernel
theorem test_resume : (after (.domainResume 0) hung).misc.hung = [] ∧ ((after (.domainResume 0) hung).core 0).saved.map (·.wdogLeft) = [5] := by decide +kernel
theorem wit_reload : (((handled true).modMe fun c => { c with s := { c.s with run := false } }).ctx 0).handler = true ∧
    (((handled true).modMe fun c => { c with s := { c.s with run := false } }).core 0).hdone = none ∧
    { handled true with launches := [running 1] }.launch ((handled true).ctx 0).launch = some (running 1) := by decide +kernel
/-- A launch that was killed, whose handler's page is at physical 0x50000 and another. -/
def killed0 (m : Bool) : State :=
  { State.reset.modCore 0 fun k => { k with bankKind := .empty } with
    launches := [{ running 1 with st := .ending, hdr := ((List.replicate 32 0).set 7 0x10000).set 5 (BitVec.ofNat 64 (2 ^ 16)) }]
    tlb := if m then [0x10000, 0x20000, 0x30000].map fun a => ⟨false, 0, 0, a, 0x0600000000050000⟩ else [] }
theorem wit_killed : ((killed0 true).ctx 0).lid = 0 ∧ ((killed0 true).core 0).bankKind = .empty ∧ (killed0 true).launches.map (fun l => (l.st, hdrWord l.hdr 7)) = [(.ending, 0x10000)] ∧
    (killed0 true).launches.all (fun l => decide (0 ∈ l.units)) = true ∧ ((killed0 true).launch 1).isSome = true ∧
    (match (killed0 true).svcRange 0 1 0 0x10000 0x30000 0 17 with | (.ok ps, _) => decide (ps.length = 3) | _ => false) = true ∧
    (match (killed0 false).svcRange 0 1 0 0x10000 0x30000 0 17 with | (.wait, _) => true | _ => false) = true := by decide +kernel
theorem test_killed : 0 ∈ (after (.handlerReload 0) (killed0 false)).misc.reload ∧ ((after (.handlerReload 0) (killed0 false)).core 0).bankKind = .empty := by decide +kernel
theorem test_reload : (after (.handlerReload 0) { ((handled true).modMe fun c => { c with s := { c.s with run := false } }) with launches := [running 1] }).misc.reload = [0] ∧
    ((after (.handlerReload 0) (handled true)).ctx 0).s.run = true := by decide +kernel
theorem wit_errors : (stack .S 1 id).bState 0 5 ≠ 0 ∧ (stack .S 1 id).bState 0 5 ≠ 4 ∧ (stack .S 0 id).bState 0 5 = 0 ∧
    ((one 0 .S fun c => { c with s := { c.s with ring := [waits 7] } }).ctx 0).s.ring[0]? = some (waits 7) := by decide +kernel
theorem test_errors : ((after (.correctableError 0) (plain .S)).core 0).ecccnt = 1 ∧ ((after (.uncorrectableError (.mainReg 0 .S 3)) (plain .S)).core 0).ecccnt = 0x100000000 ∧
    ((after (.uncorrectableError (.mainReg 0 .S 3)) (plain .S)).ctx 0).poison = [(.S, 3)] ∧ (after (.uncorrectableError (.physLine 130)) (plain .S)).misc.poisonMem = [2] ∧
    ((after (.uncorrectableError (.context 0)) (plain .S)).ctx 0).poisoned = true ∧
    (after (.uncorrectableError (.bucket 0 5 0)) (stack .S 1 id)).bState 0 5 = 4 ∧ (after (.uncorrectableError (.bucket 0 5 0)) (stack .S 3 id)).bState 0 5 = 3 ∧
    (stack .S 1 id).bucketsAt 0 0 = [5] ∧ (after (.uncorrectableError (.physLine 64)) (stack .S 1 id)).bState 0 5 = 4 := by decide +kernel
/-- Two members of a die's barrier in launch 1, of which the first has arrived and the second has where b holds; v names a variant of each. -/
def atBarrier (b : Bool) (v w : Option Nat) : State :=
  let k (u : Nat) (here : Bool) (v : Option Nat) : Nat × Core := (u, { Core.zero with ctx := { Ctx.zero with lid := 1, members := BitVec.ofNat 64 (2 ^ 49), bar := if here then some (2, 0) else none, barSw := v, s := { Seq.zero with run := true } } })
  { State.reset with cores := [k 0 true v, k 1 b w], launches := [running 1], now := 500 }
theorem wit_barrier : (atBarrier true none none).barrierReady 1 2 0 = some [0, 1] ∧ (atBarrier false none none).barrierReady 1 2 0 = none ∧
    (atBarrier true none none).members 1 2 0 = [0, 1] ∧ (atBarrier true (some 1) (some 2)).barrierReady 1 2 0 = some [0, 1] := by decide +kernel
theorem test_barrier : (let t := after (.barrierComplete 1 2 0) (atBarrier true none none)
    decide ((t.ctx 0).phase = 1) && decide ((t.ctx 1).phase = 1) && decide ((t.ctx 0).barGo = true) &&
    decide ((after (.barrierComplete 1 2 0) (atBarrier false none none)) = atBarrier false none none) &&
    decide (((after (.barrierComplete 1 2 0) (atBarrier true (some 1) (some 2))).ctx 0).s.deliver.map (·.code) = [0x17]) &&
    decide (((after (.barrierComplete 1 2 0) (atBarrier true none (some 2))).ctx 1).s.deliver.map (·.code) = [0x17]) &&
    decide (bits ((after (.barrierComplete 1 2 0) (atBarrier true (some 1) (some 1))).ctx 1).variant 5 4 = 1)) = true := by decide +kernel
theorem test_illegalWord : gives .illegalInstruction (plain .V) (illegal (plain .V)) = true := by decide +kernel

/-! Queues and launches. -/

/-- Queue 5 with its ring of 16 entries at 0x10000, word 1 as w1 and word 3 as w3. -/
def queue5 (w1 w3 : Nat) : State :=
  ((State.reset.setReg (queueAt 5 0) 0x10000).setReg (queueAt 5 1) (BitVec.ofNat 64 w1)).setReg (queueAt 5 3) (BitVec.ofNat 64 w3)
/-- Enabled, with one entry pending at index 3. -/
def pend : Nat := 2 ^ 63 + 0x30004
theorem wit_queue : (queue5 pend 0).eligible 5 = true ∧ (queue5 pend 0).bound 5 = false ∧ (queue5 pend 0).queues = [5] ∧ (queue5 pend 0).misc.slots = [] ∧
    (queue5 pend 0).misc.waits.find? (fun p => p.1 = 2 * 5) = none ∧ (queue5 pend (2 ^ 63)).bound 5 = true ∧ ringOf (BitVec.ofNat 64 pend) = 16 := by decide +kernel
theorem test_notify : (let t := after (.notify 5 9) { queue5 pend 0 with launches := [{ running 1 with queue := 5 }], cores := [(0, { Core.zero with ctx := { Ctx.zero with lid := 1, s := { Seq.zero with idle := true } } })] }
    decide (t.reg (queueAt 5 1) = BitVec.ofNat 64 (2 ^ 63 + 0x30009)) && (t.ctx 0).s.woken && decide ((after (.notify 5 16) (queue5 pend 0)).reg (queueAt 5 1) = BitVec.ofNat 64 pend)) = true := by
  decide +kernel
theorem test_descriptor : gives (.queueDescriptorWrite 5 0 7) (queue5 pend 0) (queue5 pend 0) = true ∧
    (after (.queueDescriptorWrite 6 0 0xFFFFFFFFFFFFFFFF) (queue5 pend 0)).reg (queueAt 6 0) = 0x000FFFFFFFFFFFC0 ∧
    (after (.queueDescriptorWrite 6 1 0xFFFFFFFFFFFFFFFF) (queue5 pend 0)).reg (queueAt 6 1) = 0x07E0F00000000000 ∧
    (after (.queueDescriptorWrite 6 1 0x8000000000000000) ((queue5 pend 0).setReg 8 0x8000000000000000)).reg (queueAt 6 1) = 0x8000000000000000 := by decide +kernel
/-- The queue has waited since 0 ns, and 3,500 ns have passed, with AGE = 1. -/
def aged : State := let s := (queue5 pend 0).setReg 0x18 1
  { s with datumNs := 3500, misc := { s.misc with waits := [(10, 0)] } }
theorem wit_age : aged.misc.waits.find? (fun p => p.1 = 2 * 5) = some (10, 0) ∧ aged.queues = [5] ∧ aged.eligible 5 = true := by decide +kernel
theorem test_age : mget 0 (after .priorityAgeing aged).misc.waits 11 = 3 ∧ mget 0 (after .priorityAgeing { queue5 pend 0 with datumNs := 77 }).misc.waits 10 = 77 := by
  decide +kernel
/-- Queues 5 and 6 wait, 6 at priority 3; slot 0 is held by queue 9, whose launch runs. -/
def twoWait : State :=
  let s := ((queue5 pend 0).setReg (queueAt 6 0) 0x20000).setReg (queueAt 6 1) (BitVec.ofNat 64 (pend + 3 * 2 ^ 56))
  { s with launches := [{ running 1 with queue := 9 }], misc := { s.misc with slots := [(0, 9)] } }
theorem wit_best : bestQueue twoWait 6 ∧ twoWait.launchOf 9 ≠ none ∧ (twoWait.launchOf 5 = none ∧ twoWait.eligible 5 = true) := by
  refine ⟨⟨⟨by decide +kernel, by decide +kernel, by decide +kernel⟩, ?_⟩, by decide +kernel, by decide +kernel⟩
  rintro x ⟨hx, -, -⟩ hne
  have h : ∀ x ∈ twoWait.queues, x ≠ 6 → min 7 (bits (twoWait.reg (0x20000 + 32 * x + 8)) 58 56 + mget 0 twoWait.misc.waits (2 * x + 1)) < 3 := by
    decide +kernel
  exact .inl (h x hx hne)
theorem test_best : (after .queueBind twoWait).misc.slots = [(0, 9), (1, 6)] ∧ (after .queueBind twoWait).reg (queueAt 6 3) = 0x8000000100000000 := by
  decide +kernel
/-- A notify that leaves queue 5 empty frees its slot. -/
theorem test_emptied : (let s := { queue5 pend (2 ^ 63) with misc := { State.reset.misc with slots := [(2, 5)] } }
    decide ((after (.notify 5 3) s).misc.slots = []) && decide ((after (.notify 5 3) s).reg (queueAt 5 3) = 0)) = true := by decide +kernel
theorem test_bind : (after .queueBind (queue5 pend 0)).reg (queueAt 5 3) = 0x8000000000000000 ∧ (after .queueBind (queue5 pend 0)).misc.slots = [(0, 5)] := by decide +kernel
/-- Queue 5 bound, with an entry of version v at index 3 whose header is at 0x1000 of an address space not walked yet. -/
def entry5 (v : Nat) : State := { queue5 pend (2 ^ 63) with mem := Mem.wrL [] (atAddr (0x10000 + 64 * 3) (wordBytes [BitVec.ofNat 64 (v * 2 ^ 56 + 2 ^ 55), 0x1000, 0x40, 0x77])) }
theorem wit_entry : (entry5 1).launchOf 5 = none ∧ (entry5 1).eligible 5 = true ∧ (entry5 1).bound 5 = true ∧ ringPlaced ((entry5 1).reg (queueAt 5 0)).toNat = true ∧
    (entry5 1).rrMode 0 = 0 ∧ (queue5 0 0).eligible 5 = false ∧ { entry5 1 with launches := [{ running 1 with queue := 5 }] }.launchOf 5 = some { running 1 with queue := 5 } := by
  decide +kernel
theorem test_entry : (after (.queueEntryTake 5) (entry5 1)).launches.map (fun l => (l.st, l.irq, l.hdrVa, l.cpl, l.tag)) = [(.checking, true, 0x1000, 0x40, 0x77)] ∧
    (after (.queueEntryTake 5) (entry5 2)).launches.map (fun l => (l.st, l.status)) = [(.ending, 5)] := by decide +kernel
/-- A launch with this header. -/
def withHdr (l : List (Nat × Word)) (st : LaunchSt) : Launch := { running 9 with queue := 5, st := st, hdr := l.foldl (fun h p => h.set p.1 p.2) (List.replicate 32 0) }
theorem wit_checks : (queue5 pend 0).headerFault (withHdr [] .checking) = some 7 ∧
    (withHdr [(0, 0x4C48010000000000), (5, BitVec.ofNat 64 (553 * 2 ^ 12))] .checking).reservedOk = true ∧
    (queue5 pend 0).headerFault (withHdr [(0, 0x4C48010000000000), (5, BitVec.ofNat 64 (553 * 2 ^ 12))] .checking) = some 8 ∧
    (match (entry5 1).checkLaunch (withHdr [] .checking) with | (.wait, _) => true | _ => false) = true ∧
    (match { entry5 1 with tlb := [⟨false, 0, 0, 0, 0x0200000000050000⟩] }.checkLaunch (withHdr [] .checking) with | (.fail 7, _) => true | _ => false) = true := by
  decide +kernel
/-- A persistent timed launch of S on cluster 0, two granules to a core, that waits for it. -/
def timed1 : Launch := withHdr [(0, 0x4C48012000000002), (1, 0x10000), (5, BitVec.ofNat 64 (9 * 2 ^ 32))] .waiting
/-- A launch whose checks a machine with its header in memory at 0x51000 (page 0x1000) passes. -/
def passes : State :=
  let s := (queue5 pend 0).setReg 0x10000 0x8000000000000000
  { s with tlb := [⟨false, 0, 0, 0, 0x0600000000050000⟩, ⟨false, 0, 0, 0x10000, 0x0200000000060000⟩], mem := Mem.wrL [] (atAddr 0x51000 (wordBytes timed1.hdr)), launches := [{ timed1 with st := .checking, hdrVa := 0x1000, hdr := [] }] }
theorem test_checks : (passes.runChecks { timed1 with st := .checking, hdrVa := 0x1000, hdr := [] }).launches.map (fun l => (l.st, l.status, l.detail)) = [(.waiting, 0, 0)] := by
  decide +kernel
def startable : State := { queue5 pend (2 ^ 63) with launches := [timed1] }
theorem wit_start : startable.resumable = none ∧ (startable.launches.filter fun l => decide (l.st = .waiting) && startable.canStart l) = [timed1] ∧
    hdrWord timed1.hdr 7 = 0 ∧ startable.rrMode timed1.part = 0 ∧ (∀ a ∈ timed1.areas, startable.holders a = []) ∧ timed1.areas.flatten.Nodup ∧ timed1.mode < 2 ∧
    timed1.nvar = 0 ∧ timed1.areas.flatten.length = 16 := by decide +kernel
theorem test_start : (let t := after .launchSchedule startable
    decide (t.launches.map (·.st) = [.running]) && decide ((t.ctx 0).lid = 9) && decide ((t.ctx 0).s.pc = 0x10000) && (t.ctx 0).s.run && !(t.ctx 0).v.run &&
    decide ((t.ctx 0).gran = 2) && decide ((t.ctx 0).wdogLeft = 9)) = true := by decide +kernel
/-- Launch 9 of queue 5 in state st, its completion record at cpl of an address space whose first page is at 0x50000. -/
def ended (st : LaunchSt) (cpl : Word) : State :=
  { queue5 pend (2 ^ 63) with launches := [{ timed1 with st := st, cpl := cpl, tag := 0x77, status := 4, energy := 5000 }], tlb := [⟨false, 0, 0, 0, 0x0600000000050000⟩], datumNs := 12 }
theorem wit_end : (ended .ending 0x40).winding { timed1 with st := .ending, cpl := 0x40, tag := 0x77, status := 4, energy := 5000 } = false ∧ (ended .ending 0x40).packets = [] ∧
    (match (ended .ending 0x40).svcPage mapperUnit 9 0 0x40 5 19 with | (.ok 0x50040, s) => decide (s = ended .ending 0x40) | _ => false) = true ∧
    (ended .running 0x40).launchDone { timed1 with st := .running, cpl := 0x40, tag := 0x77, status := 4, energy := 5000 } = false ∧
    (let s := { (one 0 .S id) with launches := [running 1] }
     s.launchDone (running 1)) = false := by decide +kernel
theorem test_end : (let t := after (.launchEnd 9) (ended .ending 0x40)
    decide (t.launches = []) && decide ((t.reg (queueAt 5 1)) = BitVec.ofNat 64 (2 ^ 63 + 0x40004)) &&
    decide ((memWords t.mem 0x50040 4).map (·.2) = [0x0400000000000000, 0x77, 5, 12])) = true := by decide +kernel
/-- A packet that is on its way keeps the launch, one that no caw has sent does not. -/
def unanswered (sent : Bool) : State := { ended .ending 0x40 with packets := [{ pkt none sent false with lid := 9, cmd := 5 }] }
theorem wit_unanswered : (unanswered true).winding { timed1 with st := .ending } = true ∧ ((ended .ending 0x40).launches.map (·.id)) = [9] := by decide +kernel
theorem test_unanswered : ((after (.launchEnd 9) (unanswered true)).launch 9).isSome = true ∧ (after (.launchEnd 9) (unanswered true)).packets.length = 1 := by decide +kernel
theorem test_noRecord : (after (.launchEnd 9) (ended .ending 0x41)).launch 9 = none ∧
    (ended .ending 0x41).ringFull (evqhOff 0) (evqhOff 0 + 8) = false := by decide +kernel
theorem test_kill : (after (.qkill 5) (ended .running 0x40)).launches.map (fun l => (l.st, l.status)) = [(.ending, 4)] ∧
    gives (.qkill 4) (ended .running 0x40) (ended .running 0x40) = true := by decide +kernel
theorem test_heads : (after (.evqhWrite 0 300) State.reset).reg 0x1010040 = 44 ∧ (after (.evqhWrite 4 7) State.reset).reg 0x2040040 = 7 ∧
    (after (.evqhWrite 103 7) State.reset).reg 0x1310050 = 7 := by decide +kernel
theorem test_rrctl : (after (.rrctlWrite 2 0xFFFFFFFFFFFFFFFF) State.reset).reg 0x7000010 = 0xC000FFFFFFFFFFFF := by decide +kernel

/-! The package: power, partitions, the alarm, registers, records. -/

/-- A machine whose registers hold these words. -/
def withRegs (l : List (Nat × Nat)) : State := l.foldl (fun s p => s.setReg p.1 (BitVec.ofNat 64 p.2)) State.reset
/-- Partition 0 enabled, CAP 1 W, DUTY d. -/
def capped (d : Nat) : State := withRegs [(0x10000, 2 ^ 63), (0x10008, 2 ^ 32 + d)]
/-- The same as a window of 1,024 cycles ends: the controller meters mw and nj. -/
noncomputable def windowEnd (d : Nat) (mw : BitVec 32) (nj : Nat) : State := after (.powerWindowEnd [⟨0, mw, nj, []⟩]) { capped d with now := 1024 }
theorem test_power : (windowEnd 100 1001 2500).reg 0x10008 = 0x1000000A4 ∧ (windowEnd 100 937 2500).reg 0x10008 = 0x100000054 ∧
    (windowEnd 1008 938 2500).reg 0x10008 = 0x1000003F0 ∧ (windowEnd 100 937 2500).reg 0x10018 = 2 ∧
    mget 0 (windowEnd 100 937 2500).misc.rem 2000 = 500 ∧ gives (.powerWindowEnd [⟨0, 1001, 2500, []⟩]) (capped 100) (capped 100) = true := by
  decide +kernel
/-- Launch 1 of queue 7 has ended in the window that ends. -/
def endedInWindow : State := { capped 5 with now := 1024, misc := { (capped 5).misc with endedQ := [(1, 7)] } }
theorem test_lastWindow : (after (.powerWindowEnd [⟨0, 9, 0, [(1, 3000)]⟩]) endedInWindow).reg (0x20000 + 32 * 7 + 16) = 3 := by decide +kernel
theorem wit_power : { capped 5 with launches := [running 1] }.launch 1 = some (running 1) ∧ (running 1).queue < 1024 ∧ (capped 5).misc.recording = [] ∧
    (capped 5).reg 0x10000 = 0x8000000000000000 ∧ (capped 5).misc.windowAt + 1024 ≤ 1024 ∧ endedInWindow.launch 1 = none ∧
    (endedInWindow.misc.endedQ.find? fun p => p.1 = 1) = some (1, 7) := by decide +kernel
theorem test_throttle : (after (.throttleSlot 3) (capped 5)).misc.throttled = [3] := by decide +kernel
theorem wit_partition : (capped 0).overlaps 1 (0x8000000000000000 : Word) = true ∧ (capped 0).overlaps 1 (0 : Word) = false ∧
    (running 1).part = 0 ∧ (running 1).st = .running ∧ (capped 0).overlaps 0 (0x800000000000000C : Word) = false := by decide +kernel
theorem test_partition : (after (.partaWrite 0 0x8001FFFF00000FFF) (capped 9)).reg 0x10000 = 0x8000FFFF00000FFC ∧
    (after (.partaWrite 0 0x8000000000000000) (capped 9)).reg 0x10008 = 0x100000000 ∧
    gives (.partaWrite 1 0x8000000000000000) (capped 0) (capped 0) = true ∧ gives (.partaWrite 0 0) { capped 0 with launches := [running 1] } { capped 0 with launches := [running 1] } = true := by
  decide +kernel
/-- The floor of one cluster is 30 W, the sum at most 2,680 W. -/
theorem test_cap : gives (.capWrite 0 0x1D00000000) (capped 0) (capped 0) = true ∧ (after (.capWrite 0 0x1E00000000) (capped 0)).reg 0x10008 = 0x1E00000000 ∧
    (after (.capWrite 0 0xA7800000000) (capped 0)).reg 0x10008 = 0xA7800000000 ∧ gives (.capWrite 0 0xA7900000000) (capped 0) (capped 0) = true := by decide +kernel
theorem wit_alarm : (withRegs [(0x5000000, 2 ^ 63)]).unlocked = true ∧ (withRegs []).reg 0x6000008 = 0 ∧ (withRegs [(0x6000008, 0x400)]).reg 0x6000008 = 0x400 ∧
    (withRegs [(0x6000008, 0x200)]).reg 0x6000008 = 0x200 ∧ (withRegs [(0x6000008, 0x800)]).reg 0x6000008 = 0x800 := by decide +kernel
theorem test_alarm : (after .tamper (withRegs [])).reg 0x6000000 = 8 ∧ (after .tamper (withRegs [(0x6000008, 0x400)])).misc.keysErased = true ∧
    (after .memoryKeyInstall (after .tamper (withRegs [(0x6000008, 0x400)]))).misc.keysErased = false ∧
    (after .obsdataRead (withRegs [])).reg 0x6000000 = 2 ∧ (after (.frzWrite 0x1FF) (withRegs [(0x5000000, 2 ^ 63)])).reg 0x5000000 = 0x80000000000000FF ∧
    (after (.obskeyWrite 1 true 7) (withRegs [])).reg 0x5000000 = 0x8000000000000000 ∧
    (after .tamper { withRegs [(0x6000008, 0x200)] with launches := [running 1] }).launches.map (·.st) = [.ending] := by decide +kernel
theorem test_registers : gives (.registerWrite 0x6000008 5) (withRegs []) (withRegs []) = true ∧ (after (.registerWrite 0x18 0x12345) (withRegs [])).reg 0x18 = 0x2345 ∧
    (after (.registerWrite 0x6000000 1) (withRegs [(0x6000000, 3)])).reg 0x6000000 = 2 ∧
    (after (.managementFrame [⟨2, 0x18, 9⟩, ⟨1, 0x18, 0⟩]) (withRegs [])).sent = [.mgmt [⟨1, 0x18, 9⟩]] := by decide +kernel
/-- A package whose image was refused (log 83). -/
theorem test_badImage : gives (.bar2Access 0x1000 (some 5)) (withRegs [(8, 2 ^ 62)]) (withRegs [(8, 2 ^ 62)]) = true ∧ ((withRegs [(8, 2 ^ 62)]).reg 8).getLsbD 62 = true ∧
    bits ((after (.portTrained 2 77 9 3 3) (withRegs [(8, 2 ^ 62), (0x3002000, 2 ^ 63)])).reg 0x3002008) 63 62 = 3 := by decide +kernel
theorem test_bar2 : (after (.bar2Access 0x1000 (some 0x0102)) State.reset).mem = [(0x1000, 2), (0x1001, 1)] ∧
    (after (.bar2Access 0x1000 none) { State.reset with mem := [(0x1000, 2), (0x1001, 1)] }).sent = [.read (some 0x0102)] ∧ State.reset.misc.keysErased = false ∧
    State.reset.physPoison 0x1000 8 = false := by decide +kernel
/-- Bucket 5 of stack 1 in state st of job 2, whose record has EN set for stack 1, one bucket and round 4. -/
def job2 (st : Nat) : State :=
  let s := withRegs [(0x2100000 + 32 * 5, 0x4000), (0x2100000 + 32 * 5 + 8, st * 2 ^ 61 + 2 * 2 ^ 53), (0x2120000 + 32 * 2, 2 ^ 63 + 2 ^ 49 + 2 ^ 32 + 4)]
  s.setDie 1 { s.die 1 with pubd := [(2, 4, 5, 0x3F800000)] }
theorem wit_job : bits ((job2 1).reg (0x2100000 + 32 * 5 + 8)) 63 61 = 1 ∧ bits ((job2 4).reg (0x2100000 + 32 * 5 + 8)) 63 61 = 4 ∧
    (∀ x ∈ (job2 0).liveBuckets 1, (job2 0).bJob 1 x ≠ 2) ∧ (job2 0).stackDone 1 2 4 = true ∧
    ((List.range 8).filter fun k => ((job2 0).reg (0x2120000 + 32 * 2)).getLsbD (48 + k)) = [1] ∧ ((job2 0).reg (0x2120000 + 32 * 2)).getLsbD 63 = true ∧
    (job2 0).stackDone 1 2 5 = false := by decide +kernel
theorem test_job : gives (.bucketDescriptorWrite 1 5 0 7) (job2 1) (job2 1) = true ∧ (after (.bucketDescriptorWrite 1 5 0 0xFFFF) (job2 0)).reg (0x2100000 + 32 * 5) = 0xFFFF ∧
    (after (.jobRecordWrite 1 2 1 9) (job2 1)).reg (0x2120000 + 32 * 2 + 8) = 9 ∧ gives (.jobRecordWrite 1 2 2 9) (job2 1) (job2 1) = true ∧
    (after (.roundPublish 2 1) (job2 0)).reg (0x2120000 + 32 * 2) = BitVec.ofNat 64 (2 ^ 63 + 2 ^ 49 + 2 ^ 32 + 5) ∧
    (after (.roundPublish 2 1) (job2 0)).reg (0x2120000 + 32 * 2 + 16) = 0x43F800000 := by decide +kernel
theorem test_coreRegs : ((after (.mdepthWrite 3 8) State.reset).ctx 3).mdepth = 8 ∧ ((after (.mdepthWrite 3 9) State.reset).ctx 3).mdepth = 2 ∧
    ((after (.mdepthWrite 3 16) State.reset).ctx 3).mdepth = 2 := by decide +kernel
theorem test_fabric : (after (.slotmapWrite 2 3 7) { State.reset with datumNs := 1 }).reg 0x3002098 = 7 ∧
    (((after (.slotmapWrite 2 3 7) { State.reset with datumNs := 1 }).port 2).mapOld = [(16384, 3, 0)]) ∧
    (after (.keyInstall (.port 2) 5) State.reset).reg 0x3002018 = 0x8000000000000000 ∧
    (after (.bpcfgWrite 0xFFFFFFFFFFFFFFFF) State.reset).reg 0x3010000 = 0x801FFFFFFFFFFFFF ∧
    gives (.bpviewWrite 5) (withRegs [(0x3010018, 2 ^ 62)]) (withRegs [(0x3010018, 2 ^ 62)]) = true := by decide +kernel
theorem test_packageReset : (after (.packageReset ⟨true, 7, 9, 0x80000003, 0x401, 3, 4⟩) (withRegs [(0x18, 5)])).reg 0 = 0x4453038400070000 ∧
    (after (.packageReset ⟨true, 7, 9, 0x80000003, 0x401, 3, 4⟩) (withRegs [(0x18, 5)])).reg 0x18 = 0 ∧
    ((after (.packageReset ⟨true, 7, 9, 0x80000003, 0x401, 3, 4⟩) (withRegs [])).core 447).spbase = 0x80000000 ∧
    (after (.packageReset ⟨false, 7, 9, 0x80000003, 0x401, 3, 4⟩) (withRegs [])).reg 0x6000000 = 4 := by decide +kernel

/-! Direct ports. -/

/-- Port 2 up, with these further registers. -/
def up2 (l : List (Nat × Nat)) : State := withRegs ((0x3002000, 2 ^ 63 + 4 * 2 ^ 32) :: (0x3002008, 2 ^ 62) :: l)
theorem wit_port : (up2 []).portUp 2 = true ∧ (up2 []).portUp 3 = false ∧ (up2 []).reg 0x6000008 = 0 ∧ bits ((up2 []).reg 0x3002008) 61 60 = 0 ∧
    bits ((up2 []).reg 0x3002018) 39 0 = 0 ∧ ((up2 []).port 2).buf = [] ∧ ((up2 []).port 2).noKey = false ∧ ((up2 []).port 2).claims = [] ∧
    bits ((up2 []).reg 0x3002008) 59 58 = 0 ∧ bits ((up2 [(0x3002008, 2 ^ 62 + 2 ^ 58)]).reg 0x3002008) 59 58 = 1 ∧ bits ((up2 [(0x3002008, 2 ^ 62 + 2 ^ 60)]).reg 0x3002008) 61 60 = 1 ∧
    ((up2 [(0x3002018, 2 ^ 63)]).reg 0x3002018).getLsbD 63 = true ∧ ((up2 [(0x3010020, 2 ^ 63)]).reg 0x3010020).getLsbD 63 = true := by decide +kernel
/-- The header of an intact flit with LSEQ l that acknowledges nothing. -/
def hdr (l : Nat) : FlitHdr := ⟨true, BitVec.ofNat 24 l, 0xFFFFFF⟩
/-- What port 2 has to send, with the classes. -/
def toLeave (s : State) : List (Nat × FlitBody) := (s.port 2).txq.map fun m => (m.cls, m.body)
theorem wit_flit : flitIn (up2 []) 2 (hdr 0) ∧ ahead (up2 []) 2 (hdr 0) = 0 ∧ ahead (up2 []) 2 (hdr 3) = 3 ∧ 2 ^ 23 ≤ ahead (up2 []) 2 (hdr (2 ^ 24 - 1)) ∧
    ((up2 []).port 2).nakFor ≠ some ((up2 []).port 2).lseqRx ∧
    ((after (.idleFlit 2 (hdr 3) 0) (up2 [])).port 2).nakFor = some ((after (.idleFlit 2 (hdr 3) 0) (up2 [])).port 2).lseqRx := by
  unfold flitIn ahead; decide +kernel
theorem test_flit : bits ((after (.idleFlit 2 { hdr 0 with tagOk := false } 0) (up2 [])).reg 0x3002008) 63 62 = 3 ∧
    bits ((after (.idleFlit 2 (hdr 0) 9) (up2 [])).reg 0x3002008) 63 62 = 3 ∧ gives (.idleFlit 3 (hdr 0) 0) (up2 []) (up2 []) = true ∧
    ((after (.idleFlit 2 (hdr 0) 0) (up2 [])).port 2).lseqRx = 0 ∧ ((after (.linkControl 2 (hdr 0) (.ack 9)) (up2 [])).port 2).lseqRx = 1 ∧
    bits ((after (.linkControl 2 (hdr 0) (.level 2)) (up2 [])).reg 0x3002008) 59 58 = 2 ∧
    bits ((after (.linkControl 2 (hdr 0) (.drop 1)) (up2 [])).reg 0x3002008) 61 60 = 1 ∧
    ((after (.linkControl 2 (hdr 0) (.lock true)) (up2 [])).reg 0x3002008).getLsbD 57 = true ∧
    bits ((after (.linkControl 2 (hdr 0) (.depth 9)) (up2 [])).reg 0x3002008) 37 32 = 9 := by decide +kernel
/-- A gap is answered by one nak, and a repeated flit by nothing (R438). -/
theorem test_gap : toLeave (after (.linkControl 2 (hdr 3) (.depth 9)) (up2 [])) = [(1, .control (.nak 0xFFFFFF))] ∧
    bits ((after (.linkControl 2 (hdr 3) (.depth 9)) (up2 [])).reg 0x3002008) 37 32 = 0 ∧
    (let t := after (.linkControl 2 (hdr 3) (.depth 9)) (up2 [])
     gives (.linkControl 2 (hdr 4) (.depth 9)) t t) = true ∧
    gives (.linkControl 2 (hdr (2 ^ 24 - 1)) (.depth 9)) ((up2 []).setPort 2 ((up2 []).port 2)) ((up2 []).setPort 2 ((up2 []).port 2)) = true := by decide +kernel
/-- Two flits of a sent message in port 2's retry buffer, under LSEQ 5 and 6. -/
def twoFlits : TxMsg := ⟨2, 0, 2, 0, some 5, .control (.depth 1)⟩
def buffered : State := (up2 []).setPort 2 { (up2 []).port 2 with lseqTx := 7, buf := [twoFlits] }
theorem wit_buffered : (buffered.port 2).buf = [twoFlits] ∧ (buffered.port 2).txq = [] ∧ twoFlits.n < 2 ^ 23 ∧ buffered.txLevel 2 = 0 ∧
    (buffered.port 2).claims = [] := by decide +kernel
theorem test_retry : ((after (.linkControl 2 (hdr 0) (.ack 6)) buffered).port 2).buf = [] ∧
    ((after (.linkControl 2 (hdr 0) (.ack 5)) buffered).port 2).buf.map (fun m => (m.n, m.lseq)) = [(1, some 6)] ∧
    ((after (.linkControl 2 (hdr 0) (.nak 4)) buffered).port 2).txq.map (fun m => (m.cls, m.left, m.n, m.lseq)) = [(0, 2, 2, some 5)] ∧
    ((after (.linkControl 2 (hdr 0) (.nak 4)) buffered).port 2).buf = [] ∧
    ((after (.linkControl 2 { hdr 0 with ack := 6 } (.depth 1)) buffered).port 2).buf = [] ∧
    toLeave (after (.uncorrectedFlit 2) (up2 [])) = [(1, .control (.nak 0xFFFFFF))] := by decide +kernel
theorem test_training : bits ((after (.portRetrain 2) (up2 [])).reg 0x3002008) 63 62 = 0 ∧
    bits ((after (.portTrained 2 77 9 1 2) (after (.portRetrain 2) (up2 []))).reg 0x3002008) 63 58 = 0x16 ∧
    (after (.portTrained 2 77 9 1 2) (after (.portRetrain 2) (up2 []))).reg 0x3002010 = 77 ∧
    toLeave (after (.portTrained 2 77 9 1 2) (up2 [])) = [(1, .control (.depth 4))] ∧
    bits ((after (.portTrained 2 77 9 3 3) (up2 [])).reg 0x3002008) 63 62 = 2 ∧
    toLeave (after (.laneDegrade 2 true true) (up2 [])) = [(1, .control (.drop 1))] ∧
    bits ((after (.laneDegrade 2 false true) (up2 [])).reg 0x3002008) 61 60 = 1 ∧
    toLeave (after (.laneDegrade 2 false true) (up2 [])) = [(1, .control (.level 1))] ∧
    (after (.epochEnd (.port 2)) (up2 [(0x3002018, 2 ^ 63 + 7)])).reg 0x3002018 = 0x10000000000 ∧ ((after (.epochEnd (.port 2)) (up2 [])).port 2).noKey = true := by
  decide +kernel
/-- A port whose side has no key, and takes the next one. -/
def keyless (l : List (Nat × Nat)) : State := let s := up2 l; s.setPort 2 { s.port 2 with noKey := true }
theorem wit_keyless : ((keyless []).port 2).noKey = true ∧ ((keyless []).reg 0x3002018).getLsbD 63 = false ∧
    ((keyless [(0x3002018, 2 ^ 63)]).reg 0x3002018).getLsbD 63 = true ∧ ((keyless []).reg 8).getLsbD 62 = false := by decide +kernel
theorem test_keyless : bits ((after (.portTrained 2 77 9 1 1) (keyless [])).reg 0x3002008) 63 62 = 3 ∧
    ((after (.portTrained 2 77 9 1 1) (keyless [(0x3002018, 2 ^ 63)])).port 2).noKey = false ∧
    bits ((after (.portTrained 2 77 9 1 1) (keyless [(0x3002018, 2 ^ 63)])).reg 0x3002008) 63 62 = 1 := by decide +kernel
/-- Unit 5 as core 5 with 8 granules, in a launch of address space 0. -/
def target (s : State) : State := s.modCore 5 fun k => { k with ctx := { Ctx.zero with lid := 1, gran := 8 } }
/-- Scheduled bytes for scratchpad offset a of core 5. -/
def sched5 (a : Nat) : SchedFlit := ⟨hdr 0, ⟨800, 0, 0, 5, BitVec.ofNat 64 a, [1, 2]⟩⟩
theorem wit_sched : (target (up2 [])).replaysAt 0 5 0 = false ∧ (target (up2 [])).misc.recording = [] ∧ (target (up2 [])).ingressOk 5 0 0x40 2 true = true ∧
    ((target (up2 [])).touch 5 [0x40, 0x41]).1 = true ∧ (target (up2 [])).ingressOk 5 0 (8 * Config.granule) 2 true = false ∧
    ((target (up2 [])).port 2).claims = [] := by decide +kernel
/-- The same with core 5's region over 0x0 to 0xFFF not filled yet. -/
def unfilled : State := (target (up2 [])).modCore 5 fun k => { k with regions := [(2, ⟨true, 0x10000, 0, 1, 0, [], [], []⟩)] }
/-- The fill that a remote chunk began there has been denied. -/
def deniedFill : State := { unfilled with outs := [⟨7, 5, .C, 0, 0, 0, 0x10000, .fill 5 2 0, .answered, 0, [], false, some ⟨4, 0, 0, 0, 0⟩, ⟨[], 0⟩⟩] }
theorem wit_unfilled : (unfilled.touch 5 [0x40, 0x41]).1 = false ∧ unfilled.ingressOk 5 0 0x40 2 true = true ∧ unfilled.replaysAt 0 5 0 = false := by decide +kernel
theorem test_unfilled : ((after (.scheduledData 2 (sched5 0x40)) unfilled).port 2).heldSched = [(0, (sched5 0x40).body)] ∧ ((after (.scheduledData 2 (sched5 0x40)) unfilled).core 5).spad = [] := by decide +kernel
theorem test_sched : ((after (.scheduledData 2 (sched5 0x40)) (target (up2 []))).core 5).spad = [(0x40, 1), (0x41, 2)] ∧
    toLeave (after (.scheduledData 2 (sched5 (8 * Config.granule))) (target (up2 []))) = [(2, .answer (.sched 0 .refused))] ∧
    gives (.scheduledSlot 2) (target (up2 [])) (target (up2 [])) = true := by decide +kernel

/-- A command of unit 0 that sends 64 bytes of its scratchpad to core 5 of the package at port 2. -/
def sendCmd : CCmd := ccmd (.csendt 2 0 0x00A0000000000000 0 (loc 0x1000) 64 800)
/-- It holds the slot of datum time 800 on port 2; the datum is at n. -/
def claim3 : Claim := ⟨800, 5, 0, 64, false, 0⟩
def slot3 (n : BitVec 64) : State :=
  let s := (up2 [(0x3020008, 2 ^ 63), (0x3002008, 2 ^ 62 + 2 ^ 57), (0x3002088, 2 ^ 36)]).modCore 0 fun k =>
    { k with spad := [(0x1000, 7)], ctx := { Ctx.zero with lid := 1, gran := 8, chans := k.ctx.chans.set 1 ⟨[sendCmd], 0⟩ } }
  { s.setPort 2 { s.port 2 with claims := [claim3] } with datumNs := n }
theorem wit_slot : ((slot3 803).port 2).claims.find? (fun c => !c.gone && decide (c.start ≤ (slot3 803).datumNs.toNat / 8 * 8)) = some claim3 ∧
    (slot3 803).cmdOwner 5 = some (0, 1, sendCmd) ∧ (slot3 803).locked 2 = true ∧ (slot3 803).scheduled 2 800 = true ∧ ((slot3 803).setReg 0x3002088 0).scheduled 2 800 = false ∧ 64 ≤ slotCap ((slot3 803).txLevel 2) ∧ (slot3 803).portUp 2 = true ∧
    ((slot3 808).port 2).claims.find? (fun c => !c.gone && decide (c.start ≤ (slot3 808).datumNs.toNat / 8 * 8)) = some claim3 := by decide +kernel
theorem test_slot : (vget ((after (.scheduledSlot 2) ((slot3 803).setReg 0x3002088 0)).ctx 0).chans 1 ⟨[], 0⟩).cause = 0x15 ∧ ((after (.scheduledSlot 2) (slot3 803)).port 2).claims.map (·.gone) = [true] ∧ (after (.scheduledSlot 2) (slot3 803)).sent.length = 1 ∧
    (vget ((after (.scheduledSlot 2) (slot3 803)).ctx 0).chans 1 ⟨[], 0⟩) = ⟨[], 0⟩ ∧
    (vget ((after (.scheduledSlot 2) (slot3 808)).ctx 0).chans 1 ⟨[], 0⟩).cause = 0x15 := by decide +kernel
/-- A request of kind k for n bytes at offset 0x40 of core 5, number 7, ring slot 1. -/
def req (k : BitVec 2) (n : Nat) : OpenReq := ⟨k, 0, 0, 5, 0x40, BitVec.ofNat 13 n, false, 0, 7, 1, 3, 2, 0, none, false⟩
/-- Core 5 holds 9 at 0x40; port 2's ring holds l. -/
def ringed (l : List RingSlot) : State :=
  let s := (target (up2 [])).modCore 5 fun k => { k with spad := [(0x40, 9)] }
  s.setPort 2 { s.port 2 with ring := l }
def line7 : OpenLine := ⟨7, 0, 1, List.replicate 64 3⟩
theorem wit_open : (ringed []).portUp 2 = true ∧ bits ((ringed []).reg (portAt 2)) 37 32 = 4 ∧ ((ringed []).port 2).ring = [] ∧ (ringed []).replaysAt 0 5 0 = false ∧
    (ringed []).ingressOk 5 0 0x40 64 false = true ∧ (ringed []).ingressOk 5 0 0x40 64 true = true ∧ ((ringed []).touch 5 [0x40, 0x40 + 63]).1 = true ∧
    (ringed []).misc.recording = [] ∧ ((ringed [⟨1, req 0 64, [], false⟩]).port 2).ring = [⟨1, req 0 64, [], false⟩] ∧ (req 0 64).len.toNat = 64 := by decide +kernel
theorem test_open : toLeave (after (.openRequest 2 (hdr 0) (req 1 2)) (ringed [])) = [(2, .answer (.chunk 3 2 7 1 .done [9, 0]))] ∧
    ((after (.openRequest 2 (hdr 0) (req 0 64)) (ringed [])).port 2).ring = [⟨1, req 0 64, [], false⟩] ∧
    ((after (.openRequest 2 (hdr 0) { req 0 64 with slot := 4 }) (ringed [])).port 2).ring = [] ∧
    toLeave (after (.openData 2 (hdr 0) [line7]) (ringed [⟨1, req 0 64, [], false⟩])) = [(2, .answer (.chunk 3 2 7 1 .done []))] ∧
    ((after (.openData 2 (hdr 0) [line7]) (ringed [⟨1, req 0 64, [], false⟩])).core 5).spad.rd 0x7F = 3 ∧
    ((after (.openData 2 (hdr 0) [{ line7 with seq := 8 }]) (ringed [⟨1, req 0 64, [], false⟩])).port 2).ring = [⟨1, req 0 64, [], false⟩] := by decide +kernel
/-- A request that is repeated by a replay is performed once (R436, R438). -/
theorem test_repeated : (let t := after (.openRequest 2 (hdr 0) (req 1 2)) (ringed [])
    gives (.openRequest 2 (hdr 0) (req 1 2)) t t) = true := by decide +kernel
/-- An add of 64 bytes to the byte barrier at 0x80 of core 5, which expects n, alone (log 80) or with its chunk. -/
def addReq (a : Bool) : OpenReq := { req 0 64 with add := a, count := true, bb := 0x80 }
def barred (n : Byte) (l : List RingSlot) : State := (ringed l).modCore 5 fun k => { k with spad := [(0x84, n)] }
theorem wit_counts : (barred 128 []).ingressOk 5 0 0x80 8 true = true ∧ ((barred 128 []).touch 5 [0x80]).1 = true ∧ ((barred 128 []).touch 5 [0x40, 0x40 + 63, 0x80]).1 = true ∧
    bbSum (leNat (((barred 128 []).core 5).spad.rdN 0x80 8)) 64 = some (128 * 2 ^ 32 + 64) ∧ bbSum (leNat (((barred 0 []).core 5).spad.rdN 0x80 8)) 64 = none := by decide +kernel
theorem test_counts : toLeave (after (.openRequest 2 (hdr 0) (addReq true)) (barred 128 [])) = [(2, .answer (.chunk 3 2 7 1 .done []))] ∧
    ((after (.openRequest 2 (hdr 0) (addReq true)) (barred 128 [])).core 5).spad = [(0x80, 64), (0x84, 128)] ∧
    toLeave (after (.openRequest 2 (hdr 0) (addReq true)) (barred 0 [])) = [(2, .answer (.chunk 3 2 7 1 .unadded []))] ∧
    toLeave (after (.openData 2 (hdr 0) [line7]) (barred 128 [⟨1, addReq false, [], false⟩])) = [(2, .answer (.chunk 3 2 7 1 .done []))] ∧
    ((after (.openData 2 (hdr 0) [line7]) (barred 128 [⟨1, addReq false, [], false⟩])).core 5).spad.rd 0x80 = 64 ∧
    toLeave (after (.openData 2 (hdr 0) [line7]) (barred 0 [⟨1, addReq false, [], false⟩])) = [(2, .answer (.chunk 3 2 7 1 .unadded []))] ∧
    ((after (.openData 2 (hdr 0) [line7]) (barred 0 [⟨1, addReq false, [], false⟩])).core 5).spad.rd 0x7F = 3 := by decide +kernel
/-- What a request for core 5 meets: it lands there, waits for a chunk of a region, is refused, or names another address space. -/
theorem wit_lands : (ringed []).ingressOk 5 0 0x40 64 true = true ∧ (ringed []).ingressOk 5 1 0x40 64 true = false ∧
    (match ((ringed []).tickUid).ingressTouch 5 (touchPts 0x40 64) with | (.ends .done [], _) => true | _ => false) = true ∧
    (match (unfilled.tickUid).ingressTouch 5 (touchPts 0x40 64) with | (.wait, _) => true | _ => false) = true ∧
    (match ((barred 0 []).tickUid).ingressTouch 5 [0x80] with | (.ends .done [], s) => decide (s.misc.recording = []) && !s.padSealed 5 && decide (s.groupOf 1 = 0) | _ => false) = true ∧
    (match (deniedFill.tickUid).ingressTouch 5 (touchPts 0x40 64) with | (.ends .refused [], _) => true | _ => false) = true := by decide +kernel
/-- A packet in an open request reaches its stack. -/
def pktReq : OpenReq := { req 0 0 with pkt := some ⟨9, 0, 0, 0, 0, 5, 0, 2, List.replicate 64 1⟩ }
theorem test_pktRequest : toLeave (after (.openRequest 2 (hdr 0) pktReq) (ringed [])) = [(2, .answer (.packet 9 .config))] := by decide +kernel
/-- A remote chunk of channel ch of unit 0, number 7 at port 2; with ch = 4 the chunk of a firing. -/
def out7 (ch : Nat) (get late : Bool) : RemOut := ⟨2, 7, 1, 0, 1, ch, 5, 0, 0, 0x40, 0, get, false, late⟩
def remote7 (k : CCmd) (r : RemOut) : State :=
  { ((up2 []).modCore 0 fun c => { c with ctx := { Ctx.zero with lid := 1, gran := 8, chans := c.ctx.chans.set 1 ⟨[k], 0⟩ } }) with
    remote := [r], fires := [⟨5, 0, 0, 0, 1, 0, 0, 0, none, [(0, [])], 1, [], ⟨[], 0⟩, true⟩] }
/-- A read of one chunk that is in transfer. -/
def getting : State :=
  remote7 { ccmd (.cget 0 0 0 0 (loc 0x1000) 64) with next := 1, flights := [⟨none, [(loc 0x1000, 2 ^ 60 + 0x1000, [0])], false⟩] } (out7 1 true false)
def putting : State := remote7 { ccmd (.cput 2 0 0 0 (loc 0) 64 none) with next := 1 } (out7 1 false false)
/-- The same chunk after its time-out, and a chunk of a firing. -/
def outTimed : State := remote7 { ccmd (.cput 2 0 0 0 (loc 0) 64 none) with next := 1 } (out7 1 false true)
def firing7 : State := remote7 (ccmd (.tready 0)) (out7 4 false false)
theorem wit_answer : getting.remote.find? (fun r => decide (r.port = 2) && decide (r.seq = 7)) = some (out7 1 true false) ∧
    getting.remote.find? (fun r => decide (r.port = 2) && decide (r.seq = 8)) = none ∧ getting.misc.recording = [] ∧
    (firing7.fires.find? fun f => f.id = 5).isSome = true ∧ getting.portUp 2 = true ∧ outTimed.awaited = [] ∧
    putting.awaited = [out7 1 false false] ∧ (putting.remote.map fun r => ((putting.remoteCmd r).map (·.id))) = [some 5] := by decide +kernel
theorem test_answer : (vget ((after (.answer 2 (hdr 0) (.chunk 0 1 7 1 .refused [])) getting).ctx 0).chans 1 ⟨[], 0⟩).cause = 0x14 ∧
    (after (.answer 2 (hdr 0) (.chunk 0 1 7 1 .done [1])) getting).remote = [] ∧
    ((vget ((after (.answer 2 (hdr 0) (.chunk 0 1 7 1 .done [1])) getting).ctx 0).chans 1 ⟨[], 0⟩).cmds.map fun k => k.flights.map fun f => (f.at_, f.pieces.map (·.2.2))) =
      [[(some 0, [[1]])]] ∧
    (vget ((after (.answer 2 (hdr 0) (.chunk 0 1 7 1 (.raced 0x40 9) [])) getting).ctx 0).chans 1 ⟨[], 0⟩).cause = 5 ∧
    (after (.answer 2 (hdr 0) (.chunk 0 1 8 1 .done [1])) getting).remote.length = 1 ∧
    (after (.answer 2 (hdr 0) (.chunk 0 1 7 1 .done [])) firing7).fires = [] ∧
    (after (.answer 2 (hdr 0) (.chunk 0 1 7 1 .refused [])) outTimed).remote = [] := by decide +kernel
/-- R303, R320: a refused add and a chunk that is held. -/
theorem test_putting : (vget ((after (.answer 2 (hdr 0) (.chunk 0 1 7 1 .unadded [])) putting).ctx 0).chans 1 ⟨[], 0⟩).cause = 8 ∧
    ((vget ((after (.answer 2 (hdr 0) (.chunk 0 1 7 1 .unadded [])) putting).ctx 0).chans 1 ⟨[], 0⟩).cmds.map (·.adds)) = [[(0, 0)]] ∧
    (after (.answer 2 (hdr 0) (.held 0 1 7 1)) putting).remote.map (·.held) = [true] ∧
    (after (.answer 2 (hdr 0) (.packet 9 .late)) { up2 [] with packets := [pkt none true false] }).packets.map (·.ans) = [some .late] := by decide +kernel

/-! The optical plane and the datum. -/

/-- Package 1 of a view of members 0, 1 and 2 in epoch 3, which runs and has performed 4 bursts. -/
def plane1 (l : List (Nat × Nat)) : State :=
  withRegs ([(0x3010000, 2 ^ 63 + 2 ^ 48), (0x3010008, 3 * 2 ^ 32 + 7), (0x3010010, 4), (0x3010018, 2 ^ 62)] ++ l)
/-- Burst 5 of member m. -/
def burst5 (m : BitVec 5) : BurstHdr := ⟨true, m, 3, 5⟩
theorem wit_burst : burstInTurn (burst5 0) (plane1 []) ∧ burstInTurn (burst5 1) (plane1 []) ∧ myPos (plane1 []) = 1 ∧ bits ((plane1 []).reg 0x3020010) 57 56 = 0 ∧
    bits ((plane1 [(0x3020010, 2 ^ 56)]).reg 0x3020010) 57 56 = 1 ∧ (plane1 []).plane.dataId = [] ∧
    (∀ c ∈ (plane1 []).cores, ∀ x ∈ c.2.ctx :: c.2.bank :: c.2.saved, x.bar = none) := by
  unfold burstInTurn; decide +kernel
/-- A launch of group 3 with a page of its address space, so that a chunk of a broadcast can land. -/
def group3 (l : List TlbEnt) : State := { plane1 [] with launches := [{ running 1 with hdr := (List.replicate 32 0).set 0 (BitVec.ofNat 64 (3 * 2 ^ 13)) }], tlb := l }
def chunk3 : BurstData := ⟨3, 5, 0x1000, none, 0, [8, 9]⟩
theorem wit_broadcast : ((group3 []).groupLaunch 3).isSome = true ∧ (group3 []).misc.replay = [] ∧ (group3 []).misc.recording = [] ∧ (group3 []).misc.keysErased = false ∧
    (match (group3 [⟨false, 0, 0, 0, 0x0600000000050000⟩]).svcRange ingressUnit 0 0 0x1000 2 6 3500 with | (.ok ps, _) => decide (ps = [(0x51000, 2)]) | _ => false) = true ∧
    (let r := (group3 [⟨false, 0, 0, 0, 0x0600000000050000⟩]).bcastIn (burst5 0) chunk3
     r.1 && decide (r.2.plane = (group3 []).plane) && decide (myPos r.2 = 1)) = true ∧
    (let r := (group3 []).bcastIn (burst5 0) chunk3
     !r.1 && decide (r.2.plane = (group3 []).plane)) = true := by decide +kernel
theorem wit_noRemoteRace : ((group3 []).remoteGlobal ((group3 []).remoteAcc 1 0 5 (chunkComp 1 0 true)) 0 5 (chunkComp 1 0 true) 1 0 0x1000 [(0x51000, 2)]).1 = none := by
  decide +kernel
/-- Two writes of packages 0 and 2 to one line of group memory race (R282): the second one's sender hears of it. -/
theorem test_remoteRace : (let s := { group3 [⟨false, 0, 0, 0, 0x0600000000050000⟩] with launches := (group3 []).launches }
    let t := after (.dataBurst (burst5 0) chunk3) s
    decide ((t.remoteGlobal (t.remoteAcc 1 2 7 (chunkComp 99 0 true)) 2 7 (chunkComp 99 0 true) 1 0 0x1000 [(0x51000, 2)]).1.isSome)) = true := by decide +kernel
/-- The fence burst of another member is a place in T for the launches of groups. -/
theorem test_fenceOrder : (group3 []).launches.map (·.group) = [3] ∧ (after (.fenceBurst (burst5 0) [6]) (group3 [])).reg 0x3010010 = 5 := by decide +kernel
/-- Two operations of this package that its burst 5 carries. -/
def carried : State := let s := plane1 []
  { s with plane := { s.plane with ops := [⟨0, 3, .S, 6, 1, some 5, false⟩, ⟨0, 2, .S, 9, 1, some 5, true⟩] } }
/-- They take their places in T by core, and the atomic is then performed in its turn. -/
theorem test_carried : (after (.fenceBurst (burst5 1) [2, 3]) carried).plane.done = [9, 6] ∧
    (after (.fenceBurst (burst5 1) [2, 3]) carried).plane.order.map (·.id) = [9] := by decide +kernel
theorem test_bursts : (after (.tokenBurst (burst5 0) 1) (plane1 [])).reg 0x3010018 = 0x6000000000000000 ∧ (after (.tokenBurst (burst5 0) 1) (plane1 [])).reg 0x3010010 = 5 ∧
    (after (.tokenBurst (burst5 1) 2) (plane1 [(0x3010018, 3 * 2 ^ 61)])).reg 0x3010018 = 0x4000000000000000 ∧
    gives (.tokenBurst ⟨true, 0, 3, 4⟩ 1) (plane1 []) (plane1 []) = true ∧ gives (.tokenBurst ⟨true, 0, 2, 5⟩ 1) (plane1 []) (plane1 []) = true ∧ gives (.tokenBurst ⟨true, 3, 3, 5⟩ 1) (plane1 []) (plane1 []) = true ∧
    (after (.controlBurst (burst5 0) 2) (plane1 [])).reg 0x3010018 = 0x5000000000000000 ∧
    bits ((after (.controlBurst { burst5 0 with tagOk := false } 2) (plane1 [])).reg 0x3010018) 63 62 = 0 := by decide +kernel
theorem test_dataBursts : (after (.dataBurst (burst5 0) chunk3) (group3 [⟨false, 0, 0, 0, 0x0600000000050000⟩])).mem = [(0x51000, 8), (0x51001, 9)] ∧
    (after (.dataBurst (burst5 0) chunk3) (group3 [])).plane.held = [⟨burst5 0, .data chunk3⟩] ∧
    (after (.fenceBurst (burst5 0) [6]) (plane1 [])).plane.done = [] ∧ (after (.barrierBurst (burst5 2) 3) (group3 [])).plane.arrived = [(3, 2)] := by decide +kernel
theorem test_proposals : (after (.proposalBurst (burst5 0) 4 3) (plane1 [])).reg 0x3010008 = 0x400000003 ∧ bits ((after (.proposalBurst (burst5 0) 4 5) (plane1 [])).reg 0x3010018) 63 62 = 2 ∧
    (after (.nakBurst (burst5 0) 4) { plane1 [] with plane := { (plane1 []).plane with kept := [⟨⟨true, 1, 3, 4⟩, .token 2⟩] } }).plane.resend = [4] ∧
    bits ((after (.timingBurst (burst5 0) ⟨0, 77, 0, 0⟩) (plane1 [])).reg 0x3020008) 31 0 = 77 := by decide +kernel
/-- The last token burst named member 2, on real cycle 1; the limit is 100 cycles. -/
def silent (n : Nat) : State := let s := plane1 [(0x3010000, 2 ^ 63 + 2 ^ 48 + 100 * 2 ^ 20)]
  { s with now := n, plane := { s.plane with tokenTo := 2, tokenAt := 1 } }
/-- Burst 5 has been received with an error twice. -/
def failing : State := { plane1 [] with plane := { (plane1 []).plane with lost := [(5, 2)] } }
theorem wit_lost : (silent 200).tokenLost 2 = true ∧ (silent 200).planeFits 1 = true ∧ (silent 90).tokenLost 2 = false ∧ bits ((plane1 []).reg 0x3010018) 63 62 = 1 ∧
    (plane1 []).plane.lost = [] ∧ (plane1 []).plane.dataId = [] ∧ mget 0 failing.plane.lost 5 = 2 ∧ failing.planeFits 1 = true ∧
    ({ plane1 [] with plane := { (plane1 []).plane with noKey := true } } : State).planeFits 1 = false := by decide +kernel
theorem test_lost : (after (.tokenTimeout 2) (silent 200)).sent.head? = some (.burst ⟨⟨true, 1, 3, 5⟩, .proposal 4 2⟩) ∧
    gives (.tokenTimeout 2) (silent 90) (silent 90) = true ∧ (after (.uncorrectedBurst 5) (plane1 [])).plane.lost = [(5, 1)] ∧
    (after (.uncorrectedBurst 5) failing).sent = [.burst ⟨⟨true, 1, 3, 6⟩, .proposal 4 5⟩] ∧
    bits ((after (.uncorrectedBurst 5) failing).reg 0x3010018) 63 62 = 2 := by decide +kernel
theorem wit_join : ((plane1 [(0x3010018, 0)]).reg 0x3010000).getLsbD 63 = true ∧ bits ((plane1 [(0x3010018, 0)]).reg 0x3010018) 63 62 = 0 ∧
    (bits ((plane1 []).reg 0x3010008) 31 0).testBit (myPos (plane1 [])) = true := by decide +kernel
/-- A JOINING package has its transit time measured (STARLAT: a free value is drawn); a package outside the view does not join. -/
theorem test_join : (plane1 [(0x3010018, 0)]).joinDue = true ∧ (after .bpJoin (plane1 [(0x3010018, 0)])).free = (plane1 []).free + 1 ∧
    (plane1 [(0x3010018, 0), (0x3010008, 4)]).joinDue = false ∧ (after .bpJoin (plane1 [(0x3010018, 0), (0x3010008, 4)])).free = (plane1 []).free := by decide +kernel
/-- The datum in state st, after c near offsets. -/
def datum (st c : Nat) : State := { withRegs [(0x3020008, st * 2 ^ 62)] with lockCnt := c }
/-- A message of domain 0x80 (reset) or other, of this offset in picoseconds. -/
def msg (o : Int) (step : Nat) (slew : Int) : TimeMsg := ⟨0, BitVec.ofInt 32 o, BitVec.ofNat 64 step, BitVec.ofInt 32 slew⟩
theorem wit_datum : (msg 1500 0 0).domain.toNat = bits ((datum 1 15).reg 0x3020010) 55 48 ∧ bits ((datum 1 15).reg 0x3020008) 63 62 = 1 ∧ (msg 1500 0 0).offset.toInt = 1500 ∧
    (datum 1 15).lockCnt = 15 ∧ bits ((datum 2 0).reg 0x3020008) 63 62 = 2 ∧ bits ((datum 3 0).reg 0x3020008) 63 62 = 3 ∧ bits ((datum 0 0).reg 0x3020008) 63 62 = 0 ∧
    ({ msg 0 0 0 with domain := 1 } : TimeMsg).domain.toNat ≠ bits ((datum 1 15).reg 0x3020010) 55 48 := by decide +kernel
theorem test_followUp : bits ((after (.followUp (msg 1500 0 0)) (datum 1 15)).reg 0x3020008) 63 62 = 2 ∧ bits ((after (.followUp (msg 1501 0 0)) (datum 1 15)).reg 0x3020008) 63 62 = 1 ∧
    (after (.followUp (msg 1501 0 0)) (datum 1 15)).lockCnt = 0 ∧ bits ((after (.followUp (msg (-2001) 0 0)) (datum 2 0)).reg 0x3020008) 63 62 = 1 ∧
    bits ((after (.followUp (msg (-2000) 0 0)) (datum 2 0)).reg 0x3020008) 63 62 = 2 ∧ (after (.followUp (msg 9 1001 0)) (datum 1 0)).datumNs = 1001 ∧
    (after (.followUp (msg 9 1000 2000000)) (datum 1 0)).datumSlew = 1000000 ∧ (after (.followUp (msg 9 1000 (-2000000))) (datum 2 0)).datumSlew = -100000 := by decide +kernel
/-- The datum LOCKED or in HOLDOVER, 8 intervals and 128 intervals after a message; a grandmaster's messages go by the management port. -/
def quiet (st n : Nat) : State := { datum st 0 with now := n * 8203125 }
def master : State := withRegs [(0x3020008, 2 ^ 61), (0x3020010, 2 ^ 56)]
theorem wit_quiet : (quiet 2 8).plane.syncAt + 8 * 8203125 ≤ (quiet 2 8).now ∧ ¬ ((quiet 2 7).plane.syncAt + 8 * 8203125 ≤ (quiet 2 7).now) ∧
    (quiet 3 128).plane.gmAt + 128 * 8203125 ≤ (quiet 3 128).now ∧ bits (master.reg 0x3020010) 57 56 = 1 ∧
    bits ((plane1 []).reg 0x3020010) 57 56 = 0 ∧ bits ((withRegs [(0x3020010, 3 * 2 ^ 56)]).reg 0x3020010) 57 56 = 3 := by decide +kernel
theorem test_timeMessages : bits ((after (.sync (msg 0 0 0)) (datum 0 3)).reg 0x3020008) 63 62 = 1 ∧ bits ((after .holdover (quiet 2 8)).reg 0x3020008) 63 62 = 3 ∧
    bits ((after .freeRun (quiet 3 128)).reg 0x3020008) 63 62 = 0 ∧ gives .holdover (quiet 1 8) (quiet 1 8) = true ∧ gives .holdover (quiet 2 7) (quiet 2 7) = true ∧
    (after (.delayReq (msg 5 0 0)) master).sent = [.time (.delayResp (msg 5 0 0))] ∧ bits ((after (.delayResp (msg 5 0 0)) (datum 1 0)).reg 0x3020008) 31 0 = 5 ∧
    (after (.followUp (msg 5 0 0)) (withRegs [(0x3020010, 2 ^ 56)])).sent = [.time (.delayReq 0)] ∧
    (after (.announce 3 9 0 true) (withRegs [])).plane.best = some (3, 9) ∧ gives (.announce 3 9 1 true) (withRegs []) (withRegs []) = true ∧
    ((after (.announce 200 9 0 true) (withRegs [(0x3020010, 2 ^ 63 + 128)])).reg 0x3020008).getLsbD 61 = true := by decide +kernel

/-! Well-formed terms, decoding and the step. -/

/-- A word of S in V, an event, a stack instruction in V, and scopes 5 and 7 of Table 3.3 are refused. -/
theorem test_illFormed : wellFormed .V (.addi 0 1 59 7) = false ∧ wellFormed .S (.vaddS32 0 1 2 61 5 0) = false ∧ wellFormed .C (.mma 0 0 1 0xE 2) = false ∧
    wellFormed .M (.cpy 1 2 3 4 5 1 0 0) = false ∧ wellFormed .V .hret = false ∧ wellFormed .S .launchSchedule = false ∧
    wellFormed .S (.amoAdd 5 0 5 3 6 1) = false ∧ wellFormed .S (.amoCas 7 0 5 3 6 1) = false := by decide
theorem test_wellFormed : wellFormed .S (.addi 0 1 59 7) = true ∧ wellFormed .C .halt = true ∧ wellFormed .S (.amoAdd 4 0 5 3 6 1) = true := by decide
/-- Scope 5 of an atomic, a code that no table holds and a word that is too short are no instructions. -/
theorem test_decodeRefuses : decodeBytes .S (natLe 4 0x6A1431A0) = none ∧ decodeBytes .C (natLe 4 0xb4000000) = none ∧ decodeBytes .S [0, 0, 0] = none := by
  decide +kernel

theorem test_wordsS0 : decodeBytes .S [0x07, 0xB0, 0x07, 0x04] = some (.addi 0 1 59 7) ∧
    decodeBytes .S [0x53, 0x10, 0x08, 0x02] = some (.mul 0 2 1 1) ∧
    decodeBytes .S [0x00, 0x80, 0x07, 0x16] = some (.movk 0 1 3 0x8000) ∧
    decodeBytes .S [0x00, 0x10, 0x0C, 0x48] = some (.ldS32 0 3 1 0) ∧
    decodeBytes .S [0x04, 0x10, 0x10, 0x54] = some (.stB32 4 1 4) ∧
    decodeBytes .S [0xA0, 0x31, 0x14, 0x62] = some (.amoAdd 1 0 5 3 6 1) ∧
    decodeBytes .S [0xFD, 0x7F, 0x27, 0x82] = some (.bne 4 59 0x1FFD) ∧
    decodeBytes .S [0x01, 0x28, 0x00, 0xFF] = some (.zloop 0 5 1) ∧
    decodeBytes .S [0x00, 0x40, 0x30, 0xFE] = some (.sig 2 2) ∧
    decodeBytes .S [0x00, 0x20, 0x58, 0xFE] = some (.wait 3 1) ∧
    decodeBytes .S [0xE0, 0xB1, 0x17, 0xB0] = some (.xrd 0 5 59 0x1E0) ∧
    decodeBytes .S [0xE0, 0x11, 0x14, 0xB2] = some (.xwr 5 1 0x1E0) := by decide +kernel

theorem test_wordsS1 : decodeBytes .S [0x00, 0x00, 0x00, 0xB4] = some (.hret) ∧
    decodeBytes .S [0x01, 0x00, 0x00, 0xB6] = some (.cdrop 1) ∧
    decodeBytes .S [0x00, 0x30, 0x00, 0xB8] = some (.xkill 3) ∧
    decodeBytes .S [0x00, 0x30, 0x00, 0xBA] = some (.xpost 3) ∧
    decodeBytes .S [0x00, 0x00, 0x28, 0xC0] = some (.bkwait 10) ∧
    decodeBytes .S [0x00, 0x50, 0x00, 0xC2] = some (.bkopen 5) ∧
    decodeBytes .S [0x00, 0x50, 0x00, 0xC4] = some (.bkclose 5) ∧
    decodeBytes .S [0x00, 0x60, 0x00, 0xC6] = some (.hold 6) ∧
    decodeBytes .S [0x00, 0x60, 0x00, 0xC8] = some (.release 6) ∧
    decodeBytes .S [0x00, 0x00, 0x00, 0xCA] = some (.pub) := by decide +kernel

theorem test_wordsV0 : decodeBytes .V [0x4A, 0x2F, 0x04, 0x02] = some (.vaddS32 0 1 2 61 5 0) ∧
    decodeBytes .V [0x80, 0x10, 0x10, 0x5A] = some (.vfmaF32 0 4 1 2 0 0) ∧
    decodeBytes .V [0x81, 0x10, 0x44, 0x7C] = some (.vcmpF32 2 1 1 2 0 1) ∧
    decodeBytes .V [0x98, 0x18, 0x14, 0x82] = some (.vcvt 1 0 5 1 8 9 4 0) ∧
    decodeBytes .V [0x00, 0x00, 0x18, 0xA7] = some (.vflag 2 1 2 0) ∧
    decodeBytes .V [0x00, 0x11, 0x0C, 0xB0] = some (.vld 0 3 1 0x100) ∧
    decodeBytes .V [0x00, 0xF0, 0x5F, 0xE0] = some (.vtcfg 2 15 15 2) ∧
    decodeBytes .V [0x00, 0x1A, 0x05, 0xE4] = some (.vtrow 1 2 3 1) ∧
    decodeBytes .V [0x07, 0x19, 0x0C, 0xD2] = some (.vsrnd 0 3 1 9 0 7) ∧
    decodeBytes .V [0x00, 0x20, 0x00, 0xD4] = some (.chadd 2) := by decide +kernel

theorem test_wordsM0 : decodeBytes .M [0x00, 0x00, 0xE0, 0xFE] = some (.halt) ∧
    decodeBytes .M [0x00, 0x40, 0x40, 0xFE] = some (.wait 0 2) ∧
    decodeBytes .M [0x40, 0x00, 0x22, 0x04] = some (.maddi 1 1 64) ∧
    decodeBytes .M [0x00, 0x00, 0x03, 0x08] = some (.mmovx 0 3) ∧
    decodeBytes .M [0x02, 0xE0, 0x01, 0x20] = some (.mma 0 0 1 0xE 2) ∧
    decodeBytes .M [0x40, 0x30, 0x81, 0x22] = some (.mstage 2 0 1 3 64) ∧
    decodeBytes .M [0x00, 0x00, 0x38, 0x24] = some (.mzero 0 7) ∧
    decodeBytes .M [0x00, 0x00, 0x00, 0x26] = some (.mswap) := by decide +kernel

theorem test_wordsC0 : decodeBytes .C [0x6C, 0x00, 0x60, 0xFE] = some (.tmark 108) ∧
    decodeBytes .C [0x00, 0x00, 0x14, 0x2C] = some (.cldalg 0 10 0) ∧
    decodeBytes .C [0x00, 0x06, 0x18, 0x28] = some (.cscl 0 12 6 0) ∧
    decodeBytes .C [0x00, 0x00, 0x4A, 0x08] = some (.cmovx 2 10) ∧
    decodeBytes .C [0xC0, 0xA2, 0x91, 0x20] = some (.cpy 1 2 3 4 5 1 0 0) ∧
    decodeBytes .C [0x00, 0x40, 0x28, 0x45] = some (.cbbwait 2 5 1) ∧
    decodeBytes .C [0x00, 0x00, 0x30, 0x3E] = some (.tready 0 6) ∧
    decodeBytes .C [0x75, 0x46, 0xA1, 0x3D] = some (.csendT 3 2 1 4 6 7 5) ∧
    decodeBytes .C [0x00, 0x00, 0x00, 0x46] = some (.rcfence) := by decide +kernel

/-- Reset with `addi x1, 59 (0), 7` where S of unit 0 fetches next. -/
noncomputable def placed : State := State.reset.withFetchWord 32 0x0407B007
theorem wit_step : placed.agenda = [.issue 0 .S] ∧ unitOk 0 = true ∧ (placed.ctx 0).lid ≠ 0 ∧ (placed.ctx 0).poisoned = false ∧
    (let t : State := { placed with agenda := [], turn := ⟨0, .S⟩, verdict := .issued }
     decide (t.deliverNow 0 .S = none) && decide (t.fetch 0 ((placed.ctx 0).seq .S).pc = .word 0x0407B007)) = true ∧
    (placed.tlbFind (clusterOf 0) (placed.ctx 0).asid ((placed.ctx 0).seq .S).pc.toNat).isSome = true ∧ (placed.core 0).logCovers (placed.ctx 0).asid ((placed.ctx 0).seq .S).pc.toNat 4 = false ∧
    decodeBytes .S (natLe 4 0x0407B007) = some (.addi 0 1 59 7) ∧ (placed.ctx 0).readsPoison .S (.addi 0 1 59 7) = false ∧ placed.mem.wf = true := by decide +kernel
/-- S with an atomic of its own on its way issues nothing (R274). -/
noncomputable def amoWaits : State := { placed with outs := [⟨7, 0, .S, (placed.ctx 0).lid, 0, 0, 0x1000, .amo 0 4 7 0 0, .queued, 0, [], false, none, ⟨[], 0⟩⟩] }
theorem wit_amoWaits : amoWaits.amoPending 0 = true ∧ placed.amoPending 0 = false ∧ amoWaits.agenda = [.issue 0 .S] ∧ (amoWaits.ctx 0).poisoned = false := by decide +kernel
theorem test_amoWaits : (match step amoWaits with | .next t => decide (t.verdict = .stalled frzSync) | _ => false) = true := by decide +kernel
theorem test_step : (match step placed with | .next t => entry t | _ => none) = some (1, 7, 1) := by decide +kernel
theorem wit_noWord : (State.reset.withFetchWord 32 0xF0000000).agenda = [.issue 0 .S] ∧ decodeBytes .S (natLe 4 0xF0000000) = none := by decide +kernel
theorem test_noWord : (match step (State.reset.withFetchWord 32 0xF0000000) with | .next t => cause t | _ => none) = some 1 := by decide +kernel
/-- An event of the agenda, one that names a unit the package does not have, and an empty agenda. -/
theorem wit_agenda : strangeUnit .queueBind = none ∧ strangeUnit (.stallRelease Config.nUnits) = some Config.nUnits ∧ State.reset.agenda = [] := by decide +kernel
theorem test_agenda : (match step { State.reset with agenda := [.ev (.followUp (msg 9 1001 0))] } with | .next t => decide (t.agenda = []) | _ => false) = true ∧
    (match step { State.reset with agenda := [.ev (.stallRelease Config.nUnits)] } with | .fault (.noSuchUnit u) => decide (u = Config.nUnits) | _ => false) = true := by
  decide +kernel
theorem wit_bytes : Mem.wf [(0x1000, 2), (0x1001, 1)] = true ∧ (Mem.wr [(0x1000, 2), (0x1001, 1)] 0x1000 0) = [(0x1001, 1)] := by decide +kernel
theorem wit_roundTrip : encode (.addi 0 1 59 7) = some 0x0407B007 := by decide +kernel

end Sys2Proof.Tests
end

section

/-! R30: the end check of the two hardware loops at the issue of an instruction that is no taken branch. -/
namespace Sys2Proof.Machine

/-! One loop's part of the check: it repeats, it ends, or the PC is not at its end. -/

theorem Loop.endStep_repeats {l : Loop} {pc : Word} (hit : l.act = true ∧ pc = l.stop) (more : 1 < l.count.toNat) :
    l.endStep pc = ({ l with count := l.count - 1 }, some l.start) := by
  rw [Loop.endStep, if_pos hit, if_pos more]
theorem Loop.endStep_ends {l : Loop} {pc : Word} (hit : l.act = true ∧ pc = l.stop) (last : l.count.toNat ≤ 1) :
    l.endStep pc = ({ l with count := 0, act := false }, none) := by
  rw [Loop.endStep, if_pos hit, if_neg (Nat.not_lt.mpr last)]
theorem Loop.endStep_misses {l : Loop} {pc : Word} (miss : ¬ (l.act = true ∧ pc = l.stop)) : l.endStep pc = (l, none) := by
  rw [Loop.endStep, if_neg miss]

/-! The check of a sequencer by the parts of its loops: loop 0 is looked at only where loop 1 falls through. -/

theorem Seq.endCheck_of_lp1_repeats {x : Seq} {l1 : Loop} {t : Word} (h1 : x.lp1.endStep x.pc = (l1, some t)) :
    x.endCheck = { x with lp1 := l1, pc := t } := by
  rw [Seq.endCheck, h1]
theorem Seq.endCheck_of_lp0_repeats {x : Seq} {l0 l1 : Loop} {t : Word} (h1 : x.lp1.endStep x.pc = (l1, none))
    (h0 : x.lp0.endStep x.pc = (l0, some t)) : x.endCheck = { x with lp1 := l1, lp0 := l0, pc := t } := by
  rw [Seq.endCheck, h1]; simp only [h0]
theorem Seq.endCheck_of_fallsThrough {x : Seq} {l0 l1 : Loop} (h1 : x.lp1.endStep x.pc = (l1, none))
    (h0 : x.lp0.endStep x.pc = (l0, none)) : x.endCheck = { x with lp1 := l1, lp0 := l0, pc := x.pc + 4 } := by
  rw [Seq.endCheck, h1]; simp only [h0]

/-- The sequencer whose turn it is after an issue: it has passed the end check and issues again a cycle later (R27, R30). -/
@[simp] theorem mySeq_advance (s : State) :
    (advance s).mySeq = { s.mySeq.endCheck with nextAt := s.me.clk + 1, stalled := false } := by
  rw [State.mySeq, advance_turn, me_advance, Ctx.seq_setSeq]

/-- Settles O7: `advance` is the end check, and each case of the check is one of the ways in which loop 1, and after it
loop 0, takes its part. -/
theorem loopEndCheck : Obligations.LoopEndCheck := by
  unfold Obligations.LoopEndCheck
  refine ⟨fun s => by simp only [mySeq_advance, and_self], fun x => ?_⟩
  intro hit ended
  refine ⟨fun hit1 more1 => Seq.endCheck_of_lp1_repeats (Loop.endStep_repeats hit1 more1), fun l1 lp1Done => ?_⟩
  have h1 : x.lp1.endStep x.pc = (l1, none) := by
    rcases lp1Done with ⟨hit1, last1, rfl⟩ | ⟨miss1, rfl⟩
    · exact Loop.endStep_ends hit1 last1
    · exact Loop.endStep_misses miss1
  refine ⟨fun hit0 more0 => ?repeats, fun hit0 last0 => ?ends, fun miss0 => ?misses⟩
  case repeats => exact Seq.endCheck_of_lp0_repeats h1 (Loop.endStep_repeats hit0 more0)
  case ends => exact Seq.endCheck_of_fallsThrough h1 (Loop.endStep_ends hit0 last0)
  case misses => exact Seq.endCheck_of_fallsThrough h1 (Loop.endStep_misses miss0)

end Sys2Proof.Machine
end

section

/-! R71: the four divisions. Each is a two-source form with a latency of 18, and its value is the rule's on every pair. -/
namespace Sys2Proof.Machine
open Sys2Proof.Claims

/-- A two-source S instruction with legal operand codes issues, and its result enters the pipeline (R16, R17). -/
theorem aluRR_of_sOk {t : BitVec 1} {d a b : BitVec 6} {s : State} (L : Nat) (f : Word → Word → Word)
    (legal : sOk t d [a, b] = true) : aluRR t d a b L f s = .next (sGives s [a, b] t d (f (s.rdS a) (s.rdS b)) L) :=
  guardS_ok legal

theorem exec_div (t : BitVec 1) (d a b : BitVec 6) (s : State) : exec (.div t d a b) s = aluRR t d a b 18 sDiv s := rfl
theorem exec_rem (t : BitVec 1) (d a b : BitVec 6) (s : State) : exec (.rem t d a b) s = aluRR t d a b 18 sRem s := rfl
theorem exec_divu (t : BitVec 1) (d a b : BitVec 6) (s : State) : exec (.divu t d a b) s = aluRR t d a b 18 uDiv s := rfl
theorem exec_remu (t : BitVec 1) (d a b : BitVec 6) (s : State) : exec (.remu t d a b) s = aluRR t d a b 18 uRem s := rfl

theorem toInt_eq_zero_iff {b : Word} : b.toInt = 0 ↔ b = 0 := by
  rw [← BitVec.toInt_inj]; rfl
theorem toNat_eq_zero_iff {b : Word} : b.toNat = 0 ↔ b = 0 := by
  rw [← BitVec.toNat_inj]; rfl

/-! The values. The model writes no branch for the overflow pair -2^63 and -1: there the quotient 2^63 wraps to the rule's
value, and the remainder is 0. -/

theorem sDiv_eq_rule (a b : Word) : sDiv a b =
    if b.toInt = 0 then BitVec.ofNat 64 18446744073709551615
    else if a.toInt = -9223372036854775808 ∧ b.toInt = -1 then BitVec.ofNat 64 9223372036854775808
    else BitVec.ofInt 64 (a.toInt.tdiv b.toInt) := by
  simp only [sDiv, toInt_eq_zero_iff]
  split
  case isTrue => rfl
  case isFalse =>
    split
    case isTrue overflow =>
      obtain ⟨ha, hb⟩ := overflow
      rw [ha, hb]; rfl
    case isFalse => rfl

theorem sRem_eq_rule (a b : Word) : sRem a b =
    if b.toInt = 0 then a
    else if a.toInt = -9223372036854775808 ∧ b.toInt = -1 then 0
    else BitVec.ofInt 64 (a.toInt - b.toInt * a.toInt.tdiv b.toInt) := by
  simp only [sRem, toInt_eq_zero_iff]
  split
  case isTrue => rfl
  case isFalse =>
    split
    case isTrue overflow =>
      obtain ⟨ha, hb⟩ := overflow
      rw [ha, hb]; rfl
    case isFalse => rw [Int.tmod_def]

theorem uDiv_eq_rule (a b : Word) : uDiv a b =
    if b.toNat = 0 then BitVec.ofNat 64 18446744073709551615 else BitVec.ofNat 64 (a.toNat / b.toNat) := by
  simp only [uDiv, toNat_eq_zero_iff]; rfl

theorem uRem_eq_rule (a b : Word) : uRem a b = if b.toNat = 0 then a else BitVec.ofNat 64 (a.toNat % b.toNat) := by
  simp only [uRem, toNat_eq_zero_iff]; rfl

/-- Settles O2: each row of R71 is a two-source form, and the model's function is the row's on every pair of values. -/
theorem scalarDivisionNeverTraps : Obligations.ScalarDivisionNeverTraps := by
  unfold Obligations.ScalarDivisionNeverTraps
  intro e row t d a b s legal
  simp only [table71, List.mem_cons, List.not_mem_nil, or_false] at row
  rcases row with rfl | rfl | rfl | rfl
  · rw [exec_div, aluRR_of_sOk 18 sDiv legal, sDiv_eq_rule]
  · rw [exec_rem, aluRR_of_sOk 18 sRem legal, sRem_eq_rule]
  · rw [exec_divu, aluRR_of_sOk 18 uDiv legal, uDiv_eq_rule]
  · rw [exec_remu, aluRR_of_sOk 18 uRem legal, uRem_eq_rule]

end Sys2Proof.Machine
end
